-- ==== Sys2Proof/Word.lean ====
section
/-! DEFINITION. The word types of the part: a byte of memory and a 64-bit register word (R4, R6). -/

namespace Sys2Proof

/-- One byte of device memory. -/
abbrev Byte := BitVec 8

/-- One 64-bit register (R6). -/
abbrev Word := BitVec 64

end Sys2Proof
end

