-- ==== Sys2Proof/Syntax.lean ====
section
/-! DEFINITION. The commands of the part: one constructor of Instr for each row of the table of operations and events.
Operands name the thing acted on (a slot, a stream, a stack, an address) and carry what comes from outside the part
(bytes on a link, bit errors struck since the last access, the outcome of a training, a measured temperature). -/

namespace Sys2Proof

/-- Who makes an access: a host core, the MC, or another unit of the part (R372). -/
inductive Agent where
  | host | mc | unit
  deriving DecidableEq, Repr

/-- A ring the dispatcher reads: a slot's control ring or a stream's ring (R27). -/
inductive RingRef where
  | ctl (slot : Nat)
  | stream (id : Nat)
  deriving DecidableEq, Repr

/-- A completion ring: a slot's SCOMP_RING or a stream's completion ring (R27). -/
inductive CompRef where
  | scomp (slot : Nat)
  | comp (stream : Nat)
  deriving DecidableEq, Repr

/-- One wrong symbol of a granule's ten slices: canonical position m (R95), code t, and the bits that differ. -/
structure SymErr where
  m : Nat
  t : Nat
  x : Nat
  deriving DecidableEq, Repr

/-- What has struck an HBM stack since the last command that told of it: wrong symbols by granule of the stack, bits of
fill-map words by word number (R103), one bit or, where true, two; and the corrections and detections that the stack's
on-die ECC has reported (R106). -/
structure HbmHits where
  syms : List (Nat × SymErr) := []
  words : List (Nat × Bool) := []
  odCe : Nat := 0
  odUe : Nat := 0
  deriving DecidableEq, Repr

/-- How many 16-bit symbols of a Fen line have newly gone bad (R110). -/
inductive LineErr where
  | clean | oneSymbol | twoSymbols
  deriving DecidableEq, Repr

/-- How the training of an HBM stack ended (R107, R108): the cap that CONFIG holds, the highest bin that passed (none when
every bin failed), data lanes newly repaired in the field, the sets of die rows newly repaired, each by its number of rows,
and a core die found failed. -/
structure TrainResult where
  cap : Nat
  bin : Option Nat
  lanes : Nat
  rows : List Nat
  failedDie : Option Nat
  deriving DecidableEq, Repr

/-- One 10 µs sample (R403): input voltage in 10 mV, current in 10 mA, power in W, both running averages in W and the
junction temperatures in °C of the compute dies, the HBM base dies and the I/O die. -/
structure PowerSample where
  volts : Nat
  current : Nat
  watts : Nat
  avg1 : Nat
  avg100 : Nat
  temps : List Nat
  hbmTemps : List Nat
  iodTemp : Nat
  deriving DecidableEq, Repr

/-- What built-in self-test found failed (R501): tiles, MU columns as (tile, MU), Reedbed banks and Fen layers as
(die, number), host cores, and D2D links that failed training. -/
structure SelfTest where
  tiles : List Nat
  columns : List (Nat × Nat)
  banks : List (Nat × Nat)
  layers : List (Nat × Nat)
  cores : List Nat
  links : List Nat
  deriving DecidableEq, Repr

/-- What the body of the CONFIG component asks for; the manual gives no layout of it (R416, R419). -/
structure ConfigBody where
  writes : List (Nat × Nat)
  lockCulv : Bool
  buckets : List (Nat × Nat)
  gpioOut : Nat
  bifurcation : Nat
  deriving DecidableEq, Repr

/-- Where VIN50 left its range (R512, R519). -/
inductive OffCause where
  | underVoltage | overVoltage | pwrEn
  deriving DecidableEq, Repr

/-- What a Peat write met (R433, R437): sectors of the bank that fail erase or program, and a power loss while the
payload or the header was being programmed. -/
inductive PeatEvent where
  | none
  | badErase (sectors : List Nat)
  | badProgram (sectors : List Nat)
  | tornPayload
  | tornHeader
  deriving DecidableEq, Repr

/-- The role of the account that a Redfish request logs in with; none where the login fails (R484). -/
inductive Role where
  | none | readOnly | operator | administrator
  deriving DecidableEq, Repr

/-- A request for a tally change reaches the MC by Redfish or by MCTP (R443). -/
inductive TallyPath where
  | mc
  | redfish (role : Role)
  | mctp
  deriving DecidableEq, Repr

/-- What befalls the system cache at a host core's access: the sector reached is evicted, and a cache line is corrected (R456, R499). -/
structure CacheEvent where
  evict : Bool
  corrected : Bool
  deriving DecidableEq, Repr

/-- What AER reports of a PCIe request: correctable errors, and whether an uncorrectable one (R494). -/
structure LinkErrs where
  ce : Nat
  ue : Bool
  deriving DecidableEq, Repr

/-- What a debug instruction does (R429): halt a core, or read memory or a register. -/
inductive DebugOp where
  | haltCore (core : Nat)
  | readMem (addr len : Nat)
  | readReg (addr : Nat)
  deriving DecidableEq, Repr

/-- What a peer part answers when a session is opened on it (R41). -/
inductive PeerAnswer where
  | opened (slot level : Nat)
  | running (stream : Nat)
  | refused
  | unreachable
  deriving DecidableEq, Repr

/-- Where a Causeway or HALT message is received: an agent that stops at its own boundary (R360). -/
inductive StopUnit where
  | tile (t : Nat)
  | culv (s : Nat)
  | reed (d : Nat)
  | defl (n : Nat)
  | pict (n : Nat)
  | text (n : Nat)
  | shuf
  | eth (p : Nat)
  | pcie
  | disp
  deriving DecidableEq, Repr

/-- What the checks of a tile or engine found while a stage ran (R337, R494, R498): an uncorrectable SRAM word of a
tile, a failed datapath check of a tile, a poisoned mesh flit, or an uncorrectable word of a DEFLATE window memory;
and corrected SRAM words of a tile and corrected mesh flits (R356). -/
inductive StageFault where
  | none
  | sramCorrected (tile words : Nat)
  | meshCorrected (flits : Nat)
  | sram (tile : Nat)
  | datapath (tile : Nat)
  | meshFlit (die router lane : Nat)
  | window (engine : Nat)
  deriving DecidableEq, Repr

/-- An interrupt of a host core (R462, R463): its machine timer or its supervisor timer, with the compare value that software has set;
an APLIC source; or an identity of one of its IMSIC files. -/
inductive CoreIrq where
  | mtimer (compare : Nat)
  | stimer (compare : Nat)
  | aplic (source : Nat)
  | msi (file identity : Nat)
  deriving DecidableEq, Repr

/-- The credit pools of a tile (R66). -/
inductive CreditPool where
  | hbmRead | fenRead | write
  deriving DecidableEq, Repr

/-- A credit that returns: of a tile's pool or of its commands to a Culvert engine (R66), or of a lane of a hop of the
fabric (R353). -/
inductive Credit where
  | tile (t : Nat) (pool : CreditPool)
  | culvert (t stack : Nat)
  | lane (hop lane : Nat)
  deriving DecidableEq, Repr

/-- A unit of a Reedbed bank whose stored bits have decayed (R232): bank, entry, unit, the word (VALUE or CARE) and the
bits that changed. -/
structure RbDecay where
  bank : Nat
  entry : Nat
  unit : Nat
  care : Bool
  flips : Nat
  deriving DecidableEq, Repr

/-- A unit that a WAKE message is addressed to (R402). -/
inductive WakeUnit where
  | tile (t : Nat)
  | page (cls inst : Nat)
  deriving DecidableEq, Repr

/-- A request a stage sends or a message an RDMA peer sends: the packet's fields that the receiver acts on (R471). -/
structure RdmaReq where
  port : Nat
  qp : Nat
  psnOk : Bool
  rkey : Nat
  addr : Nat
  len : Nat
  data : List Byte
  imm : Nat
  deriving DecidableEq, Repr

/-- A received Ethernet frame as the MAC judges it (R469). -/
structure Frame where
  len : Nat
  fcsOk : Bool
  fecUncorrectable : Bool
  fecCorrected : Nat
  pause : Option Nat
  gsi : Bool
  data : List Byte
  deriving DecidableEq, Repr

/-- The commands and events of the part, one for each row of the table. -/
inductive Instr where
  | slotClaim (slot : Nat) (tag : Nat)
  | watchObserve (ring : RingRef)
  | openSession (slot : Nat)
  | closeSession (slot : Nat)
  | openStream (slot : Nat)
  | bindPlan (slot : Nat) (peers : List PeerAnswer)
  | peerSessionClose (session peer : Nat)
  | run (slot : Nat)
  | pause (slot : Nat)
  | resume (slot : Nat)
  | drain (slot : Nat)
  | resetStream (slot : Nat)
  | closeStream (slot : Nat)
  | submitBatch (stream : Nat)
  | rearm (stream : Nat)
  | shadowPromote (stream slotIx : Nat)
  | halt (slot : Nat)
  | snapshot (slot : Nat)
  | attest (slot : Nat)
  | quoteSign
  | slotReclaim (who : Agent) (value : Word)
  | completionPost (ring : CompRef)
  | deliveryRetry (ring : CompRef)
  | batchStart (stream staging : Nat)
  | stageIssue (stream batch stage : Nat) (units : List Nat)
  | stageFinish (stream batch stage : Nat) (fault : StageFault)
  | commitPoint (stream : Nat)
  | deadlineExpiry (stream batch : Nat)
  | stageTimeout (stream batch stage : Nat)
  | lateArrival (stream batch stage : Nat)
  | recordArrival (stream slotIx : Nat) (origin data : List Byte) (last : Bool)
  | stallTimerExpiry (stream slotIx : Nat)
  | weirGrant (tile stream blocks : Nat)
  | waitGraphCheck
  | spillBlockWritten (tile stream : Nat)
  | sloughRestore (tile stream : Nat)
  | mergeGroupIssue (tile group : Nat)
  | creditReturn (credit : Credit) (held : Nat)
  | granuleRead (who : Agent) (addr : Nat) (hits : HbmHits) (ev : CacheEvent)
  | granuleFullWrite (who : Agent) (addr : Nat) (data : List Byte) (poison : Bool) (hits : HbmHits) (ev : CacheEvent)
  | granulePartialWrite (who : Agent) (addr : Nat) (data : List Byte) (poison : Bool) (hits : HbmHits) (ev : CacheEvent)
  | scrubVisit (stack granule : Nat) (hits : HbmHits) (raced : Bool)
  | scrubPassStart (stack : Nat)
  | dieMark (who : Agent) (stack : Nat) (value : Word)
  | hbmTrainingEnd (stack : Nat) (result : TrainResult)
  | fenLineRead (who : Agent) (addr : Nat) (err : LineErr) (ev : CacheEvent)
  | fenLineWrite (who : Agent) (addr : Nat) (data : List Byte) (poison : Bool) (err : LineErr) (ev : CacheEvent)
  | fenSweepEnd (die ticks : Nat)
  | fenSpare (who : Agent) (die : Nat) (value : Word)
  | fenSpareCopyEnd (die : Nat)
  | fenScrubVisit (die line : Nat) (err : LineErr) (raced : Bool)
  | culvertWindow (stack : Nat)
  | decayStep (stack : Nat)
  | epochAdvance (stack table : Nat)
  | epoch (die : Nat)
  | replicaSlotFree (stack table : Nat)
  | sketchClear (who : Agent) (stack : Nat) (value : Word)
  | hummockHbmWrite (who : Agent) (stack : Nat) (value : Word)
  | hummockFenWrite (who : Agent) (stack : Nat) (value : Word)
  | switchReservation (table : Nat)
  | switchTargetReady (table : Nat)
  | versionDrain (table : Nat)
  | searchKey (die : Nat) (decay : List RbDecay) (errs : List LineErr)
  | updateVerifyDrain (die : Nat)
  | reedbedScrub (die : Nat) (decay : List RbDecay)
  | bankSpare (who : Agent) (die : Nat) (value : Word)
  | bankSpareFillEnd (die : Nat)
  | ringStep (stream batch stage member waited : Nat)
  | partialListMerge (stream batch stage row : Nat)
  | haltMessage (unit : StopUnit)
  | stopAck (unit : StopUnit)
  | streamStopDone (stream : Nat)
  | sluiceDrained
  | weirEdge (tile stream : Nat)
  | wake (unit : WakeUnit)
  | mcHaltGo (who : Agent) (value : Word)
  | mcHaltRelease (who : Agent) (value : Word)
  | d2dReplay (link : Nat) (corrected : Bool)
  | d2dRetrain (link : Nat) (ok : Bool)
  | laneRepair (who : Agent) (link : Nat) (value : Word)
  | registerWrite (who : Agent) (addr : Nat) (value : Word)
  | rcRead (who : Agent) (addr : Nat)
  | busErrorAccess (who : Agent) (addr size : Nat) (write atomic : Bool)
  | pgLock (who : Agent) (cls inst : Nat) (value : Word)
  | pgSoftReset (who : Agent) (cls inst : Nat) (value : Word)
  | pgSoftResetEnd (cls inst : Nat)
  | pgEnable (who : Agent) (cls inst : Nat) (value : Word)
  | pgPwrReq (who : Agent) (cls inst : Nat) (value : Word)
  | bucketLeak (cls inst : Nat)
  | bucketConfigWrite (who : Agent) (cls inst : Nat) (value : Word)
  | stillTrigger (who : Agent) (value : Word)
  | stillInEdge (highTicks : Nat)
  | stillTimerExpiry
  | snapshotLatch (cls inst : Nat)
  | mergeWindowClose
  | stillOutPulseEnd
  | refclkLoss
  | refclkReturn
  | powerSample (sample : PowerSample)
  | tileDoze (tile : Nat)
  | tileNap (tile : Nat)
  | tileWake (tile : Nat)
  | dieMireEntry (die : Nat)
  | dieMireEntered (die : Nat)
  | dieWake (die source : Nat)
  | dieActive (die : Nat)
  | deviceIdle
  | deviceMire
  | standbyRequest (who : Agent) (value : Word)
  | vsb3v3Good
  | mossResetRelease
  | bootSourceTimeout
  | vsb3v3Loss
  | vin50PowerGood (samples : List Nat) (test : SelfTest)
  | firmwareLoad
  | configureAndLock (config : ConfigBody)
  | ready
  | vin50OutOfRange (cause : OffCause)
  | offTimeEnd
  | thermtrip (sensor reading : Nat)
  | thermtripClear (hottest : Nat)
  | fieldSelfTest (die : Nat) (failedTiles : List Nat)
  | measExtend (who : Agent) (value : Word)
  | jtagUnlock (signer : Nat) (pubkey token : List Byte)
  | tallyRequest (path : TallyPath) (block : List Byte) (auditFails : Bool)
  | tallySlotVerify (ok auditFails : Bool)
  | tfWrite (who : Agent) (addr : Nat) (value : Word)
  | peatRecordWrite (type_ : Nat) (payload : List Byte) (event : PeatEvent)
  | peatPatrol (corrected : List Nat) (unread : List (Nat × Nat))
  | hartStart (who : Agent) (value : Word)
  | coreWake (core : Nat) (irq : CoreIrq)
  | frameReceive (port : Nat) (frame : Frame)
  | rdmaWrite (req : RdmaReq)
  | rdmaWriteWithImmediate (req : RdmaReq)
  | rdmaRead (req : RdmaReq)
  | roceSend (req : RdmaReq)
  | atomicCompareAndSwap (req : RdmaReq) (compare swap : Nat)
  | atomicFetchAndAdd (req : RdmaReq) (addend : Nat)
  | ackTimeout (port qp : Nat)
  | nakReceived (port qp code : Nat)
  | udpDatagram (port srcIp srcPort dstIp dstPort : Nat) (data : List Byte)
  | qpLoad (who : Agent) (port : Nat) (value : Word)
  | qpReset (who : Agent) (port : Nat) (value : Word)
  | autonegRetry (port : Nat)
  | ethLaneSpare (port lane : Nat)
  | nvmeCompletion (queue status : Nat) (data : List Byte)
  | pcieWindowRead (offset len : Nat) (errs : LinkErrs)
  | pcieWindowWrite (offset : Nat) (data : List Byte) (errs : LinkErrs)
  | pcieAtomicCas (size offset compare swap : Nat)
  | pcieAtomicFetchAdd (size offset addend : Nat)
  | recoveryMailboxWrite (offset value : Nat)
  | cfgDataAccess (who : Agent) (write : Bool) (value : Word)
  | mmioDataAccess (who : Agent) (write : Bool) (value : Word)
  | nvmeQueueEnable (who : Agent) (queue : Nat) (value : Word)
  | redfishHalt (role : Role) (scope target : Nat) (hold : Bool)
  | redfishAttestation (role : Role) (nonce : List Byte) (mask : Nat)
  | redfishUpdate (role : Role) (type_ : Nat) (payload : List Byte)
  | pldmFirmwareUpdate (component : Nat) (payload : List Byte)
  | statusWord
  | readVin
  | readIin
  | readTemperature1
  | readPin
  | pmbusRevision
  | wakeN (lowTicks : Nat)
  | ethLinkUp (port mode : Nat)
  | ethLinkDown (port : Nat)
  | mgmtLinkUp (mode fec : Nat)
  | mgmtLinkDown
  | pcieLinkUp (port rate width : Nat)
  | pcieLinkDown (port : Nat)
  | ackReceived (port qp : Nat) (data : List Byte)
  | pwrokRelease
  | boundaryScanExtest
  | jtagDebugInstruction (op : DebugOp)
  | msiXTableWrite (offset : Nat) (value : Word)
  | inboundDeviceRequest (write : Bool) (addr : Nat) (data : List Byte) (errs : LinkErrs)
  | unsupportedPmbusCommand (command : Nat)
  | gpioOutputDrive (role : Role) (pin : Nat) (level : Bool)
  deriving DecidableEq, Repr

end Sys2Proof
end

