-- ==== Sys2Proof/Config.lean ====
section
/-! DEFINITION. What the manual leaves open: the free values. None has a body, so nothing can be proved of one;
each is applied to a plain counter of State (a fresh value at each use) or to the operands it depends on.
Each is named in a log entry of notes/assumptions. -/

namespace Sys2Proof.Config

/-- A fresh 64-bit value: the contents of SRAM never written, and every other value the manual leaves open (log 3, DESIGN CHOICE). -/
opaque freeWord : Nat → Word

/-- A fresh number with no stated bound, for a choice among alternatives the manual does not order (log 3, DESIGN CHOICE). -/
opaque freeNat : Nat → Nat

/-- The real functions of dense and feature arithmetic whose last bits the manual bounds but does not fix:
the function's number, the operand's bits and the operand's format number give the result's bits (log 4, DESIGN CHOICE). -/
opaque freeReal : Nat → Nat → Nat → Nat

/-- Bytes produced where the manual fixes no bytes: pictures (R312), compressed matches (R340) and others;
the purpose, the input bytes and the position give the byte (log 5, DESIGN CHOICE). -/
opaque freeByte : Nat → List Byte → Nat → Byte

/-- Does a signature over a message verify under a Falcon-1024 public key (log 6, DESIGN CHOICE)? -/
opaque signatureHolds : List Byte → List Byte → List Byte → Bool

/-- The public key and the signature of the identity key that a seed derives (R425; log 6, DESIGN CHOICE). -/
opaque devicePublicKey : List Byte → List Byte
opaque deviceSignature : List Byte → List Byte → List Byte

/-- The event digest that an extend takes, whose layout the manual does not give: which event, and what it covers (log 8, DESIGN CHOICE). -/
opaque eventDigest : Nat → List Byte → List Byte

end Sys2Proof.Config
end

