-- ==== Sys2Proof/Machine/Bits.lean ====
section
/-! DEFINITION. Bit fields and byte order (R3, R4): bit 0 is the least significant bit, and multi-byte values are
little-endian. -/

namespace Sys2Proof.Machine

/-- Bits [hi:lo] of a number (R3). -/
def bitsOf (v hi lo : Nat) : Nat := (v >>> lo) % 2 ^ (hi + 1 - lo)

/-- Bit n of a number. -/
def bitOf (v n : Nat) : Bool := (v >>> n) % 2 == 1

/-- A number with its bits [hi:lo] replaced. -/
def putBits (v hi lo x : Nat) : Nat :=
  v - (bitsOf v hi lo) * 2 ^ lo + (x % 2 ^ (hi + 1 - lo)) * 2 ^ lo

/-- The bits [hi:lo] all ones. -/
def maskOf (hi lo : Nat) : Nat := (2 ^ (hi + 1 - lo) - 1) * 2 ^ lo

/-- 0 or 1. -/
def b2n (b : Bool) : Nat := if b then 1 else 0

/-- Bits [hi:lo] of a register word. -/
def fld (w : Word) (hi lo : Nat) : Nat := bitsOf w.toNat hi lo

/-- Bit n of a register word. -/
def bit (w : Word) (n : Nat) : Bool := bitOf w.toNat n

/-- A register word with its bits [hi:lo] replaced. -/
def putFld (w : Word) (hi lo x : Nat) : Word := BitVec.ofNat 64 (putBits w.toNat hi lo x)

/-- The number that bytes spell, lowest address first (R4). -/
def leNat : List Byte → Nat
  | [] => 0
  | b :: t => b.toNat + 256 * leNat t

/-- The n bytes that spell a number, lowest address first (R4). -/
def natLE : Nat → Nat → List Byte
  | 0, _ => []
  | n + 1, v => BitVec.ofNat 8 v :: natLE n (v / 256)

/-- The number that bytes spell, highest byte first (network order). -/
def beNat (bs : List Byte) : Nat := leNat bs.reverse

/-- The n bytes that spell a number, highest byte first. -/
def natBE (n v : Nat) : List Byte := (natLE n v).reverse

/-- The n bytes at offset off of a record; bytes past its end read as zero. -/
def sliceB (bs : List Byte) (off n : Nat) : List Byte :=
  let t := (bs.drop off).take n
  t ++ List.replicate (n - t.length) 0

/-- The little-endian number in the n bytes at offset off of a record. -/
def fieldN (bs : List Byte) (off n : Nat) : Nat := leNat ((bs.drop off).take n)

/-- Are the n bytes at offset off of a record all zero? -/
def zeroAt (bs : List Byte) (off n : Nat) : Bool := ((bs.drop off).take n).all (· == 0)

/-- Two's complement: the signed value of the low w bits of a number. -/
def sext (w v : Nat) : Int :=
  let m := v % 2 ^ w
  if m < 2 ^ (w - 1) then (m : Int) else (m : Int) - (2 ^ w : Nat)

/-- Two's complement: the low w bits of an integer. -/
def wrapN (w : Nat) (i : Int) : Nat := (i % (2 ^ w : Nat)).toNat

/-- Saturation of an integer to a range. -/
def clampI (lo hi i : Int) : Int := if i < lo then lo else if hi < i then hi else i

/-- Rounding up to a multiple of a. -/
def roundUp (n a : Nat) : Nat := (n + a - 1) / a * a

/-- Division rounded up. -/
def ceilDiv (n d : Nat) : Nat := (n + d - 1) / d

/-- Replacing the entry at a place of a list (no change past its end). -/
def setAt {α : Type} : List α → Nat → α → List α
  | [], _, _ => []
  | _ :: t, 0, v => v :: t
  | a :: t, n + 1, v => a :: setAt t n v

/-- Changing the entry at a place of a list (no change past its end). -/
def modifyAt {α : Type} : List α → Nat → (α → α) → List α
  | [], _, _ => []
  | a :: t, 0, f => f a :: t
  | a :: t, n + 1, f => a :: modifyAt t n f

/-- The first place of a list whose entry passes a test. -/
def findPos {α : Type} (p : α → Bool) : List α → Option Nat
  | [] => none
  | a :: t => if p a then some 0 else (findPos p t).map (· + 1)

/-- The bytes written over a list of bytes from a place on (bytes past its end are dropped). -/
def overlay (base : List Byte) (off : Nat) (new : List Byte) : List Byte :=
  base.take off ++ new.take (base.length - off) ++ base.drop (off + new.length)

/-- A list cut into pieces of n entries (the last may be shorter); fuel bounds the number of pieces. -/
def chunksN {α : Type} (n : Nat) : Nat → List α → List (List α)
  | 0, _ => []
  | _ + 1, [] => []
  | k + 1, l => l.take n :: chunksN n k (l.drop n)

/-- Adds an entry to a collection without repeats. -/
def insertNew {α : Type} [BEq α] (a : α) (l : List α) : List α := if l.contains a then l else l ++ [a]

end Sys2Proof.Machine
end

