-- ==== Sys2Proof/Machine/Cells.lean ====
section
/-! DEFINITION. Sparse storage in one canonical form: a list of (key, value) pairs with strictly rising keys and no
entry equal to what an unlisted key reads as. Device memory, tile SRAM, the register pages and other keyed stores use it. -/

namespace Sys2Proof.Machine

/-- What key k reads as; an unlisted key reads as d k. -/
def cellsGet {α : Type} (d : Nat → α) (k : Nat) : List (Nat × α) → α
  | [] => d k
  | (a, v) :: t => if a = k then v else if k < a then d k else cellsGet d k t

/-- A store with key k made to read as v, in canonical form. -/
def cellsSet {α : Type} [DecidableEq α] (d : Nat → α) (k : Nat) (v : α) : List (Nat × α) → List (Nat × α)
  | [] => if v = d k then [] else [(k, v)]
  | (a, b) :: t =>
    if k < a then (if v = d k then (a, b) :: t else (k, v) :: (a, b) :: t)
    else if k = a then (if v = d k then t else (k, v) :: t)
    else (a, b) :: cellsSet d k v t

/-- The canonical form of a store whose keys all exceed a bound. -/
def cellsWfAbove {α : Type} [DecidableEq α] (d : Nat → α) : Option Nat → List (Nat × α) → Bool
  | _, [] => true
  | lo, (a, v) :: t => (match lo with | none => true | some b => decide (b < a)) && decide (v ≠ d a)
      && cellsWfAbove d (some a) t

/-- The canonical form of a store: keys strictly rising, no entry equal to what it reads as unlisted. -/
def cellsWf {α : Type} [DecidableEq α] (d : Nat → α) (l : List (Nat × α)) : Bool := cellsWfAbove d none l

/-- What an unlisted byte of device memory reads as: 0. HBM that nothing has written is UNWRITTEN in the fill map and
reads as zero (R99), and Fen memory is swept to zero (R112). -/
def memDefault (_ : Nat) : Byte := 0

/-- One byte of device memory. -/
def memGet (m : List Host.Cell) (a : Nat) : Byte := cellsGet memDefault a m

/-- One byte of device memory written. -/
def memSet (m : List Host.Cell) (a : Nat) (b : Byte) : List Host.Cell := cellsSet memDefault a b m

/-- The n bytes from an address. -/
def memBytes (m : List Host.Cell) : Nat → Nat → List Byte
  | _, 0 => []
  | a, n + 1 => memGet m a :: memBytes m (a + 1) n

/-- Bytes written from an address on. -/
def memPut (m : List Host.Cell) : Nat → List Byte → List Host.Cell
  | _, [] => m
  | a, b :: t => memPut (memSet m a b) (a + 1) t

/-- The canonical form of device memory. -/
def Memory.wf (m : List Host.Cell) : Bool := cellsWf memDefault m

end Sys2Proof.Machine
end

