-- ==== Sys2Proof/Machine/RegMap.lean ====
section
/-! DEFINITION. The register pages as the manual's tables give them: the page directory (R370), the common header
(R374, R375) and each block's registers with their offsets, reset values, access codes and field ranges. -/

namespace Sys2Proof.Machine

/-- How a writable field takes a write (R9). -/
inductive Acc where
  | rw | rwl | w1c
  deriving DecidableEq, Repr

/-- Which written values a field accepts; any other write leaves the field unchanged. -/
inductive FieldRule where
  | any
  | range (lo hi : Nat)
  | zeroOr (lo hi : Nat)
  | multiple (of_ lo hi : Nat)
  deriving DecidableEq, Repr

/-- Does a field accept a written value? -/
def FieldRule.ok : FieldRule → Nat → Bool
  | .any, _ => true
  | .range lo hi, v => lo ≤ v && v ≤ hi
  | .zeroOr lo hi, v => v == 0 || (lo ≤ v && v ≤ hi)
  | .multiple k lo hi, v => v % k == 0 && lo ≤ v && v ≤ hi

/-- One register of a page (class 0 stands for the common header of every page): its offset, how many copies at what
spacing, its reset value, whether it is read-to-clear with how many counting bits, whether it reads as zero, and
whether its writes have a row of their own in the command table. -/
structure RegRow where
  cls : Nat
  off : Nat
  count : Nat
  stride : Nat
  reset : Nat
  rc : Bool
  wo : Bool
  own : Bool
  width : Nat
  deriving DecidableEq, Repr

/-- One writable field of a register. -/
structure FieldRow where
  cls : Nat
  off : Nat
  hi : Nat
  lo : Nat
  acc : Acc
  rule : FieldRule
  deriving DecidableEq, Repr

/-- Registers of the DISP page (R63). -/
def rowsDisp : List RegRow := [
  ⟨10, 0x400, 1, 8, 0x1F01000202, false, false, false, 64⟩,
  ⟨10, 0x408, 1, 8, 0x0, false, false, false, 16⟩,
  ⟨10, 0x410, 1, 8, 0x0, false, false, false, 64⟩,
  ⟨10, 0x418, 1, 8, 0x0, false, true, true, 64⟩,
  ⟨10, 0x420, 1, 8, 0x0, false, false, false, 11⟩,
  ⟨10, 0x428, 1, 8, 0x0, true, false, false, 32⟩,
  ⟨10, 0x430, 1, 8, 0x0, true, false, false, 32⟩,
  ⟨10, 0x438, 1, 8, 0x0, false, false, false, 64⟩,
  ⟨10, 0x440, 1, 8, 0x0, false, false, false, 64⟩]

/-- Registers of the TILE page (R220, R281, R88). -/
def rowsTile0 : List RegRow := [
  ⟨8, 0x400, 1, 8, 0x102, false, false, false, 64⟩,
  ⟨8, 0x408, 1, 8, 0x0, false, false, false, 64⟩,
  ⟨8, 0x410, 1, 8, 0x40000000400, false, false, false, 64⟩,
  ⟨8, 0x418, 1, 8, 0x0, true, false, false, 32⟩,
  ⟨8, 0x420, 1, 8, 0x0, false, false, false, 64⟩,
  ⟨8, 0x428, 1, 8, 0x0, true, false, false, 32⟩,
  ⟨8, 0x430, 1, 8, 0x0, true, false, false, 32⟩,
  ⟨8, 0x438, 1, 8, 0x0, true, false, false, 32⟩,
  ⟨8, 0x500, 1, 8, 0x8, false, false, false, 64⟩,
  ⟨8, 0x508, 1, 8, 0x0, true, false, false, 48⟩,
  ⟨8, 0x510, 1, 8, 0x0, true, false, false, 48⟩,
  ⟨8, 0x518, 1, 8, 0x0, true, false, false, 32⟩,
  ⟨8, 0x520, 1, 8, 0x0, true, false, false, 32⟩,
  ⟨8, 0x528, 1, 8, 0x0, true, false, false, 48⟩,
  ⟨8, 0x530, 1, 8, 0x0, true, false, false, 48⟩,
  ⟨8, 0x538, 1, 8, 0x0, true, false, false, 32⟩,
  ⟨8, 0x540, 1, 8, 0x0, false, false, false, 64⟩,
  ⟨8, 0x580, 1, 8, 0x0, false, false, false, 64⟩,
  ⟨8, 0x588, 1, 8, 0x0, false, false, false, 64⟩,
  ⟨8, 0x590, 1, 8, 0x0, true, false, false, 48⟩]

/-- Registers of the TILE page (R281, R299). -/
def rowsTile1 : List RegRow := [
  ⟨8, 0x598, 1, 8, 0x0, true, false, false, 48⟩,
  ⟨8, 0x5A0, 1, 8, 0x0, true, false, false, 48⟩,
  ⟨8, 0x5A8, 1, 8, 0x0, true, false, false, 32⟩,
  ⟨8, 0x5B0, 1, 8, 0x0, true, false, false, 48⟩,
  ⟨8, 0x5B8, 1, 8, 0x0, true, false, false, 48⟩,
  ⟨8, 0x5C0, 1, 8, 0x0, true, false, false, 32⟩,
  ⟨8, 0x5C8, 1, 8, 0x0, false, false, false, 64⟩,
  ⟨8, 0x600, 1, 8, 0x0, true, false, false, 48⟩,
  ⟨8, 0x608, 1, 8, 0x0, true, false, false, 48⟩,
  ⟨8, 0x610, 1, 8, 0x0, true, false, false, 48⟩,
  ⟨8, 0x618, 1, 8, 0x0, true, false, false, 48⟩,
  ⟨8, 0x620, 1, 8, 0x0, true, false, false, 32⟩,
  ⟨8, 0x628, 1, 8, 0x0, true, false, false, 48⟩,
  ⟨8, 0x630, 1, 8, 0x0, false, false, false, 64⟩]

/-- Registers of the HBMC page (R116). -/
def rowsHbmc : List RegRow := [
  ⟨5, 0x400, 1, 8, 0x0, false, false, false, 64⟩,
  ⟨5, 0x408, 1, 8, 0x0, false, false, false, 64⟩,
  ⟨5, 0x410, 1, 8, 0x10C, false, false, false, 64⟩,
  ⟨5, 0x418, 1, 8, 0x0, false, false, false, 64⟩,
  ⟨5, 0x420, 1, 8, 0x0, false, false, false, 64⟩,
  ⟨5, 0x428, 1, 8, 0x0, false, false, false, 64⟩,
  ⟨5, 0x430, 1, 8, 0x0, false, false, false, 64⟩,
  ⟨5, 0x438, 1, 8, 0x0, false, false, false, 64⟩,
  ⟨5, 0x440, 1, 8, 0x0, false, false, true, 64⟩,
  ⟨5, 0x448, 1, 8, 0x400, false, false, false, 64⟩,
  ⟨5, 0x450, 1, 8, 0x0, false, false, false, 64⟩,
  ⟨5, 0x458, 1, 8, 0x0, false, false, false, 64⟩,
  ⟨5, 0x460, 1, 8, 0x0, true, false, false, 32⟩,
  ⟨5, 0x468, 1, 8, 0x0, true, false, false, 32⟩,
  ⟨5, 0x470, 1, 8, 0x0, true, false, false, 32⟩,
  ⟨5, 0x478, 1, 8, 0x0, true, false, false, 32⟩,
  ⟨5, 0x480, 1, 8, 0x0, true, false, false, 48⟩,
  ⟨5, 0x488, 1, 8, 0x0, false, false, false, 64⟩]

/-- Registers of the FEN page (R118). -/
def rowsFen : List RegRow := [
  ⟨7, 0x400, 1, 8, 0x0, false, false, false, 64⟩,
  ⟨7, 0x408, 1, 8, 0x0, false, false, true, 64⟩,
  ⟨7, 0x410, 1, 8, 0x0, false, false, false, 64⟩,
  ⟨7, 0x418, 1, 8, 0x0, true, false, false, 64⟩,
  ⟨7, 0x420, 1, 8, 0x0, false, false, false, 64⟩,
  ⟨7, 0x428, 1, 8, 0x0, false, false, false, 64⟩,
  ⟨7, 0x430, 1, 8, 0x0, true, false, false, 32⟩]

/-- Registers of the CULV page (R153, R177). -/
def rowsCulv0 : List RegRow := [
  ⟨6, 0x400, 1, 8, 0x0, false, false, false, 64⟩,
  ⟨6, 0x408, 1, 8, 0x0, true, false, false, 48⟩,
  ⟨6, 0x410, 1, 8, 0x0, true, false, false, 48⟩,
  ⟨6, 0x418, 1, 8, 0x0, true, false, false, 48⟩,
  ⟨6, 0x420, 1, 8, 0x0, true, false, false, 32⟩,
  ⟨6, 0x428, 1, 8, 0x0, true, false, false, 48⟩,
  ⟨6, 0x430, 1, 8, 0x0, true, false, false, 48⟩,
  ⟨6, 0x438, 1, 8, 0x0, false, false, false, 64⟩,
  ⟨6, 0x440, 1, 8, 0x4, false, false, false, 64⟩,
  ⟨6, 0x480, 1, 8, 0x1010C2000, false, false, false, 64⟩,
  ⟨6, 0x488, 1, 8, 0x0, false, false, true, 64⟩,
  ⟨6, 0x490, 1, 8, 0x0, false, false, true, 64⟩,
  ⟨6, 0x498, 1, 8, 0x0, false, false, false, 64⟩,
  ⟨6, 0x4A0, 1, 8, 0x0, false, false, false, 64⟩,
  ⟨6, 0x4A8, 1, 8, 0x0, false, false, false, 64⟩,
  ⟨6, 0x4B0, 1, 8, 0x0, true, false, false, 32⟩,
  ⟨6, 0x4B8, 1, 8, 0x0, true, false, false, 32⟩,
  ⟨6, 0x4C0, 1, 8, 0x0, true, false, false, 32⟩,
  ⟨6, 0x4C8, 1, 8, 0x0, true, false, false, 48⟩,
  ⟨6, 0x4D0, 1, 8, 0x0, true, false, false, 48⟩]

/-- Registers of the CULV page (R177). -/
def rowsCulv1 : List RegRow := [
  ⟨6, 0x4D8, 1, 8, 0x0, true, false, false, 32⟩,
  ⟨6, 0x4E0, 1, 8, 0x0, false, true, true, 64⟩]

/-- Registers of the REED page (R244). -/
def rowsReed : List RegRow := [
  ⟨9, 0x400, 1, 8, 0x0, false, false, false, 64⟩,
  ⟨9, 0x408, 1, 8, 0x0, false, false, false, 64⟩,
  ⟨9, 0x410, 1, 8, 0x0, false, false, false, 64⟩,
  ⟨9, 0x418, 1, 8, 0x0, false, false, false, 64⟩,
  ⟨9, 0x420, 1, 8, 0x0, false, false, false, 64⟩,
  ⟨9, 0x428, 1, 8, 0x0, false, false, true, 64⟩,
  ⟨9, 0x430, 1, 8, 0x0, false, false, false, 64⟩,
  ⟨9, 0x438, 1, 8, 0x0, false, false, false, 32⟩,
  ⟨9, 0x440, 1, 8, 0x0, true, false, false, 48⟩,
  ⟨9, 0x448, 1, 8, 0x0, true, false, false, 48⟩,
  ⟨9, 0x450, 1, 8, 0x0, true, false, false, 48⟩,
  ⟨9, 0x458, 1, 8, 0x0, true, false, false, 32⟩,
  ⟨9, 0x460, 1, 8, 0x0, true, false, false, 32⟩,
  ⟨9, 0x468, 1, 8, 0x0, true, false, false, 48⟩,
  ⟨9, 0x470, 1, 8, 0x2, false, false, false, 64⟩,
  ⟨9, 0x478, 1, 8, 0x10A, false, false, false, 64⟩,
  ⟨9, 0x480, 1, 8, 0x0, false, false, false, 64⟩]

/-- Registers of the TEXT page (R328). -/
def rowsText : List RegRow := [
  ⟨13, 0x400, 1, 8, 0x1, false, false, false, 64⟩,
  ⟨13, 0x408, 1, 8, 0x0, true, false, false, 48⟩,
  ⟨13, 0x410, 1, 8, 0x0, true, false, false, 48⟩,
  ⟨13, 0x418, 1, 8, 0x0, true, false, false, 32⟩,
  ⟨13, 0x420, 1, 8, 0x0, true, false, false, 32⟩,
  ⟨13, 0x428, 1, 8, 0x0, true, false, false, 32⟩,
  ⟨13, 0x430, 1, 8, 0x0, false, false, false, 64⟩]

/-- Registers of the PICT page (R329). -/
def rowsPict : List RegRow := [
  ⟨12, 0x400, 1, 8, 0x0, false, false, false, 64⟩,
  ⟨12, 0x408, 1, 8, 0x0, true, false, false, 48⟩,
  ⟨12, 0x410, 1, 8, 0x0, true, false, false, 48⟩,
  ⟨12, 0x418, 1, 8, 0x0, true, false, false, 32⟩,
  ⟨12, 0x420, 1, 8, 0x0, true, false, false, 32⟩,
  ⟨12, 0x428, 1, 8, 0x0, true, false, false, 48⟩,
  ⟨12, 0x430, 1, 8, 0x0, true, false, false, 32⟩,
  ⟨12, 0x438, 1, 8, 0x0, false, false, false, 64⟩]

/-- Registers of the SHUF page (R330). -/
def rowsShuf : List RegRow := [
  ⟨14, 0x400, 1, 8, 0x0, true, false, false, 48⟩,
  ⟨14, 0x408, 1, 8, 0x0, true, false, false, 48⟩,
  ⟨14, 0x410, 1, 8, 0x0, true, false, false, 32⟩,
  ⟨14, 0x418, 1, 8, 0x0, true, false, false, 32⟩,
  ⟨14, 0x420, 1, 8, 0x0, false, false, false, 64⟩,
  ⟨14, 0x428, 1, 8, 0x0, false, false, false, 64⟩,
  ⟨14, 0x430, 1, 8, 0x0, false, false, false, 32⟩,
  ⟨14, 0x438, 1, 8, 0x0, false, false, false, 64⟩]

/-- Registers of the DEFL page (R347). -/
def rowsDefl : List RegRow := [
  ⟨11, 0x400, 1, 8, 0x0, false, false, false, 64⟩,
  ⟨11, 0x408, 1, 8, 0x0, true, false, false, 48⟩,
  ⟨11, 0x410, 1, 8, 0x0, true, false, false, 48⟩,
  ⟨11, 0x418, 1, 8, 0x0, true, false, false, 48⟩,
  ⟨11, 0x420, 1, 8, 0x0, true, false, false, 32⟩,
  ⟨11, 0x428, 1, 8, 0x0, true, false, false, 32⟩,
  ⟨11, 0x430, 1, 8, 0x0, true, false, false, 32⟩,
  ⟨11, 0x438, 1, 8, 0x0, true, false, false, 32⟩,
  ⟨11, 0x440, 1, 8, 0x0, true, false, false, 32⟩,
  ⟨11, 0x448, 1, 8, 0x0, false, false, false, 64⟩]

/-- Registers of the FAB page (R366). -/
def rowsFab : List RegRow := [
  ⟨4, 0x400, 1, 8, 0x431, false, false, false, 64⟩,
  ⟨4, 0x408, 1, 8, 0x0, false, false, false, 64⟩,
  ⟨4, 0x410, 1, 8, 0x0, true, false, false, 48⟩,
  ⟨4, 0x418, 1, 8, 0x0, true, false, false, 48⟩,
  ⟨4, 0x420, 1, 8, 0x0, true, false, false, 32⟩,
  ⟨4, 0x428, 1, 8, 0x0, false, false, false, 64⟩,
  ⟨4, 0x430, 1, 8, 0x0, false, true, true, 64⟩,
  ⟨4, 0x438, 1, 8, 0x0, false, false, false, 64⟩,
  ⟨4, 0x440, 1, 8, 0x0, true, false, false, 48⟩,
  ⟨4, 0x448, 1, 8, 0x0, true, false, false, 48⟩,
  ⟨4, 0x450, 1, 8, 0x0, true, false, false, 48⟩,
  ⟨4, 0x458, 1, 8, 0x0, true, false, false, 48⟩,
  ⟨4, 0x460, 1, 8, 0x0, false, false, false, 64⟩]

/-- Registers of the D2D page (R368). -/
def rowsD2d : List RegRow := [
  ⟨23, 0x400, 1, 8, 0x0, false, false, false, 64⟩,
  ⟨23, 0x408, 1, 8, 0x0, true, false, false, 48⟩,
  ⟨23, 0x410, 1, 8, 0x0, true, false, false, 48⟩,
  ⟨23, 0x418, 1, 8, 0x0, true, false, false, 32⟩,
  ⟨23, 0x420, 1, 8, 0x0, true, false, false, 48⟩,
  ⟨23, 0x428, 1, 8, 0x0, false, false, false, 16⟩,
  ⟨23, 0x430, 1, 8, 0x0, false, false, true, 64⟩,
  ⟨23, 0x438, 1, 8, 0x0, false, false, false, 64⟩]

/-- Registers of the common header of every page (R374). -/
def rowsHdr : List RegRow := [
  ⟨0, 0x0, 1, 8, 0x0, false, false, false, 64⟩,
  ⟨0, 0x8, 1, 8, 0x0, false, false, false, 64⟩,
  ⟨0, 0x10, 1, 8, 0x1, false, false, true, 64⟩,
  ⟨0, 0x18, 1, 8, 0x0, false, false, false, 64⟩,
  ⟨0, 0x20, 1, 8, 0x0, false, false, false, 64⟩,
  ⟨0, 0x28, 1, 8, 0x3, false, false, false, 64⟩,
  ⟨0, 0x30, 1, 8, 0x0, false, false, false, 64⟩,
  ⟨0, 0x38, 1, 8, 0x0, true, false, false, 48⟩,
  ⟨0, 0x40, 1, 8, 0x0, true, false, false, 48⟩,
  ⟨0, 0x48, 1, 8, 0x6400000010, false, false, true, 64⟩,
  ⟨0, 0x50, 1, 8, 0x0, false, false, false, 64⟩,
  ⟨0, 0x60, 1, 8, 0x1, false, false, false, 64⟩,
  ⟨0, 0x68, 1, 8, 0x0, false, false, false, 32⟩,
  ⟨0, 0x70, 1, 8, 0x0, false, false, false, 64⟩]

/-- Registers of the STILL page (R388). -/
def rowsStill : List RegRow := [
  ⟨22, 0x400, 1, 8, 0x0, false, true, true, 64⟩,
  ⟨22, 0x408, 1, 8, 0x3, false, false, false, 64⟩,
  ⟨22, 0x410, 1, 8, 0x19, false, false, false, 64⟩,
  ⟨22, 0x418, 1, 8, 0x0, false, false, false, 64⟩,
  ⟨22, 0x420, 1, 8, 0x0, false, false, false, 32⟩,
  ⟨22, 0x428, 1, 8, 0x0, false, false, false, 64⟩,
  ⟨22, 0x430, 1, 8, 0x0, false, false, false, 64⟩,
  ⟨22, 0x438, 1, 8, 0x0, true, false, false, 32⟩,
  ⟨22, 0x440, 1, 8, 0x0, true, false, false, 32⟩]

/-- Registers of the CLK page (R405). -/
def rowsClk : List RegRow := [
  ⟨2, 0x400, 1, 8, 0x0, false, false, false, 64⟩,
  ⟨2, 0x408, 1, 8, 0x0, false, false, false, 64⟩,
  ⟨2, 0x410, 1, 8, 0x6A4, false, false, false, 64⟩,
  ⟨2, 0x418, 1, 8, 0x6A4, false, false, false, 64⟩,
  ⟨2, 0x420, 1, 8, 0x0, true, false, false, 32⟩,
  ⟨2, 0x428, 1, 8, 0x0, true, false, false, 48⟩]

/-- Registers of the PWR page (R407). -/
def rowsPwr : List RegRow := [
  ⟨3, 0x400, 1, 8, 0x0, false, false, false, 64⟩,
  ⟨3, 0x408, 1, 8, 0x3006401F40032, false, false, false, 64⟩,
  ⟨3, 0x410, 1, 8, 0x690B5400500A00, false, false, false, 64⟩,
  ⟨3, 0x418, 1, 8, 0x0, false, false, false, 64⟩,
  ⟨3, 0x420, 1, 8, 0x0, false, false, false, 16⟩,
  ⟨3, 0x428, 1, 8, 0x0, true, false, false, 16⟩,
  ⟨3, 0x430, 1, 8, 0x0, true, false, false, 32⟩,
  ⟨3, 0x438, 1, 8, 0x0, true, false, false, 32⟩,
  ⟨3, 0x440, 1, 8, 0x0, true, false, false, 32⟩,
  ⟨3, 0x448, 1, 8, 0x0, false, false, false, 64⟩,
  ⟨3, 0x450, 1, 8, 0x0, false, true, true, 64⟩]

/-- Registers of the SEC page (R430). -/
def rowsSec : List RegRow := [
  ⟨18, 0x400, 1, 8, 0x0, false, false, false, 64⟩,
  ⟨18, 0x408, 1, 8, 0x0, false, false, false, 64⟩,
  ⟨18, 0x410, 1, 8, 0x0, false, false, false, 64⟩,
  ⟨18, 0x418, 1, 8, 0x0, false, false, false, 64⟩,
  ⟨18, 0x420, 1, 8, 0x0, false, false, false, 64⟩,
  ⟨18, 0x428, 1, 8, 0x0, false, false, false, 64⟩,
  ⟨18, 0x430, 8, 8, 0x0, false, false, false, 64⟩,
  ⟨18, 0x470, 1, 8, 0x0, false, false, false, 32⟩,
  ⟨18, 0x478, 1, 8, 0x0, false, true, true, 64⟩,
  ⟨18, 0x480, 8, 8, 0x0, false, true, false, 64⟩,
  ⟨18, 0x4C0, 1, 8, 0x0, false, false, false, 64⟩,
  ⟨18, 0x4C8, 1, 8, 0x0, true, false, false, 32⟩,
  ⟨18, 0x4D0, 1, 8, 0x0, true, false, false, 32⟩,
  ⟨18, 0x4D8, 1, 8, 0x0, false, false, false, 64⟩]

/-- Registers of the PEAT page (R448). -/
def rowsPeat : List RegRow := [
  ⟨19, 0x400, 1, 8, 0x0, false, false, false, 64⟩,
  ⟨19, 0x408, 1, 8, 0x0, false, false, false, 64⟩,
  ⟨19, 0x410, 1, 8, 0x0, false, false, false, 64⟩,
  ⟨19, 0x418, 1, 8, 0x0, false, false, false, 64⟩,
  ⟨19, 0x420, 1, 8, 0x0, true, false, false, 32⟩,
  ⟨19, 0x428, 1, 8, 0x0, true, false, false, 32⟩,
  ⟨19, 0x430, 1, 8, 0x0, false, false, false, 64⟩]

/-- Registers of the TALLY page (R450). -/
def rowsTally : List RegRow := [
  ⟨20, 0x400, 1, 8, 0x0, false, false, true, 64⟩,
  ⟨20, 0x408, 1, 8, 0x0, false, false, true, 64⟩,
  ⟨20, 0x410, 1, 8, 0x0, false, false, true, 64⟩,
  ⟨20, 0x418, 1, 8, 0x0, false, false, true, 64⟩,
  ⟨20, 0x420, 1, 8, 0x0, false, false, true, 64⟩,
  ⟨20, 0x428, 1, 8, 0x0, false, false, false, 64⟩,
  ⟨20, 0x430, 1, 8, 0x0, false, false, false, 64⟩,
  ⟨20, 0x438, 1, 8, 0x0, false, false, false, 64⟩,
  ⟨20, 0x440, 1, 8, 0x0, false, false, false, 4⟩,
  ⟨20, 0x448, 1, 8, 0x0, false, false, false, 64⟩,
  ⟨20, 0x450, 1, 8, 0x0, true, false, false, 32⟩,
  ⟨20, 0x458, 1, 8, 0x0, true, false, false, 32⟩,
  ⟨20, 0x460, 1, 8, 0x0, false, false, false, 64⟩,
  ⟨20, 0x468, 1, 8, 0x0, false, false, false, 16⟩]

/-- Registers of the HOST page (R465). -/
def rowsHost : List RegRow := [
  ⟨21, 0x400, 1, 8, 0x0, false, false, false, 64⟩,
  ⟨21, 0x408, 1, 8, 0x0, false, false, false, 64⟩,
  ⟨21, 0x410, 1, 8, 0x40, false, false, false, 64⟩,
  ⟨21, 0x418, 1, 8, 0x3030, false, false, false, 64⟩,
  ⟨21, 0x420, 1, 8, 0x0, false, true, true, 64⟩,
  ⟨21, 0x428, 1, 8, 0x0, false, false, false, 34⟩,
  ⟨21, 0x430, 1, 8, 0x0, true, false, false, 48⟩,
  ⟨21, 0x438, 1, 8, 0x0, true, false, false, 32⟩,
  ⟨21, 0x440, 1, 8, 0x0, true, false, false, 48⟩,
  ⟨21, 0x448, 1, 8, 0x0, false, false, false, 64⟩,
  ⟨21, 0x8000, 4096, 8, 0x0, false, false, false, 64⟩]

/-- Registers of the ETH page (R488). -/
def rowsEth : List RegRow := [
  ⟨15, 0x400, 1, 8, 0x24000101, false, false, false, 64⟩,
  ⟨15, 0x408, 1, 8, 0x0, false, false, false, 64⟩,
  ⟨15, 0x410, 1, 8, 0x0, false, false, false, 64⟩,
  ⟨15, 0x418, 1, 8, 0x0, false, false, false, 64⟩,
  ⟨15, 0x420, 1, 8, 0x0, false, true, true, 64⟩,
  ⟨15, 0x428, 1, 8, 0x0, false, false, false, 64⟩,
  ⟨15, 0x430, 1, 8, 0x0, true, false, false, 48⟩,
  ⟨15, 0x438, 1, 8, 0x0, true, false, false, 48⟩,
  ⟨15, 0x440, 1, 8, 0x0, true, false, false, 48⟩,
  ⟨15, 0x448, 1, 8, 0x0, true, false, false, 48⟩,
  ⟨15, 0x450, 1, 8, 0x0, true, false, false, 48⟩,
  ⟨15, 0x458, 1, 8, 0x0, true, false, false, 32⟩,
  ⟨15, 0x460, 1, 8, 0x0, false, false, false, 64⟩,
  ⟨15, 0x468, 1, 8, 0x0, false, false, false, 64⟩,
  ⟨15, 0x470, 1, 8, 0x0, false, false, false, 64⟩]

/-- Registers of the PCIE page (R490). -/
def rowsPcie : List RegRow := [
  ⟨16, 0x400, 1, 8, 0x0, false, false, false, 64⟩,
  ⟨16, 0x408, 1, 8, 0x4000000000000, false, false, false, 64⟩,
  ⟨16, 0x410, 1, 8, 0x0, false, false, false, 64⟩,
  ⟨16, 0x418, 1, 8, 0x0, false, false, true, 64⟩,
  ⟨16, 0x420, 1, 8, 0x0, false, false, false, 64⟩,
  ⟨16, 0x428, 1, 8, 0x0, false, false, true, 64⟩,
  ⟨16, 0x430, 1, 8, 0x0, true, false, false, 32⟩,
  ⟨16, 0x438, 1, 8, 0x0, true, false, false, 32⟩,
  ⟨16, 0x440, 1, 8, 0x0, false, false, false, 64⟩,
  ⟨16, 0x800, 16, 64, 0x0, false, false, true, 64⟩,
  ⟨16, 0x808, 16, 64, 0x0, false, false, false, 64⟩,
  ⟨16, 0x810, 16, 64, 0x0, false, false, false, 64⟩,
  ⟨16, 0x818, 16, 64, 0x0, false, false, false, 64⟩,
  ⟨16, 0x820, 16, 64, 0x0, false, false, false, 64⟩]

/-- Registers of the MGMT page (R492). -/
def rowsMgmt : List RegRow := [
  ⟨17, 0x400, 1, 8, 0x0, false, false, false, 64⟩,
  ⟨17, 0x408, 1, 8, 0x4E, false, false, false, 64⟩,
  ⟨17, 0x410, 1, 8, 0x0, true, false, false, 48⟩,
  ⟨17, 0x418, 1, 8, 0x0, true, false, false, 48⟩,
  ⟨17, 0x420, 1, 8, 0x0, true, false, false, 32⟩,
  ⟨17, 0x428, 1, 8, 0x0, true, false, false, 32⟩]

/-- Every register of the part. -/
def regTable : List RegRow :=
  rowsDisp ++ rowsTile0 ++ rowsTile1 ++ rowsHbmc ++ rowsFen ++ rowsCulv0 ++ rowsCulv1 ++ rowsReed ++ rowsText ++ rowsPict ++ rowsShuf ++ rowsDefl ++ rowsFab ++ rowsD2d ++ rowsHdr ++ rowsStill ++ rowsClk ++ rowsPwr ++ rowsSec ++ rowsPeat ++ rowsTally ++ rowsHost ++ rowsEth ++ rowsPcie ++ rowsMgmt

/-- Writable fields of the DISP page: RING_FAULT.VALID. -/
def fieldsDisp : List FieldRow := [
  ⟨10, 0x438, 63, 63, .w1c, .any⟩]

/-- Writable fields of the TILE page: SE_CFG.MERGE_EN, SE_CFG.FETCH_AHEAD, WEIR_LAST_SPILL.VALID, REL_CFG.BUILD_MIB, REL_LAST_ERR.VALID, DENSE_LAST_ERR.VALID, SEL_LAST_ERR.VALID. -/
def fieldsTile : List FieldRow := [
  ⟨8, 0x400, 8, 8, .rw, .any⟩,
  ⟨8, 0x400, 3, 0, .rw, .range 1 8⟩,
  ⟨8, 0x420, 63, 63, .w1c, .any⟩,
  ⟨8, 0x500, 3, 0, .rw, .range 1 14⟩,
  ⟨8, 0x540, 63, 63, .w1c, .any⟩,
  ⟨8, 0x5C8, 63, 63, .w1c, .any⟩,
  ⟨8, 0x630, 63, 63, .w1c, .any⟩]

/-- Writable fields of the HBMC page: SCRUB_CFG.EN, SCRUB_CFG.PERIOD_H, MARK_THRESH.COUNT, LAST_CE.VALID, LAST_UE.VALID. -/
def fieldsHbmc : List FieldRow := [
  ⟨5, 0x410, 8, 8, .rw, .any⟩,
  ⟨5, 0x410, 7, 0, .rw, .range 1 168⟩,
  ⟨5, 0x448, 15, 0, .rw, .any⟩,
  ⟨5, 0x450, 63, 63, .w1c, .any⟩,
  ⟨5, 0x458, 63, 63, .w1c, .any⟩]

/-- Writable fields of the FEN page: LAST_UE.VALID. -/
def fieldsFen : List FieldRow := [
  ⟨7, 0x420, 63, 63, .w1c, .any⟩]

/-- Writable fields of the CULV page: LAST_ERR.VALID, ARB_CFG.UPDATE_SHARE, HOT_CFG.EN, HOT_CFG.COUNT_UPDATES, HOT_CFG.REPL_MAX, HOT_CFG.THRESH. -/
def fieldsCulv : List FieldRow := [
  ⟨6, 0x438, 63, 63, .w1c, .any⟩,
  ⟨6, 0x440, 3, 0, .rw, .range 1 15⟩,
  ⟨6, 0x480, 32, 32, .rw, .any⟩,
  ⟨6, 0x480, 24, 24, .rw, .any⟩,
  ⟨6, 0x480, 19, 16, .rw, .range 1 12⟩,
  ⟨6, 0x480, 15, 0, .rw, .range 1 65535⟩]

/-- Writable fields of the REED page: STEAL_CFG.STEAL, SCRUB_CFG.EN, SCRUB_CFG.PERIOD_MS, LAST_ERR.VALID. -/
def fieldsReed : List FieldRow := [
  ⟨9, 0x470, 3, 0, .rw, .range 1 15⟩,
  ⟨9, 0x478, 8, 8, .rw, .any⟩,
  ⟨9, 0x478, 7, 0, .rw, .range 1 255⟩,
  ⟨9, 0x480, 63, 63, .w1c, .any⟩]

/-- Writable fields of the TEXT page: TEXT_CFG.TRIE_CACHE_EN, LAST_ERR.VALID. -/
def fieldsText : List FieldRow := [
  ⟨13, 0x400, 0, 0, .rw, .any⟩,
  ⟨13, 0x430, 63, 63, .w1c, .any⟩]

/-- Writable fields of the PICT page: LAST_ERR.VALID. -/
def fieldsPict : List FieldRow := [
  ⟨12, 0x438, 63, 63, .w1c, .any⟩]

/-- Writable fields of the SHUF page: CURSOR_SEL.STREAM, LAST_ERR.VALID. -/
def fieldsShuf : List FieldRow := [
  ⟨14, 0x420, 9, 0, .rw, .any⟩,
  ⟨14, 0x438, 63, 63, .w1c, .any⟩]

/-- Writable fields of the DEFL page: LAST_ERR.VALID. -/
def fieldsDefl : List FieldRow := [
  ⟨11, 0x448, 63, 63, .w1c, .any⟩]

/-- Writable fields of the FAB page: ARB_CFG.RSP, ARB_CFG.REQ, ARB_CFG.BULK, LAST_ERR.VALID. -/
def fieldsFab : List FieldRow := [
  ⟨4, 0x400, 11, 8, .rw, .range 1 15⟩,
  ⟨4, 0x400, 7, 4, .rw, .range 1 15⟩,
  ⟨4, 0x400, 3, 0, .rw, .range 1 15⟩,
  ⟨4, 0x460, 63, 63, .w1c, .any⟩]

/-- Writable fields of the D2D page: LAST_ERR.VALID. -/
def fieldsD2d : List FieldRow := [
  ⟨23, 0x438, 63, 63, .w1c, .any⟩]

/-- Writable fields of the common header of every page: PG_INT_RAW.INT, PG_INT_EN.INT, PG_SNAP_CTL.HELD, PG_SNAP_CTL.KEEP, PG_SNAP_CTL.EN. -/
def fieldsHdr : List FieldRow := [
  ⟨0, 0x20, 3, 0, .w1c, .any⟩,
  ⟨0, 0x28, 3, 0, .rw, .any⟩,
  ⟨0, 0x60, 2, 2, .w1c, .any⟩,
  ⟨0, 0x60, 1, 1, .rw, .any⟩,
  ⟨0, 0x60, 0, 0, .rw, .any⟩]

/-- Writable fields of the STILL page: CFG.OUT_FROM_IN, CFG.IN_EN, ERR_EN.SLUICE, ERR_EN.LINK_DOWN, ERR_EN.RING_FAULT, ERR_EN.POISON, ERR_EN.BKT, ERR_EN.UE, TIMER.PERIOD. -/
def fieldsStill : List FieldRow := [
  ⟨22, 0x408, 1, 1, .rw, .any⟩,
  ⟨22, 0x408, 0, 0, .rw, .any⟩,
  ⟨22, 0x410, 5, 5, .rw, .any⟩,
  ⟨22, 0x410, 4, 4, .rw, .any⟩,
  ⟨22, 0x410, 3, 3, .rw, .any⟩,
  ⟨22, 0x410, 2, 2, .rw, .any⟩,
  ⟨22, 0x410, 1, 1, .rw, .any⟩,
  ⟨22, 0x410, 0, 0, .rw, .any⟩,
  ⟨22, 0x418, 31, 0, .rw, .zeroOr 25000 4294967295⟩]

/-- Writable fields of the CLK page: REF_STAT.LOST, TCLK_CAP.MAX_MHZ. -/
def fieldsClk : List FieldRow := [
  ⟨2, 0x400, 63, 63, .w1c, .any⟩,
  ⟨2, 0x418, 15, 0, .rw, .multiple 50 850 1700⟩]

/-- Writable fields of the PWR page: IDLE_CFG.DEV_MIRE_EN, IDLE_CFG.DIE_MIRE_EN, IDLE_CFG.DEV_IDLE_US, IDLE_CFG.DIE_IDLE_US, IDLE_CFG.NAP_IDLE_US, CEIL_CFG.THERM_C, CEIL_CFG.FAST_W, CEIL_CFG.HYST_W, CEIL_CFG.SUSTAIN_W. -/
def fieldsPwr : List FieldRow := [
  ⟨3, 0x408, 49, 49, .rw, .any⟩,
  ⟨3, 0x408, 48, 48, .rw, .any⟩,
  ⟨3, 0x408, 47, 32, .rw, .range 1 65535⟩,
  ⟨3, 0x408, 31, 16, .rw, .range 1 65535⟩,
  ⟨3, 0x408, 15, 0, .rw, .range 1 65535⟩,
  ⟨3, 0x410, 55, 48, .rwl, .range 60 110⟩,
  ⟨3, 0x410, 47, 32, .rwl, .range 1000 3000⟩,
  ⟨3, 0x410, 31, 16, .rwl, .range 10 500⟩,
  ⟨3, 0x410, 15, 0, .rwl, .range 500 2600⟩]

/-- Writable fields of the SEC page: MEAS_SEL.REG, MEAS_EXT0–7.whole WO, LAST_ERR.VALID. -/
def fieldsSec : List FieldRow := [
  ⟨18, 0x428, 3, 0, .rw, .any⟩,
  ⟨18, 0x480, 63, 0, .rw, .any⟩,
  ⟨18, 0x4D8, 63, 63, .w1c, .any⟩]

/-- Writable fields of the PEAT page: SLOT_SEL.BANK, SLOT_SEL.SLOT, LAST_ERR.VALID. -/
def fieldsPeat : List FieldRow := [
  ⟨19, 0x408, 8, 8, .rw, .any⟩,
  ⟨19, 0x408, 2, 0, .rw, .any⟩,
  ⟨19, 0x430, 63, 63, .w1c, .any⟩]

/-- Writable fields of the TALLY page: LAST_REFUSE.VALID. -/
def fieldsTally : List FieldRow := [
  ⟨20, 0x460, 63, 63, .w1c, .any⟩]

/-- Writable fields of the HOST page: CARVE.SIZE_GIB, LAST_ERR.VALID, SIG_MAP.VALID, SIG_MAP.CORE, SIG_MAP.FILE, SIG_MAP.IDENTITY. -/
def fieldsHost : List FieldRow := [
  ⟨21, 0x410, 8, 0, .rwl, .multiple 4 4 256⟩,
  ⟨21, 0x448, 63, 63, .w1c, .any⟩,
  ⟨21, 0x8000, 63, 63, .rw, .any⟩,
  ⟨21, 0x8000, 45, 40, .rw, .any⟩,
  ⟨21, 0x8000, 34, 32, .rw, .any⟩,
  ⟨21, 0x8000, 10, 0, .rw, .any⟩]

/-- Writable fields of the ETH page: PORT_CFG.PFC_EN, PORT_CFG.MAX_FRAME, PORT_CFG.AN, PORT_CFG.MODE, IP_CFG.ADDR, QP_TBL.COUNT, QP_TBL.BASE, GSI_RING.whole, LAST_ERR.VALID, IP6_HI.ADDR_HI, IP6_LO.ADDR_LO. -/
def fieldsEth : List FieldRow := [
  ⟨15, 0x400, 39, 32, .rw, .any⟩,
  ⟨15, 0x400, 31, 16, .rw, .range 1518 9216⟩,
  ⟨15, 0x400, 8, 8, .rw, .any⟩,
  ⟨15, 0x400, 1, 0, .rw, .any⟩,
  ⟨15, 0x410, 31, 0, .rw, .any⟩,
  ⟨15, 0x418, 63, 44, .rw, .any⟩,
  ⟨15, 0x418, 43, 12, .rw, .any⟩,
  ⟨15, 0x428, 63, 0, .rw, .any⟩,
  ⟨15, 0x460, 63, 63, .w1c, .any⟩,
  ⟨15, 0x468, 63, 0, .rw, .any⟩,
  ⟨15, 0x470, 63, 0, .rw, .any⟩]

/-- Writable fields of the PCIE page: WIN_CFG.SIZE_GIB, WIN_CFG.BASE, CFG_ADDR.PORT, CFG_ADDR.BDF, CFG_ADDR.OFFSET, MMIO_ADDR.whole, NVME_Q.whole, NVME_SQ.BASE, NVME_CQ.BASE, NVME_SQDB.ADDR, NVME_CQDB.ADDR. -/
def fieldsPcie : List FieldRow := [
  ⟨16, 0x408, 63, 44, .rwl, .any⟩,
  ⟨16, 0x408, 43, 30, .rwl, .any⟩,
  ⟨16, 0x410, 29, 28, .rw, .any⟩,
  ⟨16, 0x410, 27, 12, .rw, .any⟩,
  ⟨16, 0x410, 11, 0, .rw, .any⟩,
  ⟨16, 0x420, 63, 0, .rw, .any⟩,
  ⟨16, 0x440, 63, 63, .w1c, .any⟩,
  ⟨16, 0x800, 63, 63, .rw, .any⟩,
  ⟨16, 0x800, 59, 58, .rw, .any⟩,
  ⟨16, 0x800, 57, 42, .rw, .any⟩,
  ⟨16, 0x800, 41, 32, .rw, .any⟩,
  ⟨16, 0x800, 31, 16, .rw, .any⟩,
  ⟨16, 0x800, 15, 0, .rw, .any⟩,
  ⟨16, 0x808, 43, 12, .rw, .any⟩,
  ⟨16, 0x810, 43, 12, .rw, .any⟩,
  ⟨16, 0x818, 63, 2, .rw, .any⟩,
  ⟨16, 0x820, 63, 2, .rw, .any⟩]

/-- Writable fields of the MGMT page: MCTP_CFG.I3C_EN, MCTP_CFG.SMBUS_EN, MCTP_CFG.ADDR. -/
def fieldsMgmt : List FieldRow := [
  ⟨17, 0x408, 9, 9, .rwl, .any⟩,
  ⟨17, 0x408, 8, 8, .rwl, .any⟩,
  ⟨17, 0x408, 6, 0, .rwl, .range 8 119⟩]

/-- Every field that the plain register write changes. -/
def fieldTable : List FieldRow :=
  fieldsDisp ++ fieldsTile ++ fieldsHbmc ++ fieldsFen ++ fieldsCulv ++ fieldsReed ++ fieldsText ++ fieldsPict ++ fieldsShuf ++ fieldsDefl ++ fieldsFab ++ fieldsD2d ++ fieldsHdr ++ fieldsStill ++ fieldsClk ++ fieldsPwr ++ fieldsSec ++ fieldsPeat ++ fieldsTally ++ fieldsHost ++ fieldsEth ++ fieldsPcie ++ fieldsMgmt

/-- How many pages a class has; 0 for a class not listed (R370). -/
def pagesOf : Nat → Nat
  | 1 => 1
  | 2 => 1
  | 3 => 1
  | 4 => 1
  | 5 => 12
  | 6 => 12
  | 7 => 4
  | 8 => 52
  | 9 => 4
  | 10 => 1
  | 11 => 16
  | 12 => 8
  | 13 => 8
  | 14 => 1
  | 15 => 4
  | 16 => 1
  | 17 => 1
  | 18 => 1
  | 19 => 1
  | 20 => 1
  | 21 => 1
  | 22 => 1
  | 23 => 8
  | _ => 0

/-- PG_CAP.SNAP_REGS of a class (R530). -/
def snapRegs : Nat → Nat
  | 1 => 4
  | 2 => 10
  | 3 => 15
  | 4 => 17
  | 5 => 22
  | 6 => 33
  | 7 => 11
  | 8 => 75
  | 9 => 21
  | 10 => 13
  | 11 => 14
  | 12 => 12
  | 13 => 11
  | 14 => 12
  | 15 => 19
  | 16 => 13
  | 17 => 10
  | 18 => 32
  | 19 => 11
  | 20 => 18
  | 21 => 14
  | 22 => 13
  | 23 => 12
  | _ => 0

/-- Does a block of the class have a leaky bucket (R499)? -/
def hasBucket (cls : Nat) : Bool := [5, 7, 8, 9, 4, 23, 19, 21].contains cls

/-- The start of a page within register space (R370). -/
def pageKey (cls inst : Nat) : Nat := cls * 2 ^ 24 + inst * 2 ^ 16

/-- The class, copy number and offset of a place in register space. -/
def keyCls (k : Nat) : Nat := k / 2 ^ 24
def keyInst (k : Nat) : Nat := k / 2 ^ 16 % 256
def keyOff (k : Nat) : Nat := k % 2 ^ 16

/-- The start of register space in the device address map (R90). -/
def regBase : Nat := 0xF0000000000

/-- Does register space hold a page there (R371)? -/
def pageExists (k : Nat) : Bool := keyInst k < pagesOf (keyCls k)

/-- Every page of the part. -/
def allPages : List Nat :=
  (List.range 24).flatMap fun c => (List.range (pagesOf c)).map fun i => pageKey c i

/-- Does a row describe an offset of a page of its class? -/
def RegRow.covers (r : RegRow) (cls off : Nat) : Bool :=
  (if off < 0x100 then r.cls == 0 else r.cls == cls) && r.off ≤ off
    && (off - r.off) % r.stride == 0 && (off - r.off) / r.stride < r.count

/-- The row that describes an offset of a page. -/
def regRow? (cls off : Nat) : Option RegRow := regTable.find? fun r => r.covers cls off

/-- The writable fields at an offset of a page. -/
def fieldsAt (cls off : Nat) : List FieldRow :=
  match regRow? cls off with
  | none => []
  | some r => fieldTable.filter fun f => f.cls == r.cls && f.off == r.off

/-- The reset value of a register by its key in register space (R9); PG_ID and PG_CAP are not stored. -/
def regReset (k : Nat) : BitVec 64 :=
  match regRow? (keyCls k) (keyOff k) with
  | none => 0
  | some r => BitVec.ofNat 64 r.reset

end Sys2Proof.Machine
end

