-- ==== Sys2Proof/Machine/State.lean ====
section
/-! DEFINITION. Everything the manual gives the part to hold, as plain data, and the state with no supply. -/

namespace Sys2Proof.Machine

/-- Why a step stops. No meaning of this model answers with one: every command of the table has an effect the manual
gives, or changes nothing. -/
inductive Fault where
  /-- Raised by no meaning; it stands for a step with no effect that the manual defines. Safe. -/
  | undefinedByManual
  deriving DecidableEq, Repr

/-- Why a command has no meaning here. -/
inductive Refusal where
  /-- Raised by an arm whose command has no meaning yet. Safe. -/
  | notModelled (mnemonic : String)
  deriving DecidableEq, Repr

/-! ### Memory: HBM, the fill map, Fen memory (chapter 4) -/

/-- The fill-map state of a granule (R99). -/
inductive Fill where
  | unwritten | written | poisoned
  deriving DecidableEq, Repr

/-- One granule: its fill-map state, its check slices e0 and e1 as written (R95), 32 bytes each, and the wrong symbols now
stored in its ten slices. -/
structure Gran where
  fill : Fill := .unwritten
  check : List Byte := []
  errs : List SymErr := []
  deriving DecidableEq, Repr

/-- A word of the fill map (R103): good, or with one or two wrong bits not yet found. -/
inductive WordBits where
  | good | one | two
  deriving DecidableEq, Repr

/-- One Fen line: good, with one or two bad symbols not yet found, or poisoned (R110, R111). -/
inductive FenLine where
  | good | oneBad | twoBad | poisoned
  deriving DecidableEq, Repr

/-- One HBM stack with its base die (R97, R98, R104, R107, R108): core dies whose count of this pass has reached MARK_THRESH,
and those of them that firmware has still to mark, with the tick of the event. -/
structure Stack where
  trained : Bool := false
  absent : Bool := false
  bin : Nat := 0
  cap : Nat := 2
  marked : Option Nat := none
  lanes : Nat := 0
  rows : Nat := 0
  passClock : Nat := 0
  period : Nat := 12
  position : Nat := 0
  passes : Nat := 0
  passEnded : Bool := false
  dieCe : List Nat := List.replicate 16 0
  reached : List Nat := []
  markDue : List (Nat × Nat) := []
  deriving DecidableEq, Repr

/-- The Fen memory of one compute die (R112, R113, R114, R500). -/
structure FenDie where
  sweepDone : Bool := false
  sweepTicks : Nat := 0
  layers : List Nat := [0, 1, 2, 3]
  spare : Nat := 4
  copying : Option Nat := none
  copyStart : Nat := 0
  spareDone : Bool := false
  lastLayer : Nat := 0
  inSr : Bool := false
  srEntries : Nat := 0
  scrubLine : Nat := 0
  /-- Corrected lines of each physical layer in this scrub pass, and its uncorrectable lines of the last day with their ticks (R503). -/
  passCe : List Nat := List.replicate 5 0
  ueAt : List (Nat × Nat) := []
  deriving DecidableEq, Repr

/-! ### Registers and Stillwater (chapter 14) -/

/-- What the latest access or request was answered. -/
inductive Resp where
  | none
  | done
  | busError
  | held
  | word (w : Word)
  | data (bs : List Byte)
  | poisoned
  | uncorrectable
  | bounds
  | loadFault
  | unsupported
  | poisonedCompletion
  | refused (code : Nat)
  | nack
  deriving DecidableEq, Repr

/-- What the part puts on a pin, port or link. -/
inductive Out where
  /-- An MSI write (R464) or an MSI-X message (R480). -/
  | msi (addr data : Nat)
  | msix (vector : Nat)
  /-- An interrupt file write: core, file and identity (R463). -/
  | imsic (core file identity : Nat)
  /-- A packet of a port's queue pair: port, QP, kind and bytes (R471, R478). -/
  | packet (port qp kind : Nat) (data : List Byte)
  /-- A QP1 packet for the ring named in ETH.GSI_RING (R470). -/
  | gsi (port ring : Nat) (data : List Byte)
  | nak (port qp code : Nat)
  | ack (port qp : Nat)
  /-- An Ethernet frame or datagram sent. -/
  | frame (port : Nat) (data : List Byte)
  /-- A PCIe request or completion: kind, address, bytes. -/
  | pcie (kind addr : Nat) (data : List Byte)
  /-- A level driven on a GPIO ball. -/
  | gpio (pin : Nat) (level : Bool)
  /-- A message to a management client: kind and value. -/
  | mgmt (kind value : Nat) (data : List Byte)
  deriving DecidableEq, Repr

/-- The STILL block beside its registers (R379 to R389). -/
structure Still where
  /-- The merge window of the latest snapshot is open. -/
  mergeOpen : Bool := false
  /-- Pages that have still to latch the latest snapshot. -/
  toLatch : List Nat := []
  /-- The Moss tick at which STILL_OUT rose, while it is high. -/
  pulse : Option Nat := none
  /-- The Moss tick from which the timer's period runs. -/
  timerFrom : Nat := 0
  /-- SNAPSHOT records that wait for every block to latch: slot, record index, snapshot number. -/
  waiting : List (Nat × Nat × Nat) := []
  /-- Windows captured at sleep entry, by page. -/
  asleep : List (Nat × List Word) := []
  deriving DecidableEq, Repr

/-! ### Clocks, sleep and power (chapters 15 and 21) -/

/-- The state of a tile and the Moss tick at which it entered it (R393). -/
inductive TilePower where
  | off | run | doze | nap
  deriving DecidableEq, Repr

structure TileState where
  power : TilePower := .off
  since : Nat := 0
  enabled : Bool := true
  quarantined : Bool := false
  /-- Moss ticks of the latest uncorrectable SRAM words (R498). -/
  ueTicks : List Nat := []
  /-- Multiply-accumulates done beyond the last full unit of MAC_CNT (R281). -/
  macRem : Nat := 0
  deriving DecidableEq, Repr

/-- The state of a compute die (R395 to R398). -/
inductive DiePower where
  | off | active | entering | mire | waking
  deriving DecidableEq, Repr

structure DieState where
  power : DiePower := .off
  /-- When the die entered this state. -/
  since : Nat := 0
  /-- The latest access or work of the die. -/
  lastUse : Nat := 0
  /-- The wake under way abandons an entry to MIRE (R396). -/
  abandoned : Bool := false
  /-- Accesses held at the die's D2D adapter until the die is ACTIVE (R373, R397). -/
  held : List Instr := []
  deriving DecidableEq, Repr

/-- The device state (R399). -/
inductive DevPower where
  | active | idle | mire | standby
  deriving DecidableEq, Repr

/-- Supplies, sequencing, pins and the power loop (R391, R403, R512 to R525). -/
structure Power where
  vsbGood : Bool := false
  mossUp : Bool := false
  mossUpAt : Nat := 0
  vinGood : Bool := false
  /-- The earliest start of a qualification. -/
  qualFrom : Nat := 0
  /-- The off time of STANDBY still runs, until this tick. -/
  offUntil : Option Nat := none
  /-- PG of R417: the later of VIN50 power-good and the MC firmware running. -/
  pg : Option Nat := none
  thermtrip : Bool := false
  pwrok : Bool := false
  /-- Boot recovery has asserted FAULT_N, which lasts to the next boot (R487). -/
  faultN : Bool := false
  dev : DevPower := .standby
  /-- When the device last had Calmet work in flight. -/
  lastWork : Nat := 0
  wakeHeld : Bool := false
  onInternal : Bool := false
  lossAt : Nat := 0
  /-- The latest sample, and for how many samples in a row a step up has been allowed. -/
  sample : PowerSample := ⟨0, 0, 0, 0, 0, [], [], 0⟩
  coolSamples : Nat := 0
  /-- Moss ticks of issue spacing owed before the next stage issue (R404). -/
  issueGate : Nat := 0
  /-- Levels of the GPIO outputs, and which pins CONFIG made outputs. -/
  gpioOut : Nat := 0
  gpioDir : Nat := 0
  /-- Boundary scan has taken the pins (R429). -/
  scanned : Bool := false
  /-- A resource of the part is in service beyond its operating maximum (R524). -/
  hot : Bool := false
  deriving DecidableEq, Repr

/-! ### Start-up, trust, Peat and tally (chapters 16 and 17) -/

/-- Where an image comes from (R411). -/
inductive Source where
  | peat | mctp | pcie
  deriving DecidableEq, Repr

/-- SEC.BOOT_STAT.STAGE (R431). -/
inductive BootStage where
  | rom | mcFirmware | bringUp | training | load | configure | ready | recovery
  deriving DecidableEq, Repr

/-- A search for a component through the sources in order (R414, R415): the sources left and when the first of them
began to wait for delivery. -/
structure Search where
  firmware : Bool := false
  left : List Source := []
  waitFrom : Nat := 0
  deriving DecidableEq, Repr

/-- A lifecycle state (R428): 0 BLANK, 1 PROVISIONED, 2 OWNED, 3 RETURNED, 4 RETIRED in the registers. -/
inductive Life where
  | blank | provisioned | owned | returned | retired
  deriving DecidableEq, Repr

/-- An owner key slot (R421). -/
inductive KeySlot where
  | empty
  | active (digest : List Byte)
  | revoked (digest : List Byte)
  deriving DecidableEq, Repr

/-- One repair as the repair record lists it (R505): INSTANCE, KIND, ORIGIN, TARGET, TICK. -/
structure RepairEntry where
  inst : Nat
  kind : Nat
  origin : Nat
  target : Nat
  tick : Nat
  deriving DecidableEq, Repr

/-- The repairs fused into the part, from which the repair record is written (R505, R506). -/
structure Repair where
  entries : List RepairEntry := []
  /-- Enabled tile positions of each compute die, and the position that is its idle spare. -/
  tileEn : List Nat := [0xFFF, 0xFFF, 0xFFF, 0xFFF]
  spareTile : List (Option Nat) := [some 12, some 12, some 12, some 12]
  /-- Spare columns in use, four 2-bit fields for each tile (R259). -/
  muCols : List Nat := List.replicate 52 0
  /-- Physical layer of each logical Fen layer, and the idle spare, by die. -/
  fenLayers : List (List Nat) := List.replicate 4 [0, 1, 2, 3]
  fenSpare : List Nat := [4, 4, 4, 4]
  /-- Physical bank of each logical Reedbed bank, usable banks and the physical banks left as spares, by die. -/
  reedMap : List (List Nat) := List.replicate 4 (List.range 32)
  reedUsable : List Nat := List.replicate 4 0xFFFFFFFF
  reedFree : List (List Nat) := List.replicate 4 [32, 33]
  /-- Stacks that the latest training found absent, as the repair record lists them (R505); not fused. -/
  absent : List Nat := []
  /-- Marked die, lanes and rows of each stack. -/
  marks : List (Option Nat) := List.replicate 12 none
  lanes : List Nat := List.replicate 12 0
  rows : List Nat := List.replicate 12 0
  /-- Enabled host cores and the cores left as spares (R458). -/
  coreEn : Nat := 0xFFFFFFFF
  coreFree : List Nat := [32, 33]
  /-- Logical lane served by each port's spare lane, 15 for none; lanes repaired on each D2D link. -/
  ethSpare : List Nat := [15, 15, 15, 15]
  d2dLanes : List Nat := List.replicate 8 0
  deriving DecidableEq, Repr

/-- The tally fuse array (R17, R428, R442). -/
structure Fuses where
  life : Life := .blank
  lifeUsed : Nat := 0
  svn : Nat := 0
  svnUsed : Nat := 0
  keys : List KeySlot := [.empty, .empty, .empty, .empty]
  revokes : Nat := 0
  floor : Nat := 0x0100
  floorUsed : Nat := 0
  override : Nat := 0
  overrideUsed : Nat := 0
  repairDie : List Nat := [0, 0, 0, 0]
  repairHbm : List Nat := List.replicate 12 0
  repairIod : Nat := 0
  /-- Slots spoiled: setting, its copy and slot index (R445). -/
  spoiled : List (Nat × Nat × Nat) := []
  /-- OWNER and CONFIG slots are to be discarded at the next cold start (R428). -/
  discardDue : Bool := false
  rootDigest : List Byte := List.replicate 64 0
  seed : List Byte := List.replicate 32 0
  repair : Repair := {}
  /-- Fused changes that no AUDIT entry records yet: setting, its copy, slot index and value (R445). -/
  unaudited : List (Nat × Nat × Nat × Nat) := []
  deriving DecidableEq, Repr

/-- A record of the Peat store: its 4 KiB header and its payload, as they stand in flash (R435). -/
structure PeatRec where
  header : List Byte
  payload : List Byte
  /-- Patrol has found its DIGEST wrong (R436). -/
  failed : Bool := false
  /-- A sector that patrol could not read (R433). -/
  unread : Option Nat := none
  deriving DecidableEq, Repr

/-- One bank of the Peat store (R432, R433): its records by TYPE, its AUDIT ring by position, spare sectors left, the
remap table and the erase counts by sector. -/
structure PeatBank where
  recs : List (Nat × PeatRec) := []
  audit : List (Nat × PeatRec) := []
  spares : Nat := 1022
  remap : List (Nat × Nat) := []
  erases : List (Nat × Nat) := []
  deriving DecidableEq, Repr

/-- A tally change being applied (R445): its path, SETTING, value, SLOT_INDEX, SIGNER, old value and keys; of a repair also the
INSTANCE, the kind and target of R506, and the unit or the physical part that it takes the place of. -/
structure TallyJob where
  path : TallyPath
  setting : Nat
  value : Nat
  slotIndex : Nat
  signer : Nat
  old : Nat
  keys : List (List Byte) := []
  inst : Nat := 0
  kind : Nat := 0
  target : Nat := 0
  place : Nat := 0
  deriving DecidableEq, Repr

/-- What the MC writes in its log (R445, R498, R504, R519, R525). -/
inductive McEvent where
  | standby (cause : Nat) (volts current watts : Nat)
  | thermtrip (sensor reading : Nat)
  | repair (setting instance_ value : Nat)
  | refusedRepair (instance_ kind target : Nat)
  | quarantine (tile : Nat)
  | selfTest (die : Nat) (failed : List Nat)
  | measured (reg : Nat) (digest : List Byte) (source : Nat)
  | request (kind detail : Nat)
  deriving DecidableEq, Repr

/-- A quote waiting for the security engine (R427). -/
inductive QuoteReq where
  | record (slot idx addr len mask : Nat) (nonce : List Byte)
  | redfish (mask : Nat) (nonce : List Byte)
  deriving DecidableEq, Repr

/-- The MC and the security engine beside their registers. -/
structure Trust where
  stage : BootStage := .rom
  mcRunning : Bool := false
  search : Option Search := none
  straps : Nat := 0
  /-- Images that MCTP or an external host has delivered. -/
  mctpImage : Option (List Byte) := none
  pcieImage : Option (List Byte) := none
  /-- Headers of the running components and where their records came from: source, bank, sequence. -/
  mcHeader : List Byte := []
  mcFrom : Nat × Nat × Nat := (0, 0, 0)
  dispHeader : List Byte := []
  hostHeader : List Byte := []
  hostBody : List Byte := []
  fwFrom : Nat × Nat × Nat := (0, 0, 0)
  fwLoaded : Bool := false
  configured : Bool := false
  ready : Bool := false
  /-- The lifecycle state in force (R428). -/
  life : Life := .blank
  /-- A self-test result that waits for the MC firmware to run (R417). -/
  coldTest : Option SelfTest := none
  tallyQ : List (TallyPath × List Byte × Bool) := []
  meas : List (List Byte) := List.replicate 16 (List.replicate 64 0)
  measCnt : List Nat := List.replicate 16 0
  /-- The measurement journal: the M1 events of the latest run of the ROM (R423). -/
  journal : List (List Byte) := []
  quotes : List QuoteReq := []
  debug : Nat := 0
  challenge : Nat := 0
  /-- Board and host cold-start state: tiles on the MC's list for self-test (R498). -/
  testList : List Nat := []
  log : List McEvent := []
  tally : Option TallyJob := none
  /-- Repairs whose slots are verified after the change under way (R444, R446). -/
  repairJobs : List TallyJob := []
  reqSetting : Nat := 0
  reqResult : Nat := 0
  recoveryResult : Nat := 0
  /-- When the latest patrol of the Peat records ran (R436). -/
  patrolFrom : Nat := 0
  deriving DecidableEq, Repr

/-! ### The Calmet contract (chapter 2) -/

/-- A command record read from a ring: its index and its 128 bytes (R34). -/
structure Rec where
  idx : Nat
  bytes : List Byte
  deriving DecidableEq, Repr

/-- A completion record before it is written (R35); PHASE and TIME are set as it is written. -/
structure Comp where
  tag : Nat := 0
  opcode : Nat := 0
  status : Nat := 0
  flags : Nat := 0
  stream : Nat := 0
  detail : Nat := 0
  count : Nat := 0
  aux : Nat := 0
  seq : Nat := 0
  signal : Bool := false
  deriving DecidableEq, Repr

/-- What a completion does once it is written: nothing more; OWNER of the slot is set to 0 (R42); a batch ends (R46); or
an MC HALT's completion on a slot is written (R364). -/
inductive After where
  | nothing
  | freeOwner
  | batchEnd
  | mcHalt
  deriving DecidableEq, Repr

/-- One turn of a completion ring: the record's index and its completion, once it has one. -/
structure Turn where
  idx : Nat
  comp : Option Comp := none
  after : After := .nothing
  /-- Streams whose changed status blocks this completion reflects beside its own (R45, R531). -/
  streams : List Nat := []
  /-- The turn's count in the status block has been made. -/
  counted : Bool := false
  deriving DecidableEq, Repr

/-- A failed access that is tried again (R531): when at the latest, and the ring's HEAD and WATCH words as they stood. -/
structure Retry where
  due : Nat
  head : Nat
  watch : Nat
  deriving DecidableEq, Repr

/-- The dispatcher's copies of a command ring (R27 to R31): where its header lies, its entries, the index it reads
next, the last WATCH it accepted and the last it read, records read and not yet started, and whether it has stopped
reading. -/
structure RingIn where
  addr : Nat
  base : Nat
  log2 : Nat
  head : Nat := 0
  tail : Nat := 0
  recs : List Rec := []
  stopped : Bool := false
  /-- HEAD or TAIL could not be written and is owed (R531). -/
  owed : Option Retry := none
  deriving DecidableEq, Repr

/-- The dispatcher's copies of a completion ring (R27, R32): the next index it writes, the turns that wait, whether an
entry already written still lacks its WATCH, and when a failed delivery is tried again (R531). -/
structure RingOut where
  addr : Nat
  base : Nat
  log2 : Nat
  route : Nat
  watch : Nat := 0
  turns : List Turn := []
  owedWatch : Bool := false
  retry : Option Retry := none
  deriving DecidableEq, Repr

/-- An open session (R37, R43): its level, SFLAGS, quotas in MiB and what is allocated under them in bytes. -/
structure Session where
  level : Nat
  flags : Nat
  /-- Distinguishes sessions that follow each other in one slot (R124). -/
  serial : Nat
  quotaHbm : Nat
  quotaFen : Nat
  usedHbm : Nat := 0
  usedFen : Nat := 0
  deriving DecidableEq, Repr

/-- What the dispatcher holds of a session slot (R25, R28, R42): the last values of WATCH of its control ring and of HALT_SEQ
that were observed stay over a reclaim. -/
structure SlotState where
  ctl : Option RingIn := none
  scomp : Option RingOut := none
  ctlFault : Bool := false
  lastWatch : Nat := 0
  haltSeq : Nat := 0
  session : Option Session := none
  /-- Control records started and not yet completed. -/
  inflight : List Rec := []
  deriving DecidableEq, Repr

/-- Stream states (R45, R46). -/
inductive SState where
  | closed | idle | bound | running | paused | draining | halted | faulted
  deriving DecidableEq, Repr

/-- A descriptor in a transfer slot: its 64 bytes, its GENERATION, the ring index, TAG and SIGNAL of its REARM, the
generation it replaced in the shadow, and whether the REARM's completion still waits (R77, R78). -/
structure SlotDesc where
  bytes : List Byte
  gen : Nat
  idx : Nat
  tag : Nat := 0
  signal : Bool := false
  replaced : Option Nat := none
  waits : Bool := false
  deriving DecidableEq, Repr

/-- A record received into a transfer slot (R81, R538): its bytes, its 32-byte origin (R475), whether it exceeds 65,536
bytes, the status of a memory fault met in placing it, where it lies in the landing buffer of which descriptor, and the
batch and stage that have taken it. -/
structure Arrived where
  data : List Byte
  origin : List Byte := []
  oversize : Bool := false
  fault : Nat := 0
  at_ : Nat := 0
  desc : Nat := 0
  taker : Option (Nat × Nat) := none
  deriving DecidableEq, Repr

/-- A transfer slot (R77, R81, R83, R538). -/
structure TSlot where
  active : Option SlotDesc := none
  shadow : Option SlotDesc := none
  /-- Earlier active descriptors whose REARM completions still wait. -/
  old : List SlotDesc := []
  whole : List Arrived := []
  part : Option Arrived := none
  /-- The Moss tick of the latest bytes of a partial record, and whether its silence has been counted. -/
  lastByte : Nat := 0
  stalled : Bool := false
  /-- A partial record was discarded with its link, and no batch has been told yet. -/
  torn : Bool := false
  deriving DecidableEq, Repr

/-- Where a descriptor's data lies (R179): ADDR, BYTES, VALIDITY, OFFSETS, OFFSETS_BYTES, and the descriptor itself. -/
structure ColSrc where
  addr : Nat
  bytes : Nat
  validity : Nat
  offs : Nat
  offsBytes : Nat
  desc : Nat
  deriving DecidableEq, Repr

/-- One row of a picture set (R310): size, channels (3 RGB or 1), samples row by row, status and the sample descriptor. -/
structure Pic where
  w : Nat := 0
  h : Nat := 0
  ch : Nat := 0
  data : List Byte := []
  status : Nat := 0
  desc : List Byte := []
  empty : Bool := false
  deriving DecidableEq, Repr

/-- A stage's input or output (R179 to R181): KIND (4 for a picture set), TYPE, COUNT, dimensions, packed data, offsets of
VARBYTES, validity by element (none listed: all valid), and the memory it is still to be read from. -/
structure Col where
  kind : Nat := 0
  type_ : Nat := 0
  count : Nat := 0
  dims : List Nat := []
  data : List Byte := []
  offsets : List Nat := []
  valid : List Bool := []
  pics : List Pic := []
  src : Option ColSrc := none
  deriving DecidableEq, Repr

/-- A pooled contribution on its way to its bag (R134, R139): bag, weight sum, indices, element values as FP32 codes. -/
structure Contrib where
  bag : Nat
  weight : Nat
  count : Nat
  vals : List Nat
  deriving DecidableEq, Repr

/-- The value of one row of a COMPOSED index whose rows two engines read (R141): window number, position, bag, weight, row
number, 1 for the Q row or 2 for the P row, elements, and the table's record. -/
structure Loose where
  num : Nat
  pos : Nat
  bag : Nat
  weight : Nat
  row : Nat
  part : Nat
  vals : List Nat
  record : List Byte
  deriving DecidableEq, Repr

/-- One stage of a batch under way: when it became ready and was issued, the pages of its tiles or units, and its
inputs, outputs and partial work. -/
structure StageRun where
  ix : Nat
  readyAt : Option Nat := none
  issuedAt : Option Nat := none
  pages : List Nat := []
  finished : Bool := false
  /-- The awaited arrival of a RECEIVE or PEER_LOOKUP stage has come (R53). -/
  arrived : Bool := false
  ins : List (Option Col) := []
  outs : List (Option Col) := []
  /-- Windows that the stage has cut its indices into (R165), those sent to Culvert engines and not returned (R138), and what
  has returned. -/
  sent : Nat := 0
  windows : Nat := 0
  contribs : List Contrib := []
  loose : List Loose := []
  /-- The spill area of a build or grouping (R211), in bytes. -/
  spill : Nat := 0
  /-- Updates staged by Culvert windows: row number, position of its first index, and combined value (R143, R144). -/
  staged : List (Nat × Nat × List Nat) := []
  /-- Reedbed keys not yet searched, and verdicts: key, flags, result, index and bitmap bits. -/
  keys : List Nat := []
  verdicts : List (Nat × List Nat) := []
  /-- Rotation steps finished by each member of a resident group (R278). -/
  steps : List Nat := []
  /-- Rows whose partial lists have still to be merged (R294). -/
  merges : List Nat := []
  /-- Shards or NVMe extents asked and not answered, and what they answered. -/
  asked : List Nat := []
  answers : List (Nat × List Byte) := []
  /-- The first failure of the stage: status and DETAIL[7:0]. -/
  failure : Option (Nat × Nat) := none
  deriving DecidableEq, Repr

/-- Where a batch stands. -/
inductive BState where
  | held | queued | started | committed | done
  deriving DecidableEq, Repr

/-- A table update, discard, search update or table switch staged for the commit point (R52, R146, R237). -/
inductive Update where
  | rows (stage table kind : Nat) (items : List (Nat × Nat × List Nat))
  | discard (stage addr len : Nat)
  | search (stage set_ : Nat) (records : List (List Byte))
  | switch (stage table target : Nat)
  deriving DecidableEq, Repr

/-- A batch that the dispatcher has accepted (R52, R80, R182). -/
structure Batch where
  idx : Nat
  tag : Nat
  signal : Bool
  deadline : Nat
  rows : Nat
  inDesc : List (List Byte)
  outDesc : List (List Byte)
  inAddr : Nat
  outAddr : Nat
  /-- The plan it is judged by has a selection stage (R57). -/
  selects : Bool := false
  state : BState := .held
  start : Nat := 0
  runs : List StageRun := []
  /-- Switch counts pinned at the start: table and count (R173). -/
  pins : List (Nat × Nat) := []
  updates : List Update := []
  /-- The staging area (R76): its bytes, its address, and the results in it: stage, output, address and length. -/
  stagingBytes : Nat := 0
  stagingAddr : Nat := 0
  staged : List (Nat × Nat × Nat × Nat) := []
  subst : Bool := false
  /-- What the last selection stage reports (R57): smallest valid count, tied elements left out, and a short row. -/
  select : Option (Nat × Nat × Bool) := none
  /-- A failure met while running or sending: status and DETAIL. -/
  failure : Option (Nat × Nat) := none
  stopped : Bool := false
  /-- Updates have been staged for search entries and are still being applied (R237). -/
  searching : Nat := 0
  /-- The batch's own cursor before and after, as its batch record gives them (R326). -/
  curFrom : Nat × Nat := (0, 0)
  curTo : Nat × Nat := (0, 0)
  deriving DecidableEq, Repr

/-- A bound plan (R59): its stage records as copied, OVERLAP, LOOKAHEAD, TILES_MAX and where it was read from. -/
structure Plan where
  stages : List (List Byte)
  overlap : Nat
  lookahead : Nat
  tilesMax : Nat
  /-- Table and rule-set records as copied, by stage. -/
  tables : List (Nat × List Byte) := []
  /-- Program blocks, boundary tables and other memory copied at the bind, by stage and offset. -/
  blocks : List (Nat × Nat × List Byte) := []
  deriving DecidableEq, Repr

/-- A tile's pool as a stream holds it (R71 to R75): blocks reserved as its floor, blocks held, blocks asked for and not
granted; blocks spilled, those of them still to be written, and the older stream they were spilled for; and blocks WRITTEN
in the tile's part of the Slough area (R76). -/
structure Hold where
  tile : Nat
  floor : Nat
  held : Nat := 0
  wanted : Nat := 0
  spilling : Nat := 0
  spilled : Nat := 0
  winner : Option Nat := none
  written : Nat := 0
  deriving DecidableEq, Repr

/-- An open stream (R45, R46, R55, R71, R76, R81, R314, R323). -/
structure Stream where
  id : Nat
  session : Nat
  state : SState := .idle
  ring : RingIn
  cring : RingOut
  statusAddr : Nat
  /-- The status block has changed and has still to be written. -/
  dirty : Bool := true
  late : Nat := 0
  batchesDone : Nat := 0
  stalls : Nat := 0
  spills : Nat := 0
  timeouts : Nat := 0
  faultStatus : Nat := 0
  faultStage : Nat := 0
  policy : Nat := 0
  stallTicks : Nat := 250000
  floorBlocks : Nat := 16
  order : Nat := 0
  plan : Option Plan := none
  slots : List TSlot := List.replicate 16 {}
  batches : List Batch := []
  holds : List Hold := []
  slough : Nat := 0
  /-- Decode cache (R314): size in MiB, and entries, most recent first: SAMPLE_ID, class, picture. -/
  cache : Nat := 0
  cached : List (Nat × Nat × Pic) := []
  /-- HBM and Fen bytes charged for the plan, and what was read at bind (R204, R273). -/
  charged : Nat × Nat := (0, 0)
  /-- The shuffle cursor (R323): epoch and position; bad samples passed, and the epoch they are counted in (R326). -/
  cursor : Nat × Nat := (0, 0)
  epochBad : Nat := 0
  badEpoch : Nat := 0
  /-- The batch that has taken the cursor's rows under FILL_NEXT and has not advanced it. -/
  cursorBy : Option Nat := none
  /-- The DRAIN under way: slot, record index and batches completed (R46). -/
  drain : Option (Nat × Nat × Nat) := none
  /-- RESET_STREAM and CLOSE_STREAM records that wait until every completion owed is written: slot, record index, and
  whether it closes. -/
  resetWait : List (Nat × Nat × Bool) := []
  closing : Bool := false
  /-- The overrun of R31 stands until RESET_STREAM. -/
  overrun : Bool := false
  deriving DecidableEq, Repr

/-- A HALT under way (R51, R360): the slot it answers (none for the MC), TAG, SIGNAL, SEQ, scope and STREAM, the streams it
counts, all those it waits for, and units that have still to receive its message and to acknowledge it, with the streams
they work for. -/
structure HaltOp where
  slot : Option Nat
  tag : Nat
  signal : Bool
  seq : Nat
  scope : Nat
  stream : Nat
  streams : List Nat
  stopping : List Nat
  toReceive : List (StopUnit × List Nat)
  toAck : List (StopUnit × List Nat)
  accepted : Nat
  deriving DecidableEq, Repr

/-- A stream opened on a peer for a REMOTE shard (R150): the stream and stage it serves, the shard, its number on the peer, and
the shard's AREA. -/
structure PeerStream where
  stream : Nat
  stage : Nat
  shard : Nat
  remote : Nat
  area : Nat
  deriving DecidableEq, Repr

/-- A peer session this part has opened (R41): the proposing session, the peer's endpoint and the port to it, the slot claimed
there, the level answered, where its control ring lies, records published on that, and its streams. -/
structure PeerSession where
  session : Nat
  peer : Nat
  port : Nat
  slot : Nat
  level : Nat
  area : Nat
  published : Nat := 1
  streams : List PeerStream := []
  deriving DecidableEq, Repr

/-- A merge group of a tile's fetch engine (R69, R70): its stream, direction, address range and the tick of its first
transfer. -/
structure Group where
  stream : Nat
  write : Bool
  start : Nat
  len : Nat
  first : Nat
  deriving DecidableEq, Repr

/-- A request of a tile (R66). Pool 0 is HBM read, 1 Fen read, 2 write. -/
structure Request where
  stream : Nat
  pool : Nat
  addr : Nat
  len : Nat
  deriving DecidableEq, Repr

/-- A block of an input being filled (R67): its range, the bytes still to come, and whether it is a pool block beyond those
the stream held. -/
structure Filling where
  start : Nat
  len : Nat
  left : Nat
  extra : Bool
  deriving DecidableEq, Repr

/-- One input of a stage on a tile (R66, R67): ranges still to be fetched, blocks being filled, the ready queue, and whether
it waits on the Weir for a block. -/
structure Feed where
  stream : Nat
  batch : Nat
  stage : Nat
  input : Nat
  ranges : List (Nat × Nat)
  filling : List Filling := []
  ready : List Bool := []
  asking : Bool := false
  deriving DecidableEq, Repr

/-- A step that the execute sequencer has issued (R66): its stage, and the pool blocks that are free once it retires. -/
structure ExecStep where
  stream : Nat
  batch : Nat
  stage : Nat
  blocks : Nat
  deriving DecidableEq, Repr

/-- The stream engines of a tile (R66 to R70): merge groups, oldest first; requests that hold a credit and requests held for
one, oldest first; the inputs being fetched; the execute queue; and run-ahead lowered for a stream. -/
structure Mover where
  groups : List Group := []
  out : List Request := []
  waiting : List Request := []
  feeds : List Feed := []
  exec : List ExecStep := []
  ahead : List (Nat × Nat) := []
  deriving DecidableEq, Repr

/-- A resident group (R275 to R277): its stream and number, the tiles it holds, blocks on each, and the weights and bias
bytes loaded for each of its stages. -/
structure Resident where
  stream : Nat
  group : Nat
  tiles : List Nat
  blocks : Nat
  weights : List (Nat × Col × List Byte) := []
  deriving DecidableEq, Repr

/-! ### Tables and hot rows (chapters 5 and 6) -/

/-- A version of a table that has been replaced and has still to drain (R176): its switch count, the count that replaced
it, DISCARD_OLD and DRAINED_ADDR, and the stream of the switch. -/
structure Drain where
  version : Nat
  by_ : Nat
  discard : Bool
  addr : Nat
  stream : Nat
  deriving DecidableEq, Repr

/-- A registered table (R124, R172, R175): its record, its session, switch count, reservation (stream, batch) and drains. -/
structure TableEnt where
  id : Nat
  record : List Byte
  slot : Nat
  serial : Nat
  switch : Nat := 0
  reserved : Option (Nat × Nat) := none
  drains : List Drain := []
  /-- Stacks in which the table has rows but no tracking slot (R155). -/
  untracked : List Nat := []
  deriving DecidableEq, Repr

/-- A replica: its position in the order of R160, the address of its slot, and the slot's granules (R161). -/
structure Replica where
  pos : Nat
  addr : Nat
  grans : Nat
  deriving DecidableEq, Repr

/-- A hot row of an engine (R159): table, row number (P rows from ROWS on), the replicas its current listing names, the
replicas it is to have once every change under way is listed, and whether it is to stop being hot. -/
structure HotRow where
  table : Nat
  row : Nat
  listed : List Replica := []
  planned : List Replica := []
  stopping : Bool := false
  deriving DecidableEq, Repr

/-- A change of a row's replica set that waits for its epoch (R166, R168): the new listing and the slots it leaves out; or the
change of a table switch, which lists none of the old version's replicas (R175). -/
structure HotChange where
  table : Nat
  row : Nat
  listing : List Replica
  gone : List Replica
  switch : Bool := false
  deriving DecidableEq, Repr

/-- Slots of a row that no look-up of an epoch after this one can reach (R168); those that a table switch left out name
the version they belong to (R176). -/
structure Leaving where
  table : Nat
  row : Nat
  epoch : Nat
  slots : List Replica
  version : Option Nat := none
  deriving DecidableEq, Repr

/-- What a Culvert command does (R138): a look-up, sums of a SCATTER_ADD, rows of a TABLE_WRITE, or a column predicate or hash
probe of a relational stage (R197, R214). -/
inductive WinKind where
  | lookup | add | write | predicate | probe
  deriving DecidableEq, Repr

/-- The command applies table updates. -/
def WinKind.updates (k : WinKind) : Bool := k == .add || k == .write

/-- One index of a window: its position in the window, its bag, its weight as an FP32 code, whether it is skipped, its row
numbers (Q and P of a COMPOSED table, P rows from ROWS on), where those rows lie, where they are read from, the values or
bytes that travel with it, and whether it stands for the index (0), or for the Q (1) or the P row (2) of one whose rows two
engines serve (R141). -/
structure WinEntry where
  pos : Nat
  bag : Nat
  weight : Nat
  skip : Bool
  rows : List Nat
  homes : List Nat
  srcs : List Nat
  vals : List Nat
  part : Nat := 0
  deriving DecidableEq, Repr

/-- A window sent to a Culvert engine (R138): who sent it, the page of its tile, the table and its record, for a look-up the
home stack and the epoch it is tagged with (R165), its number among the stage's windows, and the version it reads (R173). -/
structure Window where
  stream : Nat
  batch : Nat
  stage : Nat
  page : Nat
  table : Nat
  record : List Byte
  kind : WinKind
  entries : List WinEntry
  home : Nat
  epoch : Nat
  pool : List Nat := []
  num : Nat := 0
  version : Nat := 0
  deriving DecidableEq, Repr

/-- A Culvert engine (R138, R155 to R166): its commands, those that tiles hold for it until it takes them, those whose responses
are on their way to their tiles (R66), its turn among tiles, commands and update commands started of the current sixteen,
tracking slots, sketch counters, hot rows and their changes, epochs by table, and drain counters of
live epochs, oldest first: (table, epoch, pieces out). -/
structure Culv where
  queue : List Window := []
  held : List Window := []
  back : List Window := []
  turn : Nat := 0
  started : Nat := 0
  updates : Nat := 0
  slots : List (Nat × Nat) := []
  sketch : List (Nat × Nat) := []
  hot : List HotRow := []
  changes : List HotChange := []
  leaving : List Leaving := []
  epochs : List (Nat × Nat) := []
  live : List (Nat × Nat × Nat) := []
  decayAt : Nat := 0
  deriving DecidableEq, Repr

/-- A listing that a Hummock directory holds or is to hold (R164): home stack, table, epoch, the version it lists replicas
of, and the hot rows with their replicas. -/
structure Listing where
  home : Nat
  table : Nat
  epoch : Nat
  version : Nat
  rows : List (Nat × List Replica)
  deriving DecidableEq, Repr

/-- Tables and hot rows over the part. -/
structure Tables where
  dirs : List TableEnt := []
  culvs : List Culv := List.replicate 12 {}
  /-- The Hummock directory of each compute die, and the EPOCH messages on their way to it. -/
  hummock : List (List Listing) := [[], [], [], []]
  epochMsgs : List (Nat × Listing) := []
  deriving DecidableEq, Repr

/-! ### Reedbed (chapter 8) -/

/-- A registered rule set (R224, R225). -/
structure RuleSet where
  id : Nat
  record : List Byte
  slot : Nat
  serial : Nat
  deriving DecidableEq, Repr

/-- An entry as a bank or a shadow holds it (R222): VALID, the units of VALUE and CARE, PRIORITY and RESULT. -/
structure RbEntry where
  valid : Bool := false
  value : List Nat := []
  care : List Nat := []
  prio : Nat := 0
  result : Nat := 0
  deriving DecidableEq, Repr

/-- A key that waits at a Reedbed: its stage's run, its number, and the banks that compare it (R229, R234). -/
structure RbKey where
  stream : Nat
  batch : Nat
  stage : Nat
  key : Nat
  banks : Nat
  deriving DecidableEq, Repr

/-- An update record that waits for verification (R237): stream, batch, rule set and record. -/
structure RbUpdate where
  stream : Nat
  batch : Nat
  set_ : Nat
  bytes : List Byte
  deriving DecidableEq, Repr

/-- The Reedbed of a compute die: bank entries and shadow entries by global index, shadow entries that cannot be read
(false uncorrectable, true poisoned), updates under way, the keys waiting as (stream, batch, stage, key), the logical bank
being filled in a spare with its old physical bank, and the latest scrub pass. -/
structure Reed where
  bank : List (Nat × RbEntry) := []
  shadow : List (Nat × RbEntry) := []
  bad : List (Nat × Bool) := []
  updates : List RbUpdate := []
  keys : List RbKey := []
  turn : Nat := 0
  copying : Option (Nat × Nat) := none
  scrubAt : Nat := 0
  /-- Scrub rewrites of the last hour: logical bank and tick (R503). -/
  rewrites : List (Nat × Nat) := []
  deriving DecidableEq, Repr

/-! ### Fabric and Causeway (chapter 13) -/

/-- Phases of the Sluice (R362). -/
inductive Phase where
  | none | stopping | draining | quiet
  deriving DecidableEq, Repr

/-- A wait edge (R73, R74): a floor-zero stream waits on a tile for blocks that another holds. -/
structure Edge where
  tile : Nat
  waiter : Nat
  holder : Nat
  deriving DecidableEq, Repr

/-- What a packet on the fabric belongs to: a tile's request or the response to it, a block spilled, and Causeway
messages. -/
inductive PacketOf where
  | request (tile : Nat) (q : Request)
  | response (tile : Nat) (q : Request)
  | spill (tile stream : Nat)
  | halt (u : StopUnit)
  | ack (u : StopUnit)
  | wake (page : Nat)
  | epoch (stack die : Nat)
  deriving DecidableEq, Repr

/-- A packet under way (R353): its lane, the hops of its route, flits still at its source, and flits that stand in the receive
buffer of each hop. -/
structure Packet where
  of : PacketOf
  lane : Nat
  route : List Nat
  left : Nat
  at_ : List Nat
  deriving DecidableEq, Repr

/-- The fabric beside its registers: the Sluice, the MC HALT, wait edges known to the dispatcher, WAKE messages on
their way, packets under way, oldest first, and what training and repair have made of each D2D link. -/
structure Fab where
  packets : List Packet := []
  phase : Phase := .none
  held : Bool := false
  holdAsked : Bool := false
  sluices : Nat := 0
  mcBusy : Bool := false
  mcDone : Bool := false
  mcStreams : Nat := 0
  /-- Redfish Halt actions that wait for the MC HALT under way: the values to be written to FAB.MC_HALT. -/
  mcAsked : List Word := []
  /-- Completions of the MC HALT still to be written: slots. -/
  mcPosts : List Nat := []
  edges : List Edge := []
  wakes : List Nat := []
  /-- Links that the latest cold start trained. -/
  linkUp : List Bool := List.replicate 8 false
  linkDown : List Bool := List.replicate 8 false
  retrains : List Nat := List.replicate 8 0
  repairing : List Bool := List.replicate 8 false
  /-- Lanes blamed for failed replay sequences in the last hour: link, lane and tick (R503). -/
  blames : List (Nat × Nat × Nat) := []
  rtt : List Nat := List.replicate 8 0
  deriving DecidableEq, Repr

/-! ### Host cores and external interfaces (chapters 18 and 19) -/

/-- A 256-byte sector of the system cache (R453, R456): its number (the address of its first byte over 256, in the stack view or in
Fen memory), the lines it holds, those of them that are dirty, and its bytes. -/
structure CacheSector where
  ix : Nat
  held : List Nat := []
  dirty : List Nat := []
  data : List Byte := List.replicate 256 0
  deriving DecidableEq, Repr

/-- How a core was started (R460, R461): its number, in machine mode at an address with satp 0 and interrupts disabled, with the
mhartid in a0 and the address of the device description in a1. -/
structure HartStart where
  core : Nat
  pc : Nat
  a0 : Nat
  a1 : Nat
  satp : Nat := 0
  machine : Bool := true
  irqs : Bool := false
  deriving DecidableEq, Repr

/-- Host cores beside the HOST registers: those running, those waiting in WFI, those that debug has halted, how each was
started, the sectors of the system cache, the compare values of MTIMER and of Sstc by core, and identities pending in the IMSIC
files by core and file. -/
structure Host_ where
  running : Nat := 0
  wfi : Nat := 0
  halted : Nat := 0
  started : List HartStart := []
  cache : List CacheSector := []
  mtimecmp : List Nat := List.replicate 34 0
  stimecmp : List Nat := List.replicate 34 0
  msis : List (Nat × Nat × Nat) := []
  deriving DecidableEq, Repr

/-- States of a queue pair (R470). -/
inductive QpState where
  | reset | ready | error
  deriving DecidableEq, Repr

/-- A message a requester queue pair has sent and not seen acknowledged: who sent it, its kind and its bytes. -/
structure QpMsg where
  stream : Nat
  batch : Nat
  stage : Nat
  kind : Nat
  data : List Byte
  deriving DecidableEq, Repr

/-- A queue pair as the device holds it (R470 to R472). -/
structure Qp where
  index : Nat
  ctx : List Byte
  addr : Nat
  state : QpState := .reset
  sendPsn : Nat := 0
  recvPsn : Nat := 0
  retries : Nat := 0
  rnr : Nat := 0
  msgs : List QpMsg := []
  /-- The tick from which the local ACK timeout runs (R470, R472). -/
  sentAt : Nat := 0
  deriving DecidableEq, Repr

/-- A data port (R467, R468). -/
structure Port where
  up : Bool := false
  mode : Nat := 0
  spare : Nat := 15
  retryAt : Option Nat := none
  deriving DecidableEq, Repr

/-- An NVMe read under way (R476): queue, who asked, the extent and its completions still to come. -/
structure NvmeRead where
  queue : Nat
  stream : Nat
  batch : Nat
  stage : Nat
  extent : Nat
  left : Nat
  deriving DecidableEq, Repr

/-- Ports, queue pairs, the PCIe port and the management side. -/
structure Ext where
  ports : List Port := List.replicate 4 {}
  qps : List Qp := []
  pcieRoot : Bool := false
  pcieUp : Nat := 0
  pcieRate : Nat := 0
  pcieWidth : Nat := 0
  /-- The root-port split that CONFIG selects: 1 x8x8, 2 x4x4x4x4, any other value x16 (R479). -/
  pcieSplit : Nat := 0
  /-- MSI-X table and pending bits (R480): words by offset, pending vectors. -/
  msix : List (Nat × Word) := []
  msixPending : List Nat := []
  /-- Recovery mailbox (R481): words at 0x08 and 0x10, and the staging memory's bytes. -/
  boxLen : Nat := 0
  boxResult : Nat := 0
  staging : List (Nat × Byte) := []
  nvme : List NvmeRead := []
  mgmtUp : Bool := false
  mgmtSpeed : Nat := 0
  mgmtFec : Nat := 0
  mgmtRetry : Option Nat := none
  deriving DecidableEq, Repr

/-- The dispatcher (chapters 2 and 3). -/
structure Disp where
  slots : List SlotState := List.replicate 64 {}
  streams : List Stream := []
  /-- OPEN_STREAM records accepted so far: the order of opening (R74). -/
  opened : Nat := 0
  peers : List PeerSession := []
  halts : List HaltOp := []
  movers : List Mover := List.replicate 52 {}
  residents : List Resident := []
  serials : Nat := 0
  /-- UDP and other sources bound by RECEIVE stages: source kind, port, number, stream and stage (R474). -/
  binds : List (Nat × Nat × Nat × Nat × Nat) := []
  deriving DecidableEq, Repr

/-! ### The whole part -/

/-- A unit of the part at work on a stage: the unit's page, and the stream, batch and stage. -/
structure Assign where
  page : Nat
  stream : Nat
  batch : Nat
  stage : Nat
  deriving DecidableEq, Repr

/-- The part, and the commands that wait. -/
structure State where
  /-- Commands that wait, first in first out. -/
  pending : List Instr := []
  /-- Moss ticks since Moss domain power-up: DISP.TICK (R64, R390). -/
  tick : Nat := 0
  /-- Counts the free values taken so far; the model's own, no state of the part. -/
  freeCtr : Nat := 0
  /-- The answer to the latest access. -/
  resp : Resp := .none
  /-- What the part has put on its pins, ports and links, newest first. -/
  out : List Out := []
  /-- Register pages by key (class, copy number, offset); an unlisted register holds its reset value. -/
  regs : List (Nat × Word) := []
  /-- Pages in a soft reset (R376). -/
  srst : List Nat := []
  /-- The Moss tick from which each page's leak timer runs (R378). -/
  leaks : List (Nat × Nat) := []
  /-- HBM bytes at stack-view addresses and Fen bytes; an unlisted byte reads as zero. -/
  mem : List Host.Cell := []
  /-- Granules not UNWRITTEN, by stack-view address / 256. -/
  gran : List (Nat × Gran) := []
  /-- Words of the fill maps with bits not yet found wrong, by granule number / 32 (R103). -/
  fillWords : List (Nat × WordBits) := []
  /-- Fen lines not good, by address / 64. -/
  fenLines : List (Nat × FenLine) := []
  /-- Tile SRAM bytes written since power-up, by address. -/
  sram : List (Nat × Option Byte) := []
  hbms : List Stack := List.replicate 12 {}
  fens : List FenDie := List.replicate 4 {}
  tiles : List TileState := List.replicate 52 {}
  dies : List DieState := List.replicate 4 {}
  assigns : List Assign := []
  still : Still := {}
  power : Power := {}
  fuses : Fuses := {}
  banks : List PeatBank := [{}, {}]
  trust : Trust := {}
  /-- Compute dies cut off from the I/O die by a link that is down (R18, R357). -/
  cutOff : List Nat := []
  disp : Disp := {}
  tables : Tables := {}
  sets : List RuleSet := []
  reeds : List Reed := List.replicate 4 {}
  fab : Fab := {}
  host : Host_ := {}
  ext : Ext := {}
  deriving DecidableEq, Repr

/-- The part with no supply: every register at its reset value, memories empty, fuses BLANK, no command waiting. The
supplies, and then the rows of start-up, bring it up (log 1, DESIGN CHOICE). -/
def State.reset : State := {}

end Sys2Proof.Machine
end

