-- ==== Sys2Proof/Machine/Ops.lean ====
section
/-! DEFINITION. The named operations over registers and memory: reads and writes of a register, the counting of
errors, snapshot triggers, the Sedge code, and reads and writes of HBM and Fen memory. -/

namespace Sys2Proof.Machine

/-! ### Free values -/

/-- A fresh free number, and the state that has used it. -/
def takeFree (s : State) : State × Nat := ({ s with freeCtr := s.freeCtr + 1 }, Config.freeNat s.freeCtr)

/-- A fresh free word of w bits. -/
def takeFreeBits (s : State) (w : Nat) : State × Nat :=
  ({ s with freeCtr := s.freeCtr + 1 }, (Config.freeWord s.freeCtr).toNat % 2 ^ w)

/-! ### Registers -/

/-- The stored value of a register by its key. -/
def State.reg (s : State) (k : Nat) : Word := cellsGet regReset k s.regs

/-- A register made to hold a value. -/
def State.setReg (s : State) (k : Nat) (v : Word) : State := { s with regs := cellsSet regReset k v s.regs }

/-- A field of a stored register. -/
def State.rfld (s : State) (k hi lo : Nat) : Nat := fld (s.reg k) hi lo

/-- A field of a stored register made to hold a value. -/
def State.setRfld (s : State) (k hi lo x : Nat) : State := s.setReg k (putFld (s.reg k) hi lo x)

/-- The key of a register by class, copy number and offset. -/
def rk (cls inst off : Nat) : Nat := pageKey cls inst + off

/-- Page starts. -/
def pgClk : Nat := pageKey 2 0
def pgPwr : Nat := pageKey 3 0
def pgFab : Nat := pageKey 4 0
def pgHbmc (s : Nat) : Nat := pageKey 5 s
def pgCulv (s : Nat) : Nat := pageKey 6 s
def pgFen (d : Nat) : Nat := pageKey 7 d
def pgTile (t : Nat) : Nat := pageKey 8 t
def pgReed (d : Nat) : Nat := pageKey 9 d
def pgDisp : Nat := pageKey 10 0
def pgDefl (n : Nat) : Nat := pageKey 11 n
def pgPict (n : Nat) : Nat := pageKey 12 n
def pgText (n : Nat) : Nat := pageKey 13 n
def pgShuf : Nat := pageKey 14 0
def pgEth (p : Nat) : Nat := pageKey 15 p
def pgPcie : Nat := pageKey 16 0
def pgMgmt : Nat := pageKey 17 0
def pgSec : Nat := pageKey 18 0
def pgPeat : Nat := pageKey 19 0
def pgTally : Nat := pageKey 20 0
def pgHost : Nat := pageKey 21 0
def pgStill : Nat := pageKey 22 0
def pgD2d (i : Nat) : Nat := pageKey 23 i

/-- The compute die whose power a page follows; none for the Moss domain and the I/O die (R370). -/
def pageDie (k : Nat) : Option Nat :=
  match keyCls k with
  | 5 => some (keyInst k / 3)
  | 6 => some (keyInst k / 3)
  | 7 => some (keyInst k)
  | 8 => some (keyInst k / 13)
  | 9 => some (keyInst k)
  | 23 => if keyInst k < 4 then some (keyInst k) else none
  | _ => none

/-- Does a page lie in the Moss domain (R370)? -/
def pageMoss (k : Nat) : Bool := [1, 2, 3, 22].contains (keyCls k)

/-- Is the power domain of a page on? -/
def pageOn (s : State) (k : Nat) : Bool :=
  if pageMoss k then s.power.mossUp
  else match pageDie k with
    | some d => (s.dies.getD d {}).power ≠ .off
    | none => s.power.vinGood

/-- A block in service: PG_CTL.EN, and for a tile that the repair record enables it (R88). -/
def pageEn (s : State) (page : Nat) : Bool :=
  bit (s.reg (page + 0x10)) 0 && match keyCls page with
    | 8 => (s.tiles.getD (keyInst page) {}).enabled
    | _ => true

/-- PG_CTL.LOCK of a page. -/
def pageLocked (s : State) (page : Nat) : Bool := bit (s.reg (page + 0x10)) 63

/-- PG_STAT.BUSY: the block holds Calmet work or a soft reset runs (R375). -/
def pageBusy (s : State) (page : Nat) : Bool := s.srst.contains page || s.assigns.any (·.page == page)

/-- Sets a bit of PG_INT_RAW (R377). -/
def raiseInt (s : State) (page n : Nat) : State := s.setRfld (page + 0x20) n n 1

/-- Counts n events in a counter of w bits at a register's bits [lo+w-1:lo]; a count past the field's width is a free
value (log 7, DESIGN CHOICE). -/
def bumpField (s : State) (k lo w n : Nat) : State :=
  let v := s.rfld k (lo + w - 1) lo + n
  if v < 2 ^ w then s.setRfld k (lo + w - 1) lo v
  else let (s, f) := takeFreeBits s w
    s.setRfld k (lo + w - 1) lo f

/-- Counts n events in a whole counter register, whose width its table gives. -/
def bump (s : State) (k n : Nat) : State :=
  match regRow? (keyCls k) (keyOff k) with
  | some r => bumpField s k 0 r.width n
  | none => s

/-- Counts n events in a field that saturates. -/
def bumpSat (s : State) (k lo w n : Nat) : State :=
  s.setRfld k (lo + w - 1) lo (Nat.min (2 ^ w - 1) (s.rfld k (lo + w - 1) lo + n))

/-! ### What the part puts out, and Redfish requests (R484, R492) -/

def putOut (s : State) (o : Out) : State := { s with out := o :: s.out }

/-- A Redfish request takes at least one management frame each way; how many more is not given (log 46, DESIGN CHOICE). -/
def mgmtFrames (s : State) : State :=
  match takeFreeBits s 8 with
  | (s, rx) => match takeFreeBits s 8 with
    | (s, tx) => bump (bump s (pgMgmt + 0x410) (rx + 1)) (pgMgmt + 0x418) (tx + 1)

/-- A Redfish request is served and answered with an HTTP code; the MGMT page counts while VIN50 is present. -/
def redfish (s : State) (code value : Nat) (data : List Byte) : State :=
  let s := putOut s (.mgmt code value data)
  if s.power.vinGood then mgmtFrames (bump s (pgMgmt + 0x420) 1) else s

/-- How far a role reaches. -/
def roleRank : Role → Nat
  | .none => 0
  | .readOnly => 1
  | .operator => 2
  | .administrator => 3

/-- A Redfish request that needs a role: a login refused answers 401 and counts in AUTH_FAIL_CNT, and a lesser role 403
(log 93, DESIGN CHOICE). -/
def asRole (need role : Role) (go : State → State) (s : State) : State :=
  if role = .none then
    let s := putOut s (.mgmt 401 0 [])
    if s.power.vinGood then mgmtFrames (bump s (pgMgmt + 0x428) 1) else s
  else if roleRank role < roleRank need then redfish s 403 0 []
  else go s

/-! ### Snapshot triggers (R379, R380, R383, R386) -/

/-- The sources of a snapshot, as bits of STILL.LAST_SRC (R389). -/
def srcRegister : Nat := 1
def srcTimer : Nat := 4
def srcStillIn : Nat := 8
def srcCalmet : Nat := 16
/-- An error class c, with the ERROR source. -/
def srcError (c : Nat) : Nat := 2 + 2 ^ (8 + c)

/-- The STILL block records a trigger: it joins the open snapshot (R380), or starts the next one (R383), drives STILL_OUT
(R386) and sends the trigger to every block in service. -/
def recordTrigger (s : State) (src : Nat) : State :=
  let last := pgStill + 0x428
  if s.still.mergeOpen then
    bump (s.setReg last (s.reg last ||| BitVec.ofNat 64 src)) (pgStill + 0x438) 1
  else
    let seq := s.rfld (pgStill + 0x420) 31 0
    let seq' := if seq = 0xFFFFFFFF then 1 else seq + 1
    let s := s.setReg (pgStill + 0x420) (BitVec.ofNat 64 seq')
    let s := s.setReg last (BitVec.ofNat 64 src)
    let s := s.setReg (pgStill + 0x430) (BitVec.ofNat 64 s.tick)
    let quiet := src = srcStillIn ∧ s.rfld (pgStill + 0x408) 1 1 = 0
    { s with still := { s.still with
        mergeOpen := true
        toLatch := allPages.filter fun p => pageOn s p && pageEn s p
        pulse := if quiet then s.still.pulse else some s.tick } }

/-- An error event of class c triggers a snapshot when STILL.ERR_EN enables the class (R379). -/
def errorTrigger (s : State) (c : Nat) : State :=
  if bit (s.reg (pgStill + 0x410)) c then recordTrigger s (srcError c) else s

/-! ### Counting errors (R375, R378, R494) -/

/-- An uncorrectable event of a block: PG_ERR_UE, PG_INT_RAW.UE and the UE trigger. -/
def countUE (s : State) (page : Nat) : State :=
  errorTrigger (raiseInt (bumpSat s (page + 0x40) 0 48 1) page 0) 0

/-- A correctable event of a block with a leaky bucket: PG_ERR_CE, the level, and PG_INT_RAW.BKT as the level passes
the depth. A block without a bucket counts no correctable event (R499). -/
def countCE (s : State) (page : Nat) : State :=
  if hasBucket (keyCls page) then
    let s := bumpSat s (page + 0x38) 0 48 1
    let s := bumpSat s (page + 0x50) 0 16 1
    if s.rfld (page + 0x50) 15 0 = s.rfld (page + 0x48) 15 0 + 1 then errorTrigger (raiseInt s page 1) 1 else s
  else s

/-- Records a first event in a register whose bit 63 is VALID: a held event stays (R375, PG_INT_RAW.LAST_ERR). -/
def firstEvent (s : State) (page off v : Nat) : State :=
  if bit (s.reg (page + off)) 63 then s
  else raiseInt (s.setReg (page + off) (BitVec.ofNat 64 (2 ^ 63 + v))) page 3

/-! ### The device address map (R90 to R93) -/

/-- Where an address lies. -/
inductive Place where
  | hbm (stack off : Nat)
  | fen (die off : Nat)
  | tile (t off : Nat)
  | regs (key : Nat)
  | unbacked
  deriving DecidableEq, Repr

/-- 51 GiB of data in each stack. -/
def stackBytes : Nat := 0xCC0000000

/-- The place of a device address. -/
def placeOf (a : Nat) : Place :=
  if a < 0x9900000000 then
    let u := a / 4096
    .hbm (u % 12) (u / 12 * 4096 + a % 4096)
  else if 0x10000000000 ≤ a ∧ a < 0x10000000000 + 12 * 0x1000000000 then
    let o := a - 0x10000000000
    if o % 0x1000000000 < stackBytes then .hbm (o / 0x1000000000) (o % 0x1000000000) else .unbacked
  else if 0x40000000000 ≤ a ∧ a < 0x40000000000 + 4 * 0x200000000 then
    let o := a - 0x40000000000
    .fen (o / 0x200000000) (o % 0x200000000)
  else if 0x50000000000 ≤ a ∧ a < 0x50000000000 + 52 * 0x2000000 then
    let o := a - 0x50000000000
    if o % 0x2000000 < 0x1000000 then .tile (o / 0x2000000) (o % 0x2000000) else .unbacked
  else if 0xF0000000000 ≤ a ∧ a < 0x100000000000 then .regs (a - 0xF0000000000)
  else .unbacked

/-- The stack-view address of a byte of a stack. -/
def hbmKey (stack off : Nat) : Nat := 0x10000000000 + stack * 0x1000000000 + off

/-- The address of a byte of a die's Fen memory. -/
def fenKey (die off : Nat) : Nat := 0x40000000000 + die * 0x200000000 + off

/-- Where a byte of HBM or Fen memory is kept; none for any other address. -/
def memKey (a : Nat) : Option Nat :=
  match placeOf a with
  | .hbm s o => some (hbmKey s o)
  | .fen d o => some (fenKey d o)
  | _ => none

/-- Why a memory access has no data (R91, R99, R495). -/
inductive MemErr where
  | bounds | poison | uncorrectable
  deriving DecidableEq, Repr

/-! ### Where a granule lies on the core dies (R94) -/

/-- A byte of a core die: the die, the die row and the byte within the row. -/
structure DiePlace where
  die : Nat
  row : Nat
  byte : Nat
  deriving DecidableEq, Repr

/-- Group, row set and first check position c0 of granule g of a stack. -/
def granGroup (g : Nat) : Nat := g / 256
def granRow (g : Nat) : Nat := g / 32 % 8
def granC0 (g : Nat) : Nat := 2 * granRow g % 10

/-- Byte t of the slice at position k of a granule. -/
def posPlace (g k t : Nat) : DiePlace :=
  let p := 10 * granRow g + k
  ⟨p % 16, 5 * granGroup g + p / 16, 32 * (g % 32) + t⟩

/-- Position of data slice i of a granule: the check slices take c0 and c0 + 1. -/
def posOfSlice (g i : Nat) : Nat := if i < granC0 g then i else i + 2

/-- Byte b of a granule. -/
def bytePlace (g b : Nat) : DiePlace := posPlace g (posOfSlice g (b / 32)) (b % 32)

/-- Die rows of a core die, and the first that lies outside the groups; from there on half are spare rows and half hold
Belsajan's metadata. -/
def dieRows : Nat := 4194304
def rowsOfGroups : Nat := 4177920

/-- The position of canonical symbol m of a granule (R95). -/
def posOfSym (g m : Nat) : Nat := if m < 2 then granC0 g + m else posOfSlice g (m - 2)

/-- The die that holds canonical symbol m of a granule. -/
def dieOfSym (g m : Nat) : Nat := (posPlace g (posOfSym g m) 0).die

/-- The canonical symbol of a granule that lies on a die, if one does. -/
def symOnDie (g die : Nat) : Option Nat := (List.range 10).find? fun m => dieOfSym g m == die

/-! ### The Sedge code (R95 to R97) -/

/-- Multiplication by α in GF(2^8) with polynomial 0x11D. -/
def gfDouble (x : Nat) : Nat := if x < 128 then 2 * x else (2 * x) ^^^ 0x11D

/-- α^m · x. -/
def gfAlpha : Nat → Nat → Nat
  | 0, x => x
  | m + 1, x => gfDouble (gfAlpha m x)

/-- One step of the division by g(x) = x² + 3x + 2: the remainder r1 x + r0, times x, plus the next symbol. -/
def sedgeStep (r : Nat × Nat) (e : Nat) : Nat × Nat := (r.2 ^^^ r.1 ^^^ gfDouble r.1, e ^^^ gfDouble r.1)

/-- The check symbols (e1, e0) of code t: the remainder of the data symbols' polynomial, highest power first (R95). -/
def sedgeRemainder (data : List Byte) (t : Nat) : Nat × Nat :=
  sedgeStep (sedgeStep ((List.range 8).foldl (fun r i => sedgeStep r (data.getD (32 * (7 - i) + t) 0).toNat) (0, 0)) 0) 0

/-- The two check slices of a granule: e0 of the 32 codes, then e1. -/
def sedgeCheck (data : List Byte) : List Byte :=
  ((List.range 32).map fun t => BitVec.ofNat 8 (sedgeRemainder data t).2)
    ++ (List.range 32).map fun t => BitVec.ofNat 8 (sedgeRemainder data t).1

/-- Canonical symbol m of code t as stored: from the check or data slices, with the wrong symbols laid over. -/
def storedSym (data check : List Byte) (errs : List SymErr) (t m : Nat) : Nat :=
  let b := if m < 2 then check.getD (32 * m + t) 0 else data.getD (32 * (m - 2) + t) 0
  errs.foldl (fun x e => if e.m = m ∧ e.t = t then x ^^^ (e.x % 256) else x) b.toNat

/-- The syndromes S0 and S1 of one code over its ten symbols. -/
def synd (e : Nat → Nat) : Nat × Nat :=
  (List.range 10).foldl (fun a m => (a.1 ^^^ e m, a.2 ^^^ gfAlpha m (e m))) (0, 0)

/-- The syndromes of a granule's 32 codes. -/
def syndromes (data check : List Byte) (errs : List SymErr) : List (Nat × Nat) :=
  (List.range 32).map fun t => synd (storedSym data check errs t)

/-- The verdict of one code (R96): clean, a located position, or a failure. -/
inductive Verdict where
  | clean | locates (m : Nat) | fails
  deriving DecidableEq, Repr

def verdictOf : Nat × Nat → Verdict
  | (0, 0) => .clean
  | (s0, s1) =>
    if s0 = 0 ∨ s1 = 0 then .fails
    else match (List.range 10).find? fun m => gfAlpha m s0 == s1 with
      | some m => .locates m
      | none => .fails

/-- The outcome of a granule decode: clean, corrected at a canonical position by the symbols then added, or
uncorrectable. -/
inductive Decoded where
  | clean
  | corrected (m : Nat) (fix : List SymErr)
  | uncorrectable
  deriving DecidableEq, Repr

/-- What is added to slice m so that S0 of every code becomes 0. -/
def sliceFix (ss : List (Nat × Nat)) (m : Nat) : List SymErr :=
  ss.zipIdx.filterMap fun p => if p.1.1 = 0 then none else some ⟨m, p.2, p.1.1⟩

/-- Decoding by R96, from the syndromes of the 32 codes. -/
def decode96 (ss : List (Nat × Nat)) : Decoded :=
  let vs := ss.map verdictOf
  match vs.find? (· != .clean) with
  | none => .clean
  | some (.locates m) => if vs.all fun v => v == .clean || v == .locates m then .corrected m (sliceFix ss m) else .uncorrectable
  | _ => .uncorrectable

/-- Erasure decoding of a granule with its slice at canonical position m on the marked die (R97): with S0 made 0 at m, S1 is
what was S1 less α^m S0. -/
def decode97 (ss : List (Nat × Nat)) (m : Nat) : Decoded :=
  if ss.all fun p => p.2 == gfAlpha m p.1 then .corrected m (sliceFix ss m) else .uncorrectable

/-- The decode of a granule of a stack, by R97 where a marked die holds one of its slices and by R96 elsewhere. -/
def decodeGran (marked : Option Nat) (g : Nat) (ss : List (Nat × Nat)) : Decoded :=
  match marked.bind (symOnDie g) with
  | some m => decode97 ss m
  | none => decode96 ss

/-- The data bytes of a granule with wrong symbols laid over them; check slices hold no data. -/
def withErrs (data : List Byte) (errs : List SymErr) : List Byte :=
  errs.foldl (fun d e => if e.m < 2 then d else modifyAt d (32 * (e.m - 2) + e.t) (· ^^^ BitVec.ofNat 8 e.x)) data

/-! ### HBM granules (R99 to R105) -/

def State.stack (s : State) (k : Nat) : Stack := s.hbms.getD k {}
def State.setStack (s : State) (k : Nat) (f : Stack → Stack) : State := { s with hbms := modifyAt s.hbms k f }
def State.fen (s : State) (d : Nat) : FenDie := s.fens.getD d {}
def State.setFen (s : State) (d : Nat) (f : FenDie → FenDie) : State := { s with fens := modifyAt s.fens d f }
def State.die (s : State) (d : Nat) : DieState := s.dies.getD d {}
def State.setDie (s : State) (d : Nat) (f : DieState → DieState) : State := { s with dies := modifyAt s.dies d f }
def State.tile (s : State) (t : Nat) : TileState := s.tiles.getD t {}
def State.setTile (s : State) (t : Nat) (f : TileState → TileState) : State := { s with tiles := modifyAt s.tiles t f }

/-- An unlisted granule is UNWRITTEN. -/
def granDefault (_ : Nat) : Gran := {}

/-- A granule by its number over the whole part: stack-view address / 256. -/
def State.granule (s : State) (gk : Nat) : Gran := cellsGet granDefault gk s.gran
def State.setGranule (s : State) (gk : Nat) (g : Gran) : State := { s with gran := cellsSet granDefault gk g s.gran }

/-- A granule's number over the whole part, and its number within its stack. -/
def granKey (stack g : Nat) : Nat := hbmKey stack 0 / 256 + g

/-- A core die's correctable events of this pass counted; a count that reaches MARK_THRESH leads firmware to mark the die
(R98), but for the die that is already marked. -/
def chargeDie (s : State) (stack die : Nat) : State :=
  let n := Nat.min 0xFFFF ((s.stack stack).dieCe.getD die 0 + 1)
  let due := decide (s.rfld (pgHbmc stack + 0x448) 15 0 ≤ n) && !((s.stack stack).reached.contains die)
    && (s.stack stack).marked != some die
  s.setStack stack fun k => { k with
    dieCe := setAt k.dieCe die n
    reached := if due then k.reached ++ [die] else k.reached
    markDue := if due then k.markDue ++ [(die, s.tick)] else k.markDue }

/-- A correctable event of a granule (R105): PG_ERR_CE and the bucket, HBMC.DIE_CE of the die charged, and LAST_CE. -/
def granCE (s : State) (stack g m : Nat) (scrub : Bool) : State :=
  let die := dieOfSym g m
  let s := chargeDie (countCE s (pgHbmc stack)) stack die
  firstEvent s (pgHbmc stack) 0x450 (b2n scrub * 2 ^ 62 + die * 2 ^ 48 + g)

/-- An uncorrectable event of a granule (R105): PG_ERR_UE and LAST_UE. -/
def granUE (s : State) (stack g : Nat) (scrub fillmap rmw : Bool) : State :=
  firstEvent (countUE s (pgHbmc stack)) (pgHbmc stack) 0x458
    (b2n scrub * 2 ^ 62 + b2n fillmap * 2 ^ 61 + b2n rmw * 2 ^ 60 + g)

/-- A fill-map word by its number over the whole part; an unlisted word is good. -/
def wordDefault (_ : Nat) : WordBits := .good
def State.fillBits (s : State) (w : Nat) : WordBits := cellsGet wordDefault w s.fillWords
def State.setFillBits (s : State) (w : Nat) (b : WordBits) : State := { s with fillWords := cellsSet wordDefault w b s.fillWords }

/-- The check of the fill-map word of a granule, made at every access to one of its granules and by patrol scrub (R103): a
correction is written back and counted; a failure poisons all 32 granules of the word and is recorded with FILLMAP, and the
answer is then true. LAST_UE.RMW is left 0 for a failure that a partial write finds (log 77, DESIGN CHOICE). -/
def fillWord (s : State) (stack g : Nat) (scrub : Bool) : State × Bool :=
  let w := granKey stack g / 32
  match s.fillBits w with
  | .good => (s, false)
  | .one => (countCE (s.setFillBits w .good) (pgHbmc stack), false)
  | .two =>
    let s := (List.range 32).foldl (fun s i => s.setGranule (32 * w + i) { fill := .poisoned }) (s.setFillBits w .good)
    (granUE s stack (g / 32 * 32) scrub true false, true)

/-- A wrong symbol newly struck in a granule's slices joins those it holds; only a WRITTEN granule has slices that are read. -/
def strikeSym (stack : Nat) (s : State) (p : Nat × SymErr) : State :=
  let gr := s.granule (granKey stack p.1)
  if gr.fill = .written ∧ p.1 < 213909504 then s.setGranule (granKey stack p.1) { gr with errs := gr.errs ++ [p.2] } else s

/-- A bit, or two, newly struck in a fill-map word of a stack. -/
def strikeWord (stack : Nat) (s : State) (p : Nat × Bool) : State :=
  let w := granKey stack 0 / 32 + p.1
  if p.1 < 6684672 then s.setFillBits w (if p.2 || s.fillBits w != .good then .two else .one) else s

/-- What has struck a stack takes its place; ODECC_CE and ODECC_UE count what the stack's on-die ECC reports (R106). -/
def strike (s : State) (stack : Nat) (h : HbmHits) : State :=
  let s := h.words.foldl (strikeWord stack) (h.syms.foldl (strikeSym stack) s)
  let s := if h.odCe = 0 then s else bump s (pgHbmc stack + 0x460) h.odCe
  if h.odUe = 0 then s else bump s (pgHbmc stack + 0x468) h.odUe

/-- Reading a granule (R96, R97, R99): its 256 bytes, or why there are none. A granule found UNCORRECTABLE becomes
POISONED. -/
def granData (s : State) (stack g : Nat) (scrub rmw : Bool) : State × Except MemErr (List Byte) :=
  let gr := s.granule (granKey stack g)
  match gr.fill with
  | .unwritten => (s, .ok (List.replicate 256 0))
  | .poisoned => (s, .error .poison)
  | .written =>
    let data := memBytes s.mem (hbmKey stack (256 * g)) 256
    match decodeGran (s.stack stack).marked g (syndromes data gr.check gr.errs) with
    | .clean => (s, .ok (withErrs data gr.errs))
    | .corrected m fix => (granCE s stack g m scrub, .ok (withErrs data (gr.errs ++ fix)))
    | .uncorrectable =>
      (granUE (s.setGranule (granKey stack g) { fill := .poisoned }) stack g scrub false rmw, .error .uncorrectable)

/-- A read of a granule, its fill-map word checked first (R103). -/
def granRead (s : State) (stack g : Nat) : State × Except MemErr (List Byte) :=
  match fillWord s stack g false with
  | (s, true) => (s, .error .uncorrectable)
  | (s, false) => granData s stack g false false

/-- Encoding and writing all ten slices of a granule (R99): it is WRITTEN, or POISONED by data that carries poison. -/
def granStore (s : State) (stack g : Nat) (data : List Byte) (poison : Bool) : State :=
  if poison then s.setGranule (granKey stack g) { fill := .poisoned }
  else { s.setGranule (granKey stack g) { fill := .written, check := sedgeCheck data } with mem := memPut s.mem (hbmKey stack (256 * g)) data }

/-- A partial write within a granule at byte b (R99, R101): merged with zeros where UNWRITTEN, a read-modify-write where
WRITTEN, not applied where POISONED or where its read half is UNCORRECTABLE. -/
def granPatch (s : State) (stack g b : Nat) (data : List Byte) (poison : Bool) : State × Option MemErr :=
  match (s.granule (granKey stack g)).fill with
  | .unwritten =>
    let s := bump s (pgHbmc stack + 0x478) 1
    (granStore s stack g (overlay (List.replicate 256 0) b data) poison, none)
  | .poisoned => (s, some .poison)
  | .written =>
    let s := bump s (pgHbmc stack + 0x470) 1
    match granData s stack g false true with
    | (s, .ok old) => (granStore s stack g (overlay old b data) poison, none)
    | (s, .error e) => (s, some e)

/-- A write at byte b of a granule, its fill-map word checked first (R99, R103): a full-granule write is applied whatever the
check finds, and a partial write is not applied where the word fails. -/
def granWrite (s : State) (stack g b : Nat) (data : List Byte) (poison : Bool) : State × Option MemErr :=
  match fillWord s stack g false with
  | (s, failed) =>
    if b = 0 ∧ data.length = 256 then (granStore s stack g data poison, none)
    else if failed then (s, some .uncorrectable)
    else granPatch s stack g b data poison

/-- A granule set UNWRITTEN by DISCARD, its fill-map word checked first (R102, R103). -/
def granDiscard (s : State) (stack g : Nat) : State :=
  let s := bump (fillWord s stack g false).1 (pgHbmc stack + 0x480) 1
  { s.setGranule (granKey stack g) {} with mem := memPut s.mem (hbmKey stack (256 * g)) (List.replicate 256 0) }

/-! ### Fen lines (R110 to R114) -/

def fenLineDefault (_ : Nat) : FenLine := .good

/-- A Fen line by its number over the whole part: address / 64. -/
def State.fenLine (s : State) (lk : Nat) : FenLine := cellsGet fenLineDefault lk s.fenLines
def State.setFenLine (s : State) (lk : Nat) (l : FenLine) : State := { s with fenLines := cellsSet fenLineDefault lk l s.fenLines }

/-- The physical layer that serves a line of a die: logical layer (F >> 8) mod 4 by LAYER_MAP (R110, R119). -/
def fenPhys (s : State) (d line : Nat) : Nat := (s.fen d).layers.getD (line * 64 / 256 % 4) 0

/-- A line of a die meets newly bad symbols. -/
def fenStrike (s : State) (d line : Nat) : LineErr → State
  | .clean => s
  | .oneSymbol =>
    match s.fenLine (fenKey d 0 / 64 + line) with
    | .good => s.setFenLine (fenKey d 0 / 64 + line) .oneBad
    | .oneBad => s.setFenLine (fenKey d 0 / 64 + line) .twoBad
    | _ => s
  | .twoSymbols =>
    match s.fenLine (fenKey d 0 / 64 + line) with
    | .poisoned => s
    | _ => s.setFenLine (fenKey d 0 / 64 + line) .twoBad

/-- A corrected line (R494, R503): PG_ERR_CE, the bucket and LAYER_CE of its physical layer. -/
def fenCE (s : State) (d line : Nat) : State :=
  let p := fenPhys s d line
  bumpSat (countCE (s.setFen d fun f => { f with passCe := modifyAt f.passCe p (· + 1) }) (pgFen d)) (pgFen d + 0x418) (12 * p) 12 1

/-- An hour and a day, in Moss ticks. -/
def hourTicks : Nat := 3600 * 25000000
def dayTicks : Nat := 24 * hourTicks

/-- An uncorrectable line of a physical layer, as the MC remembers it (R503). -/
def noteLayer (s : State) (d line : Nat) : State :=
  let p := fenPhys s d line
  s.setFen d fun f => { f with ueAt := (p, s.tick) :: f.ueAt.filter fun e => decide (s.tick < e.2 + dayTicks) }

/-- A line found uncorrectable (R111, R494): PG_ERR_UE, LAST_UE, and the poison check pattern written. -/
def fenUE (s : State) (d line : Nat) : State :=
  let s := noteLayer (s.setFenLine (fenKey d 0 / 64 + line) .poisoned) d line
  firstEvent (countUE s (pgFen d)) (pgFen d) 0x420 (fenPhys s d line * 2 ^ 28 + line)

/-- The check of a line that is read: none when its data may be used. -/
def fenCheck (s : State) (d line : Nat) : State × Option MemErr :=
  match s.fenLine (fenKey d 0 / 64 + line) with
  | .good => (s, none)
  | .oneBad => (fenCE s d line, none)
  | .twoBad => (fenUE s d line, some .uncorrectable)
  | .poisoned => (s, some .poison)

/-- A write within a line at byte b (R111): a whole line is written outright and clears poison; part of a line costs an
extra line read and is not applied to a line that has no data. -/
def fenPatch (s : State) (d line b : Nat) (data : List Byte) (poison : Bool) : State × Option MemErr :=
  let lk := fenKey d 0 / 64 + line
  if b = 0 ∧ data.length = 64 then
    if poison then (s.setFenLine lk .poisoned, none)
    else ({ s.setFenLine lk .good with mem := memPut s.mem (lk * 64) data }, none)
  else
    let s := bump s (pgFen d + 0x430) 1
    match fenCheck s d line with
    | (s, some e) => (s, some e)
    | (s, none) =>
      if poison then (s.setFenLine lk .poisoned, none)
      else ({ s.setFenLine lk .good with mem := memPut s.mem (lk * 64 + b) data }, none)

/-! ### Reads and writes of device memory -/

/-- Is a die powered, and not cut off from the I/O die (R18, R357)? -/
def dieServes (s : State) (d : Nat) : Bool := (s.die d).power ≠ .off && !(s.cutOff.contains d)

/-- Does a stack serve accesses (R18, R108), and a die its Fen memory (R112)? -/
def stackServes (s : State) (k : Nat) : Bool := dieServes s (k / 3) && (s.stack k).trained && !(s.stack k).absent

def fenServes (s : State) (d : Nat) : Bool := dieServes s d && (s.fen d).sweepDone

/-! ### Host cores and their caches (R453 to R458) -/

/-- Enabled cores, lowest first; the first four are the dispatcher's and the fifth is the boot hart (R458). -/
def enabledCores (s : State) : List Nat := (List.range 34).filter (bitOf s.fuses.repair.coreEn)
def dispCores (s : State) : List Nat := (enabledCores s).take 4
def coreMask (l : List Nat) : Nat := l.foldl (fun a c => a + 2 ^ c) 0

/-- A sector of the system cache by its number; one that holds no line is not listed. -/
def State.sector (s : State) (ix : Nat) : CacheSector := (s.host.cache.find? (·.ix == ix)).getD { ix := ix }
def State.putSector (s : State) (x : CacheSector) : State :=
  { s with host := { s.host with cache := s.host.cache.filter (·.ix != x.ix) ++ if x.held = [] then [] else [x] } }

/-- The lines of a sector that n bytes from byte o touch, and whether they cover a line. -/
def linesOf (o n : Nat) : List Nat := (List.range 4).filter fun l => decide (o < 64 * l + 64 ∧ 64 * l < o + n)
def covers (o n l : Nat) : Bool := decide (o ≤ 64 * l ∧ 64 * l + 64 ≤ o + n)

/-- One line's bytes of a sector. -/
def CacheSector.line (x : CacheSector) (l : Nat) : List Byte := (x.data.drop (64 * l)).take 64

/-- A sector's dirty lines are written back (R456): a whole sector as one full-granule write, otherwise each dirty line as a
partial write; Fen lines one at a time. What a write-back meets is reported to no one (log 91, DESIGN CHOICE). -/
def cleanSector (s : State) (x : CacheSector) : State :=
  let s := s.putSector { x with dirty := [] }
  if x.dirty = [] then s
  else match placeOf (256 * x.ix) with
    | .hbm k o =>
      if !(stackServes s k) then s
      else if x.held.length = 4 then (granWrite s k (o / 256) 0 x.data false).1
      else x.dirty.foldl (fun s l => (granWrite s k (o / 256) (64 * l) (x.line l) false).1) s
    | .fen d o =>
      if !(fenServes s d) then s else x.dirty.foldl (fun s l => (fenPatch s d (o / 64 + l) 0 (x.line l) false).1) s
    | _ => s

/-- A sector evicted. -/
def evictSector (s : State) (ix : Nat) : State := (cleanSector s (s.sector ix)).putSector { ix := ix }

/-- Beyond the 48 MiB that the offered cores share, some sector is evicted, a free one (R453, R456). -/
def cacheRoom (s : State) : State :=
  if ((s.host.cache.map (·.held.length)).sum) ≤ 786432 then s
  else match takeFreeBits s 32 with
    | (s, n) => match s.host.cache[n % s.host.cache.length]? with
      | some x => evictSector s x.ix
      | none => s

/-- Lines that a sector does not hold, brought in from memory. -/
def fillSector (s : State) (x : CacheSector) (need : List Nat) : State × Except MemErr CacheSector :=
  let put (bs : List Byte) (x : CacheSector) (l : Nat) : CacheSector :=
    { x with held := insertNew l x.held, data := overlay x.data (64 * l) bs }
  match need, placeOf (256 * x.ix) with
  | [], _ => (s, .ok x)
  | _, .hbm k o => match granRead s k (o / 256) with
    | (s, .ok bs) => (s, .ok (need.foldl (fun x l => put ((bs.drop (64 * l)).take 64) x l) x))
    | (s, .error e) => (s, .error e)
  | _, .fen d o => need.foldl (fun r l => match r.2 with
    | .error e => (r.1, .error e)
    | .ok x => match fenCheck r.1 d (o / 64 + l) with
      | (s, none) => (s, .ok (put (memBytes s.mem (256 * x.ix + 64 * l) 64) x l))
      | (s, some e) => (s, .error e)) (s, .ok x)
  | _, _ => (s, .error .bounds)

/-- A host core's load of lines of a sector: its 256 bytes, of which those lines are valid. -/
def hostLoad (s : State) (ix : Nat) (lines : List Nat) : State × Except MemErr (List Byte) :=
  let x := s.sector ix
  match fillSector s x (lines.filter fun l => !(x.held.contains l)) with
  | (s, .ok x) => (s.putSector x, .ok x.data)
  | (s, .error e) => (s, .error e)

/-- A host core's store at byte o of a sector: its lines are dirty, and one that it covers in part is first brought in. Poisoned
lines are dropped (R496). -/
def hostStore (s : State) (ix o : Nat) (data : List Byte) (poison : Bool) : State × Option MemErr :=
  let x := s.sector ix
  let t := linesOf o data.length
  if poison then (s.putSector { x with
      held := x.held.filter fun l => !(t.contains l)
      dirty := x.dirty.filter fun l => !(t.contains l) }, none)
  else match fillSector s x (t.filter fun l => !(x.held.contains l) && !(covers o data.length l)) with
    | (s, .ok x) => (s.putSector { x with
        held := t.foldl (fun a l => insertNew l a) x.held
        dirty := t.foldl (fun a l => insertNew l a) x.dirty
        data := overlay x.data o data }, none)
    | (s, .error e) => (s, some e)

/-- An access of a device agent, or of a host core past the cache, to bytes that host caches may hold (R455). It is snooped: dirty
lines it needs are written back first, and a write invalidates the copies of the lines it writes. The presence filter names
exactly the lines held, and HOST.SNOOP_CNT counts the device accesses that it names (log 91, DESIGN CHOICE). -/
def snoop (s : State) (a n : Nat) (write device : Bool) : State :=
  match (memKey a).bind fun key => (s.host.cache.find? (·.ix == key / 256)).map fun x => (key % 256, x) with
  | none => s
  | some (o, x) =>
    let t := linesOf o n
    if x.held.all fun l => !(t.contains l) then s
    else
      let s := if device then bump s (pgHost + 0x440) 1 else s
      let s := if x.dirty.any fun l => t.contains l && !(write && covers o n l) then cleanSector s x else s
      if write then
        let x := s.sector x.ix
        s.putSector { x with
          held := x.held.filter fun l => !(t.contains l)
          dirty := x.dirty.filter fun l => !(t.contains l) }
      else s

/-- Does a host core reach an address through its caches (R454): the interleaved view or Fen memory, not a stack view? -/
def cachedView (a : Nat) : Bool := decide (a < 0x9900000000 ∨ 0x40000000000 ≤ a)

/-! ### Wakes of dies (R395 to R399) -/

/-- A die has work or a wake source (R395 to R397): its idle timer starts again; from MIRE it starts to wake, which
PWR.WAKE_CNT and LAST_WAKE record, and an entry under way is abandoned. A device in MIRE is then IDLE. -/
def wakeDieBy (s : State) (d src : Nat) : State :=
  match (s.die d).power with
  | .mire =>
    let s := s.setDie d fun x => { x with
      power := .waking
      since := s.tick
      lastUse := s.tick
      abandoned := false }
    let s := (bump s (pgPwr + 0x438) 1).setReg (pgPwr + 0x448) (BitVec.ofNat 64 (d * 256 + src))
    if s.power.dev = .mire then { s with power := { s.power with dev := .idle } } else s
  | .entering => s.setDie d fun x => { x with
      power := .waking
      since := s.tick
      lastUse := s.tick
      abandoned := true }
  | _ => s.setDie d fun x => { x with lastUse := s.tick }

/-- An access from outside a die reaches its memory (R397). -/
def touchDie (s : State) (d : Nat) : State := wakeDieBy s d 2

/-- The compute die whose memory holds an address. -/
def dieOfMem (a : Nat) : Option Nat :=
  match placeOf a with
  | .hbm k _ => some (k / 3)
  | .fen d _ => some d
  | _ => none

/-- The dispatcher cores, which wait with HCLK gated while the device is IDLE, run again (R399). -/
def dispatcherWakes (s : State) : State :=
  { s with host := { s.host with wfi := s.host.wfi - (s.host.wfi &&& coreMask (dispCores s)) } }

/-- A write by an agent other than the dispatcher wakes the dispatcher cores; one that wakes a die from MIRE wakes every other die
then in MIRE too (R399). A die still entering MIRE is not in it, and its return wakes no other (log 20, DEDUCED). -/
def wakeForWrite (s : State) (a : Nat) : State :=
  let s := dispatcherWakes s
  if (dieOfMem a).any fun d => (s.die d).power == .mire then
    (List.range 4).foldl (fun s d => if (s.die d).power = .mire then wakeDieBy s d 2 else s) s
  else s

/-- The bytes of one piece that lies within a granule or a line; w is the piece's length. -/
def readPiece (s : State) (a w : Nat) : State × Except MemErr (List Byte) :=
  match placeOf a with
  | .hbm k o =>
    let s := snoop (touchDie s (k / 3)) a w false true
    if stackServes s k then
      match granRead s k (o / 256) with
      | (s, .ok bs) => (s, .ok ((bs.drop (o % 256)).take w))
      | (s, .error e) => (s, .error e)
    else (s, .error .uncorrectable)
  | .fen d o =>
    let s := snoop (touchDie s d) a w false true
    if fenServes s d then
      match fenCheck s d (o / 64) with
      | (s, none) => (s, .ok (memBytes s.mem (fenKey d o) w))
      | (s, some e) => (s, .error e)
    else (s, .error .uncorrectable)
  | _ => (s, .error .bounds)

/-- One piece written. -/
def writePiece (s : State) (a : Nat) (data : List Byte) (poison : Bool) : State × Option MemErr :=
  match placeOf a with
  | .hbm k o =>
    let s := snoop (touchDie s (k / 3)) a data.length true true
    if stackServes s k then
      granWrite s k (o / 256) (o % 256) data poison
    else (s, some .uncorrectable)
  | .fen d o =>
    let s := snoop (touchDie s d) a data.length true true
    if fenServes s d then fenPatch s d (o / 64) (o % 64) data poison
    else (s, some .uncorrectable)
  | _ => (s, some .bounds)

/-- How far an access at an address may go before it leaves its granule or line. -/
def pieceRoom (a : Nat) : Nat :=
  match placeOf a with
  | .fen _ o => 64 - o % 64
  | _ => 256 - a % 256

/-- The pieces of a range: fuel bounds their number. -/
def pieces : Nat → Nat → Nat → List (Nat × Nat)
  | 0, _, _ => []
  | f + 1, a, n => if n = 0 then [] else
      let w := Nat.min n (pieceRoom a)
      (a, w) :: pieces f (a + w) (n - w)

/-- The pieces of n bytes from an address. -/
def piecesOf (a n : Nat) : List (Nat × Nat) := pieces (n / 64 + 2) a n

/-- n bytes of device memory read as a unit of the part reads them; the first piece without data gives the error. -/
def devRead (s : State) (a n : Nat) : State × Except MemErr (List Byte) :=
  (piecesOf a n).foldl (fun r p =>
    match r.2 with
    | .error e => (r.1, .error e)
    | .ok bs => match readPiece r.1 p.1 p.2 with
      | (s, .ok b) => (s, .ok (bs ++ b))
      | (s, .error e) => (s, .error e)) (s, .ok [])

/-- Bytes written to device memory, piece by piece in address order; every piece is tried, and the first that is not
applied gives the error. -/
def devWriteP (s : State) (a : Nat) (data : List Byte) (poison : Bool) : State × Option MemErr :=
  (piecesOf a data.length).foldl (fun r p =>
    match writePiece r.1 p.1 ((data.drop (p.1 - a)).take p.2) poison with
    | (s, e) => (s, match r.2 with | some x => some x | none => e)) (s, none)

/-- Bytes written to device memory. -/
def devWrite (s : State) (a : Nat) (data : List Byte) : State × Option MemErr := devWriteP s a data false

/-- Setting a range to zeros and its granules to UNWRITTEN (R102, R111, R145): the granules wholly inside, and partial
writes of zeros at the ends; in Fen memory, zeros with valid check bits. -/
def discardPiece (s : State) (a w : Nat) : State × Option MemErr :=
  match placeOf a with
  | .hbm k o =>
    let s := snoop (touchDie s (k / 3)) a w true true
    if stackServes s k then
      if o % 256 = 0 ∧ w = 256 then (granDiscard s k (o / 256), none)
      else granWrite s k (o / 256) (o % 256) (List.replicate w 0) false
    else (s, some .uncorrectable)
  | .fen _ _ => writePiece s a (List.replicate w 0) false
  | _ => (s, some .bounds)

/-- A whole range discarded. -/
def devDiscard (s : State) (a n : Nat) : State × Option MemErr :=
  (piecesOf a n).foldl (fun r p =>
    match discardPiece r.1 p.1 p.2 with
    | (s, e) => (s, match r.2 with | some x => some x | none => e)) (s, none)

/-- A 64-bit word read and written little-endian (R4). -/
def read64 (s : State) (a : Nat) : State × Except MemErr Nat :=
  match devRead s a 8 with
  | (s, .ok bs) => (s, .ok (leNat bs))
  | (s, .error e) => (s, .error e)

def write64 (s : State) (a v : Nat) : State × Option MemErr := devWrite s a (natLE 8 v)

/-- What stands in memory, without the checks of an access: for looking at a state, not for a unit of the part. -/
def peek (s : State) (a n : Nat) : List Byte :=
  (List.range n).map fun i => match memKey (a + i) with
    | some k => memGet s.mem k
    | none => 0

end Sys2Proof.Machine
end

