-- ==== Sys2Proof/Machine/Flags.lean ====
section
/-! DEFINITION. Status codes (R58), completion flags (R35), how an operation answers with a status, and the registers that
keep a first failure. -/

namespace Sys2Proof.Machine

/-! ### Status codes (R58) -/
def stDone : Nat := 0x00
def stPartial : Nat := 0x01
def stBadOpcode : Nat := 0x10
def stWrongState : Nat := 0x11
def stLevel : Nat := 0x12
def stBadField : Nat := 0x13
def stBounds : Nat := 0x14
def stNoSpace : Nat := 0x20
def stTruncated : Nat := 0x21
def stOversize : Nat := 0x22
def stCorrupt : Nat := 0x23
def stTimeout : Nat := 0x30
def stStopped : Nat := 0x31
def stUncorrectable : Nat := 0x40
def stPoison : Nat := 0x41
def stDenied : Nat := 0x50
def stPeer : Nat := 0x60

/-! ### Completion flags (R35) -/
def flOverwrite : Nat := 2
def flSubst : Nat := 4
def flCommitted : Nat := 8
def flReplaced : Nat := 16

/-- The status of a memory access that found no data (R495). -/
def MemErr.status : MemErr → Nat
  | .bounds => stBounds
  | .poison => stPoison
  | .uncorrectable => stUncorrectable

/-- What an operation inside a stage answers: a value, or the status and DETAIL[7:0] that the batch completes with. -/
abbrev Res (α : Type) := State × Except (Nat × Nat) α

/-- A value. -/
def ok {α : Type} (s : State) (a : α) : Res α := (s, .ok a)

/-- A failure that concerns no single field (R36). -/
def fail {α : Type} (s : State) (status : Nat) : Res α := (s, .error (status, 0xFF))

/-- A failure at a field. -/
def failAt {α : Type} (s : State) (status off : Nat) : Res α := (s, .error (status, off))

/-- One operation after another; a failure ends both. -/
def andThen {α β : Type} (r : Res α) (f : State → α → Res β) : Res β :=
  match r.2 with
  | .ok a => f r.1 a
  | .error e => (r.1, .error e)

/-- A check that must hold for an operation to go on. -/
def must {β : Type} (s : State) (c : Bool) (status : Nat) (k : State → Res β) : Res β :=
  if c then k s else fail s status

/-- Working through a list with a state, keeping what each step answers. -/
def eachRes {α β : Type} (f : State → α → Res β) : State → List α → Res (List β)
  | s, [] => (s, .ok [])
  | s, a :: t => andThen (f s a) fun s b => andThen (eachRes f s t) fun s bs => ok s (b :: bs)

/-- Bytes of device memory read by a stage. -/
def readMem (s : State) (a n : Nat) : Res (List Byte) :=
  match devRead s a n with
  | (s, .ok bs) => (s, .ok bs)
  | (s, .error e) => fail s e.status

/-- A failing batch, stream, stage and operator as the LAST_ERR registers hold them (R221, R282, R300, R331, R348). -/
def errWord (status stream stage op : Nat) : Nat :=
  status % 256 * 2 ^ 48 + stream % 1024 * 2 ^ 32 + stage % 64 * 2 ^ 16 + op % 65536

/-- Records a first failure in a page's LAST_ERR register. -/
def noteErr (s : State) (page off status stream stage op : Nat) : State :=
  firstEvent s page off (errWord status stream stage op)

/-! ### Numbered failures of a record or plan (R36, R48) -/

/-- A failed check: its status, the stage's index plus 1 (0 for the command record), and the offset of the field. -/
structure Fail where
  status : Nat
  stage : Nat := 0
  off : Nat := 0xFF
  deriving DecidableEq, Repr

/-- The order of the checks (R48, R533; NO_SPACE and PEER come after them). -/
def Fail.rank (f : Fail) : Nat :=
  if f.status = stBadOpcode then 1
  else if f.status = stBadField then 2
  else if f.status = stLevel then 3
  else if f.status = stDenied then 4
  else if f.status = stBounds then 5
  else if f.status = stPoison ∨ f.status = stUncorrectable then 6
  else if f.status = stWrongState then 7
  else if f.status = stNoSpace then 8
  else 9

/-- One failure comes before another: by check, then by stage, then by offset. -/
def Fail.before (a b : Fail) : Bool :=
  a.rank < b.rank || (a.rank == b.rank && (a.stage < b.stage || (a.stage == b.stage && a.off ≤ b.off)))

/-- The failure that is reported. -/
def pickFail (l : List Fail) : Option Fail :=
  l.foldl (fun m f => match m with | none => some f | some g => if g.before f then some g else some f) none

/-- A check that fails with a status at an offset. -/
def failIf (c : Bool) (status off : Nat) : List Fail := if c then [{ status := status, off := off }] else []

/-- DETAIL of a completion (R36). -/
def Fail.detail (f : Fail) : Nat := f.stage * 256 + f.off

/-! ### Addresses (R44) -/

/-- The session slot table (R25). -/
def slotTable : Nat := 0x40000000000
def inSlotTable (a n : Nat) : Bool := decide (a < slotTable + 0x8000) && decide (slotTable < a + n)

/-- A range within one place that remote paths and the device may name: the backed interleaved view, the backed part of
one stack view, or the Fen memory of one die. -/
def inRemote (a n : Nat) : Bool :=
  if a + n ≤ 0x9900000000 then true
  else if 0x10000000000 ≤ a ∧ a < 0x10000000000 + 12 * 0x1000000000 then
    decide ((a - 0x10000000000) % 0x1000000000 + n ≤ stackBytes)
  else if 0x40000000000 ≤ a ∧ a < 0x40000000000 + 4 * 0x200000000 then
    decide ((a - 0x40000000000) % 0x200000000 + n ≤ 0x200000000)
  else false

/-- A range that a record, stage or descriptor may name (R44): no part of the slot table. -/
def inR44 (a n : Nat) : Bool := inRemote a (max n 1) && !inSlotTable a (max n 1)

/-- A range in Fen memory. -/
def inFen (a n : Nat) : Bool := decide (0x40000000000 ≤ a) && decide (a < 0x40000000000 + 4 * 0x200000000) && inR44 a n

/-- A ring lies in Fen memory or the interleaved view (R28). -/
def inRingPlace (a n : Nat) : Bool := inR44 a n && (decide (a + n ≤ 0x9900000000) || decide (0x40000000000 ≤ a))

end Sys2Proof.Machine
end

