-- ==== Sys2Proof/Machine/Flt.lean ====
section
/-! DEFINITION. Floating values: the scalar formats (R246, R247), correctly rounded arithmetic, and the real functions
whose results are bounded but not fixed (R263). -/

namespace Sys2Proof.Machine

/-- A floating value: NaN, an infinity, or (-1)^neg · man · 2^exp. -/
inductive FV where
  | nan
  | inf (neg : Bool)
  | fin (neg : Bool) (man : Nat) (exp : Int)
  deriving DecidableEq, Repr

/-- A scalar format: its number, exponent and mantissa widths, bias, and what its top exponent means:
0 infinity and NaN by IEEE 754, 1 NaN only in the code of all ones (FP8 E4M3), 2 finite throughout. -/
structure Fmt where
  code : Nat
  ew : Nat
  mw : Nat
  bias : Nat
  top : Nat
  deriving DecidableEq, Repr

def fp16 : Fmt := ⟨0x0A, 5, 10, 15, 0⟩
def bf16 : Fmt := ⟨0x0B, 8, 7, 127, 0⟩
def fp32 : Fmt := ⟨0x0C, 8, 23, 127, 0⟩
def fp64 : Fmt := ⟨0x0D, 11, 52, 1023, 0⟩
def e4m3 : Fmt := ⟨0x10, 4, 3, 7, 1⟩
def e5m2 : Fmt := ⟨0x11, 5, 2, 15, 0⟩
def e2m1 : Fmt := ⟨0x13, 2, 1, 1, 2⟩
def e3m2 : Fmt := ⟨0x16, 3, 2, 3, 2⟩
def e2m3 : Fmt := ⟨0x17, 2, 3, 1, 2⟩

/-- Width in bits. -/
def Fmt.width (f : Fmt) : Nat := 1 + f.ew + f.mw

/-- The exponent of one unit in the last place of a subnormal. -/
def Fmt.qmin (f : Fmt) : Int := 1 - (f.bias : Int) - (f.mw : Int)

/-- The value of a code (R246, R247). -/
def Fmt.dec (f : Fmt) (b : Nat) : FV :=
  let neg := bitOf b (f.ew + f.mw)
  let e := bitsOf b (f.ew + f.mw - 1) f.mw
  let m := b % 2 ^ f.mw
  let isTop := e == 2 ^ f.ew - 1
  if isTop && f.top == 0 then (if m = 0 then .inf neg else .nan)
  else if isTop && f.top == 1 && m == 2 ^ f.mw - 1 then .nan
  else if e = 0 then .fin neg m f.qmin
  else .fin neg (2 ^ f.mw + m) ((e : Int) - f.bias - f.mw)

/-- The largest finite code without its sign. -/
def Fmt.maxCode (f : Fmt) : Nat :=
  match f.top with
  | 0 => (2 ^ f.ew - 1) * 2 ^ f.mw - 1
  | 1 => 2 ^ (f.ew + f.mw) - 2
  | _ => 2 ^ (f.ew + f.mw) - 1

/-- Which NaN code is written where the manual fixes none (log 4, DESIGN CHOICE). -/
def Fmt.nan (f : Fmt) : Nat :=
  match f.top with
  | 1 => 2 ^ (f.ew + f.mw) - 1
  | _ => (2 ^ f.ew - 1) * 2 ^ f.mw + 1 + Config.freeReal 0 f.code 0 % (2 ^ f.mw - 1)

/-- The bit length of a number. -/
def bitLen (n : Nat) : Nat := if n = 0 then 0 else Nat.log2 n + 1

/-- Scaling man · 2^exp to a multiple of 2^q: the floor, and the remainder over 2^s as (remainder, s). -/
def floorAt (man : Nat) (exp q : Int) : Nat × Nat × Nat :=
  if q ≤ exp then (man * 2 ^ (exp - q).toNat, 0, 0)
  else let s := (q - exp).toNat
    (man / 2 ^ s, man % 2 ^ s, s)

/-- The exponent of the unit in the last place that a finite magnitude takes in a format. -/
def Fmt.ulp (f : Fmt) (man : Nat) (exp : Int) : Int :=
  max f.qmin ((bitLen man : Int) + exp - 1 - f.mw)

/-- The magnitude code of n units of 2^q in a format, n at most 2^(mw+1); none past the finite range. -/
def Fmt.pack (f : Fmt) (n : Nat) (q : Int) : Option Nat :=
  let c := if n < 2 ^ f.mw then n
    else if n < 2 ^ (f.mw + 1) then (q - f.qmin + 1).toNat * 2 ^ f.mw + (n - 2 ^ f.mw)
    else (q - f.qmin + 2).toNat * 2 ^ f.mw + (n / 2 - 2 ^ f.mw)
  if c ≤ f.maxCode then some c else none

/-- The magnitude below or at a finite value, as a code; none past the finite range. -/
def Fmt.down (f : Fmt) (man : Nat) (exp : Int) : Option Nat :=
  let q := f.ulp man exp
  f.pack (floorAt man exp q).1 q

/-- Rounding a magnitude to nearest, ties to even; none past the finite range. -/
def Fmt.near (f : Fmt) (man : Nat) (exp : Int) : Option Nat :=
  let q := f.ulp man exp
  let (n, r, s) := floorAt man exp q
  let up := if s = 0 then false else if 2 ^ (s - 1) < r then true else if r = 2 ^ (s - 1) then n % 2 == 1 else false
  f.pack (if up then n + 1 else n) q

/-- The sign bit of a format. -/
def Fmt.signBit (f : Fmt) (neg : Bool) : Nat := b2n neg * 2 ^ (f.ew + f.mw)

/-- An infinity, or the largest finite value of a format without one. -/
def Fmt.infCode (f : Fmt) (neg : Bool) : Nat :=
  f.signBit neg + (if f.top = 0 then (2 ^ f.ew - 1) * 2 ^ f.mw else f.maxCode)

/-- Rounding a value to a format, nearest even; past the finite range an infinity of its sign (R135). -/
def Fmt.enc (f : Fmt) : FV → Nat
  | .nan => f.nan
  | .inf n => f.infCode n
  | .fin neg man exp => match f.near man exp with
    | some c => f.signBit neg + c
    | none => f.infCode neg

/-- Conversion of a code from one format to another. -/
def fcvt (a b : Fmt) (x : Nat) : Nat := b.enc (a.dec x)

/-! ### Exact arithmetic on values -/

def FV.neg : FV → FV
  | .nan => .nan
  | .inf n => .inf (!n)
  | .fin n m e => .fin (!n) m e

def FV.abs : FV → FV
  | .nan => .nan
  | .inf _ => .inf false
  | .fin _ m e => .fin false m e

def FV.isNan : FV → Bool
  | .nan => true
  | _ => false

def FV.isInf : FV → Bool
  | .inf _ => true
  | _ => false

def FV.isFin : FV → Bool
  | .fin _ _ _ => true
  | _ => false

def FV.isZero : FV → Bool
  | .fin _ m _ => m == 0
  | _ => false

def FV.isNeg : FV → Bool
  | .inf n => n
  | .fin n _ _ => n
  | .nan => false

/-- A signed magnitude as an integer. -/
def smag (neg : Bool) (m : Nat) : Int := if neg then -(m : Int) else m

/-- An integer multiple of a power of two as a value; zero is positive. -/
def FV.ofScaled (i : Int) (e : Int) : FV := .fin (decide (i < 0)) i.natAbs e

/-- An integer as a value. -/
def FV.ofInt (i : Int) : FV := FV.ofScaled i 0

/-- The exact sum; opposite values give +0 (IEEE 754, nearest even). -/
def FV.add : FV → FV → FV
  | .nan, _ => .nan
  | _, .nan => .nan
  | .inf a, .inf b => if a = b then .inf a else .nan
  | .inf a, _ => .inf a
  | _, .inf b => .inf b
  | .fin a m e, .fin b n g =>
    if m = 0 ∧ n = 0 then .fin (a && b) 0 0
    else
      let q := min e g
      FV.ofScaled (smag a m * (2 : Int) ^ (e - q).toNat + smag b n * (2 : Int) ^ (g - q).toNat) q

/-- The exact product. -/
def FV.mul : FV → FV → FV
  | .nan, _ => .nan
  | _, .nan => .nan
  | .inf a, .inf b => .inf (a != b)
  | .inf a, .fin b n _ => if n = 0 then .nan else .inf (a != b)
  | .fin a m _, .inf b => if m = 0 then .nan else .inf (a != b)
  | .fin a m e, .fin b n g => .fin (a != b) (m * n) (e + g)

/-- Enough guard bits for one rounding to any format. -/
def guardBits : Nat := 80

/-- A quotient that rounds as the exact one does: its floor with guard bits and a sticky bit. -/
def FV.div : FV → FV → FV
  | .nan, _ => .nan
  | _, .nan => .nan
  | .inf _, .inf _ => .nan
  | .inf a, .fin b _ _ => .inf (a != b)
  | .fin a _ _, .inf b => .fin (a != b) 0 0
  | .fin a m e, .fin b n g =>
    if n = 0 then (if m = 0 then .nan else .inf (a != b))
    else
      let k := guardBits + bitLen n
      let q := m * 2 ^ k / n
      let st := if m * 2 ^ k % n = 0 then 0 else 1
      .fin (a != b) (2 * q + st) (e - g - k - 1)

/-- Integer square root by bits: fuel counts the bits still to try. -/
def isqrt : Nat → Nat → Nat → Nat
  | 0, _, r => r
  | k + 1, n, r => let t := r + 2 ^ k
    if t * t ≤ n then isqrt k n t else isqrt k n r

/-- The floor of a square root. -/
def sqrtN (n : Nat) : Nat := isqrt (bitLen n / 2 + 1) n 0

/-- A square root that rounds as the exact one does. -/
def FV.sqrt : FV → FV
  | .nan => .nan
  | .inf n => if n then .nan else .inf false
  | .fin neg m e =>
    if m = 0 then .fin neg 0 0
    else if neg then .nan
    else
      let e' := if e % 2 = 0 then e else e - 1
      let m' := if e % 2 = 0 then m else 2 * m
      let n := m' * 2 ^ (2 * guardBits)
      let r := sqrtN n
      .fin false (2 * r + (if r * r = n then 0 else 1)) (e' / 2 - guardBits - 1)

/-- Less than, on values that are not NaN. -/
def FV.lt : FV → FV → Bool
  | .nan, _ => false
  | _, .nan => false
  | .inf a, .inf b => a && !b
  | .inf a, .fin _ _ _ => a
  | .fin _ _ _, .inf b => !b
  | .fin a m e, .fin b n g =>
    let q := min e g
    decide (smag a m * (2 : Int) ^ (e - q).toNat < smag b n * (2 : Int) ^ (g - q).toNat)

/-- Equality of value: -0 equals +0, and NaN equals nothing. -/
def FV.eq : FV → FV → Bool
  | .nan, _ => false
  | _, .nan => false
  | x, y => !(x.lt y) && !(y.lt x)

def FV.le (x y : FV) : Bool := x.lt y || x.eq y

/-- The greater; NaN if either is NaN. -/
def FV.max (x y : FV) : FV := if x.isNan || y.isNan then .nan else if x.lt y then y else x
def FV.min (x y : FV) : FV := if x.isNan || y.isNan then .nan else if y.lt x then y else x

/-- Rounding to an integer: truncation toward zero, or nearest even; none for NaN, and none for an infinity. -/
def FV.toInt (nearest : Bool) : FV → Option Int
  | .fin neg m e =>
    let (n, r, s) := floorAt m e 0
    let up := nearest && s ≠ 0 && (decide (2 ^ (s - 1) < r) || (r == 2 ^ (s - 1) && n % 2 == 1))
    some (smag neg (if up then n + 1 else n))
  | _ => none

/-- The floor of a finite value. -/
def FV.floor : FV → Int
  | .fin neg m e => let (n, r, _) := floorAt m e 0
    if neg then -((n : Int) + (if r = 0 then 0 else 1)) else n
  | _ => 0

/-! ### Rounded arithmetic on codes -/

def fadd (f : Fmt) (x y : Nat) : Nat := f.enc ((f.dec x).add (f.dec y))
def fsub (f : Fmt) (x y : Nat) : Nat := f.enc ((f.dec x).add (f.dec y).neg)
def fmul (f : Fmt) (x y : Nat) : Nat := f.enc ((f.dec x).mul (f.dec y))
def fdiv (f : Fmt) (x y : Nat) : Nat := f.enc ((f.dec x).div (f.dec y))
def fsqrt (f : Fmt) (x : Nat) : Nat := f.enc (f.dec x).sqrt

/-- One in FP32, and zero. -/
def one32 : Nat := 0x3F800000

/-! ### Sums whose order is not fixed (R21, R256, R280) -/

/-- A sum in an order that free numbers choose, one accumulator, each addition rounded. -/
def sumSeq (f : Fmt) (fr : Nat → Nat) : Nat → Nat → List Nat → Nat
  | 0, acc, _ => acc
  | k + 1, acc, l =>
    if l = [] then acc
    else let i := fr k % l.length
      sumSeq f fr k (fadd f acc (l.getD i 0)) (l.eraseIdx i)

def sumAcc (f : Fmt) (fr : Nat → Nat) (l : List Nat) : Nat := sumSeq f fr l.length 0 l

/-- A sum as a tree that free numbers choose: two terms at a time are replaced by their rounded sum. -/
def sumTree (f : Fmt) (fr : Nat → Nat) : Nat → List Nat → Nat
  | 0, l => l.headD 0
  | k + 1, l =>
    if l.length ≤ 1 then l.headD 0
    else
      let i := fr (2 * k) % l.length
      let a := l.getD i 0
      let l := l.eraseIdx i
      let j := fr (2 * k + 1) % l.length
      sumTree f fr k (fadd f a (l.getD j 0) :: l.eraseIdx j)

def sumAny (f : Fmt) (fr : Nat → Nat) (l : List Nat) : Nat := sumTree f fr l.length l

/-! ### Real functions to many bits (R263) -/

/-- Working precision in bits, beyond the least subnormal of binary64. -/
def rp : Nat := 1400
def rOne : Int := 2 ^ rp

/-- A value as a fixed-point number; infinities and values beyond 4096 stand at the ends of that range. -/
def toFix : FV → Int
  | .fin neg m e =>
    if 12 < (bitLen m : Int) + e then (if neg then -4096 else 4096) * rOne
    else smag neg (floorAt m e (-(rp : Int))).1
  | .inf neg => (if neg then -4096 else 4096) * rOne
  | .nan => 0

/-- ln 2. -/
def ln2Fix : Int := (List.range 450).foldl (fun a i => a + 2 * rOne / (((2 * i + 1) * 3 ^ (2 * i + 1) : Nat) : Int)) 0

/-- atan(1/n), and π by Machin's formula. -/
def atanInv (n : Nat) : Int :=
  (List.range 1000).foldl (fun a i => let t := rOne / (((2 * i + 1) * n ^ (2 * i + 1) : Nat) : Int)
    if i % 2 = 0 then a + t else a - t) 0
def piFix : Int := 4 * (4 * atanInv 5 - atanInv 239)

/-- e^r for 0 ≤ r < ln 2, in fixed point. -/
def expSmall (r : Int) : Int :=
  ((List.range 400).foldl (fun (p : Int × Int) i => let t := p.2 * r / rOne / ((i : Int) + 1)
    (p.1 + t, t)) (rOne, rOne)).1

/-- e^x as a value. -/
def expFix (x : Int) : FV :=
  let k := x / ln2Fix
  .fin false (expSmall (x - k * ln2Fix)).natAbs (k - rp)

/-- ln of a positive finite value, in fixed point. -/
def logFix (m : Nat) (e : Int) : Int :=
  let l := bitLen m
  let x : Int := (floorAt m (1 - (l : Int)) (-(rp : Int))).1
  let z := (x - rOne) * rOne / (x + rOne)
  let z2 := z * z / rOne
  let s := ((List.range 450).foldl (fun (p : Int × Int) i => (p.1 + p.2 / (2 * (i : Int) + 1), p.2 * z2 / rOne)) ((0 : Int), z)).1
  (e + l - 1) * ln2Fix + 2 * s

/-- 1 / (1 + e^-x) as a value. -/
def sigmoidFix (x : Int) : FV := (FV.fin false 1 0).div ((FV.fin false 1 0).add (expFix (-x)))

/-- The functions: 1 exp, 2 log, 3 tanh, 4 sigmoid, 5 GELU_TANH, 6 SiLU, 7 log1p, 8 reciprocal square root. -/
def realFn (n : Nat) (v : FV) : FV :=
  let x := toFix v
  match n with
  | 1 => expFix x
  | 2 => match v with
    | .fin _ m e => FV.ofScaled (logFix m e) (-(rp : Int))
    | _ => v
  | 3 =>
    let e := expFix (2 * x)
    (e.add (.fin true 1 0)).div (e.add (.fin false 1 0))
  | 4 => sigmoidFix x
  | 5 =>
    let c : Int := sqrtN ((2 * rOne * rOne * rOne / piFix).natAbs)
    let u := c * (x + 44715 * (x * x / rOne * x / rOne) / 1000000) / rOne
    v.mul (sigmoidFix (2 * u))
  | 6 => v.mul (sigmoidFix x)
  | 7 => match (FV.fin false 1 0).add v with
    | .fin _ m e => FV.ofScaled (logFix m e) (-(rp : Int))
    | w => w
  | _ => (FV.fin false 1 0).div v.sqrt

/-- A result that lies within a band around the exact value: one of the codes from lo below its floor to hi above it,
as a free number chooses (R263; log 4, DESIGN CHOICE). An exact zero stays zero. -/
def bounded (f : Fmt) (lo hi fr : Nat) : FV → Nat
  | .fin neg m e =>
    if m = 0 then f.signBit neg
    else match f.down m e with
      | some c => f.signBit neg + Nat.min (f.maxCode + 1) (c + fr % (lo + hi + 1) - lo)
      | none => f.infCode neg
  | v => f.enc v

/-- A real function at the infinities: its code there. GELU_TANH and SILU at -infinity have no stated value: a free one. -/
def realInf (f : Fmt) (n : Nat) (neg : Bool) : Nat :=
  if n = 3 then f.enc (.fin neg 1 0)
  else if neg then (if n = 1 ∨ n = 4 then 0 else if n = 5 ∨ n = 6 then Config.freeReal n (f.infCode true) f.code % 2 ^ f.width else f.nan)
  else if n = 4 then f.enc (.fin false 1 0)
  else if n = 8 then 0
  else f.infCode false

/-- A real function at zero. -/
def realZero (f : Fmt) (n : Nat) (neg : Bool) : Nat :=
  if n = 1 then f.enc (.fin false 1 0)
  else if n = 2 then f.infCode true
  else if n = 4 then f.enc (.fin false 1 (-1))
  else if n = 8 then f.infCode neg
  else f.signBit neg

/-- A real function on a code, with the special inputs of R192 and R263; the free number chooses within the accuracy. -/
def realCode (f : Fmt) (n lo hi fr x : Nat) : Nat :=
  match f.dec x with
  | .nan => f.nan
  | .inf neg => realInf f n neg
  | .fin neg m e =>
    if m = 0 then realZero f n neg
    else if neg && (n == 2 || n == 8) then f.nan
    else if n = 7 ∧ (FV.fin neg m e).lt (.fin true 1 0) then f.nan
    else if n = 7 ∧ (FV.fin neg m e).eq (.fin true 1 0) then f.infCode true
    else bounded f lo hi fr (realFn n (.fin neg m e))

end Sys2Proof.Machine
end

