-- ==== Sys2Proof/Machine/Hash.lean ====
section
/-! DEFINITION. SHAKE256 as FIPS 202 gives it, and CRC-32C (R202). -/

namespace Sys2Proof.Machine

/-- A 64-bit lane turned left by n < 64 places: what is shifted out at the top comes in at the bottom. -/
def rotl64 (v n : Nat) : Nat := v * 2 ^ n % 2 ^ 64 + v / 2 ^ (64 - n) % 2 ^ n

/-- One step of the eight-bit shift register from which FIPS 202 takes the bits of the round constants: the bit shifted out
returns at bits 0, 4, 5 and 6. -/
def lfsrStep (r : Nat) : Nat := if r < 128 then 2 * r else (2 * r) % 256 ^^^ 0x71

/-- Bit 0 of the shift register after each of the first 168 steps, seven for each round. -/
def lfsrBits : List Nat := ((List.range 167).foldl (fun l _ => lfsrStep (l.headD 1) :: l) [1]).reverse.map (· % 2)

/-- The round constant of a round: its bits stand at the places 2^j - 1. -/
def roundConst (bits : List Nat) (round : Nat) : Nat :=
  (List.range 7).foldl (fun v j => v + bits.getD (7 * round + j) 0 * 2 ^ (2 ^ j - 1)) 0

/-- The round constants of Keccak-f[1600]. -/
def keccakRC : List Nat := (List.range 24).map (roundConst lfsrBits)

/-- The walk of the step rho: the lane visited at step t and its rotation, the triangular number of t + 1. -/
def rhoWalk : Nat → Nat → Nat → Nat → List (Nat × Nat)
  | 0, _, _, _ => []
  | k + 1, t, x, y => (x + 5 * y, (t + 1) * (t + 2) / 2 % 64) :: rhoWalk k (t + 1) y ((2 * x + 3 * y) % 5)

/-- The rotation of lane x + 5y; lane 0 is not turned. -/
def keccakRot : List Nat := (List.range 25).map fun i => ((rhoWalk 24 0 1 0).lookup i).getD 0

/-- The parity of a column of five lanes. -/
def columnParity (a : List Nat) (x : Nat) : Nat := (List.range 5).foldl (fun v y => v ^^^ a.getD (x + 5 * y) 0) 0

/-- The steps theta and rho: every lane takes the parities of its two neighbour columns and is turned. -/
def thetaRho (a : List Nat) : List Nat :=
  let par := (List.range 5).map (columnParity a)
  let mix := (List.range 5).map fun x => par.getD ((x + 4) % 5) 0 ^^^ rotl64 (par.getD ((x + 1) % 5) 0) 1
  (List.range 25).map fun i => rotl64 (a.getD i 0 ^^^ mix.getD (i % 5) 0) (keccakRot.getD i 0)

/-- The steps pi and chi: lane i of the result from the three lanes that pi brings into its row. -/
def piChi (a : List Nat) (i : Nat) : Nat :=
  let moved (k : Nat) : Nat :=
    let x := (i % 5 + k) % 5
    a.getD (5 * x + (3 * (i / 5) + x) % 5) 0
  moved 0 ^^^ moved 2 ^^^ (moved 1 &&& moved 2)

/-- One round over the 25 lanes; lane x + 5y. -/
def keccakRound (a : List Nat) (rc : Nat) : List Nat :=
  let t := thetaRho a
  (List.range 25).map fun i => if i = 0 then piChi t i ^^^ rc else piChi t i

/-- Keccak-f[1600]. -/
def keccakF (a : List Nat) : List Nat := keccakRC.foldl keccakRound a

/-- A block of 136 bytes added to the rate part of the state. -/
def absorbBlock (a : List Nat) (blk : List Byte) : List Nat :=
  let lanes := (List.range 17).map fun i => fieldN blk (8 * i) 8
  keccakF ((List.range 25).map fun i => if i < 17 then a.getD i 0 ^^^ lanes.getD i 0 else a.getD i 0)

/-- The padding of SHAKE256: 0x1F, zeros, and 0x80 added to the block's last byte. -/
def shakePad (bs : List Byte) : List Byte :=
  let r := bs.length % 136
  if r = 135 then bs ++ [0x9F] else bs ++ [0x1F] ++ List.replicate (134 - r) 0 ++ [0x80]

/-- Output bytes squeezed from a state, block by block. -/
def squeeze : Nat → List Nat → List Byte
  | 0, _ => []
  | k + 1, a => (a.take 17).flatMap (natLE 8) ++ squeeze k (keccakF a)

/-- The first n bytes of SHAKE256 of a byte string. -/
def shake256 (bs : List Byte) (n : Nat) : List Byte :=
  let p := shakePad bs
  let a := (chunksN 136 (p.length / 136) p).foldl absorbBlock (List.replicate 25 0)
  (squeeze (n / 136 + 1) a).take n

/-- SHAKE256 with 256 and with 512 bits of output. -/
def shake256_256 (bs : List Byte) : List Byte := shake256 bs 32
def shake256_512 (bs : List Byte) : List Byte := shake256 bs 64

/-- One bit of the reflected CRC-32C, polynomial 0x1EDC6F41. -/
def crcBit (c : Nat) : Nat := if c % 2 = 1 then (c / 2) ^^^ 0x82F63B78 else c / 2

/-- CRC-32C with initial value and final XOR 0xFFFFFFFF (R202). -/
def crc32c (bs : List Byte) : Nat :=
  (bs.foldl (fun c b => (List.range 8).foldl (fun c _ => crcBit c) (c ^^^ b.toNat)) 0xFFFFFFFF) ^^^ 0xFFFFFFFF

end Sys2Proof.Machine
end

