-- ==== Sys2Proof/Machine/Operands.lean ====
section
/-! DEFINITION. The operand forms of stages: descriptors and columns (R179 to R185), element types, conversions (R199) and
the hashes (R200 to R203). -/

namespace Sys2Proof.Machine

/-! ### Element types (R180, R248, R249) -/

/-- The floating format of a type. -/
def fmtOf (t : Nat) : Option Fmt :=
  match t with
  | 0x0A => some fp16
  | 0x0B => some bf16
  | 0x0C => some fp32
  | 0x0D => some fp64
  | 0x10 => some e4m3
  | 0x11 => some e5m2
  | 0x13 => some e2m1
  | 0x14 => some e4m3
  | 0x15 => some e5m2
  | 0x16 => some e3m2
  | 0x17 => some e2m3
  | 0x18 => some e2m1
  | 0x19 => some e2m1
  | _ => none

/-- Bits of one element. -/
def typeBits (t : Nat) : Nat :=
  match t with
  | 0x01 | 0x02 | 0x06 => 8
  | 0x03 | 0x07 | 0x0A | 0x0B => 16
  | 0x04 | 0x08 | 0x0C => 32
  | 0x05 | 0x09 | 0x0D => 64
  | 0x10 | 0x11 | 0x14 | 0x15 => 8
  | 0x16 | 0x17 => 6
  | 0x12 | 0x13 | 0x18 | 0x19 => 4
  | _ => 0

/-- Bytes of one element of a plain type. -/
def typeBytes (t : Nat) : Nat := typeBits t / 8

/-- Elements that share a scale; 0 for a type without one. -/
def typeBlock (t : Nat) : Nat := if 0x14 ≤ t ∧ t ≤ 0x18 then 32 else if t = 0x19 then 16 else 0

def isInt (t : Nat) : Bool := decide (1 ≤ t ∧ t ≤ 9)
def isSigned (t : Nat) : Bool := decide (2 ≤ t ∧ t ≤ 5)
def isFloat (t : Nat) : Bool := decide (0x0A ≤ t ∧ t ≤ 0x0D)
def isNumeric (t : Nat) : Bool := decide (1 ≤ t ∧ t ≤ 0x0D)
def isDenseType (t : Nat) : Bool := decide (0x10 ≤ t ∧ t ≤ 0x19)

/-- A type that R180 assigns. -/
def typeOk (t : Nat) : Bool := decide (t ≤ 0x0E) || isDenseType t

/-- Bytes of one innermost row of a tensor (R249). -/
def rowBytes (t n : Nat) : Nat := ceilDiv (n * typeBits t) 8 + (if typeBlock t = 0 then 0 else ceilDiv n (typeBlock t))

/-- Is a row length one that a type can be packed in (R249)? -/
def rowFits (t n : Nat) : Bool :=
  if typeBlock t ≠ 0 then n % typeBlock t == 0 else if typeBits t = 4 then n % 2 == 0 else true

/-- Bytes of a tensor's data. -/
def tensorBytes (t : Nat) (dims : List Nat) : Nat := (dims.take 3).foldl (· * ·) 1 * rowBytes t (dims.getD 3 1)

/-- The product of dimensions. -/
def prod (l : List Nat) : Nat := l.foldl (· * ·) 1

/-! ### Descriptors (R179, R182) -/

/-- The fields of a descriptor. -/
structure Desc where
  addr : Nat
  bytes : Nat
  validity : Nat
  offs : Nat
  count : Nat
  type_ : Nat
  kind : Nat
  used : Nat
  dims : List Nat
  offsBytes : Nat
  raw : List Byte
  deriving DecidableEq, Repr

/-- Reading a descriptor's 64 bytes. -/
def Desc.of (b : List Byte) : Desc where
  addr := fieldN b 0 8
  bytes := fieldN b 8 8
  validity := fieldN b 16 8
  offs := fieldN b 24 8
  count := fieldN b 32 4
  type_ := fieldN b 36 1
  kind := fieldN b 37 1
  used := fieldN b 40 8
  dims := (List.range 4).map fun i => fieldN b (48 + 4 * i) 4
  offsBytes := fieldN b 48 8
  raw := b

def kColumn : Nat := 0
def kTensor : Nat := 1
def kSegments : Nat := 2
def kBytes : Nat := 3

/-- Reserved bytes and encodings of a descriptor (R8). -/
def Desc.reservedOk (d : Desc) : Bool := zeroAt d.raw 38 2 && typeOk d.type_ && decide (d.kind ≤ 3)

/-- R8 and the layout rules of a descriptor by itself; an input must have USED 0 and hold its elements. -/
def Desc.fieldsOk (d : Desc) (input : Bool) : Bool :=
  d.reservedOk
  && (if d.kind = kSegments ∨ d.kind = kBytes then d.type_ == 0 && zeroAt d.raw 48 16 && (!input || d.count == 0)
      else d.type_ != 0)
  && (d.type_ == 0x0E || d.offs == 0)
  && (d.kind != kColumn || !isDenseType d.type_)
  && (d.kind != kTensor || d.type_ != 0x0E)
  && (if d.kind = kColumn then (if d.type_ = 0x0E then zeroAt d.raw 56 8 else zeroAt d.raw 48 16) else true)
  && (d.kind != kTensor || (rowFits d.type_ (d.dims.getD 3 0) && (!input || d.count == prod d.dims)))
  && (!input || (d.used == 0
      && (d.kind != kColumn || d.type_ == 0x0E || decide (d.count * typeBytes d.type_ ≤ d.bytes))
      && (d.kind != kTensor || decide (tensorBytes d.type_ d.dims ≤ d.bytes))
      && (d.type_ != 0x0E || decide (4 * (d.count + 1) ≤ d.offsBytes))))

/-- Elements an output descriptor's buffer holds (R183). -/
def Desc.capacity (d : Desc) : Nat :=
  if d.type_ = 0x0E then d.offsBytes / 4 - 1
  else if typeBits d.type_ = 0 then 0 else d.bytes * 8 / typeBits d.type_

/-- The extents that a descriptor names lie in the places of R44. -/
def Desc.inBounds (d : Desc) (input : Bool) : Bool :=
  inR44 d.addr d.bytes
  && (d.validity == 0 || inR44 d.validity (ceilDiv (if input then d.count else d.capacity) 8))
  && (d.type_ != 0x0E || inR44 d.offs d.offsBytes)

/-- An input descriptor as a stage sees it. -/
def Desc.col (d : Desc) (at_ : Nat) : Col where
  kind := d.kind
  type_ := d.type_
  count := d.count
  dims := if d.kind = kTensor then d.dims else []
  src := some ⟨d.addr, d.bytes, d.validity, d.offs, d.offsBytes, at_⟩

/-! ### Columns -/

/-- Bytes of data a stage input has: BYTES for SEGMENTS and BYTES (R144). -/
def Col.size (c : Col) : Nat := match c.src with
  | some m => if c.kind = kSegments ∨ c.kind = kBytes then m.bytes else c.data.length
  | none => c.data.length

/-- Is element e valid? -/
def Col.isValid (c : Col) (e : Nat) : Bool := c.valid.getD e true

/-- The bits of element e of a plain type; a nonzero BOOL byte reads as 1 (R180). -/
def Col.bits (c : Col) (e : Nat) : Nat :=
  let n := fieldN c.data (e * typeBytes c.type_) (typeBytes c.type_)
  if c.type_ = 1 then min n 1 else n

/-- The bytes of element e of a VARBYTES column. -/
def Col.text (c : Col) (e : Nat) : List Byte :=
  (c.data.drop (c.offsets.getD e 0)).take (c.offsets.getD (e + 1) 0 - c.offsets.getD e 0)

/-- A scalar: an integer or a floating value. -/
inductive Val where
  | int (i : Int)
  | flt (f : FV)
  deriving DecidableEq, Repr

/-- The value that a type's bits hold. -/
def valOf (t bits : Nat) : Val :=
  if t = 1 then .int (if bits = 0 then 0 else 1)
  else if isSigned t then .int (sext (typeBits t) bits)
  else if isInt t then .int bits
  else match fmtOf t with
    | some f => .flt (f.dec bits)
    | none => .int bits

/-- Element e of a column; none for a null. -/
def Col.val (c : Col) (e : Nat) : Option Val := if c.isValid e then some (valOf c.type_ (c.bits e)) else none

/-- A column of a fixed-width type from its elements. -/
def mkCol (t : Nat) (es : List (Option Nat)) : Col where
  kind := kColumn
  type_ := t
  count := es.length
  data := es.flatMap fun e => natLE (typeBytes t) (e.getD 0)
  valid := if es.all (·.isSome) then [] else es.map (·.isSome)

/-- A tensor of a plain type. -/
def mkTensor (t : Nat) (dims : List Nat) (es : List (Option Nat)) : Col :=
  { mkCol t es with kind := kTensor, dims := dims }

/-- A VARBYTES column; a null element is empty. -/
def mkText (es : List (Option (List Byte))) : Col where
  kind := kColumn
  type_ := 0x0E
  count := es.length
  data := es.flatMap fun e => e.getD []
  offsets := es.foldl (fun a e => a ++ [a.getLastD 0 + (e.getD []).length]) [0]
  valid := if es.all (·.isSome) then [] else es.map (·.isSome)

/-- A byte stream. -/
def mkBytes (bs : List Byte) : Col := { kind := kBytes, data := bs }

/-- Bit e of a bitmap (R181). -/
def bitmapBit (bs : List Byte) (e : Nat) : Bool := bitOf (bs.getD (e / 8) 0).toNat (e % 8)

/-- A bitmap of n bits. -/
def bitmapOf (v : List Bool) : List Byte :=
  (chunksN 8 v.length v).map fun c => BitVec.ofNat 8 (c.zipIdx.foldl (fun a p => a + b2n p.1 * 2 ^ p.2) 0)

/-- Offsets start at 0, do not decrease, do not pass an end, and bound elements of at most 65,536 bytes (R181). -/
def offsetsOk (offs : List Nat) (last : Nat) : Bool :=
  offs.headD 0 == 0 && decide (offs.getLastD 0 ≤ last)
  && (offs.zip (offs.drop 1)).all fun p => decide (p.1 ≤ p.2) && decide (p.2 - p.1 ≤ 65536)

/-- Little-endian numbers of n bytes each. -/
def numsLE (n : Nat) (bs : List Byte) : List Nat := (chunksN n bs.length bs).map leNat

/-- An input's data read from memory when its stage starts (R182): the data, its offsets and its validity bits. Malformed
offsets complete the batch with CORRUPT. -/
def loadCol (s : State) (c : Col) : Res Col :=
  match c.src with
  | none => ok s c
  | some m =>
    let finish (s : State) (c : Col) : Res Col :=
      if m.validity = 0 ∨ c.kind = kSegments ∨ c.kind = kBytes then ok s { c with src := none }
      else andThen (readMem s m.validity (ceilDiv c.count 8)) fun s v =>
        ok s { c with src := none, valid := (List.range c.count).map (bitmapBit v) }
    if c.kind = kSegments ∨ c.kind = kBytes then
      andThen (readMem s m.addr m.bytes) fun s d => finish s { c with data := d }
    else if c.type_ = 0x0E then
      andThen (readMem s m.offs (4 * (c.count + 1))) fun s o =>
        let offs := numsLE 4 o
        if offsetsOk offs m.bytes then
          andThen (readMem s m.addr (offs.getLastD 0)) fun s d => finish s { c with data := d, offsets := offs }
        else fail s stCorrupt
    else
      let n := if c.kind = kTensor then tensorBytes c.type_ c.dims else c.count * typeBytes c.type_
      andThen (readMem s m.addr n) fun s d => finish s { c with data := d }

/-- Every used input read from memory. -/
def loadAll (s : State) (cs : List (Option Col)) : Res (List (Option Col)) :=
  eachRes (fun s c => match c with
    | none => ok s none
    | some c => andThen (loadCol s c) fun s d => ok s (some d)) s cs

/-! ### CAST (R199) -/

/-- The limits of an integer type. -/
def intRange (t : Nat) : Int × Int :=
  if t = 1 then (0, 1)
  else if isSigned t then (-(2 ^ (typeBits t - 1) : Nat), (2 ^ (typeBits t - 1) : Nat) - 1)
  else (0, (2 ^ typeBits t : Nat) - 1)

/-- An integer as a type's bits: saturated, or none when out of range under NULL_ON_RANGE. -/
def castInt (t : Nat) (nullOnRange : Bool) (i : Int) : Option Nat :=
  let (lo, hi) := intRange t
  if lo ≤ i ∧ i ≤ hi then some (wrapN (typeBits t) i)
  else if nullOnRange then none
  else some (wrapN (typeBits t) (clampI lo hi i))

/-- A floating type does not hold every value of another. -/
def narrower (t src : Nat) : Bool := isFloat t && isFloat src && t != src && t != 0x0D && !(t == 0x0C && src != 0x0D)

/-- A value converted to a type's bits; none is a null. What lies beyond the finite range of a narrower floating type, an infinity
too, is infinity, or null under NULL_ON_RANGE. -/
def castTo (t : Nat) (nullOnRange nearest narrow : Bool) (v : Val) : Option Nat :=
  if t = 1 then
    match v with
    | .int i => some (if i = 0 then 0 else 1)
    | .flt f => some (if f.isZero then 0 else 1)
  else if isInt t then
    match v with
    | .int i => castInt t nullOnRange i
    | .flt .nan => none
    | .flt (.inf neg) => if nullOnRange then none else some (wrapN (typeBits t) (if neg then (intRange t).1 else (intRange t).2))
    | .flt f => (f.toInt nearest).bind (castInt t nullOnRange)
  else match fmtOf t with
    | none => none
    | some f => match v with
      | .int i => some (f.enc (FV.ofInt i))
      | .flt x =>
        let b := f.enc x
        if nullOnRange && narrow && (f.dec b).isInf then none else some b

/-- The FP64 code of a value (R201, R204, R206). -/
def valF64 : Val → Nat
  | .int i => fp64.enc (FV.ofInt i)
  | .flt f => fp64.enc f

/-! ### Hashes (R200 to R203) -/

def w64 (n : Nat) : Nat := n % 2 ^ 64

/-- One SipHash round. -/
def sipRound (v : Nat × Nat × Nat × Nat) : Nat × Nat × Nat × Nat :=
  let (v0, v1, v2, v3) := v
  let v0 := w64 (v0 + v1)
  let v1 := rotl64 v1 13 ^^^ v0
  let v0 := rotl64 v0 32
  let v2 := w64 (v2 + v3)
  let v3 := rotl64 v3 16 ^^^ v2
  let v0 := w64 (v0 + v3)
  let v3 := rotl64 v3 21 ^^^ v0
  let v2 := w64 (v2 + v1)
  let v1 := rotl64 v1 17 ^^^ v2
  let v2 := rotl64 v2 32
  (v0, v1, v2, v3)

def sipRounds : Nat → Nat × Nat × Nat × Nat → Nat × Nat × Nat × Nat
  | 0, v => v
  | n + 1, v => sipRounds n (sipRound v)

/-- SipHash-c-d. -/
def sipHash (c d : Nat) (key msg : List Byte) : Nat :=
  let k0 := fieldN key 0 8
  let k1 := fieldN key 8 8
  let n := msg.length
  let words := (List.range (n / 8)).map fun i => fieldN msg (8 * i) 8
  let lastW := leNat (msg.drop (n / 8 * 8)) + n % 256 * 2 ^ 56
  let v := (k0 ^^^ 0x736f6d6570736575, k1 ^^^ 0x646f72616e646f6d, k0 ^^^ 0x6c7967656e657261, k1 ^^^ 0x7465646279746573)
  let v := (words ++ [lastW]).foldl (fun (v : Nat × Nat × Nat × Nat) m =>
    let (a, b, x, y) := sipRounds c (v.1, v.2.1, v.2.2.1, v.2.2.2 ^^^ m)
    (a ^^^ m, b, x, y)) v
  let (a, b, x, y) := sipRounds d (v.1, v.2.1, v.2.2.1 ^^^ 0xFF, v.2.2.2)
  a ^^^ b ^^^ x ^^^ y

/-- Fold64 (R203). -/
def fold64 (key msg : List Byte) : Nat :=
  let k0 := fieldN key 0 8
  let k1 := fieldN key 8 8
  let h := k0 ^^^ w64 (msg.length * 0xA24BAED4963EE407)
  let h := (numsLE 8 msg).foldl (fun h w =>
    let w := w64 ((w ^^^ k1) * 0x9FB21C651E98DF25)
    let w := w ^^^ (w >>> 29)
    let h := w64 ((h ^^^ w) * 0xD6E8FEB86659FD93)
    h ^^^ (h >>> 32)) h
  let h := h ^^^ (h >>> 33)
  let h := w64 (h * 0xB492B66FBE98F273)
  let h := h ^^^ (h >>> 29)
  let h := w64 (h * 0x8EBC6AF09C88C6E3)
  h ^^^ (h >>> 32)

/-- The hash of a selector (R202). -/
def hashBy (sel : Nat) (key msg : List Byte) : Nat :=
  match sel with
  | 0 => crc32c msg
  | 1 => sipHash 1 3 key msg
  | 2 => sipHash 2 4 key msg
  | _ => fold64 key msg

/-- The 8 bytes that encode a scalar for hashing (R201). -/
def hashBytes : Val → List Byte
  | .int i => natLE 8 (wrapN 64 i)
  | .flt .nan => natLE 8 0x7FF8000000000000
  | .flt f => natLE 8 (if f.isZero then 0 else fp64.enc f)

end Sys2Proof.Machine
end

