-- ==== Sys2Proof/Machine/Lanes.lean ====
section
/-! DEFINITION. Hops, lanes and credits of the fabric (R349, R350, R353 to R355). They change timing and counts only. -/

namespace Sys2Proof.Machine

/-! ### Routes (R349, R350) -/

/-- A D2D link carries traffic (R357). -/
def linkUp (s : State) (l : Nat) : Bool := s.fab.linkUp.getD l false && !(s.fab.linkDown.getD l false)

/-- A hop: the link of a die's router in a direction (0 to the next column, 1 to the column before, 2 to the next row, 3 to the
row before), or a D2D link in direction A (0) or B (1). -/
def meshHop (die router dir : Nat) : Nat := 80 * die + 4 * router + dir
def d2dHop (link dir : Nat) : Nat := 320 + 2 * link + dir

/-- Within a mesh, packets route X first, then Y. -/
def meshRoute (d a b : Nat) : List Nat :=
  let turn := a / 5 * 5 + b % 5
  (if a % 5 ≤ b % 5 then (List.range (b % 5 - a % 5)).map fun i => meshHop d (a + i) 0
    else (List.range (a % 5 - b % 5)).map fun i => meshHop d (a - i) 1)
  ++ if turn / 5 ≤ b / 5 then (List.range (b / 5 - turn / 5)).map fun i => meshHop d (turn + 5 * i) 2
    else (List.range (turn / 5 - b / 5)).map fun i => meshHop d (turn - 5 * i) 3

/-- A place on the fabric: a compute die and a router of it, or die 4, which stands for the I/O die. -/
abbrev Spot := Nat × Nat

/-- The fixed route between two places; a ring link that is down is passed by through the I/O die (R350, R357). -/
def routeOf (s : State) (a b : Spot) : List Nat :=
  if 4 ≤ a.1 ∧ 4 ≤ b.1 then []
  else if 4 ≤ b.1 then meshRoute a.1 a.2 19 ++ [d2dHop (4 + a.1) 0]
  else if 4 ≤ a.1 then d2dHop (4 + b.1) 1 :: meshRoute b.1 19 b.2
  else if a.1 = b.1 then meshRoute a.1 a.2 b.2
  else if b.1 = (a.1 + 1) % 4 ∧ linkUp s a.1 then meshRoute a.1 a.2 17 ++ d2dHop a.1 0 :: meshRoute b.1 18 b.2
  else if b.1 = (a.1 + 3) % 4 ∧ linkUp s b.1 then meshRoute a.1 a.2 18 ++ d2dHop b.1 1 :: meshRoute b.1 17 b.2
  else meshRoute a.1 a.2 19 ++ d2dHop (4 + a.1) 0 :: d2dHop (4 + b.1) 1 :: meshRoute b.1 19 b.2

/-- Where a tile, a stack's blocks and a byte of memory attach. -/
def tileSpot (t : Nat) : Spot := (t / 13, t % 13)
def stackSpot (k : Nat) : Spot := (k / 3, 13 + k % 3)
def iodSpot : Spot := (4, 0)
def addrSpot (a : Nat) : Spot :=
  match placeOf a with
  | .hbm k _ => stackSpot k
  | .fen d o => (d, o / 1024 % 20)
  | .tile t _ => tileSpot t
  | _ => iodSpot

/-- Where a unit that takes Causeway messages attaches. -/
def unitSpot : StopUnit → Spot
  | .tile t => tileSpot t
  | .culv k => stackSpot k
  | .reed d => (d, 16)
  | _ => iodSpot

/-- Where the block of a page attaches. -/
def pageSpot (page : Nat) : Spot :=
  match pageDie page with
  | none => iodSpot
  | some d => if keyCls page = 8 then tileSpot (keyInst page) else if keyCls page = 9 then (d, 16)
      else if keyCls page = 5 ∨ keyCls page = 6 then stackSpot (keyInst page) else (d, 19)

/-! ### Credits (R353) -/

def laneReq : Nat := 0
def laneRsp : Nat := 1
def laneBulk : Nat := 2
def laneUrgent : Nat := 3
def laneNormal : Nat := 4

/-- Credits of a lane at a hop. -/
def laneCredits (hop lane : Nat) : Nat :=
  if hop < 320 then [32, 32, 16, 2, 6].getD lane 0 else [1024, 2048, 512, 2, 6].getD lane 0

/-- Flits of a packet that stand in the receive buffer of a hop. -/
def Packet.flitsAt (p : Packet) (hop : Nat) : Nat := (((p.route.zip p.at_).filter (·.1 == hop)).map (·.2)).sum

/-- Credits of a lane in use at a hop. -/
def laneUsed (s : State) (hop lane : Nat) : Nat := ((s.fab.packets.filter (·.lane == lane)).map (·.flitsAt hop)).sum

/-- Flits that cross a D2D link are counted by their bytes (R368). -/
def countHop (s : State) (hop n : Nat) : State :=
  if hop < 320 ∨ n = 0 then s else bump s (pgD2d ((hop - 320) / 2) + 0x408 + 8 * (hop % 2)) (64 * n)

/-- A packet leaves its source with as many flits as hold a credit at its first hop. -/
def sendPacket (s : State) (of : PacketOf) (lane : Nat) (route : List Nat) (flits : Nat) : State :=
  match route with
  | [] => s
  | h :: _ =>
    let n := min flits (laneCredits h lane - laneUsed s h lane)
    let p : Packet := ⟨of, lane, route, flits - n, n :: List.replicate (route.length - 1) 0⟩
    countHop { s with fab := { s.fab with packets := s.fab.packets ++ [p] } } h n

/-- Packets that have arrived leave the fabric; whatever of them still stands in a buffer is free with them. -/
def dropPackets (s : State) (mine : PacketOf → Bool) : State :=
  { s with fab := { s.fab with packets := s.fab.packets.filter fun p => !(mine p.of) } }

/-- The oldest packet of a kind leaves the fabric. -/
def dropPacket (s : State) (of : PacketOf) : State :=
  { s with fab := { s.fab with packets := s.fab.packets.eraseP fun p => p.of == of } }

/-- One flit of a packet enters a hop of its route, from its source or from the hop before; and the hop it leaves, if any. -/
def Packet.enter (p : Packet) (hop : Nat) : Option (Packet × Option Nat) :=
  (p.route.findIdx? (· == hop)).bind fun i =>
    if i = 0 then (if p.left = 0 then none else some ({ p with left := p.left - 1, at_ := modifyAt p.at_ 0 (· + 1) }, none))
    else if p.at_.getD (i - 1) 0 = 0 then none
    else some ({ p with at_ := modifyAt (modifyAt p.at_ (i - 1) (· - 1)) i (· + 1) }, p.route[i - 1]?)

/-- The oldest packet with a flit that waits for a hop's lane sends it on. -/
def enterFirst (hop lane : Nat) : List Packet → Option (List Packet × Option Nat)
  | [] => none
  | p :: l => match (if p.lane = lane then p.enter hop else none) with
    | some (q, h) => some (q :: l, h)
    | none => (enterFirst hop lane l).map fun r => (p :: r.1, r.2)

/-- A credit of a hop's lane is free: the flit that waits longest for it moves, which frees the entry it stood in, and so on
up its route. -/
def refillHop : Nat → State → Nat → Nat → State
  | 0, s, _, _ => s
  | n + 1, s, hop, lane =>
    if laneCredits hop lane ≤ laneUsed s hop lane then s
    else match enterFirst hop lane s.fab.packets with
      | none => s
      | some (ps, h) =>
        let s := countHop { s with fab := { s.fab with packets := ps } } hop 1
        match h with
        | some j => refillHop n s j lane
        | none => s

/-- The oldest flit that stands in a hop's buffer leaves it: for the next hop where that has a credit of its lane, or for its
destination; and the packet whose last flit has arrived with it. -/
def leaveFirst (s : State) (hop lane : Nat) : List Packet → Option (List Packet × Option Nat × Option PacketOf)
  | [] => none
  | p :: l =>
    let i := (p.route.findIdx? (· == hop)).getD p.route.length
    let go : Bool := p.lane == lane && p.at_.getD i 0 != 0 && match p.route[i + 1]? with
      | some h => decide (laneUsed s h lane < laneCredits h lane)
      | none => true
    if go then
      let at1 := modifyAt p.at_ i (· - 1)
      let q := { p with at_ := modifyAt at1 (i + 1) (· + 1) }
      let done : Bool := q.left == 0 && q.at_.all (· == 0)
      some (if done then l else q :: l, p.route[i + 1]?, if done then some p.of else none)
    else (leaveFirst s hop lane l).map fun r => (p :: r.1, r.2)

/-- A tile's request has reached its memory: the response sets out, an acknowledgement or the data read (R354). -/
def respond (s : State) : Option PacketOf → State
  | some (.request t q) =>
    sendPacket s (.response t q) laneRsp (routeOf s (addrSpot q.addr) (tileSpot t)) (if q.pool = 2 then 1 else ceilDiv q.len 64)
  | _ => s

/-- Cycles in which a data flit waited for a credit of a hop (R366, R368). -/
def countStall (s : State) (hop n : Nat) : State :=
  if n = 0 then s
  else if hop < 320 then bump s (pgFab + 0x440 + 8 * (hop / 80)) n
  else bump s (pgD2d ((hop - 320) / 2) + 0x420) n

/-- A buffer entry of a hop's lane frees: its flit goes on, and the flits that waited for the entry follow. -/
def laneReturn (s : State) (hop lane held : Nat) : State :=
  if 336 ≤ hop ∨ 5 ≤ lane then s
  else match leaveFirst s hop lane s.fab.packets with
    | none => s
    | some (ps, h, done) =>
      let s : State := { s with fab := { s.fab with packets := ps } }
      let s := match h with
        | some j => countHop s j 1
        | none => s
      let waits := (enterFirst hop lane s.fab.packets).isSome
      let s := if waits && decide (lane < 3) then countStall s hop held else s
      respond (refillHop 32 s hop lane) done

/-- Every data lane of every hop is empty (R362). -/
def dataLanesEmpty (s : State) : Bool := s.fab.packets.all fun p => decide (3 ≤ p.lane)

end Sys2Proof.Machine
end

