-- ==== Sys2Proof/Machine/PeatOps.lean ====
section
/-! DEFINITION. The Peat store's records and AUDIT ring, and the tally settings (R432 to R447). -/

namespace Sys2Proof.Machine

/-! ### Records (R432, R435, R436) -/

/-- Base and size of a slot within a bank, by TYPE. -/
def slotBase : Nat → Nat
  | 1 => 0x0000000
  | 2 => 0x6000000
  | 3 => 0x6400000
  | 4 => 0x6500000
  | 5 => 0x7500000
  | _ => 0

def slotSize : Nat → Nat
  | 1 => 96 * 2 ^ 20
  | 2 => 4 * 2 ^ 20
  | 3 => 2 ^ 20
  | 4 => 8192
  | 5 => 32 * 2 ^ 20
  | _ => 0

/-- A record header, with its CRC (R435). -/
def peatHeader (type_ seq : Nat) (payload : List Byte) : List Byte :=
  let h := natLE 4 0x50454154 ++ natLE 2 1 ++ natLE 1 type_ ++ [0] ++ natLE 8 seq ++ natLE 8 payload.length
    ++ List.replicate 8 0 ++ shake256_256 payload ++ List.replicate 4028 0
  h ++ natLE 4 (crc32c h)

/-- SEQUENCE and LENGTH of a record. -/
def PeatRec.seq (r : PeatRec) : Nat := fieldN r.header 8 8
def PeatRec.len (r : PeatRec) : Nat := fieldN r.header 16 8

/-- The payload bytes that LENGTH names. -/
def PeatRec.body (r : PeatRec) : List Byte := r.payload.take r.len

/-- Is a record header-valid in a slot (R436)? -/
def PeatRec.headerValid (r : PeatRec) (type_ : Nat) : Bool :=
  r.header.length == 4096 && fieldN r.header 0 4 == 0x50454154 && fieldN r.header 4 2 == 1
    && fieldN r.header 4092 4 == crc32c (r.header.take 4092) && fieldN r.header 6 1 == type_
    && zeroAt r.header 7 1 && zeroAt r.header 24 8 && zeroAt r.header 64 4028
    && decide (4096 + r.len ≤ slotSize type_) && decide (r.len ≤ r.payload.length)

/-- Is a record valid: header-valid, with a DIGEST that matches and that patrol has not found wrong (R436)? -/
def PeatRec.valid (r : PeatRec) (type_ : Nat) : Bool :=
  r.headerValid type_ && !r.failed && sliceB r.header 32 32 == shake256_256 r.body

/-- A bank by number: 0 is A, 1 is B. -/
def State.bank (s : State) (b : Nat) : PeatBank := s.banks.getD b {}

/-- The record of a slot in a bank. -/
def peatRec? (s : State) (b type_ : Nat) : Option PeatRec :=
  ((s.bank b).recs.find? fun p => p.1 == type_).map (·.2)

/-- The newest of a bank's AUDIT records that meet a condition, and its position (R438, R439). -/
def auditLatest (ok : PeatRec → Bool) (bk : PeatBank) : Option (Nat × PeatRec) :=
  bk.audit.foldl (fun best p => if ok p.2 then
    match best with
    | some q => if q.2.seq < p.2.seq then some p else some q
    | none => some p
    else best) none

/-- The newest header-valid AUDIT record of a bank and its position (R439). -/
def auditNewest (bk : PeatBank) : Option (Nat × PeatRec) := auditLatest (·.headerValid 4) bk

/-- The records of a slot in a bank that a writer or reader considers: for AUDIT the newest of the ring. -/
def slotRec? (s : State) (b type_ : Nat) : Option PeatRec :=
  if type_ = 4 then (auditNewest (s.bank b)).map (·.2) else peatRec? s b type_

/-- The newest valid record of a slot with its bank; bank A at equal SEQUENCE (R438). -/
def newestValid (s : State) (type_ : Nat) : Option (Nat × PeatRec) :=
  let v (b : Nat) := if type_ = 4 then (auditLatest (·.valid 4) (s.bank b)).map (·.2) else (peatRec? s b type_).filter (·.valid type_)
  match v 0, v 1 with
  | some a, some b => if b.seq ≤ a.seq then some (0, a) else some (1, b)
  | some a, none => some (0, a)
  | none, some b => some (1, b)
  | none, none => none

/-- The bank a write takes: the one that does not hold the newest valid record, or A (R437). -/
def writeBank (s : State) (type_ : Nat) : Nat :=
  match newestValid s type_ with
  | some (0, _) => 1
  | _ => 0

/-- One more than the highest SEQUENCE of any header-valid record of a slot, or 1 (R437). -/
def nextSeq (s : State) (type_ : Nat) : Nat :=
  let q (b : Nat) := match slotRec? s b type_ with
    | some r => if r.headerValid type_ then r.seq else 0
    | none => 0
  Nat.max (q 0) (q 1) + 1

/-- The position an AUDIT record takes in a bank's ring (R439). -/
def auditPos (bk : PeatBank) : Nat :=
  match auditNewest bk with
  | some (p, _) => (p + 1) % 2048
  | none => 0

/-- The sectors a record needs, header sector included. -/
def recSectors (base len : Nat) : List Nat := (List.range (1 + ceilDiv len 4096)).map (base / 4096 + ·)

/-- An erase of each sector adds 1 to its count. -/
def countErases (bk : PeatBank) (secs : List Nat) : PeatBank :=
  { bk with erases := secs.foldl (fun l x => cellsSet (fun _ => 0) x (cellsGet (fun _ => 0) x l + 1) l) bk.erases }

/-- Sectors that fail erase or program verification are remapped while spares last (R433): the bank afterwards, and the
first sector that found no spare. -/
def remapSectors (bk : PeatBank) : List Nat → PeatBank × Option Nat
  | [] => (bk, none)
  | x :: t =>
    if bk.spares = 0 then (bk, some x)
    else remapSectors { bk with spares := bk.spares - 1, remap := bk.remap ++ [(x, 1022 - bk.spares)] } t

/-- A record put in its slot or ring position of a bank. -/
def putRec (bk : PeatBank) (type_ pos : Nat) (r : PeatRec) : PeatBank :=
  if type_ = 4 then { bk with audit := (bk.audit.filter (·.1 ≠ pos)) ++ [(pos, r)] }
  else { bk with recs := (bk.recs.filter (·.1 ≠ type_)) ++ [(type_, r)] }

/-- The record of a slot or ring position erased. -/
def dropRec (bk : PeatBank) (type_ pos : Nat) : PeatBank :=
  if type_ = 4 then { bk with audit := bk.audit.filter (·.1 ≠ pos) } else { bk with recs := bk.recs.filter (·.1 ≠ type_) }

/-- A record written by the steps of R437; the answer says whether it was completed. -/
def peatWrite (s : State) (type_ : Nat) (payload : List Byte) (ev : PeatEvent) : State × Bool :=
  let b := writeBank s type_
  let seq := nextSeq s type_
  let bk := s.bank b
  let pos := if type_ = 4 then auditPos bk else 0
  let secs := recSectors (slotBase type_ + 8192 * pos) payload.length
  if slotSize type_ < 4096 + payload.length then (s, false)
  else
    let put (s : State) (bk : PeatBank) : State := { s with banks := setAt s.banks b bk }
    let bk := dropRec (countErases bk secs) type_ pos
    let whole : PeatRec := { header := peatHeader type_ seq payload, payload := payload }
    let finish (bk : PeatBank) : State × Bool := (bump (put s (putRec bk type_ pos whole)) (pgPeat + 0x420) 1, true)
    match ev with
    | .none => finish bk
    | .badErase bad | .badProgram bad =>
      match remapSectors bk (bad.filter fun x => secs.contains x) with
      | (bk, none) => finish bk
      | (bk, some x) => (firstEvent (put s bk) pgPeat 0x430 (3 * 2 ^ 48 + type_ * 2 ^ 40 + b * 2 ^ 32 + x), false)
    | .tornPayload => (put s bk, false)
    | .tornHeader => (put s (putRec bk type_ pos { header := [], payload := payload }), false)

/-! ### The AUDIT ring (R439, R440) -/

/-- PATH of an audit entry. -/
def pathNum : TallyPath → Nat
  | .mc => 0
  | .redfish _ => 1
  | .mctp => 2

/-- An audit entry, padded to the 4 KiB payload. -/
def auditEntry (seq setting phase path signer inst slotIx old new tick : Nat) : List Byte :=
  natLE 8 seq ++ natLE 1 setting ++ natLE 1 phase ++ natLE 1 path ++ natLE 1 signer ++ natLE 2 inst ++ natLE 2 slotIx
    ++ natLE 8 old ++ natLE 8 new ++ natLE 8 tick ++ List.replicate 4056 0

/-- Appends an audit entry; the write may fail. -/
def appendAudit (s : State) (setting phase path signer inst slotIx old new : Nat) (fails : Bool) : State × Bool :=
  if fails then (s, false)
  else peatWrite s 4 (auditEntry (nextSeq s 4) setting phase path signer inst slotIx old new s.tick) .none

/-- Every valid audit entry of both banks. -/
def auditEntries (s : State) : List (List Byte) :=
  ((s.bank 0).audit ++ (s.bank 1).audit).filterMap fun p => if p.2.valid 4 then some (p.2.body.take 64) else none

/-! ### The repair record (R505, R506) -/

/-- The REPAIR payload that the fuses spell. -/
def repairPayload (f : Fuses) : List Byte :=
  let r := f.repair
  let die (d : Nat) := natLE 2 (r.tileEn.getD d 0) ++ natLE 1 (f.repairDie.getD d 0) ++ natLE 1 (r.reedFree.getD d []).length
    ++ natLE 4 ((r.fenLayers.getD d []).zipIdx.foldl (fun a p => a + p.1 * 16 ^ p.2) (r.fenSpare.getD d 0 * 2 ^ 16))
    ++ natLE 4 (r.reedUsable.getD d 0) ++ ((List.range 13).flatMap fun p => natLE 1 (r.muCols.getD (13 * d + p) 0))
    ++ List.replicate 3 0 ++ ((r.reedMap.getD d []).flatMap (natLE 1)) ++ List.replicate 4 0
  let stack (k : Nat) := natLE 1 (match r.marks.getD k none with | some m => 128 + m | none => 0)
    ++ natLE 1 (f.repairHbm.getD k 0) ++ natLE 1 (r.lanes.getD k 0) ++ [BitVec.ofNat 8 (b2n (r.absent.contains k))] ++ natLE 2 (r.rows.getD k 0) ++ List.replicate 10 0
  let cores := (List.range 34).filter (bitOf r.coreEn)
  let iod := natLE 8 r.coreEn ++ ((cores.take 4).flatMap (natLE 1)) ++ natLE 1 f.repairIod ++ natLE 1 r.coreFree.length
    ++ List.replicate 2 0 ++ (r.ethSpare.flatMap (natLE 1)) ++ (r.d2dLanes.flatMap (natLE 1)) ++ List.replicate 36 0
  let entry (e : RepairEntry) := natLE 2 e.inst ++ natLE 1 e.kind ++ natLE 1 e.origin ++ natLE 4 e.target ++ natLE 8 e.tick
  natLE 4 0x52504552 ++ natLE 2 1 ++ natLE 2 r.entries.length ++ List.replicate 8 0 ++ ((List.range 4).flatMap die)
    ++ ((List.range 12).flatMap stack) ++ iod ++ (r.entries.flatMap entry)

/-- The MC rewrites the REPAIR record when it differs from the fuses (R445). -/
def syncRepairRecord (s : State) : State :=
  let want := repairPayload s.fuses
  match newestValid s 3 with
  | some (_, r) => if r.body = want then s else (peatWrite s 3 want .none).1
  | none => (peatWrite s 3 want .none).1

/-! ### Tally settings (R442 to R447) -/

def lifeNum : Life → Nat
  | .blank => 0
  | .provisioned => 1
  | .owned => 2
  | .returned => 3
  | .retired => 4

/-- May the lifecycle move to a state (R428)? -/
def lifeNext (f : Life) (v : Nat) : Option Life :=
  match f, v with
  | .blank, 1 => some .provisioned
  | .provisioned, 2 => some .owned
  | .owned, 3 => some .returned
  | .owned, 4 => some .retired
  | .returned, 4 => some .retired
  | _, _ => none

/-- Two bits per owner slot: SEC.OWNER_KEYS.SLOTS (R431). -/
def keySlotNum : KeySlot → Nat
  | .empty => 0
  | .active _ => 1
  | .revoked _ => 2

def ownerSlots (f : Fuses) : Nat := f.keys.zipIdx.foldl (fun a p => a + keySlotNum p.1 * 4 ^ p.2) 0

def isActive : KeySlot → Bool
  | .active _ => true
  | _ => false

/-- REVOKE's field: bit n is 1 when slot n is revoked. -/
def revokedBits (f : Fuses) : Nat := f.keys.zipIdx.foldl (fun a p => match p.1 with | .revoked _ => a + 2 ^ p.2 | _ => a) 0

/-- Slots and slots used of a setting (R442). -/
def settingSlots : Nat → Nat
  | 1 => 4
  | 2 => 255
  | 3 => 4
  | 5 => 8
  | 6 => 4
  | _ => 0

def settingUsed (f : Fuses) : Nat → Nat
  | 1 => f.lifeUsed
  | 2 => f.svnUsed
  | 3 => f.revokes
  | 5 => f.floorUsed
  | 6 => f.overrideUsed
  | _ => 0

/-- The present value of a setting, as OLD_VALUE gives it (R443). -/
def settingValue (f : Fuses) : Nat → Nat
  | 1 => lifeNum f.life
  | 2 => f.svn
  | 5 => f.floor
  | 6 => f.override
  | _ => ownerSlots f

/-- The implemented Calmet levels of this part (R37, DISP.LEVELS). -/
def implementedLevels : List Nat := [0x0100, 0x0101, 0x0200, 0x0201, 0x0202]

/-- Consumes a slot of a setting. -/
def useSlot (f : Fuses) : Nat → Fuses
  | 1 => { f with lifeUsed := f.lifeUsed + 1 }
  | 2 => { f with svnUsed := f.svnUsed + 1 }
  | 3 => { f with revokes := f.revokes + 1 }
  | 5 => { f with floorUsed := f.floorUsed + 1 }
  | 6 => { f with overrideUsed := f.overrideUsed + 1 }
  | _ => f

/-- The digests of a request's KEYS that are given. -/
def givenKeys (keys : List (List Byte)) : List (List Byte) := keys.filter fun k => k.any (· ≠ 0)

/-- The new value of a setting fused (R421, R428, R442). -/
def fuseValue (f : Fuses) (setting value : Nat) (keys : List (List Byte)) : Fuses :=
  match setting with
  | 1 => match lifeNext f.life value with
    | some .owned =>
      let ks := givenKeys keys
      { f with life := .owned, keys := (List.range 4).map fun i => match ks[i]? with
        | some k => .active k
        | none => f.keys.getD i .empty }
    | some .returned => { f with life := .returned, discardDue := true }
    | some l => { f with life := l }
    | none => f
  | 2 => { f with svn := value }
  | 3 => { f with keys := modifyAt f.keys value fun k => match k with
      | .active d => .revoked d
      | k => k }
  | 4 => { f with keys := setAt f.keys value (.active ((givenKeys keys).headD [])) }
  | 5 => { f with floor := value }
  | 6 => { f with override := value }
  | _ => f

/-- SVNs of the running components (R420). -/
def runningSvns (t : Trust) : List Nat :=
  (if t.mcRunning then [fieldN t.mcHeader 8 1] else [])
    ++ (if t.fwLoaded then [fieldN t.dispHeader 8 1, fieldN t.hostHeader 8 1] else [])

/-- Is a value allowed to a setting (R442, R447)? -/
def valueAllowed (s : State) (setting value signer : Nat) : Bool :=
  let f := s.fuses
  match setting with
  | 1 => (lifeNext f.life value).isSome
  | 2 => f.svn < value && value ≤ 255
  | 3 => isActive (f.keys.getD value .empty) && value ≠ signer
  | 4 => f.keys.getD value (.revoked []) == .empty
  | 5 => implementedLevels.contains value && f.floor < value
  | 6 => value ≤ 4 && value ≠ f.override
  | _ => false

/-- The guards of R420 and R421. -/
def guardHolds (s : State) (setting value : Nat) : Bool :=
  match setting with
  | 2 => (runningSvns s.trust).all (value ≤ ·)
  | 3 => ((s.fuses.keys.eraseIdx value).filter isActive).length ≥ 1
  | _ => true

/-- A refused TF write or request (R444, R447): REFUSE_CNT and LAST_REFUSE. -/
def refuseTally (s : State) (result setting path inst : Nat) : State :=
  firstEvent (bump s (pgTally + 0x458) 1) pgTally 0x460
    (result * 2 ^ 48 + setting * 2 ^ 32 + path * 2 ^ 24 + inst)

/-- Repair slots used and built in a pool, by INSTANCE (R17, R440). -/
def poolUsed (f : Fuses) (inst : Nat) : Nat :=
  if inst < 4 then f.repairDie.getD inst 0 else if inst < 0x200 then f.repairHbm.getD (inst - 0x100) 0 else f.repairIod

def poolSize (inst : Nat) : Nat := if inst < 4 then 64 else if inst < 0x200 then 32 else 8

def usePool (f : Fuses) (inst : Nat) : Fuses :=
  if inst < 4 then { f with repairDie := modifyAt f.repairDie inst (· + 1) }
  else if inst < 0x200 then { f with repairHbm := modifyAt f.repairHbm (inst - 0x100) (· + 1) }
  else { f with repairIod := f.repairIod + 1 }

/-- A logical bank that is mapped to the first spare left, and one that is lost (R243). -/
def mapBank (d b : Nat) (r : Repair) : Repair :=
  { r with
    reedMap := modifyAt r.reedMap d fun x => setAt x b ((r.reedFree.getD d []).headD 0)
    reedFree := modifyAt r.reedFree d (·.drop 1) }
def loseBank (d b : Nat) (r : Repair) : Repair :=
  { r with reedUsable := modifyAt r.reedUsable d fun m => if bitOf m b then m - 2 ^ b else m }

/-- A repair that is due and cannot be made (R504): the MC logs it with the resource named, and EXHAUSTED is recorded. -/
def repairRefused (s : State) (inst kind target : Nat) : State :=
  let s := refuseTally s 0x07 0x10 0 inst
  { s with trust := { s.trust with log := .refusedRepair inst kind target :: s.trust.log } }

/-- A repair whose slot failed verification is not fused (R445): the resource at a place stands as it did before. -/
def undoRepair (j : TallyJob) (r : Repair) : Repair :=
  let mine (e : RepairEntry) : Bool := e.inst == j.inst && e.kind == j.kind && e.target == j.target
  let r := { r with entries := (r.entries.reverse.eraseP mine).reverse }
  match j.kind with
  | 3 => { r with
      fenLayers := modifyAt r.fenLayers j.inst fun l => setAt l j.target j.place
      fenSpare := setAt r.fenSpare j.inst 4 }
  | 4 => { r with
      reedMap := modifyAt r.reedMap j.inst fun l => setAt l j.target j.place
      reedFree := modifyAt r.reedFree j.inst fun l => ((r.reedMap.getD j.inst []).getD j.target 0) :: l }
  | 5 => { r with marks := setAt r.marks j.place none }
  | 6 => { r with lanes := modifyAt r.lanes j.place (· - 1) }
  | 7 => { r with rows := modifyAt r.rows j.place (· - j.target) }
  | 8 => { r with d2dLanes := modifyAt r.d2dLanes j.place (· - 1) }
  | 9 => { r with ethSpare := setAt r.ethSpare j.place 15 }
  | _ => r

/-- A repair field's write (R446, R447): refused to a writer other than the MC, for a value the field does not take, or
with no slot left; otherwise a slot of the pool is consumed, the repair is fused and recorded, and the slot awaits
verification. The answer says whether the write was accepted. before is the field's value before (R440), and place the unit or the
physical part that the repair takes the place of. -/
def repairWrite (s : State) (who : Agent) (inst kind target value before place : Nat) (allowed : Bool)
    (fuse : Repair → Repair) : State × Bool :=
  if who ≠ .mc then (refuseTally s 0x0C 0x10 0 inst, false)
  else if !allowed then (refuseTally s 0x06 0x10 0 inst, false)
  else if poolSize inst ≤ poolUsed s.fuses inst then
    (repairRefused s inst kind target, false)
  else
    let ix := poolUsed s.fuses inst
    let s := (appendAudit s 0x10 0 0 0xFE inst ix before value false).1
    let f := usePool s.fuses inst
    let f := { f with repair := { fuse f.repair with
      entries := (fuse f.repair).entries ++ [⟨inst, kind, 1, target, s.tick⟩] } }
    let job : TallyJob :=
      { path := .mc, setting := 0x10, value := value, slotIndex := ix, signer := 0xFE, old := before, inst := inst, kind := kind, target := target, place := place }
    let log := McEvent.repair 0x10 inst value :: s.trust.log
    let jobs := match s.trust.tally with
      | none => (some job, s.trust.repairJobs)
      | some j => (some j, s.trust.repairJobs ++ [job])
    ({ s with fuses := f, trust := { s.trust with tally := jobs.1, repairJobs := jobs.2, log := log } }, true)

end Sys2Proof.Machine
end

