-- ==== Sys2Proof/Machine/Shows.lean ====
section
/-! DEFINITION. What the blocks hold, as their registers and the blocks themselves look at it: words, tiles' pools, rule-set
records, replica slots, cores and lanes. -/

namespace Sys2Proof.Machine

/-- A word from a number. -/
def wd (n : Nat) : Word := BitVec.ofNat 64 n

/-- A mask of the numbers below n that a test holds of. -/
def maskWhere (n : Nat) (p : Nat → Bool) : Nat := (List.range n).foldl (fun a i => a + b2n (p i) * 2 ^ i) 0

/-! ### Tiles (R65, R72, R86) -/

/-- Blocks of a tile's pool: 1,024 less those of resident weights. -/
def poolBlocks (s : State) (t : Nat) : Nat := 1024 - ((s.disp.residents.filter fun g => g.tiles.contains t).map (·.blocks)).sum

/-- What streams hold on a tile. -/
def tileHolds (s : State) (t : Nat) : List (Nat × Hold) :=
  s.disp.streams.flatMap fun x => (x.holds.filter (·.tile == t)).map fun h => (x.id, h)

/-- Blocks neither in use nor reserved. -/
def freeBlocks (s : State) (t : Nat) : Nat := poolBlocks s t - ((tileHolds s t).map fun p => max p.2.floor p.2.held).sum

/-! ### Culvert engines and Hummock areas (R160, R161) -/

def State.culv (s : State) (k : Nat) : Culv := s.tables.culvs.getD k {}

/-- A Hummock area: its address and bytes. -/
def hummockArea (s : State) (k : Nat) (loc : Option Nat) : Nat × Nat :=
  match loc with
  | none => (fenKey (k / 3) (s.rfld (pgCulv k + 0x490) 12 0 * 2 ^ 20), s.rfld (pgCulv k + 0x490) 42 32 * 2 ^ 20)
  | some t => (hbmKey t (s.rfld (pgCulv t + 0x488) 15 0 * 2 ^ 20), s.rfld (pgCulv t + 0x488) 47 32 * 2 ^ 20)

/-- Replica slots of an engine's rows that are allocated. -/
def Culv.slotsHeld (c : Culv) : List Replica :=
  (c.hot.flatMap fun h => h.planned ++ h.listed) ++ (c.changes.flatMap (·.gone)) ++ c.leaving.flatMap (·.slots)

/-- All allocated slots of the part, each once. -/
def allSlots (s : State) : List Replica :=
  (s.tables.culvs.flatMap Culv.slotsHeld).foldl (fun a r => insertNew r a) []

/-- Those within an area. -/
def slotsIn (s : State) (area : Nat × Nat) : List Replica :=
  (allSlots s).filter fun r => decide (area.1 ≤ r.addr ∧ r.addr < area.1 + area.2)

/-! ### The Reedbed (R224) -/

def State.reed (s : State) (d : Nat) : Reed := s.reeds.getD d {}

/-- The fields of a rule-set record. -/
structure SetRec where
  id : Nat
  die : Nat
  width : Nat
  banks : Nat
  flags : Nat
  deriving DecidableEq, Repr

def SetRec.of (b : List Byte) : SetRec := ⟨fieldN b 0 2, fieldN b 2 1, fieldN b 3 1, fieldN b 4 4, fieldN b 8 1⟩

def SetRec.bankList (r : SetRec) : List Nat := (List.range 32).filter (bitOf r.banks)

/-- Width of a logical bank of a die: that of the set it belongs to. -/
def bankWidth (s : State) (d b : Nat) : Nat :=
  ((s.sets.find? fun e => (SetRec.of e.record).die == d && bitOf (SetRec.of e.record).banks b).map fun e => (SetRec.of e.record).width).getD 0

/-! ### Lanes -/

/-- Every data lane is empty: no request of a tile and no Culvert command is outstanding. -/
def lanesEmpty (s : State) : Bool :=
  s.power.vinGood && dataLanesEmpty s && s.disp.movers.all (fun m => m.out == [] && m.waiting == []) && s.tables.culvs.all fun c => c.queue == [] && c.held == [] && c.back == []

end Sys2Proof.Machine
end

