-- ==== Sys2Proof/Machine/Views.lean ====
section
/-! DEFINITION. What each register reads as: stored values, and the read-only registers that show other state. -/

namespace Sys2Proof.Machine

/-- PG_STAT.PSTATE of a page (R375). -/
def pstate (s : State) (page : Nat) : Nat :=
  if !pageEn s page then 0
  else match pageDie page with
    | none => 1
    | some d => match (s.die d).power with
      | .off => 0
      | .mire | .waking => 4
      | .active | .entering =>
        if keyCls page = 8 then
          match (s.tile (keyInst page)).power with
          | .off => 0
          | .run => 1
          | .doze => 2
          | .nap => 3
        else 1

/-- The common header (R375). -/
def viewHeader (s : State) (page off : Nat) : Word :=
  let cls := keyCls page
  let stat := b2n (bit (s.reg (page + 0x18)) 63) * 2 ^ 63
    + b2n (decide (s.rfld (page + 0x48) 15 0 < s.rfld (page + 0x50) 15 0) && hasBucket cls) * 2 ^ 18
    + b2n (s.reg (page + 0x40) ≠ 0) * 2 ^ 17 + b2n (s.reg (page + 0x38) ≠ 0) * 2 ^ 16
    + b2n (pageBusy s page) * 2 ^ 8 + pstate s page
  if !pageEn s page then (if off = 0x18 then wd 0 else 0)
  else match off with
    | 0x00 => wd (cls * 2 ^ 48 + keyInst page * 2 ^ 32 + 0x01A10001)
    | 0x08 => wd (snapRegs cls * 2 ^ 16 + b2n (hasBucket cls) * 2 + 1)
    | 0x18 => wd stat
    | 0x30 => s.reg (page + 0x20) &&& s.reg (page + 0x28)
    | 0x48 => if hasBucket cls then s.reg (page + 0x48) else 0
    | 0x50 => if hasBucket cls then
        let l := s.rfld (page + 0x50) 15 0
        wd (b2n (decide (s.rfld (page + 0x48) 15 0 < l)) * 2 ^ 63 + l) else 0
    | _ => s.reg (page + off)

/-- CLK and PWR (R406, R408). -/
def devNum : DevPower → Nat
  | .active => 0
  | .idle => 1
  | .mire => 2
  | .standby => 3

def dieBits (s : State) (p : DieState → Bool) : Nat :=
  (List.range 4).foldl (fun a d => a + b2n (p (s.die d)) * 2 ^ d) 0

/-- A die's PLLs are locked while it is ACTIVE or entering MIRE, and 40 µs into a wake; an entry abandoned has not stopped them (R396,
R398). -/
def pllsOn (tick : Nat) (d : DieState) : Bool := match d.power with
  | .active | .entering => true
  | .waking => d.abandoned || decide (d.since + 1000 ≤ tick)
  | _ => false

/-- The PLLs of HCLK and of the I/O die run while the device is not in STANDBY, those of a SerDes while its link is up (R392). -/
def viewClk (s : State) (off : Nat) : Word :=
  match off with
  | 0x408 =>
    let dies := dieBits s (pllsOn s.tick)
    let eth := (List.range 4).foldl (fun a p => a + b2n (s.ext.ports.getD p {}).up * 2 ^ p) 0
    wd (if s.power.vinGood then b2n (s.ext.pcieUp ≠ 0) * 2 ^ 22 + eth * 2 ^ 18 + 3 * 2 ^ 16 + dies * 2 ^ 8 + dies * 2 ^ 4 + dies else 0)
  | _ => s.reg (pgClk + off)

def viewPwr (s : State) (off : Nat) : Word :=
  match off with
  | 0x400 => wd (dieBits s (fun d => d.power == .mire || d.power == .waking) * 2 ^ 8 + devNum s.power.dev)
  | 0x418 => wd (s.power.sample.avg1 % 2 ^ 16 * 2 ^ 32 + s.power.sample.current % 2 ^ 16 * 2 ^ 16
      + s.power.sample.volts % 2 ^ 16)
  | 0x420 => wd (s.power.sample.avg100 % 2 ^ 16)
  | _ => s.reg (pgPwr + off)

/-- Granules of a stack in a fill-map state. -/
def countFill (s : State) (k : Nat) (f : Fill) : Nat :=
  (s.gran.filter fun p => decide (granKey k 0 ≤ p.1) && decide (p.1 < granKey k 213909504) && p.2.fill == f).length

/-- HBMC (R117). -/
def viewHbmc (s : State) (k off : Nat) : Word :=
  let t := s.stack k
  let ce (n : Nat) := (List.range 4).foldl (fun a i => a + t.dieCe.getD (4 * n + i) 0 * 2 ^ (16 * i)) 0
  match off with
  | 0x400 => wd (b2n t.absent * 2 ^ 63 + t.cap * 2 ^ 8 + t.bin)
  | 0x408 => wd (countFill s k .poisoned * 2 ^ 32 + countFill s k .written)
  | 0x418 => wd (t.position % 2 ^ 28 * 2 ^ 32 + t.passes % 2 ^ 32)
  | 0x420 => wd (ce 0)
  | 0x428 => wd (ce 1)
  | 0x430 => wd (ce 2)
  | 0x438 => wd (ce 3)
  | 0x440 => wd (match t.marked with | some d => 2 ^ 63 + d | none => 0)
  | 0x488 => wd (t.rows % 2 ^ 16 * 2 ^ 16 + t.lanes % 2 ^ 8)
  | _ => s.reg (pgHbmc k + off)

/-- MiB of a Fen layer copied after some ticks at 200 GB/s (R114). -/
def copiedMib (ticks : Nat) : Nat := Nat.min 2048 (ticks * 8000 / 2 ^ 20)

/-- FEN (R119). COPIED_MIB reads 2,048 once a copy has ended and on a part whose spare is in use from an earlier one (log 77,
DESIGN CHOICE). -/
def viewFen (s : State) (d off : Nat) : Word :=
  let f := s.fen d
  match off with
  | 0x400 => wd (f.layers.zipIdx.foldl (fun a p => a + p.1 * 16 ^ p.2) (f.spare * 2 ^ 16))
  | 0x408 => wd (b2n f.copying.isSome * 2 ^ 63 + b2n f.spareDone * 2 ^ 62
      + (if f.copying.isSome then copiedMib (s.tick - f.copyStart) else if f.spareDone then 2048 else 0) * 2 ^ 32 + f.lastLayer)
  | 0x410 => wd (b2n f.sweepDone * 2 ^ 63 + f.sweepTicks % 2 ^ 16)
  | 0x428 => wd (f.srEntries % 2 ^ 32 * 2 ^ 32 + b2n f.inSr)
  | _ => s.reg (pgFen d + off)

def stageNum : BootStage → Nat
  | .rom => 0
  | .mcFirmware => 1
  | .bringUp => 2
  | .training => 3
  | .load => 4
  | .configure => 5
  | .ready => 6
  | .recovery => 7

/-- The order in force: the override setting, or the straps (R410). -/
def orderInForce (s : State) : Nat := if s.fuses.override = 0 then s.trust.straps % 4 else s.fuses.override - 1

/-- SEC (R431). -/
def viewSec (s : State) (off : Nat) : Word :=
  let t := s.trust
  let sel := s.rfld (pgSec + 0x428) 3 0
  match off with
  | 0x400 => wd (b2n t.ready * 2 ^ 63 + stageNum t.stage * 2 ^ 12
      + (if t.fwLoaded then t.fwFrom.1 * 2 ^ 8 + t.fwFrom.2.1 else 0))
  | 0x408 => wd (b2n (s.fuses.override ≠ 0) * 2 ^ 10 + orderInForce s * 2 ^ 8 + t.straps % 16)
  | 0x410 => wd (s.fuses.lifeUsed * 2 ^ 8 + lifeNum s.fuses.life * 2 ^ 4 + lifeNum t.life)
  | 0x418 => wd ((if t.fwLoaded then fieldN t.dispHeader 8 1 * 2 ^ 24 + fieldN t.hostHeader 8 1 * 2 ^ 16 else 0)
      + (if t.mcRunning then fieldN t.mcHeader 8 1 * 2 ^ 8 else 0) + s.fuses.svn)
  | 0x420 => wd (s.fuses.revokes * 2 ^ 8 + ownerSlots s.fuses)
  | 0x470 => wd (t.measCnt.getD sel 0 % 2 ^ 32)
  | 0x4C0 => wd t.debug
  | _ =>
    if 0x430 ≤ off ∧ off ≤ 0x468 then wd (fieldN (t.meas.getD sel []) (off - 0x430) 8)
    else s.reg (pgSec + off)

/-- PEAT (R449). -/
def viewPeat (s : State) (off : Nat) : Word :=
  let kcyc (b : Nat) := (s.bank b).erases.foldl (fun a p => Nat.max a p.2) 0 / 1000
  match off with
  | 0x400 => wd (b2n s.power.mossUp * 2 ^ 33 + b2n s.power.mossUp * 2 ^ 32)
  | 0x410 =>
    let b := s.rfld (pgPeat + 0x408) 8 8
    let t := s.rfld (pgPeat + 0x408) 2 0
    if 1 ≤ t ∧ t ≤ 5 then
      match slotRec? s b t with
      | some r => if r.headerValid t then wd (b2n (r.valid t) * 2 ^ 63 + 2 ^ 62 + r.seq % 2 ^ 48) else 0
      | none => 0
    else 0
  | 0x418 => wd ((s.bank 1).spares * 2 ^ 48 + (s.bank 0).spares * 2 ^ 32 + kcyc 1 % 2 ^ 16 * 2 ^ 16 + kcyc 0 % 2 ^ 16)
  | _ => s.reg (pgPeat + off)

/-- TALLY (R451). -/
def viewTally (s : State) (off : Nat) : Word :=
  let f := s.fuses
  let pack (w : Nat) (l : List Nat) := l.zipIdx.foldl (fun a p => a + p.1 * 2 ^ (w * p.2)) 0
  match off with
  | 0x400 => wd (f.lifeUsed * 2 ^ 8 + lifeNum f.life)
  | 0x408 => wd (f.svnUsed * 2 ^ 8 + f.svn)
  | 0x410 => wd (f.revokes * 2 ^ 8 + revokedBits f)
  | 0x418 => wd (f.floorUsed * 2 ^ 16 + f.floor)
  | 0x420 => wd (f.overrideUsed * 2 ^ 8 + f.override)
  | 0x428 => wd (pack 8 f.repairDie)
  | 0x430 => wd (pack 8 (f.repairHbm.take 6))
  | 0x438 => wd (pack 8 (f.repairHbm.drop 6))
  | 0x440 => wd f.repairIod
  | 0x448 => wd (b2n s.trust.tally.isSome * 2 ^ 63 + s.trust.reqSetting * 2 ^ 8 + s.trust.reqResult)
  | 0x468 => wd (f.spoiled.length % 2 ^ 16)
  | _ => s.reg (pgTally + off)

/-- DISP (R64). -/
def viewDisp (s : State) (off : Nat) : Word :=
  match off with
  | 0x408 => wd s.fuses.floor
  | 0x410 => wd (maskWhere 64 fun k => (s.disp.slots.getD k {}).session.isSome)
  | 0x420 => wd (s.disp.streams.filter (·.state != .closed)).length
  | 0x440 => wd s.tick
  | _ => s.reg (pgDisp + off)

/-- A count that a register shows and the manual does not fix, while a unit is at work. -/
def freeWhile (s : State) (busy : Bool) (k limit : Nat) : Nat := if busy then Config.freeReal 921 k s.freeCtr % limit else 0

/-- TILE (R88, R259, R281). -/
def viewTile (s : State) (t off : Nat) : Word :=
  let out := (s.disp.movers.getD t {}).out
  match off with
  | 0x408 => wd (((tileHolds s t).filter fun p => p.2.floor != 0 || p.2.held != 0).length * 2 ^ 24
      + Nat.min 32 (s.disp.movers.getD t {}).exec.length * 2 ^ 16 + (out.filter (·.pool == 2)).length * 2 ^ 8
      + (out.filter (·.pool != 2)).length)
  | 0x410 => wd (poolBlocks s t * 2 ^ 32 + ((tileHolds s t).map fun p => p.2.floor - p.2.held).sum * 2 ^ 16 + freeBlocks s t)
  | 0x580 => match s.disp.residents.find? fun g => g.tiles.contains t with
    | some g => wd (2 ^ 63 + g.stream * 2 ^ 32 + g.group * 2 ^ 16 + g.blocks)
    | none => 0
  | 0x588 => wd (s.fuses.repair.muCols.getD t 0)
  | _ => s.reg (pgTile t + off)

/-- CULV (R178). -/
def viewCulv (s : State) (k off : Nat) : Word :=
  let c := s.culv k
  let inArea (a : Nat × Nat) : Nat := ((slotsIn s a).map (·.grans)).sum
  match off with
  | 0x400 => wd ((c.queue.filter (·.kind.updates)).length * 2 ^ 16 + c.queue.length)
  | 0x498 => wd ((s.tables.dirs.filter fun e => e.untracked.contains k).length * 2 ^ 32 + c.slots.length)
  | 0x4A0 => wd ((slotsIn s (hummockArea s k (some k))).length * 2 ^ 32 + c.hot.length)
  | 0x4A8 => wd (inArea (hummockArea s k none) * 2 ^ 32 + inArea (hummockArea s k (some k)))
  | _ => s.reg (pgCulv k + off)

/-- Keys of a Reedbed in the order in which their streams have their turns, each stream's first one only (R240): the turn after a
stream's is that of the next higher stream number that has a key (log 85, DESIGN CHOICE). -/
def keyTurns (x : Reed) : List RbKey :=
  let ids := x.keys.foldl (fun l k => insertNew k.stream l) []
  let sorted := (List.range 1024).filter ids.contains
  ((sorted.filter fun i => decide (x.turn < i)) ++ sorted.filter fun i => decide (i ≤ x.turn)).filterMap fun i => x.keys.find? (·.stream == i)

/-- The banks that compare now (R234, R240): those of the key whose turn it is, and of the others that need none of them. -/
def comparing (x : Reed) : Nat := (keyTurns x).foldl (fun m k => if m &&& k.banks = 0 then m ||| k.banks else m) 0

/-- The physical banks of a die's logical banks; while a spare is filled, the old bank still serves (R243). -/
def bankMap (s : State) (d : Nat) : List Nat :=
  let l := s.fuses.repair.reedMap.getD d []
  match (s.reed d).copying with
  | some (b, old) => setAt l b old
  | none => l

/-- REED (R245). -/
def viewReed (s : State) (d off : Nat) : Word :=
  let r := s.fuses.repair
  let map8 (n : Nat) : Word := wd (((bankMap s d).drop (8 * n)).take 8 |>.zipIdx |>.foldl (fun a p => a + p.1 * 256 ^ p.2) 0)
  match off with
  | 0x400 => wd ((r.reedFree.getD d []).length * 2 ^ 32 + r.reedUsable.getD d 0)
  | 0x408 => map8 0
  | 0x410 => map8 1
  | 0x418 => map8 2
  | 0x420 => map8 3
  | 0x428 => putFld (s.reg (pgReed d + off)) 63 63 (b2n (s.reed d).copying.isSome)
  | 0x430 => wd ((List.range 32).foldl (fun a b => a + (match bankWidth s d b with
      | 0 => 0
      | 1 => 1
      | 2 => 2
      | _ => 3) * 4 ^ b) 0)
  | 0x438 => wd (if (s.die d).power = .active then comparing (s.reed d) else 0)
  | _ => s.reg (pgReed d + off)

/-- DEFL, PICT and SHUF (R331, R347). -/
def viewDefl (s : State) (n off : Nat) : Word :=
  let busy := s.assigns.any (·.page == pgDefl n)
  if off = 0x400 then wd (b2n busy * 2 ^ 32 + freeWhile s busy (pgDefl n + off) 1048577) else s.reg (pgDefl n + off)

def viewPict (s : State) (n off : Nat) : Word :=
  if off = 0x400 then wd (freeWhile s (s.assigns.any (·.page == pgPict n)) (pgPict n + off) 1024) else s.reg (pgPict n + off)

def viewShuf (s : State) (off : Nat) : Word :=
  let x := s.disp.streams.find? fun x => x.id == s.rfld (pgShuf + 0x420) 9 0 && x.state != .closed
  let bound := (x.bind (·.plan)).any fun p => p.stages.any fun r => fieldN r 0 2 == 0x0603
  match x, off with
  | some x, 0x428 => if bound then wd (x.cursor.1 * 2 ^ 32 + x.cursor.2) else 0
  | some x, 0x430 => if bound && x.badEpoch == x.cursor.1 then wd x.epochBad else 0
  | _, _ => s.reg (pgShuf + off)

/-- FAB (R367). -/
def viewFab (s : State) (off : Nat) : Word :=
  let urgent := (s.disp.halts.map fun h => h.toReceive.length + h.toAck.length).sum
  let normal := s.fab.wakes.length + s.tables.epochMsgs.length
  let phase := match s.fab.phase with
    | .none => 0
    | .stopping => 1
    | .draining => 2
    | .quiet => 3
  match off with
  | 0x408 => wd (Nat.min 255 normal * 256 + Nat.min 255 urgent)
  | 0x428 => wd (b2n s.fab.held * 2 ^ 33 + b2n (lanesEmpty s) * 2 ^ 32 + s.fab.sluices % 2 ^ 30 * 4 + phase)
  | 0x438 => wd (b2n s.fab.mcDone * 2 ^ 63 + b2n s.fab.mcBusy * 2 ^ 62 + s.fab.mcStreams)
  | _ => s.reg (pgFab + off)

/-- D2D (R369). -/
def viewD2d (s : State) (l off : Nat) : Word :=
  let down := s.fab.linkDown.getD l false
  match off with
  | 0x400 => wd (b2n (s.fab.linkUp.getD l false && !down) * 2 ^ 63 + b2n (decide (l < 4) && down) * 2 ^ 62
      + s.fab.retrains.getD l 0 * 2 ^ 32 + s.fuses.repair.d2dLanes.getD l 0)
  | 0x428 => wd (s.fab.rtt.getD l 0)
  | 0x430 => putFld (s.reg (pgD2d l + off)) 63 63 (b2n (s.fab.repairing.getD l false))
  | _ => s.reg (pgD2d l + off)

/-- HOST (R466). -/
def viewHost (s : State) (off : Nat) : Word :=
  match off with
  | 0x400 => wd (s.fuses.repair.coreFree.length * 2 ^ 40 + s.fuses.repair.coreEn)
  | 0x408 => wd ((dispCores s).zipIdx.foldl (fun a p => a + p.1 * 256 ^ p.2) 0)
  | 0x428 => wd s.host.running
  | _ => s.reg (pgHost + off)

/-- The first APLIC source of a class, and the page of a source (R463). -/
def aplicFirst (cls : Nat) : Nat :=
  [0, 1, 2, 3, 4, 5, 17, 29, 33, 85, 89, 90, 106, 114, 122, 123, 127, 128, 129, 130, 131, 132, 133, 134].getD cls 0
def aplicPage (source : Nat) : Option Nat :=
  allPages.find? fun p => aplicFirst (keyCls p) + keyInst p == source

/-- The interrupt request of a page is asserted while PG_INT_PEND is nonzero (R377). -/
def requests (s : State) (page : Nat) : Bool := pageOn s page && viewHeader s page 0x30 != 0

/-- ETH, PCIE and MGMT (R489, R491, R493); QP_TBL of ports 1 to 3 reads zero (R470). -/
def viewEth (s : State) (p off : Nat) : Word :=
  let x := s.ext.ports.getD p {}
  if off = 0x408 then wd (b2n x.up * 2 ^ 63 + (if x.up then x.mode else 0) * 2 ^ 8 + x.spare)
  else if off = 0x418 ∧ p ≠ 0 then 0 else s.reg (pgEth p + off)

def viewPcie (s : State) (off : Nat) : Word :=
  if off = 0x400 then
    wd (b2n s.ext.pcieRoot * 2 ^ 63 + s.ext.pcieUp * 2 ^ 12 + s.ext.pcieRate * 2 ^ 8 + s.ext.pcieWidth)
  else s.reg (pgPcie + off)

def viewMgmt (s : State) (off : Nat) : Word :=
  if off = 0x400 then wd (b2n s.ext.mgmtUp * 2 ^ 63 + s.ext.mgmtFec * 4 + s.ext.mgmtSpeed) else s.reg (pgMgmt + off)

/-- The value a register shows, before the access rules of R373. -/
def regShown (s : State) (k : Nat) : Word :=
  let page := pageKey (keyCls k) (keyInst k)
  let off := keyOff k
  if off < 0x100 then viewHeader s page off
  else if !pageEn s page then 0
  else if off < 0x400 then s.reg k
  else match regRow? (keyCls k) off with
    | none => 0
    | some r =>
      if r.wo then 0
      else match keyCls k with
        | 2 => viewClk s off
        | 3 => viewPwr s off
        | 4 => viewFab s off
        | 5 => viewHbmc s (keyInst k) off
        | 6 => if (s.stack (keyInst k)).absent then 0 else viewCulv s (keyInst k) off
        | 7 => viewFen s (keyInst k) off
        | 8 => viewTile s (keyInst k) off
        | 9 => viewReed s (keyInst k) off
        | 10 => viewDisp s off
        | 11 => viewDefl s (keyInst k) off
        | 12 => viewPict s (keyInst k) off
        | 14 => viewShuf s off
        | 15 => viewEth s (keyInst k) off
        | 16 => viewPcie s off
        | 17 => viewMgmt s off
        | 18 => viewSec s off
        | 19 => viewPeat s off
        | 20 => viewTally s off
        | 21 => viewHost s off
        | 23 => viewD2d s (keyInst k) off
        | _ => s.reg k

end Sys2Proof.Machine
end

