-- ==== Sys2Proof/Machine/Registers.lean ====
section
/-! DEFINITION. Accesses to register space (R6, R9, R371 to R378). -/

namespace Sys2Proof.Machine

/-- An answer to the latest access. -/
def answer (s : State) (r : Resp) : State := { s with resp := r }

/-- A tile in DOZE or NAP comes to RUN (R393). -/
def wakeTile (s : State) (t : Nat) : State :=
  match (s.tile t).power with
  | .doze | .nap => s.setTile t fun x => { x with power := .run, since := s.tick }
  | _ => s

/-- What an access to register space meets (R371, R373). -/
inductive Gate where
  | bus | hold (die : Nat) | through
  deriving DecidableEq, Repr

/-- The gate before a register: no page or no power is a bus error; block-specific registers of a die that is not
ACTIVE are held until it is. -/
def regGate (s : State) (who : Agent) (k : Nat) : Gate :=
  let page := pageKey (keyCls k) (keyInst k)
  if who = .unit ∨ k % 8 ≠ 0 ∨ !pageExists k ∨ !pageOn s page then .bus
  else if keyOff k < 0x400 then .through
  else match pageDie page with
    | none => .through
    | some d => if (s.die d).power = .active then .through else .hold d

/-- A block-specific access wakes a sleeping tile (R373, R393). -/
def wakeForAccess (s : State) (k : Nat) : State :=
  if keyCls k = 8 ∧ 0x400 ≤ keyOff k then wakeTile s (keyInst k) else s

/-- One field after a write of its register. -/
def applyField (locked : Bool) (v : Nat) (w : Nat) (f : FieldRow) : Nat :=
  let x := bitsOf v f.hi f.lo
  let old := bitsOf w f.hi f.lo
  match f.acc with
  | .w1c => putBits w f.hi f.lo (old - (old &&& x))
  | .rw => if f.rule.ok x then putBits w f.hi f.lo x else w
  | .rwl => if !locked && f.rule.ok x then putBits w f.hi f.lo x else w

/-- A register after a write, by its fields' access codes (R9); reserved bits and read-only fields do not change. -/
def writtenReg (s : State) (k : Nat) (v : Word) : Word :=
  let page := pageKey (keyCls k) (keyInst k)
  wd ((fieldsAt (keyCls k) (keyOff k)).foldl (applyField (pageLocked s page) v.toNat) (s.reg k).toNat)

/-- The queue and doorbell registers of an NVMe queue pair whose EN is 1 ignore writes (R491). -/
def lentQueue (s : State) (k : Nat) : Bool :=
  let off := keyOff k
  keyCls k == 16 && decide (0x800 ≤ off ∧ off < 0xC00) && off % 64 != 0 && bit (s.reg (k - off % 64)) 63

/-- A plain write of a register: those with a row of their own are left to it, and a block out of service ignores writes
to its own registers (R373). A write of STILL.TIMER that is taken starts its period (R389). -/
def regWriteAt (s : State) (k : Nat) (v : Word) : State :=
  let page := pageKey (keyCls k) (keyInst k)
  if 0x400 ≤ keyOff k ∧ !pageEn s page then s
  else match regRow? (keyCls k) (keyOff k) with
    | none => s
    | some r =>
      if r.own || lentQueue s k then s
      else
        let s' := s.setReg k (writtenReg s k v)
        if k = pgStill + 0x418 ∧ (FieldRule.zeroOr 25000 4294967295).ok (fld v 31 0) then
          { s' with still := { s'.still with timerFrom := s.tick } }
        else s'

/-- A read of a register: its value, cleared to zero where it is read-to-clear (R9). -/
def regReadAt (s : State) (k : Nat) : State × Word :=
  let page := pageKey (keyCls k) (keyInst k)
  let v := regShown s k
  match regRow? (keyCls k) (keyOff k) with
  | some r =>
    if r.rc && pageEn s page then (s.setReg k 0, v) else (s, v)
  | none => (s, v)

/-- A command held until a die is ACTIVE. -/
def holdAt (s : State) (d : Nat) (c : Instr) : State :=
  answer ((wakeDieBy s d 2).setDie d fun x => { x with held := x.held ++ [c] }) .held

/-- An access passed to a register, held, or turned away with a bus error. -/
def regAccess (s : State) (who : Agent) (k : Nat) (h : Instr) (go : State → State) : State :=
  match regGate s who k with
  | .bus => answer s .busError
  | .hold d => holdAt s d h
  | .through => go (wakeForAccess s k)

/-! ### Tile SRAM through its window (R91, R115) -/

/-- Bytes of tile SRAM as an access reads them: what a byte never written since power-up holds is free. -/
def sramBytes (s : State) (a n : Nat) : State × List Byte :=
  ({ s with freeCtr := s.freeCtr + n }, (List.range n).map fun i => match (s.sram.find? (·.1 == a + i)).bind (·.2) with
    | some b => b
    | none => BitVec.ofNat 8 (Config.freeWord (s.freeCtr + i)).toNat)

/-- A window access is for an enabled tile that has power; it wakes a sleeping tile, and waits for its die. -/
def sramAccess (s : State) (who : Agent) (t a : Nat) (h : Instr) (go : State → State) : State :=
  if who = .unit ∨ !(s.tile t).enabled ∨ (s.tile t).power = .off ∨ a % 8 ≠ 0 then answer s .busError
  else if (s.die (t / 13)).power = .active then go (wakeTile s t) else holdAt s (t / 13) h

/-- A read of a word of tile SRAM. One never written since power-up gives what it holds, and may count an SRAM error,
correctable or uncorrectable: a free value says which. -/
def sramRead (t a : Nat) (s : State) : State :=
  let fresh := (List.range 8).any fun i => ((s.sram.find? (·.1 == a + i)).bind (·.2)).isNone
  match sramBytes s a 8 with
  | (s, bs) =>
    let s := if fresh then
        let r := takeFreeBits s 2
        if r.2 = 1 then countCE r.1 (pgTile t)
        else if r.2 = 2 then
          (countUE r.1 (pgTile t)).setTile t fun y => { y with ueTicks := s.tick :: y.ueTicks.filter fun k => decide (s.tick < k + 25000000) }
        else r.1
      else s
    answer s (.word (wd (leNat bs)))

/-- A write of a word of tile SRAM. -/
def sramWrite (a : Nat) (v : Word) (s : State) : State :=
  answer { s with sram := (natLE 8 v.toNat).zipIdx.foldl (fun m p => cellsSet (fun _ => none) (a + p.2) (some p.1) m) s.sram } .done

/-- REGISTER_WRITE: a plain write (R9, R372); at an address of a tile window, a write of a word of its SRAM (R115; log 79, DESIGN CHOICE). -/
def writeRegister (who : Agent) (addr : Nat) (v : Word) (s : State) : State :=
  match placeOf addr with
  | .regs k => regAccess s who k (.registerWrite who addr v) fun s => answer (regWriteAt s k v) .done
  | .tile t _ => sramAccess s who t addr (.registerWrite who addr v) (sramWrite addr v)
  | _ => s

def execRegisterWrite (who : Agent) (addr : Nat) (v : Word) (s : State) : Host.Outcome State Fault Refusal :=
  .next (writeRegister who addr v s)

/-- RC_READ: a read of a register (R9, R372); at an address of a tile window, a read of a word of its SRAM (R115; log 79, DESIGN CHOICE). -/
def readRegister (who : Agent) (addr : Nat) (s : State) : State :=
  match placeOf addr with
  | .regs k => regAccess s who k (.rcRead who addr) fun s =>
      let r := regReadAt s k
      answer r.1 (.word r.2)
  | .tile t _ => sramAccess s who t addr (.rcRead who addr) (sramRead t addr)
  | _ => s

def execRcRead (who : Agent) (addr : Nat) (s : State) : Host.Outcome State Fault Refusal :=
  .next (readRegister who addr s)

/-- Does an access draw a bus error (R6, R91, R371, R373), or a host core's AMO or LR/SC an access fault (R454)? -/
def isBusError (s : State) (who : Agent) (addr size : Nat) (atomic : Bool) : Bool :=
  let noAtomic := atomic && who == .host
  match placeOf addr with
  | .regs k => size ≠ 8 || regGate s who k == .bus || noAtomic
  | .unbacked => true
  | .tile t _ => !(s.tile t).enabled || (s.tile t).power == .off || noAtomic
  | .hbm _ _ => noAtomic && !(cachedView addr)
  | .fen _ _ => false

/-- BUS_ERROR_ACCESS: the access is answered with a bus error and has no other effect (R6). -/
def execBusErrorAccess (who : Agent) (addr size : Nat) (_write atomic : Bool) (s : State) : Host.Outcome State Fault Refusal :=
  .next (if isBusError s who addr size atomic then answer s .busError else s)

/-! ### PG_CTL (R376) -/

/-- A write of PG_CTL changes all its writable fields at once: EN while unlocked (a 0 is ignored while BUSY), PWR_REQ,
LOCK, and SRST unless BUSY. -/
def pgCtlWrite (s : State) (page : Nat) (v : Word) : State :=
  let old := s.reg (page + 0x10)
  let busy := pageBusy s page
  let en := if bit old 63 then bit old 0 else if bit v 0 then true else if busy then bit old 0 else false
  let req := if fld v 5 4 ≤ 1 then fld v 5 4 else fld old 5 4
  let lock := bit old 63 || bit v 63
  let s := s.setReg (page + 0x10) (wd (b2n lock * 2 ^ 63 + req * 16 + b2n en))
  let s := if bit v 1 && !busy then { s with srst := insertNew page s.srst } else s
  let s := if keyCls page = 8 then s.setTile (keyInst page) fun x =>
      if !en || !x.enabled then { x with power := .off, since := s.tick }
      else if x.power = .off then { x with power := .doze, since := s.tick }
      else if req = 1 ∧ x.power = .nap then { x with power := .doze, since := s.tick }
      else x
    else s
  match pageDie page with
  | some d => if req = 1 then wakeDieBy s d 3 else s
  | none => s

/-- A PG_CTL write by an agent; the header is answered whatever the block's sleep. -/
def pgCtlAccess (who : Agent) (cls inst : Nat) (v : Word) (s : State) : State :=
  match regGate s who (rk cls inst 0x10) with
  | .through => answer (pgCtlWrite s (pageKey cls inst) v) .done
  | _ => answer s .busError

/-- PG_LOCK: a write that sets LOCK. -/
def execPgLock (who : Agent) (cls inst : Nat) (v : Word) (s : State) : Host.Outcome State Fault Refusal :=
  .next (if bit v 63 then pgCtlAccess who cls inst v s else s)

/-- PG_SOFT_RESET: a write that requests a soft reset. -/
def execPgSoftReset (who : Agent) (cls inst : Nat) (v : Word) (s : State) : Host.Outcome State Fault Refusal :=
  .next (if bit v 1 then pgCtlAccess who cls inst v s else s)

/-- PG_ENABLE: a write of EN. -/
def execPgEnable (who : Agent) (cls inst : Nat) (v : Word) (s : State) : Host.Outcome State Fault Refusal :=
  .next (pgCtlAccess who cls inst v s)

/-- PG_PWR_REQ: a write of PWR_REQ. -/
def execPgPwrReq (who : Agent) (cls inst : Nat) (v : Word) (s : State) : Host.Outcome State Fault Refusal :=
  .next (pgCtlAccess who cls inst v s)

/-- A stored register of a page after its soft reset: the window, PG_SNAP_SEQ and PG_SNAP_CNT stay, and EN, LOCK, the locked
RWL fields and the TF fields with them (R376): REED's SPARE_CTL and D2D's LANE_REPAIR store nothing but their TF field. -/
def softKept (s : State) (page : Nat) (k : Nat) (v : Word) : Word :=
  let off := k - page
  if (0x100 ≤ off ∧ off < 0x400) ∨ off = 0x68 ∨ off = 0x70 then v
  else if off = 0x10 then wd (b2n (bit v 63) * 2 ^ 63 + b2n (bit v 0))
  else if off = 0x18 then v
  else if (keyCls k = 9 ∧ off = 0x428) ∨ (keyCls k = 23 ∧ off = 0x430) then v
  else if pageLocked s page then
    wd ((fieldsAt (keyCls k) (keyOff k)).foldl
      (fun w f => if f.acc = .rwl then putBits w f.hi f.lo (bitsOf v.toNat f.hi f.lo) else w) (regReset k).toNat)
  else regReset k

/-- Counters that other state holds are cleared by a soft reset too (R376), but DIE_CE, which restarts at the start of a scrub
pass and at no other time (R104). -/
def softCounters (s : State) (page : Nat) : State :=
  match keyCls page with
  | 5 => s.setStack (keyInst page) fun k => { k with passes := 0 }
  | 7 => s.setFen (keyInst page) fun f => { f with srEntries := 0 }
  | 4 => { s with fab := { s.fab with sluices := 0 } }
  | 23 => { s with fab := { s.fab with retrains := setAt s.fab.retrains (keyInst page) 0 } }
  | _ => s

/-- The end of a soft reset. -/
def softResetEnd (s : State) (page : Nat) : State :=
  let mine := s.regs.filter fun p => decide (page ≤ p.1 ∧ p.1 < page + 2 ^ 16)
  let s' := { softCounters s page with srst := s.srst.filter (· ≠ page) }
  mine.foldl (fun t p => t.setReg p.1 (softKept s page p.1 p.2)) s'

/-- PG_SOFT_RESET_END: within 1 µs the soft reset completes (R376). -/
def execPgSoftResetEnd (cls inst : Nat) (s : State) : Host.Outcome State Fault Refusal :=
  .next (if s.srst.contains (pageKey cls inst) then softResetEnd s (pageKey cls inst) else s)

/-! ### The leaky bucket (R378) -/

/-- When a page's leak timer last started. -/
def leakFrom (s : State) (page : Nat) : Nat := cellsGet (fun _ => 0) page s.leaks
def setLeak (s : State) (page t : Nat) : State := { s with leaks := cellsSet (fun _ => 0) page t s.leaks }

/-- A leak of a page's bucket: every LEAK_MS milliseconds a level above 0 falls by 1. -/
def bucketLeak (s : State) (page : Nat) : State :=
  let due := leakFrom s page + s.rfld (page + 0x48) 47 32 * 25000
  if hasBucket (keyCls page) && pageExists page && decide (due ≤ s.tick) then
    let s := setLeak s page due
    let l := s.rfld (page + 0x50) 15 0
    if l = 0 then s else s.setRfld (page + 0x50) 15 0 (l - 1)
  else s

def execBucketLeak (cls inst : Nat) (s : State) : Host.Outcome State Fault Refusal :=
  .next (bucketLeak s (pageKey cls inst))

/-- A write of PG_BKT_CFG (R375, R378): in-range fields change, the level is 0 and the leak timer starts again; a block
without a bucket ignores it. -/
def bucketConfig (s : State) (page : Nat) (v : Word) : State :=
  if hasBucket (keyCls page) then
    let s := if 1 ≤ fld v 47 32 ∧ fld v 47 32 ≤ 60000 then s.setRfld (page + 0x48) 47 32 (fld v 47 32) else s
    let s := if 1 ≤ fld v 15 0 then s.setRfld (page + 0x48) 15 0 (fld v 15 0) else s
    setLeak (s.setRfld (page + 0x50) 15 0 0) page s.tick
  else s

def execBucketConfigWrite (who : Agent) (cls inst : Nat) (v : Word) (s : State) : Host.Outcome State Fault Refusal :=
  .next (match regGate s who (rk cls inst 0x48) with
    | .through => answer (bucketConfig s (pageKey cls inst) v) .done
    | _ => answer s .busError)

end Sys2Proof.Machine
end

