-- ==== Sys2Proof/Machine/Stage.lean ====
section
/-! DEFINITION. What every operator's stage shares: its record (R60, R61, R534), the context it runs in, sessions' quotas,
and counters spread over the tiles of a stage. -/

namespace Sys2Proof.Machine

/-! ### Stage records (R60, R61) -/

def stOp (r : List Byte) : Nat := fieldN r 0 2
def stRole (r : List Byte) : Nat := fieldN r 2 1
def stTiles (r : List Byte) : Nat := fieldN r 3 1
def stFlags (r : List Byte) : Nat := fieldN r 4 1
def stTimeoutOf (r : List Byte) : Nat := fieldN r 8 4
def inRef (r : List Byte) (i : Nat) : Nat := fieldN r (16 + 2 * i) 2
def outWord (r : List Byte) (i : Nat) : Nat := fieldN r (32 + 2 * i) 2
def inUsed (r : List Byte) (i : Nat) : Bool := inRef r i != 0xFFFF
def outUsed (r : List Byte) (i : Nat) : Bool := outWord r i != 0xFFFF

/-- The offset of an input reference and of an output word. -/
def inOff (i : Nat) : Nat := 16 + 2 * i
def outOff (i : Nat) : Nat := 32 + 2 * i

/-- The operator groups (R62). -/
def opGroup (op : Nat) : Nat := op / 256

/-- Operators whose stage is assigned one tile though TILES is 0 (R130, R227). -/
def oneTile (op : Nat) : Bool := opGroup op == 2 || opGroup op == 5 || op == 0x0802

/-- Tiles that a stage asks for. -/
def tilesWanted (r : List Byte) : Nat := if oneTile (stOp r) then 1 else stTiles r

/-- How an operator uses a port (R534). -/
inductive Use where
  | must | may | never
  deriving DecidableEq, Repr

/-- A port's use agrees with a condition. -/
def Use.iff (b : Bool) : Use := if b then .must else .never

def Use.ok (u : Use) (used : Bool) : Bool :=
  match u with
  | .must => used
  | .may => true
  | .never => !used

/-- What was read at the bind for a stage: the operand's offset and the bytes (R59). -/
abbrev Blocks := List (Nat × List Byte)

def blockAt (b : Blocks) (k : Nat) : List Byte := ((b.find? (·.1 == k)).map (·.2)).getD []

/-- What a stage's run sees. -/
structure Ctx where
  stream : Nat
  idx : Nat
  stage : Nat
  record : List Byte
  blocks : Blocks
  rows : Nat
  level : Nat
  pages : List Nat
  /-- The stage record that each input reference names, for outputs of earlier stages, and committed descriptors. -/
  outs : List (Option Desc)
  seed : Nat

def Ctx.op (c : Ctx) : Nat := stOp c.record
def Ctx.page (c : Ctx) : Nat := c.pages.headD 0
/-- Free numbers for a purpose of this run. -/
def Ctx.free (c : Ctx) (purpose : Nat) (i : Nat) : Nat := Config.freeReal (c.seed + 1000) purpose i
/-- A field of the operands. -/
def Ctx.n (c : Ctx) (off len : Nat) : Nat := fieldN c.record off len

/-- An input of a stage; an unused one is empty. -/
def inCol (ins : List (Option Col)) (i : Nat) : Col := (ins.getD i none).getD {}

/-- Rows 0 to n - 1 cut into T contiguous ranges (R185, R266): the range of row m. -/
def rowTile (n t m : Nat) : Nat := ((List.range t).find? fun i => decide (m < (i + 1) * n / t)).getD 0

/-- Adds row counts to a counter of each tile of a stage, by the rows each works. -/
def spread (s : State) (pages : List Nat) (off : Nat) (counts : List Nat) : State :=
  (pages.zipIdx).foldl (fun s p =>
    let lo := p.2 * counts.length / pages.length
    let hi := (p.2 + 1) * counts.length / pages.length
    let n := ((counts.drop lo).take (hi - lo)).sum
    if n = 0 then s else bump s (p.1 + off) n) s

/-! ### Sessions and quotas (R43, R44) -/

def State.slot (s : State) (k : Nat) : SlotState := s.disp.slots.getD k {}
def State.setSlot (s : State) (k : Nat) (f : SlotState → SlotState) : State :=
  { s with disp := { s.disp with slots := modifyAt s.disp.slots k f } }

def State.stream? (s : State) (id : Nat) : Option Stream := s.disp.streams.find? (·.id == id)
def State.setStream (s : State) (id : Nat) (f : Stream → Stream) : State :=
  { s with disp := { s.disp with streams := s.disp.streams.map fun x => if x.id = id then f x else x } }

/-- The slot of the session that a stream belongs to. -/
def State.slotOf (s : State) (stream : Nat) : Nat := ((s.stream? stream).map (·.session)).getD 64

/-- The session of a slot. -/
def State.session (s : State) (slot : Nat) : Option Session := (s.slot slot).session

/-- The negotiated level of a slot's session. -/
def State.level (s : State) (slot : Nat) : Nat := ((s.session slot).map (·.level)).getD 0

/-- Does an allocation of bytes fit a session's quotas? -/
def quotaFits (s : State) (slot hbm fen : Nat) : Bool :=
  match s.session slot with
  | none => true
  | some x => (x.quotaHbm == 0 || decide (x.usedHbm + hbm ≤ x.quotaHbm * 2 ^ 20))
      && (x.quotaFen == 0 || decide (x.usedFen + fen ≤ x.quotaFen * 2 ^ 20))

/-- An allocation charged to a session, and its return. -/
def charge (s : State) (slot hbm fen : Nat) : State :=
  s.setSlot slot fun k => { k with session := k.session.map fun x =>
    { x with usedHbm := x.usedHbm + hbm, usedFen := x.usedFen + fen } }
def uncharge (s : State) (slot hbm fen : Nat) : State :=
  s.setSlot slot fun k => { k with session := k.session.map fun x =>
    { x with usedHbm := x.usedHbm - hbm, usedFen := x.usedFen - fen } }

/-- A batch of a stream, and a stage of it under way. -/
def State.batch? (s : State) (stream idx : Nat) : Option Batch := (s.stream? stream).bind fun x => x.batches.find? (·.idx == idx)
def State.setBatch (s : State) (stream idx : Nat) (f : Batch → Batch) : State :=
  s.setStream stream fun x => { x with batches := x.batches.map fun b => if b.idx = idx then f b else b }
def State.run? (s : State) (stream idx stage : Nat) : Option StageRun := (s.batch? stream idx).bind fun b => b.runs.find? (·.ix == stage)
def State.setRun (s : State) (stream idx stage : Nat) (f : StageRun → StageRun) : State :=
  s.setBatch stream idx fun b => { b with runs := b.runs.map fun r => if r.ix = stage then f r else r }

/-- The first failure of a stage under way. -/
def failRun (s : State) (stream idx stage status : Nat) : State :=
  s.setRun stream idx stage fun r => match r.failure with
    | some _ => r
    | none => { r with failure := some (status, 0xFF) }

/-- Inputs of a stage that must hold the same number of elements (R185). -/
def sameCount (ins : List (Option Col)) (which : List Nat) : Bool :=
  match which.filterMap fun i => (ins.getD i none).map (·.count) with
  | [] => true
  | n :: t => t.all (· == n)

/-- Rows of a stage: the count of the first of some inputs that is used. -/
def rowsOf (ins : List (Option Col)) (which : List Nat) : Nat :=
  ((which.filterMap fun i => (ins.getD i none).map (·.count)).head?).getD 0

/-- A column described by type: KIND COLUMN or TENSOR (R535). -/
def isColumn (c : Col) (ty : Nat → Bool) : Bool := (c.kind == kColumn || c.kind == kTensor) && ty c.type_

/-- A check on input i, made when it is known: it fails with BAD_FIELD at its reference (R182). -/
def checkIn (ins : List (Option Col)) (i : Nat) (p : Col → Bool) : List Fail :=
  match ins.getD i none with
  | some c => failIf (!p c) stBadField (inOff i)
  | none => []

end Sys2Proof.Machine
end

