-- ==== Sys2Proof/Machine/Jpeg.lean ====
section
/-! DEFINITION. What the picture units find in JPEG data (R312, R313): the frame, or why there is no picture. Marker
segments and Huffman codes are read by ITU-T T.81; the pixels themselves are free within T.83 (log 5, DESIGN CHOICE). -/

namespace Sys2Proof.Machine

/-- A Huffman table: code length, code and symbol. -/
abbrev Huff := List (Nat × Nat × Nat)

/-- The codes of a table from its 16 counts and its symbols: the codes of one length rise by 1 (T.81 annex C). -/
def huffCodes : List Nat → Nat → Nat → List Nat → Huff
  | [], _, _, _ => []
  | n :: t, len, code, syms =>
    ((syms.take n).zipIdx.map fun p => (len, code + p.2, p.1)) ++ huffCodes t (len + 1) (2 * (code + n)) (syms.drop n)

/-- Why entropy-coded bits give no block: they run out, or hold no defined code. -/
inductive BitErr where
  | short | bad
  deriving DecidableEq, Repr

/-- The next symbol: a code of at most 16 bits. -/
def huffSym (t : Huff) : Nat → Nat → Nat → List Bool → Except BitErr (Nat × List Bool)
  | 0, _, _, _ => .error .bad
  | _ + 1, _, _, [] => .error .short
  | f + 1, len, code, b :: bs =>
    let code := 2 * code + b2n b
    match t.find? fun e => e.1 == len + 1 && e.2.1 == code with
    | some e => .ok (e.2.2, bs)
    | none => huffSym t f (len + 1) code bs

/-- Bits passed over. -/
def dropBits (n : Nat) (bs : List Bool) : Except BitErr (List Bool) := if bs.length < n then .error .short else .ok (bs.drop n)

/-- The AC coefficients of a block from coefficient k on. -/
def acBits (ac : Huff) : Nat → Nat → List Bool → Except BitErr (List Bool)
  | 0, _, bs => .ok bs
  | f + 1, k, bs =>
    if 63 < k then .ok bs
    else do
      let (y, bs) ← huffSym ac 16 0 0 bs
      let run := y / 16
      let size := y % 16
      if size = 0 then
        if run = 0 then .ok bs
        else if run = 15 then (if 63 < k + 15 then .error .bad else acBits ac f (k + 16) bs)
        else .error .bad
      else if 10 < size ∨ 63 < k + run then .error .bad
      else
        let bs ← dropBits size bs
        acBits ac f (k + run + 1) bs

/-- One block: its DC difference and its AC coefficients. -/
def blockBits (dc ac : Huff) (bs : List Bool) : Except BitErr (List Bool) := do
  let (y, bs) ← huffSym dc 16 0 0 bs
  if 11 < y then .error .bad
  else
    let bs ← dropBits y bs
    acBits ac 64 1 bs

/-- The blocks of one MCU. -/
def mcuBits : List (Huff × Huff) → List Bool → Except BitErr (List Bool)
  | [], bs => .ok bs
  | p :: t, bs => do
    let bs ← blockBits p.1 p.2 bs
    mcuBits t bs

/-- n MCUs. -/
def mcusBits (blocks : List (Huff × Huff)) : Nat → List Bool → Except BitErr (List Bool)
  | 0, bs => .ok bs
  | n + 1, bs => do
    let bs ← mcuBits blocks bs
    mcusBits blocks n bs

/-- The entropy-coded bytes up to the next marker, stuffing removed, and what follows from the marker on. -/
def entropy : List Byte → List Byte × List Byte
  | [] => ([], [])
  | [b] => if b = 0xFF then ([], [b]) else ([b], [])
  | b :: c :: t =>
    if b = 0xFF then
      if c = 0 then let r := entropy t
        (0xFF :: r.1, r.2)
      else ([], b :: c :: t)
    else let r := entropy (c :: t)
      (b :: r.1, r.2)

/-- Bytes as bits, most significant first. -/
def bitsMsb (bs : List Byte) : List Bool := bs.flatMap fun b => (List.range 8).map fun i => bitOf b.toNat (7 - i)

/-- A frame component: its id, sampling factors and quantisation table. -/
structure JComp where
  id : Nat
  h : Nat
  v : Nat
  tq : Nat
  deriving DecidableEq, Repr

/-- What the segments read so far have set. -/
structure JSt where
  frame : Option (Nat × Nat × List JComp) := none
  tables : List (Nat × Huff) := []
  quant : List Nat := []
  restart : Nat := 0
  /-- The colour transform of an APP14 segment. -/
  transform : Option Nat := none
  done : List Nat := []
  deriving DecidableEq, Repr

/-- What decoding finds: a frame of W × H, its components and whether they are RGB; or a status, with whether the data
is outside the subset. -/
inductive JRes where
  | frame (w h comps : Nat) (rgb : Bool)
  | hole (status : Nat) (unsup : Bool)
  deriving DecidableEq, Repr

/-- Why a scan or segment ends decoding. -/
def jCorrupt : JRes := .hole stCorrupt false
def jUnsup : JRes := .hole stCorrupt true
def jShort : JRes := .hole stTruncated false

/-- The next byte pair is a marker, after fill bytes: its code and what follows. -/
def nextMarker : List Byte → Except JRes (Nat × List Byte)
  | [] => .error jShort
  | [b] => .error (if b = 0xFF then jShort else jCorrupt)
  | b :: c :: t =>
    if b ≠ 0xFF then .error jCorrupt
    else if c = 0xFF then nextMarker (c :: t)
    else if c = 0 then .error jCorrupt
    else .ok (c.toNat, t)

/-- What stands where entropy-coded data ran out: the data's end or EOI is a truncation, another marker is out of place. -/
def runOut (rest : List Byte) : JRes :=
  match nextMarker rest with
  | .error e => e
  | .ok (m, _) => if m = 0xD9 then jShort else jCorrupt

/-- The restart intervals of a scan: n MCUs are left, of which each interval holds ri. -/
def scanData (blocks : List (Huff × Huff)) (ri : Nat) : Nat → Nat → Nat → List Byte → Except JRes (List Byte)
  | 0, _, _, bs => .ok bs
  | f + 1, n, k, bs =>
    let here := if ri = 0 then n else Nat.min ri n
    let e := entropy bs
    match mcusBits blocks here (bitsMsb e.1) with
    | .error .short => .error (runOut e.2)
    | .error .bad => .error jCorrupt
    | .ok left =>
      if n ≤ here then .ok e.2
      else if 8 ≤ left.length then .error jCorrupt
      else match nextMarker e.2 with
        | .error r => .error r
        | .ok (m, t) => if m = 0xD0 + k % 8 then scanData blocks ri f (n - here) (k + 1) t else .error (if m = 0xD9 then jShort else jCorrupt)

/-- The sampling of R312: one component, or three with 4:4:4, 4:2:2 or 4:2:0. -/
def samplingOk : List JComp → Bool
  | [c] => decide (1 ≤ c.h ∧ c.h ≤ 4 ∧ 1 ≤ c.v ∧ c.v ≤ 4)
  | [y, b, r] => decide (1 ≤ b.h ∧ 1 ≤ b.v ∧ y.h ≤ 4 ∧ y.v ≤ 4) && b.h == r.h && b.v == r.v
      && ((y.h == b.h && y.v == b.v) || (y.h == 2 * b.h && y.v == b.v) || (y.h == 2 * b.h && y.v == 2 * b.v))
  | _ => false

/-- SOF0 or SOF1. -/
def readFrame (maxW maxH : Nat) (st : JSt) (p : List Byte) : Except JRes JSt :=
  let n := fieldN p 5 1
  let h := beNat ((p.drop 1).take 2)
  let w := beNat ((p.drop 3).take 2)
  let comps : List JComp := (List.range n).map fun i =>
    let q := p.drop (6 + 3 * i)
    { id := fieldN q 0 1, h := fieldN q 1 1 / 16, v := fieldN q 1 1 % 16, tq := fieldN q 2 1 }
  if st.frame.isSome ∨ p.length ≠ 6 + 3 * n then .error jCorrupt
  else if maxW < w ∨ maxH < h then .error (.hole stOversize false)
  else if w = 0 ∨ h = 0 then .error jCorrupt
  else if fieldN p 0 1 ≠ 8 ∨ ¬ samplingOk comps then .error jUnsup
  else .ok { st with frame := some (w, h, comps) }

/-- DHT: tables one after another. -/
def readDht : Nat → List Byte → JSt → Except JRes JSt
  | 0, _, st => .ok st
  | _ + 1, [], st => .ok st
  | f + 1, tc :: p, st =>
    let counts := (p.take 16).map BitVec.toNat
    let n := counts.sum
    if tc.toNat / 16 > 1 ∨ tc.toNat % 16 > 3 ∨ p.length < 16 + n then .error jCorrupt
    else readDht f (p.drop (16 + n)) { st with tables := (tc.toNat, huffCodes counts 1 0 (((p.drop 16).take n).map BitVec.toNat)) :: st.tables }

/-- DQT: tables one after another. -/
def readDqt : Nat → List Byte → JSt → Except JRes JSt
  | 0, _, st => .ok st
  | _ + 1, [], st => .ok st
  | f + 1, q :: p, st =>
    let n := if q.toNat / 16 = 0 then 64 else 128
    if q.toNat / 16 > 1 ∨ q.toNat % 16 > 3 ∨ p.length < n then .error jCorrupt
    else readDqt f (p.drop n) { st with quant := insertNew (q.toNat % 16) st.quant }

/-- The blocks of an MCU and the number of MCUs of a scan over some components with their table numbers. -/
def scanShape (w h : Nat) (all : List JComp) (cs : List (JComp × Huff × Huff)) : List (Huff × Huff) × Nat :=
  let hm := (all.map (·.h)).foldl Nat.max 1
  let vm := (all.map (·.v)).foldl Nat.max 1
  match cs with
  | [(c, d, a)] => ([(d, a)], ceilDiv (ceilDiv (w * c.h) hm) 8 * ceilDiv (ceilDiv (h * c.v) vm) 8)
  | _ => (cs.flatMap fun x => List.replicate (x.1.h * x.1.v) (x.2.1, x.2.2), ceilDiv w (8 * hm) * ceilDiv h (8 * vm))

/-- SOS and its entropy-coded data: what follows it. -/
def readScan (st : JSt) (p rest : List Byte) : Except JRes (JSt × List Byte) :=
  match st.frame with
  | none => .error jCorrupt
  | some (w, h, all) =>
    let n := fieldN p 0 1
    let sel : List (Option (JComp × Huff × Huff)) := (List.range n).map fun i =>
      let q := p.drop (1 + 2 * i)
      match all.find? (·.id == fieldN q 0 1), st.tables.find? (·.1 == fieldN q 1 1 / 16), st.tables.find? (·.1 == 16 + fieldN q 1 1 % 16) with
      | some c, some d, some a => if st.quant.contains c.tq then some (c, d.2, a.2) else none
      | _, _, _ => none
    let cs := sel.filterMap id
    if n = 0 ∨ 4 < n ∨ p.length ≠ 4 + 2 * n ∨ cs.length ≠ n ∨ cs.any (fun c => st.done.contains c.1.id) then .error jCorrupt
    else
      let shape := scanShape w h all cs
      match scanData shape.1 st.restart (shape.2 + 1) shape.2 0 rest with
      | .error r => .error r
      | .ok t => .ok ({ st with done := st.done ++ cs.map (·.1.id) }, t)

/-- Marker segments read until every component is decoded. -/
def readSegs (maxW maxH : Nat) : Nat → JSt → List Byte → JRes
  | 0, _, _ => jCorrupt
  | f + 1, st, bs =>
    match nextMarker bs with
    | .error r => r
    | .ok (m, t) =>
      let len := beNat (t.take 2)
      let p := (t.drop 2).take (len - 2)
      let rest := t.drop len
      if m = 0xD9 then jShort
      else if m ≤ 0xBF ∨ (0xD0 ≤ m ∧ m ≤ 0xD8) then jCorrupt
      else if t.length < 2 then jShort
      else if len < 2 then jCorrupt
      else if t.length < len then jShort
      else if m = 0xC0 ∨ m = 0xC1 then
        match readFrame maxW maxH st p with
        | .error r => r
        | .ok st => readSegs maxW maxH f st rest
      else if m = 0xC4 then
        match readDht p.length p st with
        | .error r => r
        | .ok st => readSegs maxW maxH f st rest
      else if (0xC2 ≤ m ∧ m ≤ 0xCF) ∨ m = 0xDC ∨ m = 0xDE ∨ m = 0xDF then jUnsup
      else if m = 0xDB then
        match readDqt p.length p st with
        | .error r => r
        | .ok st => readSegs maxW maxH f st rest
      else if m = 0xDD then (if p.length = 2 then readSegs maxW maxH f { st with restart := beNat p } rest else jCorrupt)
      else if m = 0xDA then
        match readScan st p rest with
        | .error r => r
        | .ok (st, rest) =>
          match st.frame with
          | some (w, h, cs) => if cs.all fun c => st.done.contains c.id then .frame w h cs.length (st.transform == some 0)
              else readSegs maxW maxH f st rest
          | none => jCorrupt
      else if m = 0xEE ∧ p.take 5 = [0x41, 0x64, 0x6F, 0x62, 0x65] ∧ 12 ≤ p.length then
        readSegs maxW maxH f { st with transform := some (fieldN p 11 1) } rest
      else readSegs maxW maxH f st rest

/-- JPEG data: SOI, then segments and scans. -/
def readJpeg (maxW maxH : Nat) (bs : List Byte) : JRes :=
  if bs.length < 2 then jShort
  else if bs.take 2 ≠ [0xFF, 0xD8] then jCorrupt
  else readSegs maxW maxH bs.length {} (bs.drop 2)

end Sys2Proof.Machine
end

