-- ==== Sys2Proof/Machine/Text.lean ====
section
/-! DEFINITION. TOKENIZE (R303 to R308): UTF-8, words, and greedy matching against a trie read in place. -/

namespace Sys2Proof.Machine

/-! ### UTF-8 (R306) -/

/-- The ranges of the bytes that follow a lead byte; none for a byte that starts no character. -/
def utf8Tail (b : Nat) : Option (List (Nat × Nat)) :=
  let c : Nat × Nat := (0x80, 0xBF)
  if b < 0x80 then some []
  else if 0xC2 ≤ b ∧ b ≤ 0xDF then some [c]
  else if b = 0xE0 then some [(0xA0, 0xBF), c]
  else if b = 0xED then some [(0x80, 0x9F), c]
  else if 0xE1 ≤ b ∧ b ≤ 0xEF then some [c, c]
  else if b = 0xF0 then some [(0x90, 0xBF), c, c]
  else if 0xF1 ≤ b ∧ b ≤ 0xF3 then some [c, c, c]
  else if b = 0xF4 then some [(0x80, 0x8F), c, c]
  else none

/-- How many bytes agree with the ranges, in order. -/
def tailLen : List (Nat × Nat) → List Byte → Nat
  | (lo, hi) :: t, b :: bs => if lo ≤ b.toNat ∧ b.toNat ≤ hi then tailLen t bs + 1 else 0
  | _, _ => 0

/-- A character or an ill-formed subpart: its offset, its bytes and whether it is well formed. -/
structure Unit8 where
  off : Nat
  bytes : List Byte
  good : Bool
  deriving DecidableEq, Repr

/-- A text cut into characters and maximal ill-formed subparts. -/
def utf8Units : Nat → Nat → List Byte → List Unit8
  | 0, _, _ => []
  | _ + 1, _, [] => []
  | f + 1, off, b :: t =>
    match utf8Tail b.toNat with
    | none => ⟨off, [b], false⟩ :: utf8Units f (off + 1) t
    | some rs =>
      let n := tailLen rs t
      ⟨off, b :: t.take n, n == rs.length⟩ :: utf8Units f (off + 1 + n) (t.drop n)

/-! ### Words (R307) -/

/-- A word: characters, or one ill-formed subpart. -/
structure Word8 where
  chars : List Unit8
  bad : Bool
  deriving DecidableEq, Repr

def isSpace8 (b : Nat) : Bool := decide (9 ≤ b ∧ b ≤ 0x0D) || b == 0x20
def isPunct8 (b : Nat) : Bool :=
  decide (0x21 ≤ b ∧ b ≤ 0x2F) || decide (0x3A ≤ b ∧ b ≤ 0x40) || decide (0x5B ≤ b ∧ b ≤ 0x60) || decide (0x7B ≤ b ∧ b ≤ 0x7E)

/-- Words of a text; the characters of the word under way come reversed. -/
def wordsOf (punct : Bool) : List Unit8 → List Unit8 → List Word8
  | [], cur => if cur = [] then [] else [⟨cur.reverse, false⟩]
  | u :: t, cur =>
    let flush : List Word8 := if cur = [] then [] else [⟨cur.reverse, false⟩]
    let b := (u.bytes.headD 0).toNat
    if !u.good then flush ++ ⟨[u], true⟩ :: wordsOf punct t []
    else if isSpace8 b then flush ++ wordsOf punct t []
    else if punct && isPunct8 b then flush ++ ⟨[u], false⟩ :: wordsOf punct t []
    else wordsOf punct t (u :: cur)

/-! ### Matching (R303, R307) -/

/-- A trie in Fen memory: its address, states and vocabulary, and the continuation root. -/
structure Trie where
  addr : Nat
  states : Nat
  vocab : Nat
  contRoot : Nat
  deriving DecidableEq, Repr

/-- A 32-bit word of memory read by a stage. -/
def readWord32 (s : State) (a : Nat) : Res Nat := andThen (readMem s a 4) fun s b => ok s (leNat b)

/-- The state that follows state st on byte c; none when no state follows. -/
def trieStep (t : Trie) (s : State) (st c : Nat) : Res (Option Nat) :=
  andThen (readWord32 s (t.addr + 64 + 4 * st)) fun s base =>
    let n := base + c
    if n < t.states then
      andThen (readWord32 s (t.addr + 64 + 4 * t.states + 4 * n)) fun s check => ok s (if check = st then some n else none)
    else ok s none

/-- A walk over bytes from a state; none when it leaves the trie. -/
def trieWalk (t : Trie) : State → Nat → List Byte → Res (Option Nat)
  | s, st, [] => ok s (some st)
  | s, st, b :: bs => andThen (trieStep t s st b.toNat) fun s n => match n with
    | none => ok s none
    | some n => trieWalk t s n bs

/-- The longest token from a place of a word: bytes left to try, the folded bytes from here on, how many are taken, and
the best token so far with its length. A byte starts a character unless it is 0b10xxxxxx. -/
def longest (t : Trie) : Nat → State → Nat → List Byte → Nat → Option (Nat × Nat) → Res (Option (Nat × Nat))
  | 0, s, _, _, _, best => ok s best
  | _, s, _, [], _, best => ok s best
  | f + 1, s, st, b :: bs, n, best => andThen (trieStep t s st b.toNat) fun s next => match next with
    | none => ok s best
    | some st => andThen (readWord32 s (t.addr + 64 + 8 * t.states + 4 * st)) fun s v =>
      if v ≠ 0xFFFFFFFF ∧ t.vocab ≤ v then fail s stCorrupt
      else
        let ends : Bool := match bs with
          | [] => true
          | c :: _ => c.toNat / 64 != 2
        longest t f s st bs (n + 1) (if v ≠ 0xFFFFFFFF ∧ ends then some (v, n + 1) else best)

/-- A word matched from byte pos on, with the tokens so far: ids and source offsets. -/
def matchWord (t : Trie) (contLen unk : Nat) (unkChar : Bool) (off0 : Nat) (word : List Byte) :
    Nat → State → Nat → List (Nat × Nat) → Res (List (Nat × Nat))
  | 0, s, _, acc => ok s acc
  | f + 1, s, pos, acc =>
    if word.length ≤ pos then ok s acc
    else
      let st := if pos = 0 then 0 else t.contRoot
      let limit := if pos = 0 then 64 else 64 - contLen
      andThen (longest t limit s st (word.drop pos) 0 none) fun s best => match best with
        | some (v, n) => matchWord t contLen unk unkChar off0 word f s (pos + n) (acc ++ [(v, off0 + pos)])
        | none =>
          if unkChar then
            let n := 1 + ((utf8Tail ((word.getD pos 0).toNat)).getD []).length
            matchWord t contLen unk unkChar off0 word f s (pos + n) (acc ++ [(unk, off0 + pos)])
          else ok s [(unk, off0)]

/-- ASCII A to Z folded. -/
def foldByte (lower : Bool) (b : Byte) : Byte := if lower && decide (0x41 ≤ b.toNat ∧ b.toNat ≤ 0x5A) then b + 0x20 else b

/-- Operand fields of TOKENIZE (R304). -/
def tkFlags (r : List Byte) : Nat := fieldN r 61 1
def tkWordMax (r : List Byte) : Nat := if fieldN r 76 2 = 0 then 256 else fieldN r 76 2

/-- The tokens of one word. -/
def wordTokens (r : List Byte) (t : Trie) (s : State) (w : Word8) : Res (List (Nat × Nat)) :=
  let bytes := w.chars.flatMap (·.bytes)
  let off := (w.chars.head?.map (·.off)).getD 0
  let unk := fieldN r 56 4
  if w.bad ∨ tkWordMax r < bytes.length then ok s [(unk, off)]
  else matchWord t (fieldN r 60 1) unk (bitOf (tkFlags r) 2) off (bytes.map (foldByte (bitOf (tkFlags r) 0))) (bytes.length + 1) s 0 []

/-- The tokens of one text and its status; the state has the counters of the unit's page. -/
def textTokens (r : List Byte) (t : Trie) (page : Nat) (s : State) (text : List Byte) : Res (List (Nat × Nat) × Nat) :=
  let us := utf8Units (text.length + 1) 0 text
  let bad := (us.filter fun u => !u.good).length
  let s := bump s (page + 0x408) text.length
  if bad ≠ 0 ∧ fieldN r 62 1 = 0 then fail (bump s (page + 0x420) 1) stCorrupt
  else
    let s := bump s (page + 0x420) bad
    andThen (eachRes (wordTokens r t) s (wordsOf (bitOf (tkFlags r) 1) us [])) fun s ws =>
      let all := ws.flatMap id
      let max := fieldN r 72 4
      let cut := max != 0 && decide (max < all.length)
      let kept := if cut then all.take max else all
      let s := if cut then bump s (page + 0x428) 1 else s
      let s := bump s (page + 0x410) kept.length
      let s := bump s (page + 0x418) (kept.filter fun p => p.1 == fieldN r 56 4).length
      ok s (kept, if bad = 0 then 0 else 0x23)

/-- The unit of a row. -/
def pageOfRow (pages : List Nat) (n row : Nat) : Nat := pages.getD (rowTile n pages.length row) (pages.headD 0)

/-- TOKENIZE over a batch. The blocks hold the trie's header and the continuation root. -/
def tokenRun (c : Ctx) (ins : List (Option Col)) (s : State) : Res (List (Option Col)) :=
  let texts := inCol ins 0
  let h := blockAt c.blocks 48
  let t : Trie := ⟨c.n 48 8, fieldN h 8 4, fieldN h 12 4, leNat (blockAt c.blocks 64)⟩
  andThen (eachRes (fun s k =>
      if texts.isValid k then textTokens c.record t (pageOfRow c.pages texts.count k) s (texts.text k) else ok s ([], 0)) s (List.range texts.count))
    fun s rows =>
      let ids := rows.flatMap (·.1)
      if 16777216 < ids.length then fail s stOversize
      else
        let offs := rows.foldl (fun (a : List Nat) x => a ++ [a.getLastD 0 + x.1.length]) [0]
        ok s [some (mkCol 9 (ids.map fun p => some p.1)), some (mkCol 8 (offs.map some)), some (mkCol 8 (ids.map fun p => some p.2)),
          some (mkCol 6 (rows.map fun x => some x.2))]

/-- What the bind reads of a trie beyond its header: the continuation root, none when the walk leaves the trie. -/
def trieRoot (r h : List Byte) (s : State) : Res (Option Nat) :=
  trieWalk ⟨fieldN r 48 8, fieldN h 8 4, fieldN h 12 4, 0⟩ s 0 ((r.drop 64).take (fieldN r 60 1))

/-- The header of R303. -/
def trieOk (h : List Byte) : Bool :=
  let n := fieldN h 8 4
  let v := fieldN h 12 4
  fieldN h 0 4 == 0x45495254 && fieldN h 4 2 == 1 && zeroAt h 6 2 && decide (1 ≤ n ∧ n ≤ 16777216) && decide (1 ≤ v ∧ v ≤ 1048576)
    && fieldN h 16 8 == 64 + 12 * n && zeroAt h 24 40

/-- The checks of TOKENIZE's operands (R304); header and root are those read, where they could be. -/
def tokenBind (r : List Byte) (b : Blocks) : List Fail :=
  let h := blockAt b 48
  let a := fieldN r 48 8
  failIf (a % 64 != 0 || !(inFen a 64) || (h != [] && (!(trieOk h) || !(inFen a (fieldN h 16 8))))) stBadField 48
  ++ failIf (h != [] && decide (fieldN h 12 4 ≤ fieldN r 56 4)) stBadField 56
  ++ failIf (decide (8 < fieldN r 60 1)) stBadField 60 ++ failIf (decide (7 < tkFlags r)) stBadField 61
  ++ failIf (decide (1 < fieldN r 62 1)) stBadField 62 ++ failIf (decide (8 < fieldN r 63 1)) stBadField 63
  ++ failIf (!(zeroAt r (64 + fieldN r 60 1) (8 - fieldN r 60 1)) || (h != [] && trieOk h && blockAt b 64 == [])) stBadField 64
  ++ failIf (decide (65536 < fieldN r 72 4)) stBadField 72 ++ failIf (decide (1024 < fieldN r 76 2)) stBadField 76
  ++ failIf (!(zeroAt r 78 178)) stBadField 78

end Sys2Proof.Machine
end

