-- ==== Sys2Proof/Machine/Compress.lean ====
section
/-! DEFINITION. DEFLATE and INFLATE (R332 to R345). The bytes an encoder chooses are free among the valid streams (log 5, DESIGN CHOICE). -/

namespace Sys2Proof.Machine

/-! ### Checksums of the wrappers (R340, R344) -/

def crc32Bit (c : Nat) : Nat := if c % 2 = 1 then (c / 2) ^^^ 0xEDB88320 else c / 2
def crc32Byte (c : Nat) (b : Byte) : Nat := (List.range 8).foldl (fun c _ => crc32Bit c) (c ^^^ b.toNat)
def crc32 (bs : List Byte) : Nat := (bs.foldl crc32Byte 0xFFFFFFFF) ^^^ 0xFFFFFFFF
def adler32 (bs : List Byte) : Nat :=
  let r : Nat × Nat := bs.foldl (fun (p : Nat × Nat) b => let a := (p.1 + b.toNat) % 65521
    (a, (p.2 + a) % 65521)) (1, 0)
  r.2 * 65536 + r.1

/-! ### Reading RFC 1951 data (R343) -/

/-- What decoding holds: the output reversed with its length, the most it may be and the status of passing that, where
the bits lie, and the blocks met: BTYPE, first output byte, length. -/
structure Inf where
  out : List Byte := []
  n : Nat := 0
  limit : Nat
  past : Nat
  blocks : List (Nat × Nat × Nat) := []
  deriving DecidableEq, Repr

/-- Bits of bytes, least significant first. -/
def bitsLsb (bs : List Byte) : List Bool := bs.flatMap fun b => (List.range 8).map fun i => bitOf b.toNat i

/-- n bits as a number, least significant first. -/
def takeBits (n : Nat) (bs : List Bool) : Except Nat (Nat × List Bool) :=
  if bs.length < n then .error stTruncated
  else .ok ((bs.take n).zipIdx.foldl (fun a p => a + b2n p.1 * 2 ^ p.2) 0, bs.drop n)

/-- The next symbol of a code. -/
def takeSym (t : Huff) (bs : List Bool) : Except Nat (Nat × List Bool) :=
  match huffSym t 15 0 0 bs with
  | .ok r => .ok r
  | .error .short => .error stTruncated
  | .error .bad => .error stCorrupt

/-- The codes that code lengths give. -/
def codeOf (lens : List Nat) : Huff :=
  let ls := (List.range 15).map (· + 1)
  huffCodes (ls.map fun l => (lens.filter (· == l)).length) 1 0
    (ls.flatMap fun l => (lens.zipIdx.filter (·.1 == l)).map (·.2))

/-- The codes filled of 2^15. -/
def kraft (lens : List Nat) : Nat := (lens.map fun l => if l = 0 then 0 else 2 ^ (15 - l)).sum

/-- A complete code; a distance code may hold one code of one bit, or none at all, which RFC 1951 permits where the data is all
literals (log 88, DEDUCED). -/
def codeOk (lens : List Nat) (dist : Bool) : Bool :=
  kraft lens == 2 ^ 15 || (dist && (match lens.filter (· != 0) with
    | [] => true
    | [l] => l == 1
    | _ => false))

/-- One byte of output. -/
def putByte (x : Inf) (b : Byte) : Except Nat Inf :=
  if x.limit ≤ x.n then .error x.past else .ok { x with out := b :: x.out, n := x.n + 1 }

def putBytes : List Byte → Inf → Except Nat Inf
  | [], x => .ok x
  | b :: t, x => do
    let x ← putByte x b
    putBytes t x

/-- A match: len bytes from dist back. -/
def copyMatch (dist : Nat) : Nat → Inf → Except Nat Inf
  | 0, x => .ok x
  | k + 1, x => do
    let x ← putByte x (x.out.getD (dist - 1) 0)
    copyMatch dist k x

/-- Length and distance symbols: base and extra bits. -/
def lenCode (y : Nat) : Nat × Nat :=
  if y < 265 then (y - 254, 0)
  else if y = 285 then (258, 0)
  else let e := (y - 261) / 4
    (3 + (4 + (y - 261) % 4) * 2 ^ e, e)
def distCode (y : Nat) : Nat × Nat :=
  if y < 4 then (y + 1, 0) else let e := (y - 2) / 2
    (1 + (2 + y % 2) * 2 ^ e, e)

/-- Symbols of a coded block up to end-of-block. -/
def symbols (lit dist : Huff) : Nat → Inf → List Bool → Except Nat (Inf × List Bool)
  | 0, _, _ => .error stTruncated
  | f + 1, x, bs => do
    let (y, bs) ← takeSym lit bs
    if y < 256 then
      let x ← putByte x (BitVec.ofNat 8 y)
      symbols lit dist f x bs
    else if y = 256 then .ok (x, bs)
    else if 285 < y then .error stCorrupt
    else
      let (extra, bs) ← takeBits (lenCode y).2 bs
      let (d, bs) ← takeSym dist bs
      if 29 < d then .error stCorrupt
      else
        let (dx, bs) ← takeBits (distCode d).2 bs
        let back := (distCode d).1 + dx
        if x.n < back then .error stCorrupt
        else
          let x ← copyMatch back ((lenCode y).1 + extra) x
          symbols lit dist f x bs

/-- Code lengths of a dynamic block: want lengths, those so far reversed. -/
def readLens (cl : Huff) (want : Nat) : Nat → List Nat → List Bool → Except Nat (List Nat × List Bool)
  | 0, _, _ => .error stTruncated
  | f + 1, acc, bs =>
    if want ≤ acc.length then .ok (acc.reverse, bs)
    else do
      let (y, bs) ← takeSym cl bs
      if y < 16 then readLens cl want f (y :: acc) bs
      else
        let (base, e) := if y = 16 then (3, 2) else if y = 17 then (3, 3) else (11, 7)
        let (x, bs) ← takeBits e bs
        let v := if y = 16 then acc.headD 0 else 0
        if (y = 16 ∧ acc = []) ∨ want < acc.length + base + x then .error stCorrupt
        else readLens cl want f (List.replicate (base + x) v ++ acc) bs

/-- The order of code length codes. -/
def clOrder : List Nat := [16, 17, 18, 0, 8, 7, 9, 6, 10, 5, 11, 4, 12, 3, 13, 2, 14, 1, 15]

/-- The codes of a dynamic block. -/
def dynCodes (bs : List Bool) : Except Nat (Huff × Huff × List Bool) := do
  let (hlit, bs) ← takeBits 5 bs
  let (hdist, bs) ← takeBits 5 bs
  let (hclen, bs) ← takeBits 4 bs
  let (raw, bs) ← takeBits (3 * (hclen + 4)) bs
  let lens := (List.range 19).map fun y => match findPos (· == y) clOrder with
    | some i => if i < hclen + 4 then raw / 8 ^ i % 8 else 0
    | none => 0
  if ¬ codeOk lens false then .error stCorrupt
  else
    let nl := hlit + 257
    let (all, bs) ← readLens (codeOf lens) (nl + hdist + 1) (bs.length + 1) [] bs
    if ¬ (codeOk (all.take nl) false && codeOk (all.drop nl) true) then .error stCorrupt
    else .ok (codeOf (all.take nl), codeOf (all.drop nl), bs)

/-- The fixed codes. -/
def fixedLit : Huff := codeOf (List.replicate 144 8 ++ List.replicate 112 9 ++ List.replicate 24 7 ++ List.replicate 8 8)
def fixedDist : Huff := codeOf (List.replicate 32 5)

/-- Blocks until the final one. The bits run to the end of the input, which is a whole number of bytes. -/
def inflateBlocks : Nat → Inf → List Bool → Except Nat (Inf × List Bool)
  | 0, _, _ => .error stTruncated
  | f + 1, x, bs => do
    let (fin, bs) ← takeBits 1 bs
    let (ty, bs) ← takeBits 2 bs
    let start := x.n
    let (y, bs) ← (if ty = 0 then do
        let bs := bs.drop (bs.length % 8)
        let (len, bs) ← takeBits 16 bs
        let (nlen, bs) ← takeBits 16 bs
        if len + nlen ≠ 65535 then .error stCorrupt
        else
          let have_ := Nat.min len (bs.length / 8)
          let bytes := (chunksN 8 have_ bs).map fun c => BitVec.ofNat 8 (c.zipIdx.foldl (fun a p => a + b2n p.1 * 2 ^ p.2) 0)
          let y ← putBytes bytes x
          if have_ < len then .error stTruncated else .ok (y, bs.drop (8 * len))
      else if ty = 1 then symbols fixedLit fixedDist (bs.length + 1) x bs
      else if ty = 2 then do
        let (l, d, bs) ← dynCodes bs
        symbols l d (bs.length + 1) x bs
      else .error stCorrupt : Except Nat (Inf × List Bool))
    let y := { y with blocks := y.blocks ++ [(ty, start, y.n - start)] }
    if fin = 1 then .ok (y, bs) else inflateBlocks f y bs

/-- One raw stream: what it gives, and the bytes after it. -/
def inflateRaw (x : Inf) (bs : List Byte) : Except Nat (Inf × List Byte) := do
  let bits := bitsLsb bs
  let (y, rest) ← inflateBlocks (bits.length + 1) x bits
  .ok (y, bs.drop (bs.length - rest.length / 8))

/-- Bytes that must be there. -/
def needBytes (n : Nat) (bs : List Byte) : Except Nat (List Byte × List Byte) :=
  if bs.length < n then .error stTruncated else .ok (bs.take n, bs.drop n)

/-- A zero-terminated header string passed over. -/
def skipName : List Byte → Except Nat (List Byte)
  | [] => .error stTruncated
  | b :: t => if b = 0 then .ok t else skipName t

/-- The bytes that are there of a gzip header's ID1, ID2, CM and FLG are in order. -/
def gzipStart (bs : List Byte) : Bool := (bs.take 3).isPrefixOf [0x1F, 0x8B, 8] && decide (fieldN bs 3 1 ≤ 31)

/-- A gzip header: what follows it. A byte that fails its check comes before an end of the input behind it (R345). -/
def gzipHeader (bs : List Byte) : Except Nat (List Byte) := do
  if !(gzipStart bs) then .error stCorrupt
  else
    let (h, t) ← needBytes 10 bs
    let flg := fieldN h 3 1
    let t ← (if bitOf flg 2 then do
        let (l, t) ← needBytes 2 t
        let (_, t) ← needBytes (leNat l) t
        .ok t
      else .ok t : Except Nat (List Byte))
    let t ← (if bitOf flg 3 then skipName t else .ok t)
    let t ← (if bitOf flg 4 then skipName t else .ok t)
    if bitOf flg 1 then
      let (c, u) ← needBytes 2 t
      if leNat c = crc32 (bs.take (bs.length - t.length)) % 65536 then .ok u else .error stCorrupt
    else .ok t

/-- One wrapped stream or member (R344): what it gives, and the bytes after it. A distance may reach back to the job's first
output byte (R343). -/
def inflateOne (wrap : Nat) (x : Inf) (bs : List Byte) : Except Nat (Inf × List Byte) :=
  match wrap with
  | 0 => inflateRaw x bs
  | 1 => do
    let cmf := fieldN bs 0 1
    let flg := fieldN bs 1 1
    let (_, t) ← (if bs = [] ∨ (cmf % 16 = 8 ∧ cmf / 16 ≤ 7) then needBytes 2 bs else .error stCorrupt)
    if (cmf * 256 + flg) % 31 ≠ 0 ∨ bitOf flg 5 then .error stCorrupt
    else
      let (y, t) ← inflateRaw x t
      let (a, t) ← needBytes 4 t
      if beNat a = adler32 y.out.reverse then .ok (y, t) else .error stCorrupt
  | _ => do
    let t ← gzipHeader bs
    let (y, t) ← inflateRaw x t
    let (c, t) ← needBytes 4 t
    let got := (y.out.take (y.n - x.n)).reverse
    if leNat c ≠ crc32 got then .error stCorrupt
    else
      let (z, t) ← needBytes 4 t
      if leNat z = got.length % 2 ^ 32 then .ok (y, t) else .error stCorrupt

/-- Members while bytes remain (R344). -/
def inflateMembers (wrap : Nat) : Nat → Inf → List Byte → Except Nat (Inf × List Byte)
  | 0, x, bs => .ok (x, bs)
  | f + 1, x, bs => do
    let (y, t) ← inflateOne wrap x bs
    if t = [] then .ok (y, t) else inflateMembers wrap f y t

/-- How a job ends: its status, output, input bytes consumed, stored blocks, flush points, and bytes after the stream. -/
structure JobEnd where
  status : Nat
  out : List Byte := []
  used : Nat := 0
  stored : Nat := 0
  flushes : Nat := 0
  trail : Bool := false
  deriving DecidableEq, Repr

/-- An INFLATE job (R343 to R345). All input of a job that fails counts as consumed (log 88, DESIGN CHOICE). -/
def inflateJob (r : List Byte) (space : Nat) (declared : Option Nat) (bs : List Byte) : JobEnd :=
  let wrap := fieldN r 48 1
  if (match declared with | some d => decide (space < d) | none => false) then { status := stOversize }
  else
    let x : Inf := match declared with
      | some d => { limit := d, past := stCorrupt }
      | none => { limit := space, past := stNoSpace }
    let res := if wrap = 2 ∧ bitOf (fieldN r 50 1) 2 then inflateMembers wrap (bs.length + 1) x bs else inflateOne wrap x bs
    match res with
    | .error st => { status := st, used := bs.length }
    | .ok (y, t) =>
      let short : Bool := match declared with | some d => decide (y.n < d) | none => false
      { status := if short then stTruncated else 0
        out := if short then [] else y.out.reverse
        used := bs.length - t.length
        trail := t != [] }

/-! ### DEFLATE (R338 to R342) -/

/-- A stored block. -/
def storedBlock (fin : Bool) (bs : List Byte) : List Byte :=
  natLE 1 (b2n fin) ++ natLE 2 bs.length ++ natLE 2 (65535 - bs.length) ++ bs

/-- The pieces of an input between flush points, each with whether a flush follows. -/
def flushCuts : List Nat → Nat → List Byte → List (List Byte × Bool)
  | [], _, bs => [(bs, false)]
  | p :: t, at_, bs => (bs.take (p - at_), true) :: flushCuts t p (bs.drop (p - at_))

/-- A stream of stored blocks with its flush points: a valid stream of every input. -/
def allStored (flushes : List Nat) (bs : List Byte) : List Byte :=
  let blocks : List (Bool × List Byte) := (flushCuts flushes 0 bs).flatMap fun p =>
    ((chunksN 65535 p.1.length p.1).map fun c => (false, c)) ++ (if p.2 then [(true, [])] else [])
  (blocks.zipIdx.flatMap fun q => storedBlock (decide (q.2 + 1 = blocks.length)) q.1.2)

/-- A raw stream inflates to the input, in blocks that R338 and R339 allow. -/
def goodStream (codes : Nat) (flushes : List Nat) (bs cand : List Byte) : Bool :=
  match inflateRaw { limit := bs.length, past := stNoSpace } cand with
  | .error _ => false
  | .ok (y, t) =>
    let isFlush (b : Nat × Nat × Nat) : Bool := b.1 == 0 && b.2.2 == 0
    t == [] && y.out.reverse == bs
    && (y.blocks.filter isFlush).map (·.2.1) == flushes
    && y.blocks.all fun b => isFlush b || ((b.1 == 0 || b.1 == (if codes = 0 then 2 else 1)) && decide (0 < b.2.2 ∧ b.2.2 ≤ 65535)
        && flushes.all fun p => decide (p ≤ b.2.1 ∨ b.2.1 + b.2.2 ≤ p))

/-- The raw stream of an input (R338, R342): a function of input and operands alone, free among the valid streams no
longer than stored blocks. -/
def deflateRaw (r : List Byte) (flushes : List Nat) (bs : List Byte) : List Byte :=
  if bs = [] ∧ flushes = [] then [3, 0]
  else
    let base := allStored flushes bs
    let key := (r.drop 48).take 12 ++ flushes.flatMap (natLE 8) ++ bs
    let len := leNat ((List.range 8).map (Config.freeByte 0x200 key)) % (base.length + 1)
    let cand := (List.range len).map (Config.freeByte 0x201 key)
    if goodStream (fieldN r 49 1) flushes bs cand then cand else base

/-- Stored blocks of a raw stream that are no flush points. -/
def storedCount (n : Nat) (raw : List Byte) : Nat :=
  match inflateRaw { limit := n, past := stNoSpace } raw with
  | .ok (y, _) => (y.blocks.filter fun b => b.1 == 0 && b.2.2 != 0).length
  | .error _ => 0

/-- The wrapper (R340). -/
def wrapStream (wrap : Nat) (raw bs : List Byte) : List Byte :=
  match wrap with
  | 0 => raw
  | 1 => [0x78, 0x9C] ++ raw ++ natBE 4 (adler32 bs)
  | _ => [0x1F, 0x8B, 8, 0, 0, 0, 0, 0, 0, 0xFF] ++ raw ++ natLE 4 (crc32 bs) ++ natLE 4 (bs.length % 2 ^ 32)

/-- The flush points of a job (R339): after every FLUSH_BYTES bytes and after the elements given, never at the end. -/
def flushPoints (r : List Byte) (ends : List Nat) (n : Nat) : List Nat :=
  let fb := fieldN r 56 4
  let byBytes := if fb = 0 then [] else (List.range (n / fb)).map fun i => (i + 1) * fb
  let all := (byBytes ++ ends).filter fun p => decide (p < n)
  (List.range n).filter fun p => all.contains p

/-- A DEFLATE job. One without space counts none of its stored blocks and flush points (log 88, DESIGN CHOICE). -/
def deflateJob (r : List Byte) (space : Nat) (ends : List Nat) (bs : List Byte) : JobEnd :=
  let fl := flushPoints r ends bs.length
  let raw := deflateRaw r fl bs
  let out := wrapStream (fieldN r 48 1) raw bs
  if space < out.length then { status := stNoSpace, used := bs.length }
  else { status := 0, out := out, used := bs.length, stored := storedCount bs.length raw, flushes := fl.length }

/-! ### Stages (R332 to R337) -/

def cfPerRow (r : List Byte) : Bool := bitOf (fieldN r 50 1) 0
def cfFlushEach (r : List Byte) : Bool := stOp r == 0x0700 && bitOf (fieldN r 50 1) 1

/-- Output 0 is a VARBYTES column. -/
def packText (r : List Byte) (c : Col) : Bool := c.type_ == 0x0E && !cfFlushEach r

/-- The jobs of an input: none for a null element; and the ends of its elements under FLUSH_EACH. -/
def jobsOf (r : List Byte) (c : Col) : List (Option (List Byte)) × List Nat :=
  if c.type_ = 0x0E then
    let es := (List.range c.count).map fun e => if c.isValid e then some (c.text e) else none
    if cfFlushEach r then
      let sizes := es.map fun e => (e.getD []).length
      ([some (es.flatMap fun e => e.getD [])], (sizes.foldl (fun (a : List Nat) n => a ++ [a.getLastD 0 + n]) []))
    else (es, [])
  else ([some c.data], [])

/-- The number of jobs of a known input. -/
def jobCount (r : List Byte) (c : Col) : Nat := if c.type_ = 0x0E ∧ ¬ cfFlushEach r then c.count else 1

/-- The space of a job (R336). -/
def jobSpace (c : Ctx) (text : Bool) : Nat :=
  let lim := fieldN c.record 52 4
  let a := if lim = 0 then 4294967295 else lim
  let b := if text then 65536 else match c.outs.getD 0 none with
    | some d => d.bytes
    | none => 4294967295
  Nat.min a (Nat.min b 4294967295)

/-- A job's counters and first failure at its engine. -/
def countJob (c : Ctx) (page : Nat) (s : State) (j : JobEnd) : State :=
  let s := bump s (page + 0x408) j.used
  let s := bump s (page + 0x418) 1
  let s := bump s (page + 0x420) j.stored
  let s := bump s (page + 0x428) j.flushes
  let s := if j.trail then bump s (page + 0x440) 1 else s
  if j.status = 0 then bump s (page + 0x410) j.out.length
  else
    let s := bump s (page + (if j.status = stNoSpace then 0x430 else 0x438)) 1
    noteErr s page 0x448 j.status c.stream c.stage c.op

/-- A stage over its jobs. -/
def packRun (c : Ctx) (ins : List (Option Col)) (s : State) : Res (List (Option Col)) :=
  let r := c.record
  let x := inCol ins 0
  let jobs := jobsOf r x
  let text := packText r x
  let space := jobSpace c text
  let declared (k : Nat) : Option Nat := (ins.getD 1 none).bind fun d => if d.isValid k then some (d.bits k) else none
  if (match ins.getD 1 none with | some d => d.count != jobs.1.length | none => false) then fail s stCorrupt
  else
    let work (j : Option (List Byte)) (k : Nat) : JobEnd := match j with
      | none => { status := 0 }
      | some bs =>
        if 4294967295 < bs.length then { status := stOversize }
        else if stOp r = 0x0700 then deflateJob r space jobs.2 bs else inflateJob r space (declared k) bs
    let done := jobs.1.zipIdx.map fun p => work p.1 p.2
    let s := done.zipIdx.foldl (fun s p => countJob c (pageOfRow c.pages done.length p.2) s p.1) s
    match (if cfPerRow r then none else done.find? fun j => j.status != 0) with
    | some j => fail s j.status
    | none => ok s [some (if text then mkText (jobs.1.zip done |>.map fun p => some p.2.out) else mkBytes (done.flatMap (·.out))),
        some (mkCol 6 (done.map fun j => some j.status))]

def packUses (r : List Byte) : List Use × List Use :=
  ([.must, if stOp r = 0x0701 then .may else .never], [.must, Use.iff (cfPerRow r)])

def packBind (r : List Byte) : List Fail :=
  let fl := fieldN r 50 1
  let d := stOp r == 0x0700
  failIf (decide (2 < fieldN r 48 1)) stBadField 48 ++ failIf (decide ((if d then 1 else 0) < fieldN r 49 1)) stBadField 49
  ++ failIf (decide (7 < fl) || (bitOf fl 1 && !d) || (bitOf fl 2 && (d || fieldN r 48 1 != 2))) stBadField 50
  ++ failIf (decide (16 < fieldN r 51 1)) stBadField 51
  ++ failIf (if d then fieldN r 56 4 % 1024 != 0 else fieldN r 56 4 != 0) stBadField 56 ++ failIf (!(zeroAt r 60 196)) stBadField 60

def packInputs (r : List Byte) (ins : List (Option Col)) : List Fail :=
  checkIn ins 0 (fun c => c.kind == kBytes || c.kind == kSegments || (c.kind == kColumn && c.type_ == 0x0E))
  ++ checkIn ins 1 (fun c => isColumn c (· == 9) && (match ins.getD 0 none with
      | some x => c.count == jobCount r x
      | none => true))

/-- KIND and TYPE of an output; SEGMENTS also takes a BYTES output of INFLATE. -/
def packOut (r : List Byte) (ins : List (Option Col)) (o : Nat) : Option (Nat × Nat) :=
  if o = 1 then some (kColumn, 6)
  else (ins.getD 0 none).map fun c => if packText r c then (kColumn, 0x0E) else (kBytes, 0)

end Sys2Proof.Machine
end

