-- ==== Sys2Proof/Machine/Dense.lean ====
section
/-! DEFINITION. Dense arithmetic (chapter 9): tensors, output conversion, the matrix and vector operators, and what
BIND_PLAN and SUBMIT_BATCH check of them. -/

namespace Sys2Proof.Machine

/-! ### Tensor elements (R248 to R250) -/

/-- Types a dense stage accepts (R180). -/
def denseType (t : Nat) : Bool := decide (1 ≤ t ∧ t ≤ 0x0C) || isDenseType t

/-- The floating family that the matrix units take, and the integer family (R255). -/
def floatFam (t : Nat) : Bool := t == 0x0A || t == 0x0B || (isDenseType t && t != 0x12)
def intFam (t : Nat) : Bool := t == 0x02 || t == 0x12

/-- A pair that runs on the matrix units (R255). -/
def muPair (a b : Nat) : Bool := (floatFam a && floatFam b) || (intFam a && intFam b)

/-- MU tile depth and TCLK per activation row of a pair (R255). -/
def muDepth (a b : Nat) : Nat := if typeBits a = 4 ∧ typeBits b = 4 then 512 else 256
def muCost (a b : Nat) : Nat := if typeBits a = 16 ∨ typeBits b = 16 then 2 else 1

/-- The bits of element j of row r of a tensor whose rows hold n elements. -/
def elemBits (t n : Nat) (data : List Byte) (r j : Nat) : Nat :=
  let at_ := r * rowBytes t n
  match typeBits t with
  | 4 => bitsOf (fieldN data (at_ + j / 2) 1) (4 * (j % 2) + 3) (4 * (j % 2))
  | 6 => bitsOf (fieldN data (at_ + 3 * (j / 4)) 3) (6 * (j % 4) + 5) (6 * (j % 4))
  | w => fieldN data (at_ + j * (w / 8)) (w / 8)

/-- The value of a block scale's code: E8M0 for the MX types, E4M3 for M4, 1 for the others. -/
def scaleVal (t code : Nat) : FV :=
  if t = 0x19 then e4m3.dec code
  else if typeBlock t = 0 then .fin false 1 0
  else if code = 0xFF then .nan
  else .fin false 1 ((code : Int) - 127)

/-- The block scale that applies to element j of row r. -/
def elemScale (t n : Nat) (data : List Byte) (r j : Nat) : FV :=
  if typeBlock t = 0 then .fin false 1 0
  else scaleVal t (fieldN data (r * rowBytes t n + ceilDiv (n * typeBits t) 8 + j / typeBlock t) 1)

/-- The value of an element's bits, without its block scale. -/
def elemVal (t bits : Nat) : FV :=
  if t = 0x12 then FV.ofInt (sext 4 bits)
  else match valOf t bits with
    | .int i => FV.ofInt i
    | .flt f => f

/-- An element and its block scale. -/
abbrev Elem := FV × FV

/-- The rows of a column or tensor: each element with its scale. A null element has no stated value in a dense stage:
a free one. -/
def rowsT (fr : Nat → Nat) (x : Col) : List (List Elem) :=
  let n := if x.kind = kTensor then x.dims.getD 3 0 else x.count
  let m := if x.kind = kTensor then prod (x.dims.take 3) else 1
  (List.range m).map fun r => (List.range n).map fun j =>
    if x.isValid (r * n + j) then
      (elemVal x.type_ (elemBits x.type_ n x.data r j), elemScale x.type_ n x.data r j)
    else (fp32.dec (fr (r * n + j) % 2 ^ 32), .fin false 1 0)

/-- An element converted to FP32 and scaled by its operand's tensor scale (R250, R272): an FP32 code. -/
def scaled32 (t : Nat) (scale : FV) (e : Elem) : Nat :=
  if t = 0x19 then fp32.enc ((e.1.mul e.2).mul scale)
  else fp32.enc ((fp32.dec (fp32.enc (e.1.mul e.2))).mul scale)

/-! ### Matrix-unit outputs (R255 to R257) -/

/-- A chain of fused multiply-adds in FP32, in an order that free numbers choose. -/
def fmaSeq (fr : Nat → Nat) : Nat → Nat → List (FV × FV) → Nat
  | 0, acc, _ => acc
  | k + 1, acc, l =>
    if l = [] then acc
    else
      let i := fr k % l.length
      let p := l.getD i (.nan, .nan)
      fmaSeq fr k (fp32.enc ((fp32.dec acc).add (p.1.mul p.2))) (l.eraseIdx i)

/-- The product of two elements' values, each with its block scale (R250). -/
def pairVal (p : Elem × Elem) : FV := (p.1.1.mul p.1.2).mul (p.2.1.mul p.2.2)

/-- What NaN and infinite products make of a matrix unit's floating output (R257): none where every product is finite. Block scales
count with the values they scale (log 86, DEDUCED). -/
def specialOut (ps : List (Elem × Elem)) : Option Nat :=
  let vs := ps.map pairVal
  let inf (neg : Bool) : Bool := vs.any fun v => v == .inf neg
  if vs.any (·.isNan) || (inf true && inf false) then some fp32.nan
  else if inf false then some (fp32.infCode false)
  else if inf true then some (fp32.infCode true)
  else none

/-- The sum of products of two rows, before tensor scales: an FP32 code (R256 steps 1 to 5, R257). -/
def dotAcc (fr : Nat → Nat) (ta tb : Nat) (a b : List Elem) : Nat :=
  let ps := a.zip b
  if intFam ta && intFam tb then fp32.enc (ps.foldl (fun s p => s.add (p.1.1.mul p.2.1)) (.fin false 0 0))
  else if muPair ta tb then
    let g := if ta = 0x19 ∨ tb = 0x19 then 16 else 32
    match specialOut ps with
    | some v => v
    | none => sumAcc fp32 fr ((chunksN g ps.length ps).map fun grp =>
        let sum : FV := grp.foldl (fun s p => s.add (p.1.1.mul p.2.1)) (FV.fin false 0 0)
        let sc : FV := match grp with
          | p :: _ => p.1.2.mul p.2.2
          | [] => .fin false 1 0
        fp32.enc (sum.mul sc))
  else
    let conv (e : Elem) : FV := fp32.dec (fp32.enc (e.1.mul e.2))
    fmaSeq fr ps.length 0 (ps.map fun p => (conv p.1, conv p.2))

/-- Tensor scales applied to an accumulator, one rounded product after another (R256 step 6). -/
def scaleBy (acc : Nat) (scales : List Nat) : Nat := scales.foldl (fmul fp32) acc

/-! ### Functions of the vector unit (R262, R263, R272) -/

/-- A real function within 2 ulp, or within 1 for the reciprocal square root. -/
def vfun (n fr x : Nat) : Nat := if n = 8 then realCode fp32 8 0 1 fr x else realCode fp32 n 1 2 fr x

/-- The greater or lesser of two codes; of two zeros either sign may come. -/
def vmax (fr x y : Nat) : Nat :=
  let a := fp32.dec x
  let b := fp32.dec y
  if a.isZero && b.isZero then (if fr % 2 = 0 then x else y) else fp32.enc (a.max b)
def vmin (fr x y : Nat) : Nat :=
  let a := fp32.dec x
  let b := fp32.dec y
  if a.isZero && b.isZero then (if fr % 2 = 0 then x else y) else fp32.enc (a.min b)

/-- An activation or a unary operation by its code; any other code leaves the value. -/
def unaryOp (op fr x : Nat) : Nat :=
  match op with
  | 0x11 => vmax fr x 0
  | 0x12 => vfun 5 fr x
  | 0x13 => vfun 4 fr x
  | 0x14 => vfun 3 fr x
  | 0x15 => vfun 6 fr x
  | 0x16 => vfun 1 fr x
  | 0x17 => vfun 2 fr x
  | 0x18 => fsqrt fp32 x
  | 0x19 => vfun 8 fr x
  | 0x1A => x % 2 ^ 31
  | _ => x

/-- A binary operation. -/
def binaryOp (op fr x y : Nat) : Nat :=
  match op with
  | 0x01 => fadd fp32 x y
  | 0x02 => fsub fp32 x y
  | 0x03 => fmul fp32 x y
  | 0x04 => fdiv fp32 x y
  | 0x05 => vmax fr x y
  | _ => vmin fr x y

/-- An FP32 result that further rounding may have moved by up to n codes. -/
def nudge (n fr x : Nat) : Nat :=
  match fp32.dec x with
  | .fin _ m _ => if m = 0 then x
      else let c := x % 2 ^ 31 + fr % (2 * n + 1) - n
        x / 2 ^ 31 * 2 ^ 31 + Nat.min (fp32.maxCode + 1) (if c = 0 then 1 else c)
  | _ => x

/-! ### Conversion to output formats (R251 to R254) -/

/-- A magnitude in units of 2^q: nearest even, or by the stochastic number r of R254. -/
def rndUnits (st : Option Nat) (neg : Bool) (man : Nat) (exp q : Int) : Nat :=
  let (n, r, s) := floorAt man exp q
  if r = 0 then n
  else match st with
    | none =>
      if 2 ^ (s - 1) < r then n + 1 else if r = 2 ^ (s - 1) ∧ n % 2 = 1 then n + 1 else n
    | some x =>
      if neg then (if x < 2 ^ 24 - ceilDiv (r * 2 ^ 24) (2 ^ s) then n else n + 1)
      else if x < r * 2 ^ 24 / 2 ^ s then n + 1 else n

/-- A value rounded to a format, and whether it saturated; past the finite range it saturates, or becomes an infinity
where the format has one and the conversion is not to a block element. -/
def roundTo (f : Fmt) (block : Bool) (st : Option Nat) : FV → Nat × Bool
  | .nan => (f.nan, false)
  | .inf neg => (f.infCode neg, f.top != 0)
  | .fin neg m e =>
    match f.pack (rndUnits st neg m e (f.ulp m e)) (f.ulp m e) with
    | some c => (f.signBit neg + c, false)
    | none => if block || f.top != 0 then (f.signBit neg + f.maxCode, true) else (f.infCode neg, false)

/-- A value rounded to an integer of w bits, and whether it saturated. -/
def roundInt (w : Nat) (st : Option Nat) : FV → Nat × Bool
  | .nan => (0, false)
  | .inf neg => (if neg then 2 ^ (w - 1) else 2 ^ (w - 1) - 1, true)
  | .fin neg m e =>
    let i := smag neg (rndUnits st neg m e 0)
    let c := clampI (-(2 ^ (w - 1) : Nat)) ((2 ^ (w - 1) : Nat) - 1) i
    (wrapN w c, c != i)

/-- How a stage converts: OUT_TYPE, OUT_SCALE and, for stochastic rounding, the number of R254 by position. -/
structure Conv where
  type_ : Nat
  scale : FV
  st : Nat → Option Nat

/-- The conversion of a stage record in a batch (R254, R264). -/
def Conv.of (c : Ctx) : Conv where
  type_ := c.n 48 1
  scale := fp32.dec (c.n 52 4)
  st := fun p => if c.n 49 1 = 0 then none
    else some (fold64 (sliceB c.record 56 8 ++ natLE 8 c.stream) (natLE 8 p ++ natLE 8 c.idx) >>> 40)

/-- The smallest positive E4M3 code s with 6 · s · T at least amax, the largest where there is none (R253). -/
def m4Scale (t amax : FV) : Nat :=
  ((List.range 0x7E).map (· + 1)).find? (fun c => amax.le (((FV.fin false 6 0).mul (e4m3.dec c)).mul t)) |>.getD 0x7E

/-- A block of FP32 codes from position p: its element codes, its scale code, saturated values and NaNs. -/
def convBlock (k : Conv) (p : Nat) (vs : List Nat) : List Nat × Nat × Nat × Nat :=
  let f := (fmtOf k.type_).getD e2m1
  let xs := vs.map fp32.dec
  let m4 := k.type_ == 0x19
  if xs.any fun v => !v.isFin then (vs.map fun _ => 0, if m4 then 0x7F else 0xFF, 0, vs.length)
  else
    let amax : FV := xs.foldl (fun (a : FV) (v : FV) => a.max v.abs) (FV.fin false 0 0)
    if amax.isZero then (vs.map fun _ => 0, 0, 0, 0)
    else
      let (code, div) : Nat × (FV → FV) :=
        if m4 then
          let s := m4Scale k.scale amax
          (s, fun v => v.div ((e4m3.dec s).mul k.scale))
        else
          let emax : Int := if f.code = 0x10 then 8 else if f.code = 0x11 then 15 else if f.code = 0x16 then 4 else 2
          let lg : Int := match amax with
            | .fin _ m e => (bitLen m : Int) + e - 1
            | _ => 0
          let x := clampI (-127) 127 (lg - emax)
          ((x + 127).toNat, fun v => match v with
            | .fin n m e => .fin n m (e - x)
            | v => v)
      let es := xs.zipIdx.map fun q => roundTo f true (k.st (p + q.2)) (div q.1)
      (es.map (·.1), code, (es.filter (·.2)).length, 0)

/-- Elements packed in bytes by their width (R249). -/
def packBits (w : Nat) (es : List Nat) : List Byte :=
  if w = 4 then (chunksN 2 es.length es).map fun c => BitVec.ofNat 8 (c.getD 0 0 + 16 * c.getD 1 0)
  else if w = 6 then (chunksN 4 es.length es).flatMap fun c =>
    (natLE 3 (c.getD 0 0 + 2 ^ 6 * c.getD 1 0 + 2 ^ 12 * c.getD 2 0 + 2 ^ 18 * c.getD 3 0)).take (ceilDiv (6 * c.length) 8)
  else es.flatMap (natLE (w / 8))

/-- One innermost row from position p: its bytes, saturated values and NaNs. -/
def convRow (k : Conv) (p : Nat) (vs : List Nat) : List Byte × Nat × Nat :=
  let t := k.type_
  if typeBlock t ≠ 0 then
    let bs := (chunksN (typeBlock t) vs.length vs).zipIdx.map fun c => convBlock k (p + typeBlock t * c.2) c.1
    (packBits (typeBits t) (bs.flatMap (·.1)) ++ bs.map (fun b => BitVec.ofNat 8 b.2.1),
      (bs.map (·.2.2.1)).sum, (bs.map (·.2.2.2)).sum)
  else
    let es := vs.zipIdx.map fun q =>
      let v := fp32.dec q.1
      if t = 0x02 ∨ t = 0x12 then roundInt (typeBits t) (k.st (p + q.2)) (v.div k.scale)
      else if t = 0x0C then (q.1, false)
      else if t = 0x10 ∧ v.isNan then (0x7F + q.1 / 2 ^ 31 * 128, false)
      else roundTo ((fmtOf t).getD fp32) false (k.st (p + q.2)) v
    (packBits (typeBits t) (es.map (·.1)), (es.filter (·.2)).length, (vs.filter fun x => (fp32.dec x).isNan).length)

/-- The output of a dense stage from its FP32 rows: the tensor, with SAT_CNT and NAN_CNT counted on the tiles of the rows. -/
def denseOut (c : Ctx) (dims : List Nat) (rows : List (List Nat)) (s : State) : Res (List (Option Col)) :=
  let k := Conv.of c
  let n := dims.getD 3 0
  let rs := rows.zipIdx.map fun r => convRow k (r.2 * n) r.1
  let s := spread s c.pages 0x5B0 (rs.map (·.2.1))
  let s := spread s c.pages 0x5B8 (rs.map (·.2.2))
  ok s [some { kind := kTensor, type_ := k.type_, count := prod dims, dims := dims, data := rs.flatMap (·.1) }]

/-! ### Counters of the matrix units -/

/-- The rows of each tile of a stage (R266). -/
def tileRows (t m : Nat) : List Nat := (List.range t).map fun i => (i + 1) * m / t - i * m / t

/-- MACs done, counted in units of 65,536 (R281), by tile. -/
def countMacs (s : State) (pages : List Nat) (rows perRow : Nat) : State :=
  (pages.zip (tileRows pages.length rows)).foldl (fun s p =>
    let n := (s.tile (keyInst p.1)).macRem + p.2 * perRow
    let s := s.setTile (keyInst p.1) fun t => { t with macRem := n % 65536 }
    if n / 65536 = 0 then s else bump s (p.1 + 0x590) (n / 65536)) s

/-- The MU time of one pass (R258). -/
def muTime (ta tb rows cols depth : Nat) : Nat :=
  if rows = 0 ∨ cols = 0 then 0
  else ceilDiv (ceilDiv cols 128 * ceilDiv depth (muDepth ta tb)) 4 * muCost ta tb * max rows 32

/-- MU_BUSY by tile, for one pass of each tile over its rows. -/
def countBusy (s : State) (pages : List Nat) (ta tb rows cols depth : Nat) : State :=
  if muPair ta tb then (pages.zip (tileRows pages.length rows)).foldl (fun s p =>
    if muTime ta tb p.2 cols depth = 0 then s else bump s (p.1 + 0x598) (muTime ta tb p.2 cols depth)) s else s

/-- MU_BUSY of an operator whose passes the manual does not lay out (attention, interaction, a MATMUL with a second operand for each
batch of rows): a free count. -/
def freeBusy (s : State) (c : Ctx) (ta tb : Nat) : State :=
  if muPair ta tb then c.pages.zipIdx.foldl (fun s p => bump s (p.1 + 0x598) (c.free 40 p.2 % 2 ^ 48)) s else s

/-! ### The operators -/

def aScale (c : Ctx) : Nat := c.n 64 4
def bScale (c : Ctx) : Nat := c.n 68 4
def actOf (c : Ctx) : Nat := c.n 50 1

/-- A free number for output element p of a purpose. -/
def Ctx.at_ (c : Ctx) (purpose p k : Nat) : Nat := c.free purpose (p * 131072 + k)

def runMatmul (c : Ctx) (ins : List (Option Col)) (s : State) : Res (List (Option Col)) :=
  let a := inCol ins 0
  let b := inCol ins 1
  let kn := bitOf (c.n 72 1) 0
  let m := a.dims.getD 2 0
  let k := a.dims.getD 3 0
  let n := if kn then b.dims.getD 3 0 else b.dims.getD 2 0
  let bats := a.dims.getD 0 0 * a.dims.getD 1 0
  let one := b.dims.getD 0 0 * b.dims.getD 1 0 == 1
  let ra := rowsT (c.free 50) a
  let rb := rowsT (c.free 51) b
  let cols (q : Nat) : List (List Elem) :=
    let q := if one then 0 else q
    if kn then (List.range n).map fun j => (List.range k).map fun i => (rb.getD (q * k + i) []).getD j (.nan, .nan)
    else (List.range n).map fun j => rb.getD (q * n + j) []
  let rows := (List.range bats).flatMap fun q => (List.range m).map fun i =>
    (cols q).zipIdx.map fun w =>
      let p := (q * m + i) * n + w.2
      let y := scaleBy (dotAcc (c.at_ 1 p) a.type_ b.type_ (ra.getD (q * m + i) []) w.1) [aScale c, bScale c]
      unaryOp (actOf c) (c.at_ 2 p 0) y
  let s := countMacs s c.pages (bats * m) (n * k)
  let s := if one then countBusy s c.pages a.type_ b.type_ (bats * m) n k else freeBusy s c a.type_ b.type_
  denseOut c [a.dims.getD 0 0, a.dims.getD 1 0, m, n] rows s

/-- LINEAR with its weights and bias in hand. -/
def linearRows (c : Ctx) (x w : Col) (bias : List Byte) : List (List Nat) :=
  let rw_ := rowsT (c.free 51) w
  let b := numsLE 4 bias
  (rowsT (c.free 50) x).zipIdx.map fun r => rw_.zipIdx.map fun q =>
    let p := r.2 * rw_.length + q.2
    let y := scaleBy (dotAcc (c.at_ 1 p) x.type_ w.type_ r.1 q.1) [aScale c, bScale c]
    let y := if b = [] then y else fadd fp32 y (b.getD q.2 0)
    unaryOp (actOf c) (c.at_ 2 p 0) y

/-- The W descriptor of a LINEAR stage, copied at the bind (R268). -/
def wDesc (b : Blocks) : Desc := Desc.of (blockAt b 72)

/-- The weights and bias of a LINEAR stage, read from memory. -/
def readWeights (s : State) (r : List Byte) (b : Blocks) : Res (Col × List Byte) :=
  andThen (loadCol s ((wDesc b).col 72)) fun s w =>
    if fieldN r 80 8 = 0 then ok s (w, [])
    else andThen (readMem s (fieldN r 80 8) (4 * w.dims.getD 2 0)) fun s bias => ok s (w, bias)

/-- Is a LINEAR stage resident? -/
def isResident (r : List Byte) : Bool := stOp r == 0x0301 && bitOf (fieldN r 88 1) 0

/-- LINEAR; held are the weights of its resident group, whose rotation counts its steps itself (R278). -/
def runLinear (c : Ctx) (held : Option (Col × List Byte)) (ins : List (Option Col)) (s : State) : Res (List (Option Col)) :=
  let x := inCol ins 0
  let dims := x.dims
  let src : Res (Col × List Byte) := match held with
    | some h => ok s h
    | none => if c.n 72 8 = 0 then
        (if c.n 80 8 = 0 then ok s (inCol ins 1, [])
         else andThen (readMem s (c.n 80 8) (4 * (inCol ins 1).dims.getD 2 0)) fun s bias => ok s (inCol ins 1, bias))
      else readWeights s c.record c.blocks
  andThen src fun s wb =>
    let n := wb.1.dims.getD 2 0
    let k := dims.getD 3 0
    let m := prod (dims.take 3)
    let s := countMacs s c.pages m (n * k)
    let s := if held.isSome && decide (1 < c.pages.length) then s else countBusy s c.pages x.type_ wb.1.type_ m n k
    denseOut c (dims.take 3 ++ [n]) (linearRows c x wb.1 wb.2) s

/-- The softmax weights of a row of scores, masked ones left out: FP32 codes, summed in a free order. -/
def softWeights (fr : Nat → Nat) (temp : Nat) (xs : List (Option Nat)) : List Nat :=
  let live := xs.filterMap id
  let mx := live.foldl (fun m x => match m with
    | none => some x
    | some y => some (fp32.enc ((fp32.dec y).max (fp32.dec x)))) (none : Option Nat)
  let es := xs.zipIdx.map fun p => match p.1, mx with
    | some x, some m => if x = fp32.infCode true ∧ m ≠ fp32.nan then 0
        else vfun 1 (fr (2 * p.2)) (fdiv fp32 (fsub fp32 x m) temp)
    | _, _ => 0
  let sum := sumAny fp32 (fun i => fr (2 * i + 1)) ((xs.zip es).filterMap fun p => if p.1.isSome then some p.2 else none)
  xs.zip es |>.map fun p => if p.1.isSome then fdiv fp32 p.2 sum else 0

def runAttention (c : Ctx) (ins : List (Option Col)) (s : State) : Res (List (Option Col)) :=
  let q := inCol ins 0
  let kk := inCol ins 1
  let v := inCol ins 2
  let sq := q.dims.getD 0 0
  let h := q.dims.getD 1 0
  let lq := q.dims.getD 2 0
  let d := q.dims.getD 3 0
  let hk := kk.dims.getD 1 0
  let lk := kk.dims.getD 2 0
  let causal := bitOf (c.n 76 1) 0
  let lens : Nat → Nat := fun i => if bitOf (c.n 76 1) 1 then
    (if (inCol ins 3).isValid i then (inCol ins 3).bits i else c.free 53 i % (lk + 1)) else lk
  must s ((List.range sq).all fun i => decide (lens i ≤ lk)) stCorrupt fun s =>
    let rq := rowsT (c.free 50) q
    let rk_ := rowsT (c.free 51) kk
    let rv := rowsT (c.free 52) v
    let one : FV := .fin false 1 0
    let sc := if (fp32.dec (c.n 72 4)).isZero then vfun 8 (c.free 54 0) (fp32.enc (FV.ofInt d)) else c.n 72 4
    let n := if ceilDiv lk 128 ≤ 1 then 0 else 4 * ceilDiv lk 128
    let vt := if v.type_ = 0x19 then 0x19 else 0x0B
    let row (si hi qi : Nat) : List Nat :=
      let p := (si * h + hi) * lq + qi
      let g := si * hk + hi / (h / hk)
      let masked (j : Nat) : Bool := (causal && decide (qi + lk < j + lq)) || decide (lens si ≤ j)
      let scores := (List.range lk).map fun j => if masked j then none
        else some (scaleBy (dotAcc (c.at_ 1 (p * lk + j)) q.type_ kk.type_ (rq.getD p []) (rk_.getD (g * lk + j) [])) [aScale c, bScale c, sc])
      if scores.all (·.isNone) then List.replicate d 0
      else if scores.any fun x => (x.map fun y => (fp32.dec y).isNan).getD false then List.replicate d fp32.nan
      else
        let w := (softWeights (c.at_ 2 p) one32 scores).zipIdx.map fun x =>
          (bf16.dec (fcvt fp32 bf16 (nudge n (c.at_ 3 p x.2) x.1)), one)
        (List.range d).map fun e =>
          let col := (List.range lk).map fun j => let x := (rv.getD (g * lk + j) []).getD e (.nan, .nan)
            (x.1.mul x.2, one)
          let live := ((w.zip col).zip scores).filterMap fun x => if x.2.isSome then some x.1 else none
          nudge n (c.at_ 5 p e) (fmul fp32 (dotAcc (c.at_ 4 (p * d + e)) 0x0B vt (live.map (·.1)) (live.map (·.2))) (c.n 80 4))
    let rows := (List.range sq).flatMap fun si => (List.range h).flatMap fun hi => (List.range lq).map fun qi => row si hi qi
    let s := freeBusy (countMacs s c.pages (sq * h * lq) (2 * lk * d)) c q.type_ kk.type_
    denseOut c q.dims rows s

/-- The pairs of INTERACT in order (R271). -/
def pairsOf (f : Nat) (self : Bool) : List (Nat × Nat) :=
  (List.range f).flatMap fun i => ((List.range f).filter fun j => decide (i < j) || (self && i == j)).map fun j => (i, j)

def runInteract (c : Ctx) (ins : List (Option Col)) (s : State) : Res (List (Option Col)) :=
  let x := inCol ins 0
  let f := x.dims.getD 2 0
  let d := x.dims.getD 3 0
  let m := x.dims.getD 0 0 * x.dims.getD 1 0
  let dense := bitOf (c.n 72 1) 1
  let ps := pairsOf f (bitOf (c.n 72 1) 0)
  let rx := rowsT (c.free 50) x
  let y := inCol ins 1
  let ry := if dense then rowsT (c.free 51) y else []
  let rows := (List.range m).map fun r =>
    ((ry.getD r []).map (scaled32 y.type_ (fp32.dec (bScale c))))
    ++ ps.zipIdx.map fun p =>
      scaleBy (dotAcc (c.at_ 1 (r * 32896 + p.2)) x.type_ x.type_ (rx.getD (r * f + p.1.1) []) (rx.getD (r * f + p.1.2) [])) [aScale c, aScale c]
  let s := freeBusy (countMacs s c.pages m (ps.length * d)) c x.type_ x.type_
  denseOut c [x.dims.getD 0 0, x.dims.getD 1 0, 1, ps.length + (if dense then y.dims.getD 3 0 else 0)] rows s

def runElementwise (c : Ctx) (ins : List (Option Col)) (s : State) : Res (List (Option Col)) :=
  let x := inCol ins 0
  let op := c.n 72 1
  let n := x.dims.getD 3 0
  let ra := (rowsT (c.free 50) x).map fun r => r.map (scaled32 x.type_ (fp32.dec (aScale c)))
  if 0x10 ≤ op then
    denseOut c x.dims (ra.zipIdx.map fun r => r.1.zipIdx.map fun e => unaryOp op (c.at_ 2 (r.2 * n + e.2) 0) e.1) s
  else
    let y := inCol ins 1
    must s (y.count == x.count || y.count == n || y.count == 1) stCorrupt fun s =>
      let rb := (rowsT (c.free 51) y).flatten.map (scaled32 y.type_ (fp32.dec (bScale c)))
      let pick (p j : Nat) : Nat := if y.count = x.count then rb.getD p 0 else if y.count = n then rb.getD j 0 else rb.getD 0 0
      denseOut c x.dims (ra.zipIdx.map fun r => r.1.zipIdx.map fun e =>
        binaryOp op (c.at_ 2 (r.2 * n + e.2) 0) e.1 (pick (r.2 * n + e.2) e.2)) s

/-- One row normalised (R273). -/
def normRow (fr : Nat → Nat) (rms : Bool) (eps : Nat) (gamma beta : List Nat) (xs : List Nat) : List Nat :=
  if xs.any fun x => (fp32.dec x).isNan then xs.map fun _ => fp32.nan
  else
    let n := fp32.enc (FV.ofInt xs.length)
    let mu := if rms then 0 else fdiv fp32 (sumAny fp32 (fun i => fr (2 * i)) xs) n
    let ds := if rms then xs else xs.map fun x => fsub fp32 x mu
    let var := fdiv fp32 (sumAny fp32 (fun i => fr (2 * i + 1)) (ds.map fun d => fmul fp32 d d)) n
    let den := fsqrt fp32 (fadd fp32 var eps)
    ds.zipIdx.map fun d =>
      let y := fdiv fp32 d.1 den
      let y := if gamma = [] then y else fmul fp32 y (gamma.getD d.2 0)
      if beta = [] then y else fadd fp32 y (beta.getD d.2 0)

def runNormLayer (c : Ctx) (ins : List (Option Col)) (s : State) : Res (List (Option Col)) :=
  let x := inCol ins 0
  let rows := (rowsT (c.free 50) x).zipIdx.map fun r =>
    normRow (c.at_ 1 r.2) (c.n 72 1 == 1) (c.n 76 4) (numsLE 4 (blockAt c.blocks 88)) (numsLE 4 (blockAt c.blocks 96))
      (r.1.map (scaled32 x.type_ (fp32.dec (aScale c))))
  denseOut c x.dims rows s

def runSoftmax (c : Ctx) (ins : List (Option Col)) (s : State) : Res (List (Option Col)) :=
  let x := inCol ins 0
  let n := x.dims.getD 3 0
  let lg := bitOf (c.n 72 1) 0
  let m := inCol ins 1
  let masked (p : Nat) : Bool := bitOf (c.n 72 1) 1
    && (if m.isValid p then m.bits p == 0 else c.free 51 p % 2 == 0)
  let rows := (rowsT (c.free 50) x).zipIdx.map fun r =>
    let xs := r.1.zipIdx.map fun e => if masked (r.2 * n + e.2) then none else some (scaled32 x.type_ (fp32.dec (aScale c)) e.1)
    if xs.any fun e => (e.map fun y => (fp32.dec y).isNan || y == fp32.infCode false).getD false then xs.map fun _ => fp32.nan
    else
      let low := if lg then fp32.infCode true else 0
      let ws := softWeights (c.at_ 1 r.2) (c.n 76 4) xs
      (xs.zip ws).zipIdx.map fun e => match e.1.1 with
        | none => low
        | some y => if y = fp32.infCode true then low
          else if lg then vfun 2 (c.at_ 2 (r.2 * n + e.2) 0) e.1.2 else e.1.2
  denseOut c x.dims rows s

/-! ### Checks -/

/-- A finite nonzero FP32 scale (R264), and a finite positive one. -/
def scaleOk (c : Nat) : Bool := (fp32.dec c).isFin && !(fp32.dec c).isZero
def posOk (c : Nat) : Bool := scaleOk c && !(fp32.dec c).isNeg

/-- Has a stage a second matrix operand that B_SCALE scales? -/
def hasB (r : List Byte) : Bool :=
  match stOp r with
  | 0x0300 | 0x0301 | 0x0302 => true
  | 0x0303 => bitOf (fieldN r 72 1) 1
  | 0x0304 => decide (fieldN r 72 1 < 0x10)
  | _ => false

/-- The uses of inputs and outputs (R534). -/
def denseUses (r : List Byte) : List Use × List Use :=
  (match stOp r with
    | 0x0300 => [.must, .must]
    | 0x0301 => [.must, Use.iff (fieldN r 72 8 == 0)]
    | 0x0302 => [.must, .must, .must, Use.iff (bitOf (fieldN r 76 1) 1)]
    | 0x0303 => [.must, Use.iff (bitOf (fieldN r 72 1) 1)]
    | 0x0304 => [.must, Use.iff (decide (fieldN r 72 1 < 0x10))]
    | 0x0306 => [.must, Use.iff (bitOf (fieldN r 72 1) 1)]
    | _ => [.must], [.must])

/-- Operation codes of ELEMENTWISE. -/
def elementOp (op : Nat) : Bool := decide (1 ≤ op ∧ op ≤ 6) || decide (0x10 ≤ op ∧ op ≤ 0x1A)

/-- The checks of a dense stage's operands at the bind (R264, R267 to R274). -/
def denseBind (r : List Byte) : List Fail :=
  let t := fieldN r 48 1
  let act := fieldN r 50 1
  failIf (!([0x02, 0x0A, 0x0B, 0x0C].contains t || isDenseType t)) stBadField 48
  ++ failIf (decide (1 < fieldN r 49 1) || (fieldN r 49 1 == 1 && !(t == 0x02 || isDenseType t))) stBadField 49
  ++ failIf (if stOp r ≤ 0x0301 then act != 0 && !(decide (0x11 ≤ act ∧ act ≤ 0x15)) else act != 0) stBadField 50
  ++ failIf (!(zeroAt r 51 1)) stBadField 51
  ++ failIf (if t = 0x02 ∨ t = 0x12 ∨ t = 0x19 then !(posOk (fieldN r 52 4)) else fieldN r 52 4 != 0) stBadField 52
  ++ failIf (fieldN r 49 1 == 0 && fieldN r 56 8 != 0) stBadField 56
  ++ failIf (!(scaleOk (fieldN r 64 4))) stBadField 64
  ++ failIf (if hasB r then !(scaleOk (fieldN r 68 4)) else fieldN r 68 4 != 0) stBadField 68
  ++ match stOp r with
    | 0x0300 => failIf (decide (1 < fieldN r 72 1)) stBadField 72 ++ failIf (!(zeroAt r 73 183)) stBadField 73
    | 0x0301 => failIf (decide (1 < fieldN r 88 1) || (fieldN r 88 1 == 1 && fieldN r 72 8 == 0)) stBadField 88
      ++ failIf (fieldN r 80 8 % 16 != 0) stBadField 80
      ++ failIf (decide (7 < fieldN r 89 1) || (fieldN r 88 1 == 0 && fieldN r 89 1 != 0)) stBadField 89
      ++ failIf (fieldN r 88 1 == 1 && decide (12 < stTiles r)) stBadField 3
      ++ failIf (!(zeroAt r 90 166)) stBadField 90
    | 0x0302 => failIf (decide (3 < fieldN r 76 1)) stBadField 76
      ++ failIf (!(zeroAt r 77 3)) stBadField 77 ++ failIf (!(scaleOk (fieldN r 80 4))) stBadField 80
      ++ failIf (!(zeroAt r 84 172)) stBadField 84
    | 0x0303 => failIf (decide (3 < fieldN r 72 1)) stBadField 72 ++ failIf (!(zeroAt r 73 183)) stBadField 73
    | 0x0304 => failIf (!(elementOp (fieldN r 72 1))) stBadField 72 ++ failIf (!(zeroAt r 73 183)) stBadField 73
    | 0x0305 => failIf (decide (1 < fieldN r 72 1)) stBadField 72 ++ failIf (decide (1 < fieldN r 73 1)) stBadField 73
      ++ failIf (!(zeroAt r 74 2)) stBadField 74 ++ failIf (!(posOk (fieldN r 76 4))) stBadField 76
      ++ failIf (decide (fieldN r 80 4 = 0 ∨ 65536 < fieldN r 80 4)) stBadField 80 ++ failIf (!(zeroAt r 84 4)) stBadField 84
      ++ failIf ((fieldN r 73 1 == 1) != (fieldN r 88 8 != 0)) stBadField 88
      ++ failIf (fieldN r 73 1 == 0 && fieldN r 96 8 != 0) stBadField 96 ++ failIf (!(zeroAt r 104 152)) stBadField 104
    | _ => failIf (decide (3 < fieldN r 72 1)) stBadField 72 ++ failIf (!(zeroAt r 73 3)) stBadField 73
      ++ failIf (!(posOk (fieldN r 76 4))) stBadField 76 ++ failIf (!(zeroAt r 80 176)) stBadField 80

/-- OUT_TYPE M4 and ROUND 1 need level 2.1 (R264). -/
def denseLevel (level : Nat) (r : List Byte) : List Fail :=
  failIf (decide (level < 0x0201) && fieldN r 48 1 == 0x19) stLevel 48 ++ failIf (decide (level < 0x0201) && fieldN r 49 1 == 1) stLevel 49

/-- A tensor that a dense stage accepts. -/
def isTensor (c : Col) : Bool := c.kind == kTensor && denseType c.type_

/-- A relation between inputs of a stage, checked when all of them are known; it fails at the last of them. -/
def checkRel (ins : List (Option Col)) (which : List Nat) (p : List Col → Bool) : List Fail :=
  let cs := which.filterMap fun i => ins.getD i none
  if cs.length = which.length then failIf (!(p cs)) stBadField (inOff (which.getLastD 0)) else []

/-- Dimension i of a column. -/
def dimOf (c : Col) (i : Nat) : Nat := c.dims.getD i 0

/-- What a dense stage accepts of its inputs and their shapes (R265, R267 to R274). -/
def denseInputs (r : List Byte) (b : Blocks) (ins : List (Option Col)) : List Fail :=
  let rel (which : List Nat) (p : Col → Col → Bool) : List Fail := checkRel ins which fun cs => p (cs.getD 0 {}) (cs.getD 1 {})
  match stOp r with
  | 0x0300 =>
    let kn := bitOf (fieldN r 72 1) 0
    checkIn ins 0 isTensor
    ++ checkIn ins 1 (fun c => isTensor c && !(kn && (typeBlock c.type_ != 0 || typeBits c.type_ == 4)))
    ++ rel [0, 1] fun a c =>
      let q := dimOf c 0 * dimOf c 1
      (q == dimOf a 0 * dimOf a 1 || q == 1) && dimOf a 3 == (if kn then dimOf c 2 else dimOf c 3)
  | 0x0301 =>
    let one (c : Col) : Bool := dimOf c 0 == 1 && dimOf c 1 == 1
    checkIn ins 0 isTensor
    ++ (if fieldN r 72 8 = 0 then checkIn ins 1 (fun c => isTensor c && one c) ++ rel [0, 1] fun x w => dimOf x 3 == dimOf w 3
      else
        let d := wDesc b
        let w := d.col 72
        failIf (!(d.fieldsOk true && isTensor w && one w)) stBadField 72
        ++ checkIn ins 0 fun x => dimOf x 3 == dimOf w 3)
  | 0x0302 =>
    let q (c : Col) : Bool := isTensor c && floatFam c.type_
    checkIn ins 0 (fun c => q c && decide (16 ≤ dimOf c 3) && dimOf c 3 % 16 == 0) ++ checkIn ins 1 q ++ checkIn ins 2 q
    ++ rel [0, 1] (fun a c => dimOf a 0 == dimOf c 0 && dimOf a 3 == dimOf c 3 && dimOf c 1 != 0 && dimOf a 1 % dimOf c 1 == 0)
    ++ rel [1, 2] (fun a c => a.dims == c.dims)
    ++ rel [0, 2] (fun a c => dimOf a 0 == dimOf c 0 && dimOf a 3 == dimOf c 3)
    ++ checkIn ins 3 (fun c => isColumn c (· == 8)) ++ rel [0, 3] fun a c => c.count == dimOf a 0
  | 0x0303 =>
    checkIn ins 0 (fun c => isTensor c && (bitOf (fieldN r 72 1) 0 || decide (2 ≤ dimOf c 2)))
    ++ checkIn ins 1 (fun c => isTensor c && dimOf c 2 == 1)
    ++ rel [0, 1] fun a c => dimOf a 0 == dimOf c 0 && dimOf a 1 == dimOf c 1
  | 0x0304 => checkIn ins 0 isTensor ++ checkIn ins 1 fun c => isColumn c denseType
  | 0x0305 => checkIn ins 0 fun c => isTensor c && dimOf c 3 == fieldN r 80 4
  | _ =>
    checkIn ins 0 isTensor ++ checkIn ins 1 (fun c => c.kind == kTensor && c.type_ == 1) ++ rel [0, 1] fun a c => a.dims == c.dims

/-- The shape of a dense stage's output where its inputs are known. -/
def denseShape (r : List Byte) (b : Blocks) (ins : List (Option Col)) : Option (List Nat) :=
  (ins.getD 0 none).bind fun a =>
    match stOp r with
    | 0x0300 => (ins.getD 1 none).map fun c => (a.dims.take 3) ++ [if bitOf (fieldN r 72 1) 0 then dimOf c 3 else dimOf c 2]
    | 0x0301 => if fieldN r 72 8 = 0 then (ins.getD 1 none).map fun c => (a.dims.take 3) ++ [dimOf c 2]
      else some ((a.dims.take 3) ++ [(wDesc b).dims.getD 2 0])
    | 0x0303 =>
      let q := (pairsOf (dimOf a 2) (bitOf (fieldN r 72 1) 0)).length
      if bitOf (fieldN r 72 1) 1 then (ins.getD 1 none).map fun c => [dimOf a 0, dimOf a 1, 1, q + dimOf c 3]
      else some [dimOf a 0, dimOf a 1, 1, q]
    | _ => some a.dims

/-- A dimension of a dense stage passes its limit (R266); every dimension is known when the stage starts. -/
def denseOver (r : List Byte) (b : Blocks) (ins : List (Option Col)) : Bool :=
  let a := inCol ins 0
  let c := inCol ins 1
  let rows := prod (a.dims.take 3)
  match stOp r with
  | 0x0300 => decide (65536 < dimOf a 3 ∨ 65536 < (if bitOf (fieldN r 72 1) 0 then dimOf c 3 else dimOf c 2) ∨ 1048576 < rows)
  | 0x0301 => decide (65536 < dimOf a 3 ∨ 1048576 < rows
      ∨ 65536 < (if fieldN r 72 8 = 0 then dimOf c 2 else (wDesc b).dims.getD 2 0))
  | 0x0302 => decide (8192 < dimOf a 2 ∨ 8192 < dimOf c 2 ∨ 256 < dimOf a 3 ∨ 128 < dimOf a 1 ∨ 1048576 < rows)
  | 0x0303 => decide (1024 < dimOf a 3 ∨ 256 < dimOf a 2 ∨ 1048576 < dimOf a 0 * dimOf a 1)
  | 0x0304 => decide (1048576 < rows)
  | 0x0305 | 0x0306 => decide (65536 < dimOf a 3 ∨ 1048576 < rows)
  | _ => false

/-- What a dense stage computes. -/
def denseRun (c : Ctx) (held : Option (Col × List Byte)) (ins : List (Option Col)) (s : State) : Res (List (Option Col)) :=
  andThen (loadAll s ins) fun s ins => match c.op with
    | 0x0300 => runMatmul c ins s
    | 0x0301 => runLinear c held ins s
    | 0x0302 => runAttention c ins s
    | 0x0303 => runInteract c ins s
    | 0x0304 => runElementwise c ins s
    | 0x0305 => runNormLayer c ins s
    | _ => runSoftmax c ins s

/-! ### Resident groups (R275 to R279) -/

/-- The output columns of shard k of t (R276). -/
def shardCols (n t k : Nat) : Nat := (k + 1) * n / t - k * n / t

/-- Bytes of a shard: its W rows packed. -/
def shardBytes (w : Desc) (t k : Nat) : Nat := shardCols (w.dims.getD 2 0) t k * rowBytes w.type_ (w.dims.getD 3 0)

/-- The largest shard of a stage. -/
def largestShard (w : Desc) (t : Nat) : Nat := ((List.range t).map (shardBytes w t)).foldl max 0

/-- A member's resident footprint in 16 KiB blocks, from the W descriptors of the group's stages (R276). -/
def footprint (ws : List Desc) (t : Nat) : Nat :=
  ceilDiv ((ws.map fun w => largestShard w t).sum + (ws.map fun w => largestShard w t).foldl max 0
    + (ws.map fun w => 4 * w.dims.getD 2 0).sum) 16384

end Sys2Proof.Machine
end

