-- ==== Sys2Proof/Machine/TabRec.lean ====
section
/-! DEFINITION. Table records, registration, storage forms and row formats (R120 to R129), and what BIND_PLAN checks of the
Tables group and of PEER_LOOKUP. -/

namespace Sys2Proof.Machine

/-! ### Table records (R120, R121) -/

/-- The fields of a table record. -/
structure TRec where
  id : Nat
  form : Nat
  fmt : Nat
  dim : Nat
  rowBytes : Nat
  rows : Nat
  base0 : Nat
  base1 : Nat
  replace : Nat
  hashSel : Nat
  flags : Nat
  key : List Byte
  m4 : Nat
  comb : Nat
  m : Nat
  n : Nat
  p0 : Nat
  p1 : Nat
  pDim : Nat
  pRowBytes : Nat
  deriving DecidableEq, Repr

def TRec.of (b : List Byte) : TRec where
  id := fieldN b 0 2
  form := fieldN b 2 1
  fmt := fieldN b 3 1
  dim := fieldN b 4 2
  rowBytes := fieldN b 6 2
  rows := fieldN b 8 8
  base0 := fieldN b 16 8
  base1 := fieldN b 24 8
  replace := fieldN b 32 1
  hashSel := fieldN b 33 1
  flags := fieldN b 34 2
  key := sliceB b 40 16
  m4 := fieldN b 56 4
  comb := fieldN b 60 1
  m := fieldN b 64 8
  n := fieldN b 72 8
  p0 := fieldN b 80 8
  p1 := fieldN b 88 8
  pDim := fieldN b 96 2
  pRowBytes := fieldN b 98 2

def formDirect : Nat := 0
def formHashed : Nat := 1
def formComposed : Nat := 2
def formRef : Nat := 3

def TRec.composed (t : TRec) : Bool := t.form == formComposed
def TRec.versioned (t : TRec) : Bool := t.replace == 1
def TRec.oobFail (t : TRec) : Bool := bitOf t.flags 0
def TRec.shared (t : TRec) : Bool := bitOf t.flags 1

/-- Elements a feature writes (R132). -/
def TRec.width (t : TRec) : Nat := if t.composed ∧ t.comb = 2 then t.dim + t.pDim else t.dim

/-- The packed size of a row (R128). -/
def packedBytes (fmt dim : Nat) : Nat :=
  match fmt with
  | 0 => 4 * dim
  | 1 | 2 => 2 * dim
  | 3 | 4 => dim
  | 5 => 4 + dim
  | _ => dim / 2 + dim / 16

/-- A row size that R120 allows. -/
def rowSizeOk (n : Nat) : Bool := decide (16 ≤ n ∧ n ≤ 4096) && n % 16 == 0

/-- The field checks of a record by itself (R122 BAD_FIELD). P_DIM has DIM's range (log 80, DESIGN CHOICE: R120 gives it none), and
is a multiple of 16 for M4 rows as DIM is. -/
def trecOk (b : List Byte) : Bool :=
  let t := TRec.of b
  decide (t.id ≤ 4095) && decide (t.form ≤ 3)
  && (if t.form = formRef then zeroAt b 3 125
    else
      decide (t.fmt ≤ 6) && decide (1 ≤ t.dim ∧ t.dim ≤ 4096) && rowSizeOk t.rowBytes && decide (1 ≤ t.rows)
      && decide (t.replace ≤ 1) && (t.versioned || (t.base1 == 0 && decide (t.rowBytes ≤ 1024)))
      && (if t.form = formHashed then decide (t.hashSel ≤ 3) && (t.hashSel != 0 || decide (t.rows ≤ 4294967296)) else t.hashSel == 0)
      && decide (t.flags ≤ 3) && zeroAt b 36 4
      && ((t.form == formHashed && t.hashSel != 0) || zeroAt b 40 16)
      && (if t.fmt = 6 then
          (match fp32.dec t.m4 with
            | .fin _ m _ => m != 0
            | _ => false) && t.dim % 16 == 0
        else t.m4 == 0)
      && zeroAt b 61 3 && decide (packedBytes t.fmt t.dim ≤ t.rowBytes) && zeroAt b 100 28
      && (if t.composed then
          decide (t.comb ≤ 2) && decide (1 ≤ t.m ∧ t.m ≤ 4294967296) && decide (1 ≤ t.n) && t.rows == ceilDiv t.n t.m
          && decide (1 ≤ t.pDim ∧ t.pDim ≤ 4096) && (t.comb == 2 || t.pDim == t.dim) && (t.fmt != 6 || t.pDim % 16 == 0)
          && rowSizeOk t.pRowBytes && decide (packedBytes t.fmt t.pDim ≤ t.pRowBytes)
          && (t.versioned || t.p1 == 0)
        else t.comb == 0 && t.m == 0 && t.p0 == 0 && t.p1 == 0 && t.pDim == 0 && t.pRowBytes == 0
          && (t.form != formDirect || t.n == 0)))

/-- The level a record needs (R121). -/
def trecLevel (t : TRec) : Nat :=
  if t.form = formRef then 0 else if t.fmt = 6 then 0x0201 else if t.composed || t.versioned then 0x0200 else 0

/-- A power of two. -/
def isPow2 (n : Nat) : Bool := n != 0 && 2 ^ Nat.log2 n == n

/-- A row extent lies in one of its two placements (R123). -/
def extentOk (base size row : Nat) : Bool :=
  if base < 0x9900000000 then decide (base + size ≤ 0x9900000000) && base % 4096 == 0 && isPow2 row
  else decide (0x10000000000 ≤ base) && decide (base < 0x10000000000 + 12 * 0x1000000000) && base % 16 == 0
    && decide ((base - 0x10000000000) % 0x1000000000 + size ≤ stackBytes)

/-- The row extents of a record: base, bytes, row size (R123). -/
def TRec.extents (t : TRec) : List (Nat × Nat × Nat) :=
  if t.form = formRef then []
  else
    [(t.base0, t.rows * t.rowBytes, t.rowBytes)]
    ++ (if t.versioned then [(t.base1, t.rows * t.rowBytes, t.rowBytes)] else [])
    ++ (if t.composed then [(t.p0, t.m * t.pRowBytes, t.pRowBytes)]
        ++ (if t.versioned then [(t.p1, t.m * t.pRowBytes, t.pRowBytes)] else []) else [])

/-- The stacks that hold rows of a table. -/
def TRec.hbms (t : TRec) : List Nat :=
  t.extents.foldl (fun a e =>
    if e.1 < 0x9900000000 then
      ((List.range (min 12 (ceilDiv e.2.1 4096))).map fun i => (e.1 / 4096 + i) % 12).foldl (fun a k => insertNew k a) a
    else insertNew ((e.1 - 0x10000000000) / 0x1000000000) a) []

/-! ### Rows (R126, R128, R129, R172) -/

/-- The row numbers of an index, and whether it is in range: the Q row, and the P row of a COMPOSED table. -/
def TRec.rowsOf (t : TRec) (x : Nat) : Option (List Nat) :=
  if t.form = formDirect then (if x < t.rows then some [x] else none)
  else if t.form = formHashed then (if t.n = 0 ∨ x < t.n then some [hashBy t.hashSel t.key (natLE 8 x) % t.rows] else none)
  else if x < t.n then some [x / t.m, t.rows + x % t.m] else none

/-- The address of a row by its number under a switch count. -/
def TRec.rowAddr (t : TRec) (switch row : Nat) : Nat :=
  let odd := t.versioned && switch % 2 == 1
  if t.composed ∧ t.rows ≤ row then (if odd then t.p1 else t.p0) + (row - t.rows) * t.pRowBytes
  else (if odd then t.base1 else t.base0) + row * t.rowBytes

/-- Bytes of a row by its number, and its elements. -/
def TRec.sizeOf (t : TRec) (row : Nat) : Nat := if t.composed ∧ t.rows ≤ row then t.pRowBytes else t.rowBytes
def TRec.dimOf (t : TRec) (row : Nat) : Nat := if t.composed ∧ t.rows ≤ row then t.pDim else t.dim

/-- The elements of a row as FP32 codes (R129). -/
def dequant (t : TRec) (dim : Nat) (b : List Byte) : List Nat :=
  (List.range dim).map fun e =>
    match t.fmt with
    | 0 => fieldN b (4 * e) 4
    | 1 => fcvt bf16 fp32 (fieldN b (2 * e) 2)
    | 2 => fcvt fp16 fp32 (fieldN b (2 * e) 2)
    | 3 => fcvt e4m3 fp32 (fieldN b e 1)
    | 4 => fcvt e5m2 fp32 (fieldN b e 1)
    | 5 => fp32.enc ((FV.ofInt (sext 8 (fieldN b (4 + e) 1))).mul (fp32.dec (fieldN b 0 4)))
    | _ => fp32.enc (((e2m1.dec (bitsOf (fieldN b (e / 2) 1) (4 * (e % 2) + 3) (4 * (e % 2)))).mul
        (e4m3.dec (fieldN b (dim / 2 + e / 16) 1))).mul (fp32.dec t.m4))

/-- The value of an index from its rows' elements, combined by COMB. -/
def combine (t : TRec) (rows : List (List Nat)) : List Nat :=
  match rows with
  | [q, p] => if t.comb = 2 then q ++ p else (q.zip p).map fun x => if t.comb = 0 then fadd fp32 x.1 x.2 else fmul fp32 x.1 x.2
  | [q] => q
  | _ => []

/-! ### The directory (R124, R125) -/

/-- A registered table by TABLE_ID. -/
def State.table? (s : State) (id : Nat) : Option TableEnt := s.tables.dirs.find? (·.id == id)

/-- The session that registered a table is open. -/
def entAlive (s : State) (e : TableEnt) : Bool :=
  match s.session e.slot with
  | some x => x.serial == e.serial
  | none => false

/-- Who binds: slot, session serial and level. -/
structure Binder where
  slot : Nat
  serial : Nat
  level : Nat
  deriving DecidableEq, Repr

/-- What the directory says of a record named at an offset; lookup tells LOOKUP and PEER_LOOKUP from the operators that change a
table. That PEER_LOOKUP may name another session's SHARED table is the model's choice (log 80, DESIGN CHOICE: R125 names LOOKUP as
allowed and three operators as DENIED, and PEER_LOOKUP as neither). -/
def dirCheck (s : State) (dirs : List TableEnt) (w : Binder) (lookup : Bool) (off : Nat) (b : List Byte) : List Fail :=
  let t := TRec.of b
  match dirs.find? (·.id == t.id) with
  | none => if t.form = formRef then failIf true stBadField off else failIf (decide (4096 ≤ dirs.length)) stNoSpace off
  | some e =>
    let mine := e.slot == w.slot && e.serial == w.serial
    if !(mine || entAlive s e) then failIf true stDenied off
    else if t.form = formRef then
      failIf (!mine && !((TRec.of e.record).shared && lookup)) stDenied off
      ++ failIf (decide (w.level < trecLevel (TRec.of e.record))) stLevel off
    else failIf (!mine) stDenied off ++ failIf (mine && e.record != b) stBadField off

/-- The checks of a record by itself, at the offset that names it (R122). -/
def trecFails (level off : Nat) (b : List Byte) : List Fail :=
  let t := TRec.of b
  failIf (!(trecOk b)) stBadField off ++ failIf (decide (level < trecLevel t)) stLevel off
  ++ failIf (!(t.extents.all fun e => extentOk e.1 e.2.1 e.2.2)) stBounds off

/-- The record that a stage works by: a REF's is the registered one. -/
def resolveRec (dirs : List TableEnt) (b : List Byte) : List Byte :=
  if (TRec.of b).form = formRef then ((dirs.find? (·.id == (TRec.of b).id)).map (·.record)).getD b else b

/-- The directory with a record registered to a session, if it names a new table. -/
def dirAdd (dirs : List TableEnt) (w : Binder) (b : List Byte) : List TableEnt :=
  let t := TRec.of b
  if t.form = formRef ∨ dirs.any (·.id == t.id) ∨ !(trecOk b) then dirs
  else dirs ++ [{ id := t.id, record := b, slot := w.slot, serial := w.serial }]

/-! ### Operands -/

/-- The key of a stage's table record among its blocks. -/
def tableKey (i : Nat) : Nat := 1024 + i

/-- The records that a stage names, as read; one that could not be read is empty. -/
def stageRecs (r : List Byte) (b : Blocks) : List (List Byte) :=
  match stOp r with
  | 0x0200 | 0x0802 => (List.range (if fieldN r 64 2 ≤ 64 then fieldN r 64 2 else 0)).map fun i => blockAt b (tableKey i)
  | 0x0201 | 0x0202 | 0x0203 => [blockAt b (tableKey 0)]
  | _ => []

/-- A feature entry (R132). -/
structure Feature where
  ref : Nat
  pool : Nat
  off : Nat
  clean : Bool
  deriving DecidableEq, Repr

def Feature.of (b : List Byte) : Feature := ⟨fieldN b 0 2, fieldN b 2 1, fieldN b 4 4, zeroAt b 3 1 && zeroAt b 8 8⟩

def featuresOf (r : List Byte) (b : Blocks) : List Feature :=
  (List.range (fieldN r 66 2)).map fun i => Feature.of (sliceB (blockAt b 56) (16 * i) 16)

/-- Elements that a feature writes: its table's, or up to the next feature's where no local table tells. -/
def featWidth (r : List Byte) (recs : List (List Byte)) (fs : List Feature) (f : Feature) : Nat :=
  match recs[f.ref]? with
  | some b => (TRec.of b).width
  | none => (fs.filterMap fun g => if f.off < g.off then some g.off else none).foldl min (fieldN r 68 4) - f.off

/-- A shard entry (R148). -/
structure Shard where
  kind : Nat
  port : Nat
  table : Nat
  areaMib : Nat
  gid : List Byte
  area : Nat
  deriving DecidableEq, Repr

def Shard.of (b : List Byte) : Shard := ⟨fieldN b 0 1, fieldN b 1 1, fieldN b 2 2, fieldN b 4 4, sliceB b 8 16, fieldN b 24 8⟩

def shardsOf (r : List Byte) (b : Blocks) : List Shard :=
  (List.range (fieldN r 97 1)).map fun i => Shard.of (sliceB (blockAt b 80) (32 * i) 32)

/-- The uses of inputs and outputs (R534). -/
def tabUses (r : List Byte) : List Use × List Use :=
  match stOp r with
  | 0x0200 | 0x0802 => ([.must, .must, Use.iff (bitOf (fieldN r 73 1) 0)], [.must])
  | 0x0201 | 0x0202 => ([.must, .must], [])
  | _ => ([], [])

/-- The checks of features against their tables; what could not be read is not checked (R533). -/
def featFails (r : List Byte) (b : Blocks) (recs : List (List Byte)) (count : Nat) : List Fail :=
  if blockAt b 56 = [] ∨ recs.contains [] ∨ fieldN r 68 4 = 0 then []
  else
    let fs := featuresOf r b
    let spans := fs.map fun f => (f.off, f.off + featWidth r recs fs f)
    let clash := spans.zipIdx.any fun p => spans.zipIdx.any fun q => decide (p.2 < q.2 ∧ p.1.1 < q.1.2 ∧ q.1.1 < p.1.2)
    failIf (!(fs.all fun f => f.clean && decide (f.pool ≤ 3) && decide (f.ref < max count 1))
      || spans.any (fun p => decide (fieldN r 68 4 < p.2)) || clash) stBadField 56

/-- The checks of a Tables-group or PEER_LOOKUP stage's operands at the bind, with its records resolved. -/
def tabBind (r : List Byte) (b : Blocks) (recs : List (List Byte)) : List Fail :=
  let t := TRec.of (recs.getD 0 [])
  let have0 := recs.getD 0 [] != []
  match stOp r with
  | 0x0200 | 0x0802 =>
    let peer := stOp r == 0x0802
    failIf (fieldN r 48 8 % 64 != 0) stBadField 48 ++ failIf (fieldN r 56 8 % 16 != 0) stBadField 56
    ++ failIf (if peer then decide (1 < fieldN r 64 2) || (blockAt b 80 != [] && fieldN r 64 2 == 1 && !((shardsOf r b).any (·.kind == 0)))
      else decide (fieldN r 64 2 = 0 ∨ 64 < fieldN r 64 2)) stBadField 64
    ++ failIf (decide (fieldN r 66 2 = 0 ∨ 256 < fieldN r 66 2)) stBadField 66
    ++ failIf (decide (fieldN r 68 4 = 0 ∨ 65536 < fieldN r 68 4)) stBadField 68
    ++ failIf (decide (2 < fieldN r 72 1)) stBadField 72 ++ failIf (decide (1 < fieldN r 73 1)) stBadField 73
    ++ featFails r b recs (fieldN r 64 2)
    ++ if !peer then failIf (!(zeroAt r 74 182)) stBadField 74
      else
        let mode := fieldN r 96 1
        let sh := shardsOf r b
        failIf (!(zeroAt r 74 6)) stBadField 74 ++ failIf (fieldN r 80 8 % 32 != 0) stBadField 80
        ++ failIf (if mode = 0 then fieldN r 88 8 == 0 else fieldN r 88 8 != 0) stBadField 88
        ++ failIf (decide (2 < mode)) stBadField 96 ++ failIf (decide (fieldN r 97 1 < 2 ∨ 16 < fieldN r 97 1)) stBadField 97
        ++ failIf (if mode = 2 then decide (3 < fieldN r 98 1) else fieldN r 98 1 != 0) stBadField 98
        ++ failIf (!(zeroAt r 99 13)) stBadField 99
        ++ failIf (mode != 2 && !(zeroAt r 112 16)) stBadField 112 ++ failIf (!(zeroAt r 128 128)) stBadField 128
        ++ failIf (blockAt b 80 != [] && (sh.any (fun x => decide (1 < x.kind) || decide (3 < x.port)
            || decide (x.areaMib < 16) || (x.kind == 1 && (x.area % 4096 != 0 || decide (4095 < x.table))))
          || decide (1 < (sh.filter (·.kind == 0)).length) || (sh.any (·.kind == 0) && fieldN r 64 2 == 0))) stBadField 80
  | 0x0201 =>
    failIf (decide (1 < fieldN r 56 1)) stBadField 56 ++ failIf (!(zeroAt r 57 3)) stBadField 57
    ++ failIf (!((fp32.dec (fieldN r 60 4)).isFin)) stBadField 60 ++ failIf (!(zeroAt r 64 192)) stBadField 64
    ++ failIf (have0 && (t.composed || decide (2 < t.fmt))) stBadField 48
  | 0x0202 =>
    failIf (decide (1 < fieldN r 56 1) || (have0 && fieldN r 56 1 == 1 && !t.composed)) stBadField 56
    ++ failIf (!(zeroAt r 57 199)) stBadField 57
  | 0x0203 =>
    failIf (have0 && !t.versioned) stBadField 48 ++ failIf (decide (1 < fieldN r 56 1)) stBadField 56
    ++ failIf (!(zeroAt r 57 7)) stBadField 57 ++ failIf (fieldN r 64 8 % 8 != 0) stBadField 64
    ++ failIf (fieldN r 64 8 != 0 && !(inR44 (fieldN r 64 8) 8)) stBounds 64 ++ failIf (!(zeroAt r 72 184)) stBadField 72
  | _ => failIf (!(zeroAt r 64 192)) stBadField 64

/-- Bytes of a TABLE_WRITE's rows. -/
def writeRowBytes (r : List Byte) (t : TRec) : Nat := if fieldN r 56 1 = 1 then t.pRowBytes else t.rowBytes

/-- The type of values of SCATTER_ADD, and of elements of LOOKUP's output. -/
def valueType (r : List Byte) : Nat := if fieldN r 56 1 = 0 then 0x0C else 0x0B
def outFormatType (r : List Byte) : Nat := if fieldN r 72 1 = 0 then 0x0C else if fieldN r 72 1 = 1 then 0x0B else 0x0A

/-- What a Tables-group or PEER_LOOKUP stage accepts of its inputs (R133, R142, R144). -/
def tabInputs (r : List Byte) (recs : List (List Byte)) (ins : List (Option Col)) : List Fail :=
  let t := TRec.of (recs.getD 0 [])
  let both (p : Col → Col → Bool) : List Fail := match ins.getD 0 none, ins.getD 1 none with
    | some a, some b => failIf (!(p a b)) stBadField (inOff 1)
    | _, _ => []
  match stOp r with
  | 0x0200 | 0x0802 =>
    checkIn ins 0 (fun c => isColumn c (· == 9)) ++ checkIn ins 1 (fun c => isColumn c (· == 8)) ++ checkIn ins 2 fun c => isColumn c (· == 0x0C)
  | 0x0201 =>
    checkIn ins 0 (fun c => isColumn c (· == 9)) ++ checkIn ins 1 (fun c => isColumn c (· == valueType r))
    ++ both fun a b => b.count == t.dim * a.count
  | 0x0202 =>
    checkIn ins 0 (fun c => isColumn c (· == 9)) ++ checkIn ins 1 (fun c => c.kind == kBytes || isColumn c (· == 6))
    ++ both fun a b => (if b.kind = kBytes then b.size else b.count) == a.count * writeRowBytes r t
  | _ => []

end Sys2Proof.Machine
end

