-- ==== Sys2Proof/Machine/Hot.lean ====
section
/-! DEFINITION. Heat, hot rows, replicas and epochs (R155 to R168), and their registers (R177, R178). -/

namespace Sys2Proof.Machine


def State.setCulv (s : State) (k : Nat) (f : Culv → Culv) : State :=
  { s with tables := { s.tables with culvs := modifyAt s.tables.culvs k f } }
def State.setTable (s : State) (id : Nat) (f : TableEnt → TableEnt) : State :=
  { s with tables := { s.tables with dirs := s.tables.dirs.map fun e => if e.id = id then f e else e } }

/-- HOT_CFG of an engine (R178). -/
def hotThresh (s : State) (k : Nat) : Nat := s.rfld (pgCulv k + 0x480) 15 0
def hotReplMax (s : State) (k : Nat) : Nat := s.rfld (pgCulv k + 0x480) 19 16
def hotCountUpdates (s : State) (k : Nat) : Bool := s.rfld (pgCulv k + 0x480) 24 24 == 1
def hotEn (s : State) (k : Nat) : Bool := s.rfld (pgCulv k + 0x480) 32 32 == 1

/-! ### Sketches (R155 to R157) -/

/-- The tracking slot of a table on an engine. -/
def Culv.slotOf (c : Culv) (table : Nat) : Option Nat := (c.slots.find? (·.2 == table)).map (·.1)

/-- The lowest free tracking slot. -/
def Culv.freeSlot (c : Culv) : Option Nat := (List.range 64).find? fun i => !(c.slots.any (·.1 == i))

/-- The counters of a row in a tracking slot (R156). -/
def sketchKeys (slot row : Nat) : List Nat :=
  let h := fold64 (List.replicate 16 0) (natLE 8 row)
  (List.range 4).map fun i => slot * 16384 + i * 4096 + (h >>> (12 * i)) % 4096

def counter (sk : List (Nat × Nat)) (k : Nat) : Nat := cellsGet (fun _ => 0) k sk

/-- The estimate of a row. -/
def estimateOf (sk : List (Nat × Nat)) (slot row : Nat) : Nat :=
  ((sketchKeys slot row).map (counter sk)).foldl min 65535

/-- A row's count added to its four counters. -/
def addHeat (sk : List (Nat × Nat)) (slot row n : Nat) : List (Nat × Nat) :=
  (sketchKeys slot row).foldl (fun sk k => cellsSet (fun _ => 0) k (min 65535 (counter sk k + n)) sk) sk

/-- Every counter halved. -/
def halveSketch (sk : List (Nat × Nat)) : List (Nat × Nat) := (sk.map fun p => (p.1, p.2 / 2)).filter (·.2 != 0)

/-- A hot row of an engine. -/
def Culv.hotRow (c : Culv) (table row : Nat) : Option HotRow := c.hot.find? fun h => h.table == table && h.row == row

/-! ### Replica slots (R160 to R162) -/

/-- The positions of replicas of a row whose home is stack k, in order: position, and the stack, none for Fen memory. -/
def placements (k : Nat) : List (Nat × Option Nat) :=
  let d := k / 3
  let first := (List.range 3).map fun i => 3 * ((d + i + 1) % 4) + k % 3
  let own := ((List.range 3).map (3 * d + ·)).filter (· != k)
  let rest := (List.range 12).filter fun t => t != k && !first.contains t && !own.contains t
  (1, none) :: (first ++ own ++ rest).zipIdx.map fun p => (p.2 + 2, some p.1)

/-- Room for a slot of g granules in an area: the lowest address (R161). -/
def allocSlot (s : State) (area : Nat × Nat) (g : Nat) : Option Nat :=
  let used := (allSlots s).filter fun r => decide (area.1 ≤ r.addr ∧ r.addr < area.1 + area.2)
  let fits (a : Nat) : Bool := decide (area.1 ≤ a ∧ a + 256 * g ≤ area.1 + area.2)
    && used.all fun r => decide (r.addr + 256 * r.grans ≤ a ∨ a + 256 * g ≤ r.addr)
  ((area.1 :: used.map fun r => r.addr + 256 * r.grans).filter fits).foldl (fun m a => match m with
    | none => some a
    | some b => some (min a b)) (none : Option Nat)

/-- New replicas of a row at the next free positions until n are held; each position skipped counts in DENIED_CNT. -/
def placeReplicas (k grans : Nat) : List (Nat × Option Nat) → Nat → List Replica → State → State × List Replica
  | [], _, have_, s => (s, have_)
  | p :: t, n, have_, s =>
    if n ≤ have_.length then (s, have_)
    else if have_.any (·.pos == p.1) then placeReplicas k grans t n have_ s
    else
      let area := hummockArea s k p.2
      let absent := (p.2.map fun q => (s.stack q).absent).getD false
      let used := s.setCulv k fun c => { c with leaving := ⟨0, 0, 0, have_, none⟩ :: c.leaving }
      match (if absent ∨ area.2 = 0 then none else allocSlot used area grans) with
      | some a => placeReplicas k grans t n (have_ ++ [⟨p.1, a, grans⟩]) s
      | none => placeReplicas k grans t n have_ (bump s (pgCulv k + 0x4C0) 1)

/-- The address of a row of a registered table, in force, and its bytes. -/
def rowPlace (s : State) (table row : Nat) : Option (Nat × Nat) :=
  (s.table? table).map fun e => let t := TRec.of e.record
    (t.rowAddr e.switch row, t.sizeOf row)

/-- The fill of new replicas from the home row (R168 step 2): none when the row cannot be read. -/
def fillReplicas (s : State) (addr bytes : Nat) (new : List Replica) : State × Bool :=
  match devRead s addr bytes with
  | (s, .ok b) => (new.foldl (fun s r => (devWrite s r.addr b).1) s, true)
  | (s, .error _) => (s, false)

/-- The target of a hot row (R159). -/
def hotTarget (s : State) (k est : Nat) : Nat := min (hotReplMax s k) (max 1 (est / max 1 (hotThresh s k)))

/-- A row's planned replicas brought to n: added at the next free positions, or removed from the end of the order; the
change waits for its epoch (R159, R168). -/
def planReplicas (s : State) (k table row n : Nat) : State :=
  match (s.culv k).hotRow table row, rowPlace s table row with
  | some h, some (addr, bytes) =>
    if n < h.planned.length then
      let keep := h.planned.take n
      s.setCulv k fun c => { c with
        hot := c.hot.map fun x => if x.table = table ∧ x.row = row then { x with planned := keep } else x
        changes := c.changes ++ [⟨table, row, keep, h.planned.drop n, false⟩] }
    else if h.planned.length < n then
      let (s, all) := placeReplicas k (ceilDiv bytes 256) (placements k) n h.planned s
      let new := all.filter fun r => !h.planned.contains r
      if new = [] then s
      else
        let (s, good) := fillReplicas s addr bytes new
        if good then
          let ordered := (placements k).filterMap fun p => all.find? (·.pos == p.1)
          (bump s (pgCulv k + 0x4B0) new.length).setCulv k fun c => { c with
            hot := c.hot.map fun x => if x.table = table ∧ x.row = row then { x with planned := ordered } else x
            changes := c.changes ++ [⟨table, row, ordered, [], false⟩] }
        else s
    else s
  | _, _ => s

/-- A candidate made hot (R158, R159). -/
def makeHot (s : State) (k table row est : Nat) : State :=
  planReplicas (s.setCulv k fun c => { c with hot := c.hot ++ [{ table := table, row := row }] }) k table row (hotTarget s k est)

/-- A Sluice drains, or is held: no hot-row candidate is made and no replica change begins (R362). -/
def quiescing (s : State) : Bool := s.fab.phase == .draining || s.fab.phase == .quiet

/-- A window's distinct rows counted on an engine, and the candidates they make: at most 16 are queued, the rest dropped
(R156, R158); the queue is worked off as the window ends. -/
def heatWindow (s : State) (k table : Nat) (rows : List (Nat × Nat)) : State :=
  match (s.culv k).slotOf table with
  | none => s
  | some slot =>
    let (s, cands) := rows.foldl (fun (p : State × List Nat) r =>
      let s := p.1.setCulv k fun c => { c with sketch := addHeat c.sketch slot r.1 r.2 }
      let c := s.culv k
      if hotEn s k ∧ ¬ quiescing s ∧ hotThresh s k ≤ estimateOf c.sketch slot r.1 ∧ (c.hotRow table r.1).isNone then
        (if p.2.length < 16 ∧ c.hot.length + p.2.length < 1024 then (s, p.2 ++ [r.1]) else (bump s (pgCulv k + 0x4C0) 1, p.2))
      else (s, p.2)) (s, [])
    cands.foldl (fun s row => makeHot s k table row (estimateOf (s.culv k).sketch slot row)) s

/-! ### DECAY_STEP (R157, R159, R163) -/

/-- A hot row at a decay step, by its estimate before halving. -/
def reviewHot (s : State) (k : Nat) (h : HotRow) : State :=
  let est := match (s.culv k).slotOf h.table with
    | some slot => estimateOf (s.culv k).sketch slot h.row
    | none => 0
  if !(hotEn s k) ∨ est < hotThresh s k / 4 then
    let s := s.setCulv k fun c => { c with hot := c.hot.map fun x => if x.table = h.table ∧ x.row = h.row then { x with stopping := true } else x }
    let s := planReplicas s k h.table h.row 0
    s.setCulv k fun c => { c with hot := c.hot.filter fun x => !(x.stopping && x.planned == [] && x.listed == []
      && !(c.changes.any fun g => g.table == x.table && g.row == x.row)) }
  else if h.stopping then s
  else planReplicas s k h.table h.row (hotTarget s k est)

/-- One decay step of an engine. -/
def decayOnce (s : State) (k : Nat) : State :=
  (if quiescing s then s else (s.culv k).hot.foldl (fun s h => reviewHot s k h) s).setCulv k fun c => { c with sketch := halveSketch c.sketch }

/-- Is a stack's memory in self-refresh? -/
def stackAsleep (s : State) (k : Nat) : Bool := (s.die (k / 3)).power ≠ .active && (s.die (k / 3)).power ≠ .entering

/-- A decay step when its millisecond has passed. -/
def decayStep (s : State) (k : Nat) : State :=
  if stackAsleep s k ∨ s.tick < (s.culv k).decayAt + 25000 then s
  else (decayOnce s k).setCulv k fun c => { c with decayAt := c.decayAt + 25000 }

/-- DECAY_STEP: an engine re-evaluates its hot rows and halves its counters. -/
def execDecayStep (stack : Nat) (s : State) : Host.Outcome State Fault Refusal := .next (decayStep s stack)

/-- Steps missed in self-refresh, applied at once on wake, at most 16 (R157). -/
def missedDecay (s : State) (k : Nat) : State :=
  let n := (s.tick - (s.culv k).decayAt) / 25000
  ((List.range (min 16 n)).foldl (fun s _ => decayOnce s k) s).setCulv k fun c => { c with decayAt := c.decayAt + 25000 * n }

/-! ### Epochs and directories (R164 to R166) -/

/-- The migration epoch of a table on an engine. -/
def Culv.epochOf (c : Culv) (table : Nat) : Nat := ((c.epochs.find? (·.1 == table)).map (·.2)).getD 0

/-- A die's listing of a home stack and table. -/
def listingOf (s : State) (die home table : Nat) : Option Listing :=
  (s.tables.hummock.getD die []).find? fun l => l.home == home && l.table == table
def dirEpoch (s : State) (die home table : Nat) : Nat := ((listingOf s die home table).map (·.epoch)).getD 0

/-- Drain counters of a table, oldest first. -/
def Culv.liveOf (c : Culv) (table : Nat) : List (Nat × Nat × Nat) := c.live.filter (·.1 == table)

/-- Live epochs: from the oldest that still has pieces out (R166). -/
def Culv.liveCount (c : Culv) (table : Nat) : Nat := ((c.liveOf table).dropWhile (·.2.2 == 0)).length

/-- Drain counters that no look-up can move any more are dropped. -/
def pruneLive (s : State) (k table : Nat) : State :=
  let c := s.culv k
  let held := (List.range 4).map fun d => dirEpoch s d k table
  let keep := (c.liveOf table).dropWhile fun e => e.2.2 == 0 && e.2.1 != c.epochOf table && !held.contains e.2.1
  s.setCulv k fun c => { c with live := c.live.filter (·.1 != table) ++ keep }

/-- Look-up pieces of a tagged epoch issued or returned. -/
def moveLive (s : State) (k table epoch : Nat) (out : Bool) : State :=
  let s := s.setCulv k fun c =>
    if c.live.any fun e => e.1 == table && e.2.1 == epoch then
      { c with live := c.live.map fun e => if e.1 = table ∧ e.2.1 = epoch then (e.1, e.2.1, if out then e.2.2 + 1 else e.2.2 - 1) else e }
    else if out then { c with live := c.live ++ [(table, epoch, 1)] } else c
  if out then s else pruneLive s k table

/-- A change of a table's listing on an engine opens the next epoch, and its listing is sent to the four directories (R164); a
directory attaches where its die's D2D link does (log 74, DESIGN CHOICE). -/
def openEpoch (s : State) (k table version : Nat) : State :=
  let c := s.culv k
  let e := c.epochOf table
  let e' := (e + 1) % 65536
  let live := if c.live.any fun x => x.1 == table && x.2.1 == e then c.live else c.live ++ [(table, e, 0)]
  let l : Listing := ⟨k, table, e', version, (c.hot.filter fun h => h.table == table).map fun h => (h.row, h.listed)⟩
  let s := s.setCulv k fun c => { c with
    epochs := (table, e') :: c.epochs.filter (·.1 != table)
    live := live ++ [(table, e', 0)] }
  let s := { s with tables := { s.tables with epochMsgs := s.tables.epochMsgs ++ (List.range 4).map fun d => (d, l) } }
  let s := (List.range 4).foldl (fun s d => sendPacket s (.epoch k d) laneNormal (routeOf s (stackSpot k) (d, 19)) 1) s
  pruneLive (bump s (pgFab + 0x418) 4) k table

/-- The oldest change of a table's replicas on an engine is listed by the next epoch, unless that would open a fifth live
epoch (R166, R168 step 3). -/
def epochAdvance (s : State) (k table : Nat) : State :=
  let c := s.culv k
  match c.changes.find? (·.table == table) with
  | none => s
  | some ch =>
    if 4 ≤ c.liveCount table then s
    else if ch.switch then
      openEpoch (s.setCulv k fun c => { c with changes := c.changes.eraseP (·.table == table) }) k table
        (((s.table? table).map (·.switch)).getD 0)
    else
      let old := c.epochOf table
      let rest := c.changes.eraseP (·.table == table)
      let s := s.setCulv k fun c => { c with
        changes := rest
        hot := (c.hot.map fun h => if h.table = table ∧ h.row = ch.row then { h with listed := ch.listing } else h).filter fun h =>
          !(h.stopping && h.planned == [] && h.listed == [] && !(rest.any fun g => g.table == h.table && g.row == h.row))
        leaving := if ch.gone = [] then c.leaving else c.leaving ++ [⟨table, ch.row, old, ch.gone, none⟩] }
      openEpoch s k table (((s.table? table).map (·.switch)).getD 0)

/-- EPOCH_ADVANCE: an epoch of a table advances on its home engine. -/
def execEpochAdvance (stack table : Nat) (s : State) : Host.Outcome State Fault Refusal := .next (epochAdvance s stack table)

/-- A directory applies the oldest EPOCH message sent to its die. -/
def epochApply (s : State) (die : Nat) : State :=
  match s.tables.epochMsgs.find? (·.1 == die) with
  | none => s
  | some (_, l) =>
    let s := dropPacket s (.epoch l.home die)
    let s := { s with tables := { s.tables with
      epochMsgs := s.tables.epochMsgs.eraseP (·.1 == die)
      hummock := modifyAt s.tables.hummock die fun ls => l :: ls.filter fun x => !(x.home == l.home && x.table == l.table) } }
    pruneLive s l.home l.table

/-- EPOCH: the directory of a die applies an epoch advance (R164). -/
def execEpoch (die : Nat) (s : State) : Host.Outcome State Fault Refusal := .next (epochApply s die)

/-! ### REPLICA_SLOT_FREE (R162, R168 step 4) -/

/-- A slot freed: its granules are discarded in an HBM area, and left as they are in Fen memory. -/
def freeSlotAt (s : State) (r : Replica) : State := if r.addr < 0x40000000000 then (devDiscard s r.addr (256 * r.grans)).1 else s

/-- No look-up can be directed any more to slots that an epoch after this one leaves out. -/
def epochDrained (s : State) (k table epoch : Nat) : Bool :=
  let es := (s.culv k).liveOf table
  match findPos (fun e : Nat × Nat × Nat => e.2.1 == epoch) es with
  | none => true
  | some i => (es.take (i + 1)).all fun e => e.2.2 == 0 && (List.range 4).all fun d => dirEpoch s d k table != e.2.1

/-- Slots of a set of leavings freed and counted. -/
def freeLeaving (s : State) (k : Nat) (p : Leaving → Bool) : State :=
  let ls := (s.culv k).leaving.filter p
  let slots := ls.flatMap (·.slots)
  let s := s.setCulv k fun c => { c with leaving := c.leaving.filter fun l => !(p l) }
  let s := slots.foldl freeSlotAt s
  if slots = [] then s else bump s (pgCulv k + 0x4B8) slots.length

/-- The oldest slots that a table's epochs have left out are freed once those epochs have drained. -/
def replicaSlotFree (s : State) (k table : Nat) : State :=
  match (s.culv k).leaving.find? fun l => l.table == table && l.version.isNone with
  | none => s
  | some l => if epochDrained s k table l.epoch then freeLeaving s k (· == l) else s

/-- REPLICA_SLOT_FREE: slots of removed replicas are freed. -/
def execReplicaSlotFree (stack table : Nat) (s : State) : Host.Outcome State Fault Refusal := .next (replicaSlotFree s stack table)

/-! ### Registration on the engines (R155) -/

/-- A newly registered table takes the lowest free tracking slot of every engine whose stack holds its rows. -/
def trackTable (s : State) (id : Nat) : State :=
  match s.table? id with
  | none => s
  | some e => (TRec.of e.record).hbms.foldl (fun s k => match (s.culv k).freeSlot with
      | some i => s.setCulv k fun c => { c with slots := c.slots ++ [(i, id)] }
      | none => s.setTable id fun e => { e with untracked := e.untracked ++ [k] }) s

/-- A table leaves the directory: its tracking slots, counters, hot rows, epochs and listings with it, and every replica
slot is freed. -/
def unregister (s : State) (id : Nat) : State :=
  let s := (List.range 12).foldl (fun s k =>
    let c := s.culv k
    let slot := (c.slotOf id).getD 64
    let held := ((c.hot.filter (·.table == id)).flatMap fun h => h.planned ++ h.listed)
      ++ ((c.changes.filter (·.table == id)).flatMap (·.gone)) ++ (c.leaving.filter (·.table == id)).flatMap (·.slots)
    let s := (held.foldl (fun a r => insertNew r a) []).foldl (fun s r => bump (freeSlotAt s r) (pgCulv k + 0x4B8) 1) s
    s.setCulv k fun c => { c with
      slots := c.slots.filter (·.2 != id)
      sketch := c.sketch.filter fun p => p.1 / 16384 != slot
      hot := c.hot.filter (·.table != id)
      changes := c.changes.filter (·.table != id)
      leaving := c.leaving.filter (·.table != id)
      epochs := c.epochs.filter (·.1 != id)
      live := c.live.filter (·.1 != id) }) s
  let s := (s.tables.epochMsgs.filter (·.2.table == id)).foldl (fun s m => dropPacket s (.epoch m.2.home m.1)) s
  { s with tables := { s.tables with
    dirs := s.tables.dirs.filter (·.id != id)
    hummock := s.tables.hummock.map fun ls => ls.filter (·.table != id)
    epochMsgs := s.tables.epochMsgs.filter (·.2.table != id) } }

/-! ### Registers (R177, R178) -/

/-- SKETCH_CLEAR: a write of SKETCH_CTL with CLEAR sets every counter of the engine to 0. -/
def sketchClear (who : Agent) (k : Nat) (v : Word) (s : State) : State :=
  regAccess s who (pgCulv k + 0x4E0) (.sketchClear who k v) fun s =>
    answer (if pageEn s (pgCulv k) && bit v 63 then s.setCulv k fun c => { c with sketch := [] } else s) .done

def execSketchClear (who : Agent) (stack : Nat) (v : Word) (s : State) : Host.Outcome State Fault Refusal :=
  .next (sketchClear who stack v s)

/-- Replicas of other stacks' rows in a stack's HBM area. -/
def hostedIn (s : State) (k : Nat) : List Replica :=
  (allSlots s).filter fun r => decide (hbmKey k 0 ≤ r.addr ∧ r.addr < hbmKey (k + 1) 0)

/-- A write of a Hummock area register that R178 takes. -/
def hummockTakes (s : State) (k : Nat) (fen : Bool) (v : Word) : Bool :=
  !(pageLocked s (pgCulv k)) && (s.culv k).hot == [] && hostedIn s k == []
  && (if fen then
      decide (fld v 12 0 + fld v 42 32 ≤ 8192 ∧ fld v 42 32 ≤ 1024)
        && !(decide (k ≤ 2) && fld v 42 32 != 0 && fld v 12 0 == 0)
    else decide (fld v 15 0 + fld v 47 32 ≤ 52224 ∧ fld v 47 32 ≤ 4096))

def hummockWrite (s : State) (k : Nat) (fen : Bool) (v : Word) : State :=
  if pageEn s (pgCulv k) && hummockTakes s k fen v then
    (if fen then s.setReg (pgCulv k + 0x490) (wd (fld v 42 32 * 2 ^ 32 + fld v 12 0))
     else s.setReg (pgCulv k + 0x488) (wd (fld v 47 32 * 2 ^ 32 + fld v 15 0)))
  else s

/-- A write of a Hummock area register by an agent (R161, R178). -/
def hummockAccess (who : Agent) (k : Nat) (fen : Bool) (v : Word) (s : State) : State :=
  regAccess s who (pgCulv k + (if fen then 0x490 else 0x488))
    (if fen then .hummockFenWrite who k v else .hummockHbmWrite who k v) fun s => answer (hummockWrite s k fen v) .done

/-- HUMMOCK_HBM_WRITE. -/
def execHummockHbmWrite (who : Agent) (stack : Nat) (v : Word) (s : State) : Host.Outcome State Fault Refusal :=
  .next (hummockAccess who stack false v s)

/-- HUMMOCK_FEN_WRITE. -/
def execHummockFenWrite (who : Agent) (stack : Nat) (v : Word) (s : State) : Host.Outcome State Fault Refusal :=
  .next (hummockAccess who stack true v s)

/-! ### Which copy serves a row (R165) -/

/-- The copies of a row that a tile of a die may read: address of each, the home copy first. -/
def copiesFor (s : State) (die home table version row homeAddr : Nat) : List Nat :=
  let reps := match listingOf s die home table with
    | some l => if l.version = version then ((l.rows.find? (·.1 == row)).map (·.2)).getD [] else []
    | none => []
  if reps = [] then [homeAddr]
  else
    let ok := reps.filter fun r => r.pos != 1 || die == home / 3
    let all := homeAddr :: ok.map (·.addr)
    let near (a : Nat) : Bool := match placeOf a with
      | .hbm t _ => t / 3 == die
      | .fen d _ => d == die
      | _ => false
    let local_ := all.filter near
    if local_ = [] then all else local_

/-- A replica found bad is removed by the sequence of R168. -/
def dropReplica (s : State) (k table row addr : Nat) : State :=
  match (s.culv k).hotRow table row with
  | some h =>
    match h.planned.find? (·.addr == addr) with
    | some r => s.setCulv k fun c => { c with
        hot := c.hot.map fun x => if x.table = table ∧ x.row = row then { x with planned := x.planned.filter (· != r) } else x
        changes := c.changes ++ [⟨table, row, h.planned.filter (· != r), [r], false⟩] }
    | none => s
  | none => s

/-- Every slot that still has to carry a row's value: in placement order, those being removed last (R167, R168). -/
def forwardSlots (s : State) (k table row : Nat) : List Replica :=
  let c := s.culv k
  let h := ((c.hotRow table row).map fun h => h.planned ++ h.listed).getD []
  let more := ((c.changes.filter fun g => g.table == table && g.row == row).flatMap (·.gone))
    ++ (c.leaving.filter fun l => l.table == table && l.row == row && l.version.isNone).flatMap (·.slots)
  (h ++ more).foldl (fun a r => insertNew r a) []

/-- A row's new value sent to every replica (R167). -/
def forwardRow (s : State) (k table row : Nat) (b : List Byte) : State :=
  let slots := forwardSlots s k table row
  let s := slots.foldl (fun s r => (devWrite s r.addr b).1) s
  if slots = [] then s else bump s (pgCulv k + 0x4C8) slots.length

end Sys2Proof.Machine
end

