-- ==== Sys2Proof/Machine/Tables.lean ====
section
/-! DEFINITION. The Tables group at work (chapters 5 and 6): windows on the Culvert engines, pooling, updates at the commit
point, PEER_LOOKUP and table switches. -/

namespace Sys2Proof.Machine

/-! ### Plans and pins -/

/-- A bound stage record of a stream, and the table records it works by. -/
def stageRec (s : State) (stream ix : Nat) : List Byte :=
  (((s.stream? stream).bind (·.plan)).map fun p => p.stages.getD ix []).getD []
def planRecs (p : Plan) (ix : Nat) : List (List Byte) := (p.tables.filter (·.1 == ix)).map (·.2)
def stageTabs (s : State) (stream ix : Nat) : List (List Byte) := (((s.stream? stream).bind (·.plan)).map fun p => planRecs p ix).getD []

/-- The switch count that a batch reads a table by: the one it pinned (R173). -/
def pinned (s : State) (pins : List (Nat × Nat)) (table : Nat) : Nat :=
  match pins.find? (·.1 == table) with
  | some p => p.2
  | none => ((s.table? table).map (·.switch)).getD 0

/-- Batches pinned to versions of a table that pass a test, other than one batch: those whose completions have not been written
(R173). -/
def pinCount (s : State) (table : Nat) (p : Nat → Bool) (but : Option (Nat × Nat)) : Nat :=
  (s.disp.streams.map fun x => (x.batches.filter fun b => but != some (x.id, b.idx)
    && b.pins.any fun q => q.1 == table && p q.2).length).sum

/-- The stack of an address. -/
def hbmOf (a : Nat) : Nat :=
  match placeOf a with
  | .hbm k _ => k
  | _ => 0

/-- CULV.LAST_ERR (R154). -/
def noteCulv (s : State) (k status table stream pos : Nat) : State :=
  firstEvent s (pgCulv k) 0x438 (status * 2 ^ 48 + table % 4096 * 2 ^ 32 + stream % 1024 * 2 ^ 16 + pos % 4096)

/-! ### Windows of a stage (R138, R141, R165) -/

def windowLen : Nat := 4096

/-- A raw index on its way to a window: bag, row numbers (none when it is skipped), weight, values. -/
structure RawIx where
  bag : Nat
  rows : Option (List Nat)
  weight : Nat
  vals : List Nat := []
  deriving DecidableEq, Repr

/-- The copy of a row that window w of a stage reads, for a tile of a die: look-ups choose among the copies of the directory's
listing, and updates go to the home copy (R165). -/
def copyOf (s : State) (t : TRec) (version die w : Nat) (look : Bool) (row : Nat) : Nat :=
  let home := t.rowAddr version row
  if look then
    let cs := copiesFor s die (hbmOf home) t.id version row home
    cs.getD (w % max 1 cs.length) home
  else home

/-- The engine that serves an address; a Fen replica is read by the tile itself (R165). -/
def engineOf (a : Nat) : Option Nat :=
  match placeOf a with
  | .hbm k _ => some k
  | _ => none

/-- A piece's place: its engine, its home stack, and the entry. -/
abbrev Piece := Option Nat × Nat × WinEntry

/-- An index placed in window w. The Q and P rows of a COMPOSED index go to the engines of their own stacks, and apart where those
differ (R123, R141). -/
def placeIx (s : State) (t : TRec) (version die w pos : Nat) (look : Bool) (x : RawIx) : List Piece :=
  match x.rows with
  | none =>
    let home := hbmOf (t.rowAddr version 0)
    [(some home, home, ⟨pos, x.bag, x.weight, true, [], [], [], [], 0⟩)]
  | some rows =>
    let copy := copyOf s t version die w look
    let home (row : Nat) : Nat := hbmOf (t.rowAddr version row)
    let piece (l : List Nat) (part : Nat) : Piece :=
      (engineOf (copy (l.headD 0)), home (l.headD 0),
        ⟨pos, x.bag, x.weight, false, l, l.map (t.rowAddr version), l.map copy, x.vals, part⟩)
    match rows with
    | [q, p] => if engineOf (copy q) = engineOf (copy p) ∧ home q = home p then [piece rows 0] else [piece [q] 1, piece [p] 2]
    | _ => [piece rows 0]

/-- Entries of a window grouped by engine and home, in order. -/
def groupIx (l : List Piece) : List (Option Nat × Nat × List WinEntry) :=
  l.foldl (fun gs e =>
    match findPos (fun g : Option Nat × Nat × List WinEntry => g.1 == e.1 && g.2.1 == e.2.1) gs with
    | some i => modifyAt gs i fun g => (g.1, g.2.1, g.2.2 ++ [e.2.2])
    | none => gs ++ [(e.1, e.2.1, [e.2.2])]) []

/-- A row read from the copy chosen for it; a bad replica is passed over for the home copy and removed (R166). -/
def readCopy (s : State) (t : TRec) (row home src : Nat) : State × Except MemErr (List Byte) :=
  if src = home then devRead s home (t.sizeOf row)
  else match devRead s src (t.sizeOf row) with
    | (s, .ok b) => (s, .ok b)
    | (s, .error _) => devRead (dropReplica s (hbmOf home) t.id row src) home (t.sizeOf row)

/-- The rows that a window names, each once: number, home, copy, and the position of the first index that names it. -/
def rowsToRead (es : List WinEntry) : List (Nat × Nat × Nat × Nat) :=
  (es.flatMap fun e => (e.rows.zip (e.homes.zip e.srcs)).map fun q => (q.1, q.2.1, q.2.2, e.pos)).foldl
    (fun a q => if a.any (·.1 == q.1) then a else a ++ [q]) []

/-- Each row of a window read once and dequantised (R139): row number and elements, or the first failure and its index. -/
def readRows (s : State) (t : TRec) (es : List WinEntry) : State × Except (MemErr × Nat) (List (Nat × List Nat)) :=
  (rowsToRead es).foldl (fun (r : State × Except (MemErr × Nat) (List (Nat × List Nat))) q =>
    match r.2 with
    | .error x => (r.1, .error x)
    | .ok vs => match readCopy r.1 t q.1 q.2.1 q.2.2.1 with
      | (s, .ok b) => (s, .ok (vs ++ [(q.1, dequant t (t.dimOf q.1) b)]))
      | (s, .error x) => (s, .error (x, q.2.2.2))) (s, .ok [])

/-- The value of an entry from the rows that were read. -/
def entryValue (t : TRec) (vals : List (Nat × List Nat)) (e : WinEntry) : List Nat :=
  combine t (e.rows.map fun r => ((vals.find? (·.1 == r)).map (·.2)).getD [])

/-- Indices of a window that name different rows: the first of each. -/
def distinctRows (es : List WinEntry) : List WinEntry :=
  es.foldl (fun a e => if a.any fun x => x.rows == e.rows then a else a ++ [e]) []

/-- Rows of a window with the indices that name each; of a COMPOSED table, Q and P rows apart. -/
def rowCounts (es : List WinEntry) : List (Nat × Nat) :=
  es.foldl (fun a e => e.rows.foldl (fun a r =>
    match findPos (fun p : Nat × Nat => p.1 == r) a with
    | some i => modifyAt a i fun p => (p.1, p.2 + 1)
    | none => a ++ [(r, 1)]) a) []

/-- One bag's part of a look-up window: duplicates pooled as one contribution of summed weight, but for MAX (R134, R139). -/
def poolBag (fr : Nat → Nat) (mode : Nat) (val : WinEntry → List Nat) (bag : Nat) (es : List WinEntry) : Contrib :=
  let wsum (l : List WinEntry) (k : Nat) : Nat := sumAny fp32 (fun i => fr (1000000 + 100000 * k + i)) (l.map (·.weight))
  let terms : List (List Nat) :=
    if mode = 2 then es.map fun e => (val e).map (fmul fp32 e.weight)
    else (distinctRows es).zipIdx.map fun d => (val d.1).map (fmul fp32 (wsum (es.filter fun x => x.rows == d.1.rows) (d.2 + 1)))
  let n := (terms.headD []).length
  let out := (List.range n).map fun i =>
    let col := terms.map fun t => t.getD i 0
    if mode = 2 then (col.drop 1).foldl (vmax (fr i)) (col.headD 0) else sumAny fp32 (fun j => fr (i * 4096 + j)) col
  ⟨bag, wsum es 0, es.length, out⟩

/-- The distinct bags of a window. -/
def bagsOf (es : List WinEntry) : List Nat := es.foldl (fun a e => insertNew e.bag a) []

/-- A window whose table fails an index out of range, with such an index: the batch completes CORRUPT (R127). -/
def skipFails (s : State) (w : Window) (k : Nat) : Option State :=
  let t := TRec.of w.record
  match w.entries.find? (·.skip) with
  | some e => if t.oobFail then some (failRun (noteCulv s k stCorrupt t.id w.stream e.pos) w.stream w.batch w.stage stCorrupt) else none
  | none => none

/-- What a window counts in an engine's sketch: rows whose home copy in force lies in the engine's own stack; a look-up pinned to
an older version counts nothing (R156, R158, R172). -/
def heatOf (s : State) (k : Nat) (w : Window) : List (Nat × Nat) :=
  let t := TRec.of w.record
  let now := ((s.table? t.id).map (·.switch)).getD 0
  if w.kind = .lookup ∧ w.version ≠ now then []
  else (rowCounts (w.entries.filter fun e => !e.skip)).filter fun r => hbmOf (t.rowAddr now r.1) == k

/-- A look-up window worked, by an engine or, for a Fen replica, by the tile: its rows read, its bags pooled for the stage; values
of split COMPOSED indices go to the tile as they are. The first row without data fails the stage. -/
def lookWindow (s : State) (w : Window) (k : Nat) (engine : Bool) : State :=
  let t := TRec.of w.record
  let good := w.entries.filter fun e => !e.skip
  let seed := s.freeCtr
  let s := { s with freeCtr := s.freeCtr + 1 }
  match skipFails s w k with
  | some s => s
  | none =>
    let s := if engine then heatWindow s k t.id (heatOf s k w) else s
    match readRows s t good with
    | (s, .error (x, pos)) => failRun (noteCulv s k x.status t.id w.stream pos) w.stream w.batch w.stage x.status
    | (s, .ok vals) =>
      let rows := ((s.batch? w.stream w.batch).map (·.rows)).getD 1
      let whole := good.filter (·.part == 0)
      let cs := (bagsOf whole).map fun b =>
        poolBag (fun i => Config.freeReal (seed + 1000) b i) (w.pool.getD (b / max 1 rows) 0) (entryValue t vals) b (whole.filter (·.bag == b))
      let ls := (good.filter (·.part != 0)).map fun e =>
        (⟨w.num, e.pos, e.bag, e.weight, e.rows.headD 0, e.part, entryValue t vals e, w.record⟩ : Loose)
      let own := if engine && w.home != k then good.length else 0
      let s := if own = 0 then s else bump s (pgCulv k + 0x4D0) own
      s.setRun w.stream w.batch w.stage fun x => { x with contribs := x.contribs ++ cs, loose := x.loose ++ ls }

/-- Space for staged updates, under the session's quota (R76, R137). -/
def stageSpace (s : State) (w : Window) (k bytes : Nat) : State :=
  let slot := s.slotOf w.stream
  if quotaFits s slot bytes 0 then
    (charge s slot bytes 0).setBatch w.stream w.batch fun b => { b with stagingBytes := b.stagingBytes + bytes }
  else failRun (noteCulv s k stNoSpace w.table w.stream 0) w.stream w.batch w.stage stNoSpace

/-- An update window worked: the sum of each distinct row of a SCATTER_ADD, or the rows of a TABLE_WRITE, staged for the
commit point (R139, R143, R144). -/
def updateWindow (s : State) (w : Window) (k : Nat) : State :=
  let t := TRec.of w.record
  let good := w.entries.filter fun e => !e.skip
  let seed := s.freeCtr
  let s := { s with freeCtr := s.freeCtr + 1 }
  match skipFails s w k with
  | some s => s
  | none =>
    let s := if hotCountUpdates s k then heatWindow s k t.id (heatOf s k w) else s
    let s := stageSpace s w k ((distinctRows good).map fun e => t.sizeOf (e.rows.headD 0)).sum
    let items : List (Nat × Nat × List Nat) :=
      if w.kind = .add then
        (distinctRows good).zipIdx.map fun d =>
          let es := good.filter fun x => x.rows == d.1.rows
          (d.1.rows.headD 0, d.1.pos, (List.range d.1.vals.length).map fun i =>
            sumAny fp32 (fun j => Config.freeReal (seed + 1000) (d.2 * 4096 + i) j) (es.map fun e => e.vals.getD i 0))
      else good.map fun e => (e.rows.headD 0, e.pos, e.vals)
    s.setRun w.stream w.batch w.stage fun x => { x with staged := x.staged ++ items }

/-! ### Commands on their way to an engine (R66, R138) -/

/-- Credits of a tile in use at an engine: its commands queued there, and those whose responses have not reached it. -/
def Culv.inUse (c : Culv) (page : Nat) : Nat := ((c.queue ++ c.back).filter (·.page == page)).length

/-- Commands enter an engine's queue in the order of each tile: at most 256 in all, and at most 16 of one tile. -/
def admitWindows : List Window → List Window → Culv → Culv
  | kept, [], c => { c with held := kept }
  | kept, w :: l, c =>
    if c.queue.length < 256 ∧ c.inUse w.page < 16 ∧ !(kept.any (·.page == w.page)) then
      admitWindows kept l { c with queue := c.queue ++ [w] }
    else admitWindows (kept ++ [w]) l c

def Culv.letIn (c : Culv) : Culv := admitWindows [] c.held c

/-- A command set out for an engine. -/
def sendCommand (s : State) (k : Nat) (w : Window) : State :=
  (s.setCulv k fun c => ({ c with held := c.held ++ [w] }).letIn).setRun w.stream w.batch w.stage fun x => { x with windows := x.windows + 1 }

/-- Commands that a tile pushes for n rows of a relational stage, one for each 4,096 (R197, R214; of predicates, log 83, DESIGN CHOICE:
R197 does not say how many commands carry one). An absent stack's engine takes none. -/
def pushCommands (c : Ctx) (kind : WinKind) (k n : Nat) (s : State) (page : Nat) : State :=
  if (s.stack k).absent then s
  else (List.range (ceilDiv n windowLen)).foldl (fun s i =>
    sendCommand s k ⟨c.stream, c.idx, c.stage, page, 4096, [], kind, [], k, 0, [], i, 0⟩) s

/-- A piece of a window set out: to its engine, or, for a Fen replica, read by the tile at once. The engine of an absent stack takes
none: its rows are UNCORRECTABLE (R108, R137). -/
def sendPiece (s : State) (w : Window) : Option Nat → State
  | none => lookWindow s w w.home false
  | some k =>
    if (s.stack k).absent then
      if w.entries.any (!·.skip) then failRun s w.stream w.batch w.stage stUncorrectable else (skipFails s w k).getD s
    else sendCommand (if w.kind = .lookup then moveLive s w.home w.table w.epoch true else s) k w

/-- Windows of a stage cut and sent to the engines: each piece is tagged with the epoch of the tile's directory (R165). -/
def sendWindows (s : State) (stream batch stage page : Nat) (rec_ : List Byte) (version : Nat) (kind : WinKind) (pool : List Nat)
    (xs : List RawIx) : State :=
  let t := TRec.of rec_
  let die := keyInst page / 13
  let first := ((s.run? stream batch stage).map (·.sent)).getD 0
  let chunks := chunksN windowLen xs.length xs
  let s := s.setRun stream batch stage fun x => { x with sent := first + chunks.length }
  chunks.zipIdx.foldl (fun s win =>
    let num := first + win.2
    let placed := win.1.zipIdx.flatMap fun x => placeIx s t version die num x.2 (kind == .lookup) x.1
    (groupIx placed).foldl (fun s g =>
      sendPiece s ⟨stream, batch, stage, page, t.id, rec_, kind, g.2.2, g.2.1, dirEpoch s die g.2.1 t.id, pool, num, version⟩ g.1) s) s

/-! ### CULVERT_WINDOW (R138 to R140) -/

/-- Numbers in ascending order. -/
def insertNat (a : Nat) : List Nat → List Nat
  | [] => [a]
  | b :: t => if a ≤ b then a :: b :: t else b :: insertNat a t
def sortNat (l : List Nat) : List Nat := l.foldr insertNat []

/-- The next command: the tiles in turn, each in arrival order; while look-ups wait, updates take at most their share of each
sixteen. Where every tile's front command is an update beyond the share, one is started all the same (log 80, DESIGN CHOICE: R138
does not say what happens when the look-ups that wait stand behind them). -/
def nextWindow (c : Culv) (share : Nat) : Option Window :=
  let pages := c.queue.foldl (fun l w => insertNew w.page l) []
  let turn := sortNat (pages.filter (c.turn < ·)) ++ sortNat (pages.filter (· ≤ c.turn))
  let fronts := turn.filterMap fun p => c.queue.find? (·.page == p)
  let waiting := c.queue.any (·.kind == .lookup)
  match fronts.find? fun w => !(w.kind.updates && waiting && decide (share ≤ c.updates)) with
  | some w => some w
  | none => fronts.head?

/-- A command leaves the queue and is counted among the sixteen. -/
def startWindow (c : Culv) (w : Window) : Culv :=
  let upd := c.updates + b2n w.kind.updates
  let full := 15 ≤ c.started
  { c with
    queue := c.queue.eraseP (· == w)
    turn := w.page
    started := if full then 0 else c.started + 1
    updates := if full then 0 else upd }

/-- IDX_CNT, UNIQUE_CNT, DUP_CNT and OOB_CNT of a window, and the cycles it took. Of a COMPOSED table, indices that name the same Q
and P rows count as duplicates of one another (log 80, DESIGN CHOICE: R153 counts distinct rows, and R154 has the three counts add up
to the indices). -/
def countWindow (s : State) (k : Nat) (w : Window) : State :=
  let good := w.entries.filter fun e => !e.skip
  let u := (distinctRows good).length
  let add (s : State) (off n : Nat) : State := if n = 0 then s else bump s (pgCulv k + off) n
  let s := add (add (add (add s 0x408 w.entries.length) 0x410 u) 0x418 (good.length - u)) 0x420 (w.entries.length - good.length)
  let (s, f) := takeFreeBits s 48
  bump s (pgCulv k + 0x430) f

/-- What a command does; the rows that pass a predicate and the entries that a probe matches are worked out as the stage finishes
(R197, R214). -/
def runWindow (s : State) (k : Nat) (w : Window) : State :=
  match w.kind with
  | .lookup => lookWindow s w k true
  | .add => updateWindow s w k
  | .write => updateWindow s w k
  | .predicate => s
  | .probe => s

/-- One command of an engine's queue done: its response sets out for its tile, and commands held for the queue's entry follow. -/
def culvertWindow (s : State) (k : Nat) : State :=
  match nextWindow (s.culv k) (s.rfld (pgCulv k + 0x440) 3 0) with
  | none => s
  | some w =>
    let s := runWindow (countWindow (s.setCulv k fun c => startWindow c w) k w) k w
    s.setCulv k fun c => ({ c with back := c.back ++ [w] }).letIn

/-- CULVERT_WINDOW: an engine works one window. -/
def execCulvertWindow (stack : Nat) (s : State) : Host.Outcome State Fault Refusal := .next (culvertWindow s stack)

/-- A look-up piece has returned, or will not set out any more: its drain counter falls (R166). -/
def pieceBack (s : State) (w : Window) : State :=
  if w.kind = .lookup then moveLive s w.home w.table w.epoch false else s

/-- The oldest response of an engine to a tile arrives: its credit is free, and the command that the tile has held for it sets
out (R66). -/
def culvertReturn (t k held : Nat) (s : State) : State :=
  match (s.culv k).back.find? (·.page == pgTile t) with
  | none => s
  | some w =>
    let waits := (s.culv k).held.any (·.page == pgTile t)
    let s := pieceBack (s.setCulv k fun c => ({ c with back := c.back.eraseP (· == w) }).letIn) w
    let s := s.setRun w.stream w.batch w.stage fun x => { x with windows := x.windows - 1 }
    if waits && held != 0 then bump s (pgTile t + 0x430) held else s

/-- Commands that an engine has not started are dropped. -/
def dropCommands (s : State) (k : Nat) (mine : Window → Bool) : State :=
  let gone := ((s.culv k).queue ++ (s.culv k).held).filter mine
  let s := s.setCulv k fun c => ({ c with
    queue := c.queue.filter fun w => !(mine w)
    held := c.held.filter fun w => !(mine w) }).letIn
  gone.foldl pieceBack s

/-- Windows of a batch that has ended leave the queues. -/
def dropWindows (s : State) (stream batch : Nat) : State :=
  (List.range 12).foldl (fun s k => dropCommands s k fun w => w.stream == stream && w.batch == batch) s

/-! ### Issue of LOOKUP, PEER_LOOKUP, SCATTER_ADD and TABLE_WRITE -/

/-- Indices of the bags of a feature, in input order: (bag, position of the index). -/
def bagIxs (offs : Nat → Nat) (rows f : Nat) : List (Nat × Nat) :=
  (List.range rows).flatMap fun r =>
    let b := f * rows + r
    (List.range (offs (b + 1) - offs b)).map fun i => (b, offs b + i)

/-- The status of malformed bags (R133, R134, R136); 0 when they are right. -/
def bagStatus (r : List Byte) (b : Blocks) (rows : Nat) (ins : List (Option Col)) : Nat :=
  let idx := inCol ins 0
  let oc := inCol ins 1
  let fs := featuresOf r b
  let nb := fs.length * rows
  let weighted := bitOf (fieldN r 73 1) 0
  if oc.count ≠ nb + 1 ∨ !((List.range (nb + 1)).all oc.isValid) ∨ oc.bits 0 ≠ 0
    ∨ !((List.range nb).all fun k => decide (oc.bits k ≤ oc.bits (k + 1))) ∨ oc.bits nb ≠ idx.count
    ∨ (weighted ∧ (inCol ins 2).count ≠ idx.count) then stCorrupt
  else if 16777216 < idx.count ∨ (List.range nb).any (fun k => decide (65536 < oc.bits (k + 1) - oc.bits k)) then stOversize
  else if fs.zipIdx.any fun f => f.1.pool == 3 && (List.range rows).any fun i =>
      decide (1 < oc.bits (f.2 * rows + i + 1) - oc.bits (f.2 * rows + i)) then stCorrupt
  else 0

/-- The weight of an index: an FP32 code. -/
def weightAt (r : List Byte) (ins : List (Option Col)) (p : Nat) : Nat :=
  if bitOf (fieldN r 73 1) 0 then (inCol ins 2).bits p else one32

/-- An index and its weight are not null (R536). -/
def indexLive (r : List Byte) (ins : List (Option Col)) (p : Nat) : Bool :=
  (inCol ins 0).isValid p && (!(bitOf (fieldN r 73 1) 0) || (inCol ins 2).isValid p)

/-- The shard of an index and the index sent there (R149). -/
def shardOf (r : List Byte) (x : Nat) : Option (Nat × Nat) :=
  let n := fieldN r 97 1
  let (s, y) := match fieldN r 96 1 with
    | 0 => (x / max 1 (fieldN r 88 8), x % max 1 (fieldN r 88 8))
    | 1 => (x % max 1 n, x / max 1 n)
    | _ => (hashBy (fieldN r 98 1) (sliceB r 112 16) (natLE 8 x) % max 1 n, x)
  if s < n then some (s, y) else none

/-- The indices of a stage for its table ref, as they go to the engines: for PEER_LOOKUP those of the local shard, with
every index that no shard takes. -/
def lookupIxs (r : List Byte) (b : Blocks) (t : TRec) (ref rows : Nat) (ins : List (Option Col)) : List RawIx :=
  let oc := inCol ins 1
  let sh := shardsOf r b
  (featuresOf r b).zipIdx.flatMap fun f =>
    if f.1.ref ≠ ref then []
    else (bagIxs oc.bits rows f.2).filterMap fun q =>
      let x := (inCol ins 0).bits q.2
      let raw (rows : Option (List Nat)) : Option RawIx := some ⟨q.1, rows, weightAt r ins q.2, []⟩
      if !(indexLive r ins q.2) then raw none
      else if stOp r = 0x0802 then
        match shardOf r x with
        | none => raw none
        | some (k, y) => if (sh[k]?.map (·.kind)).getD 1 = 0 then raw (t.rowsOf y) else none
      else raw (t.rowsOf x)

/-- What a remote shard is asked: offsets, indices and weights of its part of every bag. -/
def shardAsk (r : List Byte) (b : Blocks) (rows k : Nat) (ins : List (Option Col)) : List Byte :=
  let fs := featuresOf r b
  let bags := fs.zipIdx.flatMap fun f => (List.range rows).map fun i =>
    ((bagIxs (inCol ins 1).bits rows f.2).filter fun q => q.1 == f.2 * rows + i && indexLive r ins q.2
      && ((shardOf r ((inCol ins 0).bits q.2)).map (·.1)) == some k).map (·.2)
  let offs := bags.foldl (fun a l => a ++ [a.getLastD 0 + l.length]) [0]
  offs.flatMap (natLE 4)
    ++ bags.flatten.flatMap (fun p => natLE 8 (((shardOf r ((inCol ins 0).bits p)).map (·.2)).getD 0))
    ++ bags.flatten.flatMap (fun p => natLE 4 (weightAt r ins p))

/-- The purpose of a packet: messages of a peer session (kind 16). -/
def pkPeer : Nat := 16

/-- Indices of a PEER_LOOKUP without a local table that go to no shard, and null ones, are counted by an engine of the die of the
stage's tile (log 82, DESIGN CHOICE: R127 and R536 do not say which engine counts them). -/
def countNowhere (c : Ctx) (ins : List (Option Col)) (s : State) : State :=
  let idx := inCol ins 0
  let n := ((List.range idx.count).filter fun p => !(indexLive c.record ins p) || (shardOf c.record (idx.bits p)).isNone).length
  let k := 3 * (keyInst c.page / 13)
  if n = 0 then s else bump (bump s (pgCulv k + 0x408) n) (pgCulv k + 0x420) n

/-- LOOKUP and PEER_LOOKUP at their issue: bags checked, windows sent, remote shards asked. -/
def lookupIssue (c : Ctx) (recs : List (List Byte)) (pins : List (Nat × Nat)) (ins : List (Option Col)) (s : State) : State :=
  let r := c.record
  let st := bagStatus r c.blocks c.rows ins
  if st ≠ 0 then failRun s c.stream c.idx c.stage st
  else
    let pool := (featuresOf r c.blocks).map (·.pool)
    let s := recs.zipIdx.foldl (fun s q =>
      let t := TRec.of q.1
      sendWindows s c.stream c.idx c.stage c.page q.1 (pinned s pins t.id) .lookup pool (lookupIxs r c.blocks t q.2 c.rows ins)) s
    if c.op = 0x0802 then
      let s := if recs = [] then countNowhere c ins s else s
      let remote := (shardsOf r c.blocks).zipIdx.filter fun x => x.1.kind == 1
      s.setRun c.stream c.idx c.stage fun x => { x with asked := remote.map (·.2) }
    else s

/-- The row of an index of SCATTER_ADD or TABLE_WRITE (R126, R144). -/
def updateRow (r : List Byte) (t : TRec) (x : Nat) : Option (List Nat) :=
  if stOp r = 0x0202 ∧ t.composed then
    (if fieldN r 56 1 = 1 then (if x < t.m then some [t.rows + x] else none) else if x < t.rows then some [x] else none)
  else t.rowsOf x

/-- SCATTER_ADD and TABLE_WRITE at their issue. -/
def updateIssue (c : Ctx) (recs : List (List Byte)) (ins : List (Option Col)) (s : State) : State :=
  let r := c.record
  let t := TRec.of (recs.getD 0 [])
  let idx := inCol ins 0
  let v := inCol ins 1
  let add := c.op == 0x0201
  let n := if add then t.dim else writeRowBytes r t
  let xs := (List.range idx.count).map fun i =>
    let whole := v.kind == kBytes || (List.range n).all fun e => v.isValid (i * n + e)
    let vals := if add then (List.range n).map fun e =>
        if v.type_ = 0x0B then fcvt bf16 fp32 (v.bits (i * n + e)) else v.bits (i * n + e)
      else ((v.data.drop (i * n)).take n).map (·.toNat)
    (⟨0, if idx.isValid i && whole then updateRow r t (idx.bits i) else none, one32, vals⟩ : RawIx)
  sendWindows s c.stream c.idx c.stage c.page (recs.getD 0 []) (((s.table? t.id).map (·.switch)).getD 0)
    (if add then .add else .write) [] xs

/-! ### Finish of LOOKUP and PEER_LOOKUP (R134, R135, R151) -/

/-- The parts of a bag put together: sums, or maxima, element by element. -/
def joinParts (fr : Nat → Nat) (mode : Nat) (parts : List (List Nat)) : List Nat :=
  (List.range (parts.headD []).length).map fun i =>
    let col := parts.map fun p => p.getD i 0
    if mode = 2 then (col.drop 1).foldl (vmax (fr i)) (col.headD 0) else sumAny fp32 (fun j => fr (i * 64 + j)) col

/-- A pooled bag, MEAN divided by its weights. -/
def bagValue (fr : Nat → Nat) (mode wsum : Nat) (parts : List (List Nat)) : List Nat :=
  let v := joinParts fr mode parts
  if mode = 1 then (if (fp32.dec wsum).isZero then v.map fun _ => 0 else v.map fun x => fdiv fp32 x wsum) else v

/-- The remote parts of a bag: those of shards that received an index of it. -/
def remoteParts (r : List Byte) (b : Blocks) (run : StageRun) (ins : List (Option Col)) (rows f i width : Nat) : List (List Nat) :=
  let sh := shardsOf r b
  let off := ((featuresOf r b)[f]?.map (·.off)).getD 0
  let ixs := (bagIxs (inCol ins 1).bits rows f).filter fun q => q.1 == f * rows + i && indexLive r ins q.2
  sh.zipIdx.filterMap fun x =>
    if x.1.kind = 1 && ixs.any fun q => ((shardOf r ((inCol ins 0).bits q.2)).map (·.1)) == some x.2 then
      let a := ((run.answers.find? (·.1 == x.2)).map (·.2)).getD []
      some ((List.range width).map fun e => fieldN a (1 + 4 * (i * fieldN r 68 4 + off + e)) 4)
    else none

/-- Split COMPOSED indices put together by the stage's tile: the window and the entry with its combined value. -/
def joinLoose (ls : List Loose) : List (Nat × WinEntry) :=
  ls.filterMap fun l =>
    if l.part ≠ 1 then none
    else (ls.find? fun m => m.num == l.num && m.pos == l.pos && m.part == 2).map fun m =>
      (l.num, ⟨l.pos, l.bag, l.weight, false, [l.row, m.row], [], [], combine (TRec.of l.record) [l.vals, m.vals], 0⟩)

/-- The contributions of split COMPOSED indices to a bag, window by window (R139, R141). -/
def looseParts (fr : Nat → Nat) (mode bag : Nat) (ls : List (Nat × WinEntry)) : List Contrib :=
  let mine := ls.filter (·.2.bag == bag)
  (mine.foldl (fun a l => insertNew l.1 a) []).map fun w =>
    poolBag (fun i => fr (w * 16777216 + i)) mode (·.vals) bag ((mine.filter (·.1 == w)).map (·.2))

/-- The local shard received an index of a bag (R151). -/
def localRouted (r : List Byte) (b : Blocks) (ins : List (Option Col)) (rows bag : Nat) : Bool :=
  let sh := shardsOf r b
  (bagIxs (inCol ins 1).bits rows (bag / max 1 rows)).any fun q => q.1 == bag && indexLive r ins q.2
    && (match shardOf r ((inCol ins 0).bits q.2) with
      | some (k, _) => (sh[k]?.map (·.kind)) == some 0
      | none => false)

/-- LOOKUP or PEER_LOOKUP once every window and shard has answered. -/
def lookupOut (c : Ctx) (recs : List (List Byte)) (run : StageRun) (s : State) : Res (List (Option Col)) :=
  let r := c.record
  let fs := featuresOf r c.blocks
  let peer := c.op == 0x0802
  if peer && run.answers.any fun a => fieldN a.2 0 1 != 0 then fail s stPeer
  else
    let width := fieldN r 68 4
    let fmt := outFormatType r
    let conv (x : Nat) : Nat := if fmt = 0x0B then fcvt fp32 bf16 x else if fmt = 0x0A then fcvt fp32 fp16 x else x
    let split := joinLoose run.loose
    let bag (f i : Nat) (ft : Feature) : List Nat :=
      let b := f * c.rows + i
      let mine := run.contribs.filter (·.bag == b) ++ looseParts (fun j => c.free 9 (b * 1048576 + j)) ft.pool b split
      let w := featWidth r recs fs ft
      let own := if peer && mine.isEmpty && localRouted r c.blocks run.ins c.rows b then [List.replicate w 0] else []
      let parts := (mine.map (·.vals)) ++ own ++ (if peer then remoteParts r c.blocks run run.ins c.rows f i w else [])
      let routed := (bagIxs (inCol run.ins 1).bits c.rows f).filter fun q => q.1 == b && indexLive r run.ins q.2
        && (shardOf r ((inCol run.ins 0).bits q.2)).isSome
      let ws := if peer then routed.map (fun q => weightAt r run.ins q.2) else mine.map (·.weight)
      let wsum := sumAny fp32 (fun j => c.free 7 (b * 65536 + j)) ws
      bagValue (fun j => c.free 8 (b * 1048576 + j)) ft.pool wsum parts
    let rowOut (i : Nat) : List Nat :=
      fs.zipIdx.foldl (fun acc f =>
        let v := bag f.2 i f.1
        acc.take f.1.off ++ v ++ acc.drop (f.1.off + v.length)) (List.replicate width 0)
    let es := (List.range c.rows).flatMap rowOut
    ok s [some (mkTensor fmt [1, 1, c.rows, width] (es.map fun x => some (conv x)))]

/-! ### Updates at the commit point (R143 to R147, R167) -/

/-- The scalar format of a table that SCATTER_ADD may change. -/
def tableFmt (t : TRec) : Fmt := if t.fmt = 0 then fp32 else if t.fmt = 1 then bf16 else fp16

/-- A row after a SCATTER_ADD delta: round(row + ALPHA · sum), padding kept. -/
def addedRow (t : TRec) (alpha : Nat) (old : List Byte) (sum : List Nat) : List Byte :=
  let f := tableFmt t
  let w := typeBytes f.code
  let a := fp32.dec alpha
  let new := (List.range t.dim).flatMap fun e =>
    natLE w (f.enc ((f.dec (fieldN old (e * w) w)).add (a.mul (fp32.dec (sum.getD e 0)))))
  overlay old 0 new

/-- A piece of a row cannot be written: a granule in part whose read half finds no data (R101), or a whole granule that is POISONED,
which its fill map tells (R137, R146: the row is left unchanged; log 55, DEDUCED). -/
def pieceStop (s : State) (a : Nat) (b : List Byte) : State × Option MemErr :=
  match writePiece s a b false with
  | (s', none) => match placeOf a with
    | .hbm k o => if b.length = 256 ∧ (s.granule (granKey k (o / 256))).fill = .poisoned then (s, some .poison) else (s', none)
    | _ => (s', none)
  | r => r

/-- The first piece of a row that cannot be written. -/
def rowStop (s : State) (addr : Nat) (b : List Byte) : Option (State × Option MemErr) :=
  ((piecesOf addr b.length).map fun p => pieceStop s p.1 ((b.drop (p.1 - addr)).take p.2)).find? (·.2.isSome)

/-- A whole row written, unless one of its pieces cannot be: then the row is left unchanged. -/
def rowWrite (s : State) (addr : Nat) (b : List Byte) : State × Option MemErr :=
  match rowStop s addr b with
  | some t => t
  | none => devWrite s addr b

/-- The read half of a row's read-modify-write (R143): a granule that the row covers in part is read by the write that follows,
which then counts what the read finds. -/
def rowRead (s : State) (addr n : Nat) : State × Except MemErr (List Byte) :=
  match rowStop s addr (List.replicate n 0) with
  | some (s, some e) => (s, .error e)
  | _ =>
    let whole := (piecesOf addr n).filter fun p => p.1 % 256 == 0 && p.2 == 256
    (whole.foldl (fun s p => (readPiece s p.1 p.2).1) s, (devRead s addr n).2)

/-- One staged update applied to its row in force, and forwarded to its replicas. -/
def applyRow (s : State) (stream : Nat) (r : List Byte) (table : Nat) (item : Nat × Nat × List Nat) : State × Nat :=
  match s.table? table with
  | none => (s, 0)
  | some e =>
    let t := TRec.of e.record
    let addr := t.rowAddr e.switch item.1
    let k := hbmOf addr
    let new : State × Except MemErr (List Byte) :=
      if stOp r = 0x0201 then match rowRead s addr t.rowBytes with
        | (s, .ok b) => (s, .ok (addedRow t (fieldN r 60 4) b item.2.2))
        | (s, .error x) => (s, .error x)
      else (s, .ok (item.2.2.map (BitVec.ofNat 8)))
    match new with
    | (s, .error x) => (noteCulv s k x.status table stream item.2.1, x.status)
    | (s, .ok b) => match rowWrite s addr b with
      | (s, some x) => (noteCulv s k x.status table stream item.2.1, x.status)
      | (s, none) => (forwardRow (bump s (pgCulv k + 0x428) 1) k table item.1 b, 0)

/-- A list in an order that free numbers choose. -/
def freeOrder {α : Type} (fr : Nat → Nat) : Nat → List α → List α
  | 0, l => l
  | k + 1, l => if l = [] then [] else
      let i := fr k % l.length
      match l[i]? with
      | some a => a :: freeOrder fr k (l.eraseIdx i)
      | none => l

/-- The last update of each row, in input order. -/
def lastRows (l : List (Nat × Nat × List Nat)) : List (Nat × Nat × List Nat) :=
  l.foldl (fun a x => (a.filter (·.1 != x.1)) ++ [x]) []

/-- The updates of a stage applied: every one is tried; the first that finds no data gives the status (R146). -/
def applyRows (s : State) (stream : Nat) (r : List Byte) (table : Nat) (items : List (Nat × Nat × List Nat)) : State × Nat :=
  let seed := s.freeCtr
  let s := { s with freeCtr := s.freeCtr + 1 }
  let items := if stOp r = 0x0201 then freeOrder (fun i => Config.freeReal (seed + 1000) 0 i) items.length items else lastRows items
  items.foldl (fun (p : State × Nat) x => match applyRow p.1 stream r table x with
    | (s, st) => (s, if p.2 = 0 then st else p.2)) (s, 0)

/-- Rows of an engine that some slot still carries, each once (R167, R168). -/
def carriedRows (c : Culv) : List (Nat × Nat) :=
  ((c.hot.map fun h => (h.table, h.row)) ++ (c.changes.filter (!·.switch)).map (fun g => (g.table, g.row))
    ++ (c.leaving.filter (·.version.isNone)).map fun l => (l.table, l.row)).foldl (fun a r => insertNew r a) []

/-- The resulting values of rows that a discard touched are sent to every slot that carries them (R167). -/
def forwardDiscard (s : State) (a n : Nat) : State :=
  let key (x : Nat) : Nat := (memKey x).getD 0
  (List.range 12).foldl (fun s k => (carriedRows (s.culv k)).foldl (fun s h =>
    match rowPlace s h.1 h.2 with
    | none => s
    | some (addr, bytes) =>
      -- the row and the range are compared where they lie, granule by granule
      let hit := (piecesOf a n).any fun p => (piecesOf addr bytes).any fun q =>
        decide (key p.1 < key q.1 + q.2 ∧ key q.1 < key p.1 + p.2)
      if hit ∧ forwardSlots s k h.1 h.2 ≠ [] then match devRead s addr bytes with
        | (s, .ok b) => forwardRow s k h.1 h.2 b
        | (s, .error _) => s
      else s) s) s

/-- A DISCARD range applied (R102, R111, R145). -/
def applyDiscard (s : State) (a n : Nat) : State × Nat :=
  if n = 0 then (s, 0)
  else match devDiscard s a n with
    | (s, e) => (forwardDiscard s a n, (e.map MemErr.status).getD 0)

/-! ### Table switches (R172 to R176) -/

/-- The table of a TABLE_SWITCH stage. -/
def switchTable (s : State) (stream ix : Nat) : Nat := (TRec.of ((stageTabs s stream ix).getD 0 [])).id

/-- Stages that wait for a table's reservation: ready tick, stream, batch. -/
def switchWaiters (s : State) (table : Nat) : List (Nat × Nat × Nat) :=
  s.disp.streams.flatMap fun x => x.batches.flatMap fun b => (b.runs.filter fun r => !r.finished && r.issuedAt.isSome
    && stOp (stageRec s x.id r.ix) == 0x0203 && switchTable s x.id r.ix == table).map fun r => (r.readyAt.getD 0, x.id, b.idx)

/-- The waiter that became ready first, of equals the lower stream number. -/
def firstWaiter (l : List (Nat × Nat × Nat)) : Option (Nat × Nat × Nat) :=
  l.foldl (fun m w => match m with
    | none => some w
    | some v => if w.1 < v.1 ∨ (w.1 = v.1 ∧ (w.2.1 < v.2.1 ∨ (w.2.1 = v.2.1 ∧ w.2.2 < v.2.2))) then some w else some v) none

/-- A free reservation goes to the first stage that waits for it. -/
def switchReservation (s : State) (table : Nat) : State :=
  match s.table? table, firstWaiter (switchWaiters s table) with
  | some e, some w => if e.reserved.isNone then s.setTable table fun e => { e with reserved := some (w.2.1, w.2.2) } else s
  | _, _ => s

/-- SWITCH_RESERVATION: a waiting TABLE_SWITCH stage takes its table's reservation (R175 phase 1). -/
def execSwitchReservation (table : Nat) (s : State) : Host.Outcome State Fault Refusal := .next (switchReservation s table)

/-- The target base of a reserved switch is free of other batches' pins and, unless the batch itself is pinned to it, of
drain work (R175 phase 2). -/
def targetFree (s : State) (e : TableEnt) (w : Nat × Nat) : Bool :=
  let par := (e.switch + 1) % 2
  let own := ((s.batch? w.1 w.2).map fun b => b.pins.any fun q => q.1 == e.id && q.2 % 2 == par).getD false
  pinCount s e.id (· % 2 == par) (some w) == 0 && (own || !(e.drains.any fun d => d.version % 2 == par))

def switchTargetReady (s : State) (table : Nat) : State :=
  match s.table? table with
  | none => s
  | some e => match e.reserved with
    | none => s
    | some w => if targetFree s e w then
        s.setBatch w.1 w.2 fun b => { b with
          runs := b.runs.map fun r =>
            if stOp (stageRec s w.1 r.ix) = 0x0203 ∧ switchTable s w.1 r.ix = table then { r with arrived := true } else r }
      else s

/-- SWITCH_TARGET_READY: the stage that holds the reservation may finish. -/
def execSwitchTargetReady (table : Nat) (s : State) : Host.Outcome State Fault Refusal := .next (switchTargetReady s table)

/-- An engine leaves the replicas of a table's old version out: they go once that version has drained, and the epoch that lists none
of them opens at once, or, while four are live, once the oldest has drained (R166, R175). -/
def switchEngine (table old new : Nat) (s : State) (k : Nat) : State :=
  let c := s.culv k
  let mine := c.hot.filter (·.table == table)
  let gone (h : HotRow) : List Replica :=
    (h.planned ++ h.listed ++ (c.changes.filter fun g => g.table == table && g.row == h.row).flatMap (·.gone)).foldl
      (fun a x => insertNew x a) []
  let wait : Bool := decide (4 ≤ c.liveCount table)
  if mine = [] then s
  else
    let s := s.setCulv k fun c => { c with
      hot := c.hot.filter (·.table != table)
      changes := (c.changes.filter (·.table != table)) ++ if wait then [⟨table, 0, [], [], true⟩] else []
      leaving := (c.leaving.map fun l => if l.table = table ∧ l.version.isNone then { l with version := some old } else l)
        ++ mine.map fun h => ⟨table, h.row, c.epochOf table, gone h, some old⟩ }
    if wait then s else openEpoch s k table new

/-- The switch at the commit point: the count advances, the reservation is released, the old version starts to drain, and one
epoch advance of each engine drops its replicas (R175 phase 3). A base that returns to force is not discarded. -/
def applySwitch (s : State) (stream table : Nat) (r : List Byte) : State :=
  match s.table? table with
  | none => s
  | some e =>
    let new := (e.switch + 1) % 2 ^ 32
    let s := s.setTable table fun e => { e with
      switch := new
      reserved := none
      drains := (e.drains.map fun d => if d.version % 2 = new % 2 then { d with discard := false } else d)
        ++ [⟨e.switch, new, bitOf (fieldN r 56 1) 0, fieldN r 64 8, stream⟩] }
    (List.range 12).foldl (switchEngine table e.switch new) s

/-- The reservation that a batch holds is released when it completes without committing. -/
def releaseSwitch (s : State) (stream batch : Nat) : State :=
  let free (e : TableEnt) : TableEnt := if e.reserved = some (stream, batch) then { e with reserved := none } else e
  { s with tables := { s.tables with dirs := s.tables.dirs.map free } }

/-- The drain work of a version whose last pin is gone (R176): replica slots once their epochs have drained, the discard of
its base, and the write of DRAINED_ADDR; failures are recorded on the engine of the table's row 0. -/
def versionDrain (s : State) (table : Nat) : State :=
  match s.table? table with
  | none => s
  | some e => match e.drains.find? fun d => pinCount s table (· == d.version) none == 0 with
    | none => s
    | some d =>
      let mine (k : Nat) := (s.culv k).leaving.filter fun l => l.table == table && l.version == some d.version
      if !((List.range 12).all fun k => (mine k).all fun l => epochDrained s k table l.epoch) then s
      else
        let t := TRec.of e.record
        let home := hbmOf (t.rowAddr e.switch 0)
        let s := (List.range 12).foldl (fun s k => freeLeaving s k fun l => l.table == table && l.version == some d.version) s
        let s := if d.discard then
            let odd := d.version % 2 == 1
            let exts := (if odd then t.base1 else t.base0, t.rows * t.rowBytes)
              :: (if t.composed then [(if odd then t.p1 else t.p0, t.m * t.pRowBytes)] else [])
            exts.foldl (fun s x => match devDiscard s x.1 x.2 with
              | (s, some er) => noteCulv s home er.status table d.stream 0
              | (s, none) => s) s
          else s
        let s := if d.addr = 0 then s
          else match write64 s d.addr d.by_ with
            | (s, some er) => noteCulv s home er.status table d.stream 0
            | (s, none) => s
        s.setTable table fun e => { e with drains := e.drains.filter (· != d) }

/-- VERSION_DRAIN: a replaced version has drained. -/
def execVersionDrain (table : Nat) (s : State) : Host.Outcome State Fault Refusal := .next (versionDrain s table)

end Sys2Proof.Machine
end

