-- ==== Sys2Proof/Machine/Reedbed.lean ====
section
/-! DEFINITION. The Reedbed (chapter 8): rule sets, keys and verdicts, updates, scrub and sparing. -/

namespace Sys2Proof.Machine

def State.setReed (s : State) (d : Nat) (f : Reed → Reed) : State := { s with reeds := modifyAt s.reeds d f }

/-! ### Rule sets (R224 to R226) -/

/-- A record in range (R224). -/
def setOk (b : List Byte) : Bool :=
  let r := SetRec.of b
  decide (r.id ≤ 255) && decide (r.die ≤ 3) && (r.width == 1 || r.width == 2 || r.width == 4) && r.banks != 0
  && decide (r.flags ≤ 1) && zeroAt b 9 55

def State.set? (s : State) (id : Nat) : Option RuleSet := s.sets.find? (·.id == id)

/-- The session that registered a set is open. -/
def setAlive (s : State) (e : RuleSet) : Bool :=
  match s.session e.slot with
  | some x => x.serial == e.serial
  | none => false

/-- The usable logical banks of a die (R244). -/
def usableBanks (s : State) (d : Nat) : Nat := s.fuses.repair.reedUsable.getD d 0

/-- Bytes of a set's shadow area (R225). -/
def shadowBytes (r : SetRec) : Nat := 131072 * r.bankList.length

/-- What the device answers to a record that a stage names (R225, R226). -/
def setCheck (s : State) (sets : List RuleSet) (w : Binder) (search : Bool) (b : List Byte) : List Fail :=
  let r := SetRec.of b
  failIf (!(setOk b)) stBadField 48
  ++ match sets.find? (·.id == r.id) with
    | some e =>
      let mine := e.slot == w.slot && e.serial == w.serial
      if !(mine || setAlive s e) then failIf true stDenied 48
      else if mine then failIf (e.record != b) stBadField 48
      else failIf (!((SetRec.of e.record).flags == 1 && search)) stDenied 48
    | none =>
      failIf (r.bankList.any fun k => !(bitOf (usableBanks s r.die) k)) stUncorrectable 48
      ++ failIf (sets.any fun e => (SetRec.of e.record).die == r.die && (SetRec.of e.record).banks &&& r.banks != 0) stNoSpace 48

/-- The record a stage works by, and the sets with a new record registered. -/
def resolveSet (sets : List RuleSet) (b : List Byte) : List Byte := ((sets.find? (·.id == (SetRec.of b).id)).map (·.record)).getD b
def setAdd (sets : List RuleSet) (w : Binder) (b : List Byte) : List RuleSet :=
  if sets.any (·.id == (SetRec.of b).id) ∨ !(setOk b) then sets else sets ++ [⟨(SetRec.of b).id, b, w.slot, w.serial⟩]

/-- The bank of a global entry index. -/
def bankOfIx (i : Nat) : Nat := i / 4096

/-- A set is released: its entries are invalid and its banks free (R226). -/
def releaseSet (s : State) (id : Nat) : State :=
  match s.set? id with
  | none => s
  | some e =>
    let r := SetRec.of e.record
    let keep (i : Nat) : Bool := !(bitOf r.banks (bankOfIx i))
    let s := s.setReed r.die fun x => { x with
      bank := x.bank.filter fun p => keep p.1
      shadow := x.shadow.filter fun p => keep p.1
      bad := x.bad.filter fun p => keep p.1 }
    { s with sets := s.sets.filter (·.id != id) }

/-! ### Entries and keys (R222, R223, R228) -/

/-- A unit of a packed form. -/
def unitAt (b : List Byte) (u : Nat) : Nat := fieldN b (10 * u) 10
def unitsOf (w : Nat) (b : List Byte) : List Nat := (List.range w).map (unitAt b)

/-- A key matches an entry (R223). -/
def keyMatches (e : RbEntry) (key : List Nat) : Bool :=
  e.valid && (key.zip (e.value.zip e.care)).all fun p => (p.1 ^^^ p.2.1) &&& p.2.2 == 0

/-- A field entry of FIELDS: BIT_OFFSET and LENGTH. -/
def keyField (r : List Byte) (i : Nat) : Nat × Nat := (fieldN r (72 + 4 * i) 2, fieldN r (74 + 4 * i) 1)

/-- The units of key k of a SEARCH stage. -/
def keyUnits (r : List Byte) (w : Nat) (ins : List (Option Col)) (k : Nat) : List Nat :=
  if fieldN r 60 1 = 1 then unitsOf w (((inCol ins 0).data.drop (k * 10 * w)).take (10 * w))
  else
    let all := (List.range 4).foldl (fun a i =>
      let f := keyField r i
      if f.2 = 0 then a else
        let x := inCol ins i
        a + wrapN f.2 (match valOf x.type_ (x.bits k) with
          | .int v => v
          | .flt _ => 0) * 2 ^ f.1) 0
    (List.range w).map fun u => bitsOf all (80 * u + 79) (80 * u)

/-- A key with a null element in a used field is not searched. -/
def keyNull (r : List Byte) (w : Nat) (ins : List (Option Col)) (k : Nat) : Bool :=
  if fieldN r 60 1 = 1 then (List.range (10 * w)).any fun i => !((inCol ins 0).isValid (k * 10 * w + i))
  else (List.range 4).any fun i => (keyField r i).2 != 0 && !((inCol ins i).isValid k)

/-- The number of keys of a stage. -/
def keyCount (r : List Byte) (w : Nat) (ins : List (Option Col)) : Nat :=
  if fieldN r 60 1 = 1 then (inCol ins 0).count / (10 * w) else rowsOf ins [0, 1, 2, 3]

/-- REED.LAST_ERR (R245). -/
def noteReed (s : State) (d status set_ stream bank : Nat) : State :=
  firstEvent s (pgReed d) 0x480 (status * 2 ^ 48 + set_ % 256 * 2 ^ 32 + stream % 1024 * 2 ^ 16 + bank % 32)

/-- A SEARCH stage at its issue: banks usable, keys counted, and every key that is searched sent to the die (R227, R233). -/
def searchIssue (c : Ctx) (setRec : List Byte) (ins : List (Option Col)) (s : State) : State :=
  let r := c.record
  let q := SetRec.of setRec
  let sb := c.n 56 4
  let stop (s : State) (st bank : Nat) : State :=
    failRun (noteReed s q.die st q.id c.stream bank) c.stream c.idx c.stage st
  match (List.range 32).find? fun b => bitOf sb b && !(bitOf (usableBanks s q.die) b) with
  | some b => stop s stUncorrectable b
  | none =>
    let which := (List.range 4).filter (inUsed r)
    if !(sameCount ins which) then stop s stCorrupt 0
    else
      let n := keyCount r q.width ins
      if 1048576 < n then stop s stOversize 0
      else
        let live := (List.range n).filter fun k => !(keyNull r q.width ins k)
        let s := wakeDieBy s q.die 0
        let s := s.setReed q.die fun x => { x with keys := x.keys ++ live.map fun k => ⟨c.stream, c.idx, c.stage, k, sb⟩ }
        s.setRun c.stream c.idx c.stage fun x => { x with keys := live }

/-! ### SEARCH_KEY (R230 to R234) -/

/-- An entry by its global index; one that is not listed has all units 0 and is invalid. -/
def entryAt (l : List (Nat × RbEntry)) (i : Nat) : RbEntry := ((l.find? (·.1 == i)).map (·.2)).getD {}
def putEntry (l : List (Nat × RbEntry)) (i : Nat) (e : RbEntry) : List (Nat × RbEntry) :=
  (if e = {} then [] else [(i, e)]) ++ l.filter (·.1 != i)

/-- An entry with all of its w units written out. -/
def RbEntry.full (e : RbEntry) (w : Nat) : RbEntry :=
  let pad (l : List Nat) : List Nat := l ++ List.replicate (w - l.length) 0
  { e with
    value := pad e.value
    care := pad e.care }

/-- Stored bits of a bank's unit that have decayed, in an entry that has been written or not. -/
def decayBank (l : List (Nat × RbEntry)) (width : Nat → Nat) (d : RbDecay) : List (Nat × RbEntry) :=
  let i := d.bank * 4096 + d.entry * width d.bank
  let flip (us : List Nat) : List Nat := modifyAt us d.unit fun v => v ^^^ (d.flips % 2 ^ 80)
  let e := (entryAt l i).full (width d.bank)
  if width d.bank = 0 then l else putEntry l i (if d.care then { e with care := flip e.care } else { e with value := flip e.value })

def applyDecay (s : State) (d : Nat) (ds : List RbDecay) : State :=
  s.setReed d fun x => { x with bank := ds.foldl (fun l y => decayBank l (bankWidth s d) y) x.bank }

/-- Candidates of a key in the order of R230: by priority, then by index. -/
def candidates (l : List (Nat × RbEntry)) (banks : Nat) (key : List Nat) : List (Nat × RbEntry) :=
  let m := l.filter fun p => bitOf banks (bankOfIx p.1) && keyMatches p.2 key
  let before (a b : Nat × RbEntry) : Bool := decide (b.2.prio < a.2.prio) || (a.2.prio == b.2.prio && decide (a.1 < b.1))
  let rec place (a : Nat × RbEntry) : List (Nat × RbEntry) → List (Nat × RbEntry)
    | [] => [a]
    | b :: t => if before a b then a :: b :: t else b :: place a t
  m.foldr place []

/-- An entry of a bank rewritten from its shadow: counted as a rewrite and as one correctable event (R232, R241). -/
def rewriteEntry (s : State) (d i : Nat) : State :=
  let e := entryAt (s.reed d).shadow i
  let s := s.setReed d fun x => { x with bank := putEntry x.bank i e }
  countCE (bump s (pgReed d + 0x460) 1) (pgReed d)

/-- A shadow line found in error while it is read: a corrected symbol is counted on the FEN page; two make the entry
unreadable. Where the shadow lies is the device's own affair, so the line recorded is a free value. -/
def shadowError (s : State) (d i : Nat) : LineErr → State
  | .clean => s
  | .oneSymbol =>
    let (s, line) := takeFreeBits s 27
    fenCE s d line
  | .twoSymbols =>
    let (s, line) := takeFreeBits s 27
    let s := firstEvent (countUE (noteLayer s d line) (pgFen d)) (pgFen d) 0x420 (fenPhys s d line * 2 ^ 28 + line)
    s.setReed d fun x => { x with bad := if x.bad.any (·.1 == i) then x.bad else (i, false) :: x.bad }

/-- Verification of candidates in order (R232): verified indices, and whether one was rejected; or the first shadow entry
that cannot be read. Each shadow that is read meets the next of the errors given. -/
def verify (d : Nat) (all : Bool) (key : List Nat) :
    List (Nat × RbEntry) → List LineErr → List Nat → Bool → State → State × Except (Nat × Nat) (List Nat × Bool)
  | [], _, ok_, rej, s => (s, .ok (ok_, rej))
  | c :: t, es, ok_, rej, s =>
    let prio (i : Nat) : Nat := (entryAt (s.reed d).shadow i).prio
    let stop := !all && match ok_ with
      | [] => false
      | [w] => c.2.prio != prio w
      | _ => true
    if stop then (s, .ok (ok_, rej))
    else
      let s := shadowError s d c.1 (es.headD .clean)
      match (s.reed d).bad.find? (·.1 == c.1) with
      | some b =>
        let s := s.setReed d fun x => { x with bad := x.bad.map fun y => if y.1 = c.1 then (y.1, true) else y }
        (s, .error (if b.2 then stPoison else stUncorrectable, c.1))
      | none =>
        if keyMatches (entryAt (s.reed d).shadow c.1) key then verify d all key t (es.drop 1) (ok_ ++ [c.1]) rej s
        else verify d all key t (es.drop 1) ok_ true (rewriteEntry (bump s (pgReed d + 0x458) 1) d c.1)

/-- One key searched: that of the stream whose turn it is (R240). -/
def searchKey (s : State) (d : Nat) (decay : List RbDecay) (errs : List LineErr) : State :=
  match (keyTurns (s.reed d)).head? with
  | none => s
  | some q =>
    if (s.die d).power ≠ .active then s
    else
      let stream := q.stream
      let idx := q.batch
      let stage := q.stage
      let k := q.key
      let s := applyDecay (s.setReed d fun x => { x with
        keys := x.keys.filter (· != q)
        turn := q.stream }) d decay
      match s.run? stream idx stage with
      | none => s
      | some run =>
        let r := stageRec s stream stage
        let q := SetRec.of ((stageTabs s stream stage).getD 0 [])
        let bitmap := bitOf (fieldN r 61 1) 0
        let key := keyUnits r q.width run.ins k
        let cs := candidates (s.reed d).bank (fieldN r 56 4) key
        let s := bump s (pgReed d + 0x440) 1
        let done (s : State) (v : List Nat) : State := s.setRun stream idx stage fun x => { x with
          keys := x.keys.filter (· != k)
          verdicts := (k, v) :: x.verdicts }
        match verify d bitmap key cs errs [] false s with
        | (s, .error (st, i)) =>
          failRun ((noteReed s d st q.id stream (bankOfIx i)).setRun stream idx stage fun x => { x with keys := x.keys.filter (· != k) }) stream idx stage st
        | (s, .ok (hits, rej)) =>
          match hits with
          | [] => done s [4 * b2n rej, 0, 0]
          | w :: others =>
            let e := entryAt (s.reed d).shadow w
            let multi := others.any fun i => (entryAt (s.reed d).shadow i).prio == e.prio
            let s := bump s (pgReed d + 0x448) 1
            let s := if multi then bump s (pgReed d + 0x450) 1 else s
            done s ([1 + 2 * b2n multi + 4 * b2n rej, e.result, w] ++ hits)

/-- SEARCH_KEY: the Reedbed of a die searches its next key. -/
def execSearchKey (die : Nat) (decay : List RbDecay) (errs : List LineErr) (s : State) : Host.Outcome State Fault Refusal :=
  .next (searchKey s die decay errs)

/-- The bitmap of a key (R231). -/
def keyBitmap (q : SetRec) (banks : Nat) (hits : List Nat) : List Byte :=
  ((List.range 32).filter (bitOf banks)).flatMap fun b =>
    bitmapOf ((List.range (4096 / q.width)).map fun e => hits.contains (b * 4096 + e * q.width))

/-- SEARCH once every key has its verdict (R229). -/
def searchOut (c : Ctx) (setRec : List Byte) (run : StageRun) (s : State) : Res (List (Option Col)) :=
  let r := c.record
  let q := SetRec.of setRec
  let n := keyCount r q.width run.ins
  let xf := c.n 61 1
  let v (k : Nat) : List Nat := ((run.verdicts.find? (·.1 == k)).map (·.2)).getD [8, 0, 0]
  let ks := List.range n
  let hit (k : Nat) : Bool := (v k).getD 0 0 % 2 == 1
  let per := ((List.range 32).filter (bitOf (c.n 56 4))).length * 512 / max 1 q.width
  let bits : List Byte := ks.flatMap fun k => keyBitmap q (c.n 56 4) ((v k).drop 3)
  let bitmap : Col := { kind := kTensor, type_ := 6, count := n * per, dims := [n, 1, 1, per], data := bits }
  ok s [some (mkCol 8 (ks.map fun k => if hit k then some ((v k).getD 1 0) else if bitOf xf 1 then some (c.n 64 4) else none)),
    some (mkCol 8 (ks.map fun k => if hit k then some ((v k).getD 2 0) else none)),
    some (mkCol 6 (ks.map fun k => some ((v k).getD 0 0))),
    (if bitOf xf 0 then some bitmap else none)]

/-! ### SEARCH_UPDATE (R235 to R239) -/

/-- An update record that R236 accepts. -/
def updateOk (q : SetRec) (b : List Byte) : Bool :=
  let op := fieldN b 0 1
  decide (op ≤ 1) && bitOf q.banks (fieldN b 1 1) && decide (fieldN b 1 1 < 32) && decide (fieldN b 2 2 < 4096 / q.width)
  && zeroAt b 5 3 && zeroAt b 12 4 && zeroAt b (16 + 10 * q.width) (40 - 10 * q.width) && zeroAt b (56 + 10 * q.width) (40 - 10 * q.width)
  && zeroAt b 96 32 && (op != 1 || zeroAt b 4 92)

/-- SEARCH_UPDATE: its records, checked (R235, R236). -/
def updateRecords (c : Ctx) (setRec : List Byte) (ins : List (Option Col)) (s : State) : Res (List (List Byte)) :=
  let q := SetRec.of setRec
  let data := (inCol ins 0).data
  let bad (st bank : Nat) : Res (List (List Byte)) := fail (noteReed s q.die st q.id c.stream bank) st
  if data.length % 128 ≠ 0 then bad stCorrupt 0
  else if 65536 < data.length / 128 then bad stOversize 0
  else
    let rs := chunksN 128 (data.length / 128) data
    match rs.find? fun b => !(updateOk q b) with
    | some b => bad stCorrupt (fieldN b 1 1)
    | none => ok s rs

/-- The entry that a record is for. -/
def updateIx (q : SetRec) (b : List Byte) : Nat := fieldN b 1 1 * 4096 + fieldN b 2 2 * q.width

/-- Step 1 of R237 for the record now at the front: VALID in the bank is cleared. -/
def beginUpdate (s : State) (d : Nat) : State :=
  match (s.reed d).updates with
  | [] => s
  | u :: _ => match s.set? u.set_ with
    | none => s
    | some e =>
      let i := updateIx (SetRec.of e.record) u.bytes
      s.setReed d fun x => 
        let cleared := entryAt x.bank i
        { x with bank := putEntry x.bank i ({ cleared with valid := false }) }

/-- The records of a stage reach the Reedbed at the commit point (R237). -/
def applySearch (s : State) (stream batch set_ : Nat) (records : List (List Byte)) : State :=
  match s.set? set_ with
  | none => s
  | some e =>
    let d := (SetRec.of e.record).die
    let idle := (s.reed d).updates == []
    let s := s.setReed d fun x => { x with updates := x.updates ++ records.map fun b => ⟨stream, batch, set_, b⟩ }
    let s := s.setBatch stream batch fun b => { b with searching := b.searching + records.length }
    if idle then beginUpdate s d else s

/-- The new entry of a record. -/
def updatedEntry (q : SetRec) (b : List Byte) : RbEntry :=
  let care := unitsOf q.width ((b.drop 56).take 40)
  { valid := fieldN b 0 1 == 0
    value := ((unitsOf q.width ((b.drop 16).take 40)).zip care).map fun p => p.1 &&& p.2
    care := care
    prio := fieldN b 4 1
    result := fieldN b 8 4 }

/-- Steps 2 to 4 of R237 for the front record: earlier keys have finished verification, the shadow and then the bank are
written, and VALID is set for a WRITE. -/
def finishUpdate (s : State) (d : Nat) : State :=
  match (s.reed d).updates with
  | [] => s
  | u :: rest =>
    if (s.die d).power ≠ .active then s
    else
      let s := match s.set? u.set_ with
        | none => s
        | some e =>
          let q := SetRec.of e.record
          let i := updateIx q u.bytes
          let old := entryAt (s.reed d).shadow i
          let new := if fieldN u.bytes 0 1 = 0 then updatedEntry q u.bytes else { old with valid := false }
          let s := s.setReed d fun x => { x with
            shadow := putEntry x.shadow i new
            bank := putEntry x.bank i new
            bad := x.bad.filter (·.1 != i) }
          bump s (pgReed d + 0x468) 1
      let s := s.setReed d fun x => { x with updates := rest }
      let s := s.setBatch u.stream u.batch fun b => { b with searching := b.searching - 1 }
      beginUpdate s d

/-! ### Scrub and spares (R241, R243) -/

/-- Entries of registered banks that a scrub pass compares. -/
def scrubList (s : State) (d : Nat) : List Nat :=
  (((s.reed d).bank.map (·.1)) ++ (s.reed d).shadow.map (·.1)).foldl (fun a i => insertNew i a) []

/-- A scrub rewrite, as the MC remembers it (R503). -/
def noteRewrite (s : State) (d i : Nat) : State :=
  s.setReed d fun x => { x with rewrites := (bankOfIx i, s.tick) :: x.rewrites.filter fun e => decide (s.tick < e.2 + hourTicks) }

/-- A scrub pass of a die: a bank entry that differs from its shadow is rewritten, but for one being updated and one whose
shadow cannot be read. -/
def reedbedScrub (s : State) (d : Nat) (decay : List RbDecay) : State :=
  let cfg := pgReed d + 0x478
  if (s.die d).power ≠ .active ∨ s.rfld cfg 8 8 = 0 ∨ s.tick < (s.reed d).scrubAt + s.rfld cfg 7 0 * 25000 then s
  else
    let s := applyDecay s d decay
    let busy : Option Nat := match (s.reed d).updates with
      | [] => none
      | u :: _ => (s.set? u.set_).map fun e => updateIx (SetRec.of e.record) u.bytes
    let s := (scrubList s d).foldl (fun s i =>
      if busy == some i || (s.reed d).bad.any (·.1 == i) 
        || (entryAt (s.reed d).bank i).full 4 == (entryAt (s.reed d).shadow i).full 4 then s
      else noteRewrite (rewriteEntry s d i) d i) s
    s.setReed d fun x => { x with scrubAt := s.tick }

/-- REEDBED_SCRUB: one scrub pass over a die's registered banks. -/
def execReedbedScrub (die : Nat) (decay : List RbDecay) (s : State) : Host.Outcome State Fault Refusal :=
  .next (reedbedScrub s die decay)

/-- Is a bank of a die in a registered set? -/
def bankInSet (s : State) (d b : Nat) : Bool := bankWidth s d b != 0

/-- BANK_SPARE: a logical bank is spared by firmware (R243); a bank of no set is remapped at once. A repair that firmware makes with
no spare or slot left is a refused one, and the bank is lost (R504). -/
def bankSpare (who : Agent) (d : Nat) (v : Word) (s : State) : State :=
  regAccess s who (pgReed d + 0x428) (.bankSpare who d v) fun s =>
    let b := fld v 5 0
    let lost (s : State) : State :=
      if who = .mc then { s with fuses := { s.fuses with repair := loseBank d b s.fuses.repair } } else s
    if !(pageEn s (pgReed d)) ∨ (s.reed d).copying.isSome ∨ 32 ≤ b then answer s .done
    else if s.fuses.repair.reedFree.getD d [] = [] then
      answer (if who = .mc then lost (repairRefused s d 4 b) else s) .done
    else
      let old := (s.fuses.repair.reedMap.getD d []).getD b 0
      match repairWrite s who d 4 b v.toNat (s.rfld (pgReed d + 0x428) 5 0) old true (mapBank d b) with
      | (s, true) =>
        let s := s.setReg (pgReed d + 0x428) (wd b)
        answer (if bankInSet s d b then s.setReed d fun x => { x with copying := some (b, old) } else s) .done
      | (s, false) => answer (lost s) .done

def execBankSpare (who : Agent) (die : Nat) (v : Word) (s : State) : Host.Outcome State Fault Refusal := .next (bankSpare who die v s)

/-- BANK_SPARE_FILL_END: the spare holds the shadow's entries and takes the logical bank's place. -/
def bankSpareFillEnd (d : Nat) (s : State) : State :=
  match (s.reed d).copying with
  | none => s
  | some (b, _) =>
    if quiescing s then s else
    let mine (p : Nat × RbEntry) : Bool := bankOfIx p.1 == b
    let busy : Option Nat := match (s.reed d).updates with
      | [] => none
      | u :: _ => (s.set? u.set_).map fun e => updateIx (SetRec.of e.record) u.bytes
    s.setReed d fun x => { x with
      copying := none
      bank := ((x.bank.filter fun p => !(mine p) || some p.1 == busy)) ++ x.shadow.filter fun p => mine p && some p.1 != busy }

def execBankSpareFillEnd (die : Nat) (s : State) : Host.Outcome State Fault Refusal := .next (bankSpareFillEnd die s)

/-! ### Checks (R224, R227, R228, R235) -/

def reedUses (r : List Byte) : List Use × List Use :=
  if stOp r = 0x0501 then ([.must], [])
  else
    ((List.range 4).map (fun i => if fieldN r 60 1 = 1 then (if i = 0 then .must else .never) else Use.iff ((keyField r i).2 != 0)),
      [.may, .may, .may, Use.iff (bitOf (fieldN r 61 1) 0)])

/-- Fields of a key overlap. -/
def fieldsClash (r : List Byte) : Bool :=
  (List.range 4).any fun i => (List.range 4).any fun j => decide (i < j) && (keyField r i).2 != 0 && (keyField r j).2 != 0
    && decide ((keyField r i).1 < (keyField r j).1 + (keyField r j).2 ∧ (keyField r j).1 < (keyField r i).1 + (keyField r i).2)

def reedBind (r : List Byte) (b : Blocks) (setRec : List Byte) : List Fail :=
  let q := SetRec.of setRec
  failIf (fieldN r 48 8 % 64 != 0) stBadField 48
  ++ if stOp r = 0x0501 then failIf (!(zeroAt r 56 200)) stBadField 56
  else
    let have_ := blockAt b 48 != [] && setOk setRec
    let fields := (List.range 4).flatMap fun i =>
      let f := keyField r i
      failIf (decide (64 < f.2) || !(zeroAt r (75 + 4 * i) 1) || (have_ && f.2 != 0 && decide (80 * q.width < f.1 + f.2))) stBadField (72 + 4 * i)
    failIf (fieldN r 56 4 == 0 || (have_ && fieldN r 56 4 &&& q.banks != fieldN r 56 4)) stBadField 56
    ++ failIf (decide (1 < fieldN r 60 1)) stBadField 60 ++ failIf (decide (3 < fieldN r 61 1)) stBadField 61
    ++ failIf (!(zeroAt r 62 2)) stBadField 62 ++ failIf (!(bitOf (fieldN r 61 1) 1) && fieldN r 64 4 != 0) stBadField 64
    ++ failIf (!(zeroAt r 68 4)) stBadField 68
    ++ (if fieldN r 60 1 = 1 then failIf (!(zeroAt r 72 16)) stBadField 72 else fields ++ failIf (fieldsClash r) stBadField 72)
    ++ failIf (!(zeroAt r 88 168)) stBadField 88

def reedInputs (r : List Byte) (setRec : List Byte) (ins : List (Option Col)) : List Fail :=
  if stOp r = 0x0501 then checkIn ins 0 fun c => c.kind == kBytes
  else if fieldN r 60 1 = 1 then
    checkIn ins 0 fun c => c.kind == kTensor && c.type_ == 6 && c.dims.getD 3 0 == 10 * (SetRec.of setRec).width
  else (List.range 4).flatMap fun i => checkIn ins i fun c => isColumn c isInt

/-- KIND and TYPE of a SEARCH stage's outputs. -/
def reedOut (o : Nat) : Nat × Nat := if o = 3 then (kTensor, 6) else if o = 2 then (kColumn, 6) else (kColumn, 8)

/-- Keys and updates of a batch that has ended. -/
def dropKeys (s : State) (stream batch : Nat) : State :=
  { s with reeds := s.reeds.map fun x => { x with keys := x.keys.filter fun k => !(k.stream == stream && k.batch == batch) } }

end Sys2Proof.Machine
end

