-- ==== Sys2Proof/Machine/Rings.lean ====
section
/-! DEFINITION. Calmet rings (R27 to R36, R529 to R532): headers, the observing of WATCH, turns of completion rings and their
delivery. -/

namespace Sys2Proof.Machine

/-! ### Where rings lie -/

/-- The words of a session slot (R25). -/
def slotAddr (slot : Nat) : Nat := slotTable + slot * 0x200
def ownerAddr (slot : Nat) : Nat := slotAddr slot
def haltSeqAddr (slot : Nat) : Nat := slotAddr slot + 8
def ctlAddr (slot : Nat) : Nat := slotAddr slot + 64
def scompAddr (slot : Nat) : Nat := slotAddr slot + 128
def mailboxAddr (slot : Nat) : Nat := slotAddr slot + 192

/-- An open stream; a stream whose CLOSE_STREAM only waits to be written is CLOSED. -/
def State.open? (s : State) (id : Nat) : Option Stream := s.disp.streams.find? fun x => x.id == id && x.state != .closed

def State.ringIn (s : State) : RingRef → Option RingIn
  | .ctl k => (s.slot k).ctl
  | .stream id => (s.open? id).map (·.ring)

def State.setRingIn (s : State) (r : RingRef) (f : RingIn → RingIn) : State :=
  match r with
  | .ctl k => s.setSlot k fun x => { x with ctl := x.ctl.map f }
  | .stream id => s.setStream id fun x => { x with ring := f x.ring }

def State.ringOut (s : State) : CompRef → Option RingOut
  | .scomp k => (s.slot k).scomp
  | .comp id => (s.stream? id).map (·.cring)

def State.setRingOut (s : State) (r : CompRef) (f : RingOut → RingOut) : State :=
  match r with
  | .scomp k => s.setSlot k fun x => { x with scomp := x.scomp.map f }
  | .comp id => s.setStream id fun x => { x with cring := f x.cring }

/-- The completion ring that answers a command ring. -/
def compOf : RingRef → CompRef
  | .ctl k => .scomp k
  | .stream id => .comp id

/-- The slot and, for a stream's ring, the stream of a ring. -/
def refSlot (s : State) : RingRef → Nat
  | .ctl k => k
  | .stream id => s.slotOf id

/-- DISP.RING_FAULT and its error trigger (R64, R379). -/
def ringFault (s : State) (cause : Nat) (ref : RingRef) (completion : Bool) : State :=
  let st := match ref with
    | .ctl _ => 0
    | .stream id => id * 2 ^ 16 + 128
  if bit (s.reg (pgDisp + 0x438)) 63 then s
  else errorTrigger (firstEvent s pgDisp 0x438 (st + cause * 256 + b2n completion * 64 + refSlot s ref)) 3

/-- A ring's entries and reserved bytes obey R27 and R28; WATCH of a ring already in use is its client's. -/
def headerOk (h : List Byte) (kind : Nat) (fresh : Bool) : Bool :=
  let lg := fieldN h 8 1
  fieldN h 0 8 % 4096 == 0 && decide (6 ≤ lg ∧ lg ≤ 16) && fieldN h 9 1 == kind
  && (if kind = 0 then fieldN h 10 2 == 0 else decide (fieldN h 10 2 / 4096 ≤ 2))
  && zeroAt h 12 4 && zeroAt h 16 32 && (!fresh || zeroAt h 48 8) && zeroAt h 56 8
  && inRingPlace (fieldN h 0 8) (2 ^ lg * (if kind = 0 then 128 else 32))

def RingIn.of (addr : Nat) (h : List Byte) : RingIn := { addr := addr, base := fieldN h 0 8, log2 := fieldN h 8 1 }
def RingOut.of (addr : Nat) (h : List Byte) : RingOut :=
  { addr := addr, base := fieldN h 0 8, log2 := fieldN h 8 1, route := fieldN h 10 2 }

/-! ### Records -/

def Rec.op (r : Rec) : Nat := fieldN r.bytes 0 2
def Rec.flags (r : Rec) : Nat := fieldN r.bytes 2 2
def Rec.stream (r : Rec) : Nat := fieldN r.bytes 4 2
def Rec.tag (r : Rec) : Nat := fieldN r.bytes 8 8
def Rec.signal (r : Rec) : Bool := bitOf r.flags 0
def Rec.barrier (r : Rec) : Bool := bitOf r.flags 1
/-- A parameter field (R43). -/
def Rec.n (r : Rec) (off len : Nat) : Nat := fieldN r.bytes off len

/-- The completion of a record (R35). -/
def Rec.comp (r : Rec) (status detail count aux flags : Nat) : Comp where
  tag := r.tag
  opcode := r.op
  status := status
  flags := flags
  stream := r.stream
  detail := detail
  count := count
  aux := aux
  seq := r.idx % 2 ^ 32
  signal := r.signal

/-- Opcodes a ring accepts (R33, R529). -/
def opAccepted (ref : RingRef) (op : Nat) : Bool :=
  match ref with
  | .ctl _ => [0x01, 0x02, 0x10, 0x11, 0x12, 0x13, 0x14, 0x15, 0x16, 0x17, 0x40, 0x41].contains op
  | .stream _ => op == 0x20 || op == 0x21

/-! ### Turns -/

/-- A turn joins a completion ring. -/
def pushTurn (s : State) (r : CompRef) (t : Turn) : State := s.setRingOut r fun o => { o with turns := o.turns ++ [t] }

/-- The turn of a record receives its completion. -/
def giveTurn (s : State) (r : CompRef) (idx : Nat) (c : Comp) (a : After) : State :=
  s.setRingOut r fun o => { o with
    turns := o.turns.map fun t => if t.idx = idx ∧ t.comp.isNone then { t with comp := some c, after := a } else t }

/-- Records refused at acceptance are counted in DISP.REJECT_CNT (R63). -/
def countReject (s : State) (status : Nat) : State :=
  if (0x10 ≤ status ∧ status ≤ 0x13) ∨ status = stBounds then bump s (pgDisp + 0x428) 1 else s

/-- A control record completes: it joins SCOMP_RING now (R56). -/
def endCtl (s : State) (slot : Nat) (r : Rec) (status detail count aux : Nat) (a : After) : State :=
  pushTurn s (.scomp slot) { idx := r.idx, comp := some (r.comp status detail count aux 0), after := a }

/-- A stream ring's record completes at its acceptance, in its turn. -/
def endRec (s : State) (stream : Nat) (r : Rec) (status detail count aux : Nat) : State :=
  giveTurn s (.comp stream) r.idx (r.comp status detail count aux 0) .nothing

/-- Every earlier record of the ring has completed (R34 BARRIER). -/
def barrierOk (s : State) (ref : RingRef) (r : Rec) : Bool :=
  !r.barrier || match ref with
    | .ctl k => (s.slot k).inflight.isEmpty
    | .stream id => match s.stream? id with
      | some x => (x.cring.turns.headD { idx := r.idx }).idx == r.idx
      | none => false

/-- Front records with an opcode the ring does not take complete with BAD_OPCODE (R33). -/
def rejectFront (s : State) (ref : RingRef) : Nat → State
  | 0 => s
  | n + 1 => match (s.ringIn ref).map (·.recs) with
    | some (r :: _) =>
      if opAccepted ref r.op || !(barrierOk s ref r) then s
      else
        let s := countReject (s.setRingIn ref fun x => { x with recs := x.recs.drop 1 }) stBadOpcode
        let s := match ref with
          | .ctl k => endCtl (s.setSlot k fun x => { x with inflight := x.inflight ++ [r] }) k r stBadOpcode 0 0 0 .nothing
          | .stream id => endRec s id r stBadOpcode 0 0 0
        rejectFront s ref n
    | _ => s

def settle (s : State) (ref : RingRef) : State :=
  rejectFront s ref (((s.ringIn ref).map (·.recs.length)).getD 0)

/-! ### WATCH_OBSERVE (R28, R30, R31, R80, R532) -/

/-- SUBMIT_BATCH records that a stream has accepted and not started, and those read and not yet accepted (R80). -/
def heldCount (x : Stream) : Nat :=
  (x.batches.filter fun b => b.state == .held || b.state == .queued).length + (x.ring.recs.filter fun r => r.op == 0x20).length

/-- Records read in order while room is left for batches; an unreadable one takes its turn with UNCORRECTABLE. -/
def readRecs (ref : RingRef) : Nat → State → Nat → State
  | 0, s, _ => s
  | f + 1, s, room => match s.ringIn ref with
    | none => s
    | some r =>
      if r.tail ≤ r.head ∨ room = 0 then s
      else match devRead s (r.base + r.head % 2 ^ r.log2 * 128) 128 with
        | (s, .ok b) =>
          let rc : Rec := ⟨r.head, b⟩
          let s := s.setRingIn ref fun x => { x with head := r.head + 1, recs := x.recs ++ [rc] }
          match ref with
          | .ctl _ => readRecs ref f s room
          | .stream _ =>
            readRecs ref f (pushTurn s (compOf ref) { idx := r.head }) (if rc.op = 0x20 then room - 1 else room)
        | (s, .error _) =>
          let s := ringFault (s.setRingIn ref fun x => { x with head := r.head + 1 }) 0x03 ref false
          let st := match ref with
            | .ctl _ => 0xFFFF
            | .stream id => id
          let s := pushTurn s (compOf ref)
            { idx := r.head, comp := some { status := stUncorrectable, stream := st, detail := 0xFF, seq := r.head % 2 ^ 32 } }
          readRecs ref f s room

/-- The HEAD and WATCH words of a ring's header as they stand in memory. -/
def ringWords (s : State) (addr : Nat) : Nat × Nat := (leNat (peek s (addr + 16) 8), leNat (peek s (addr + 48) 8))

/-- A failed access of a ring is to be tried again within 1 ms (R531). -/
def retryAfter (s : State) (addr : Nat) : Retry := ⟨s.tick + 25000, (ringWords s addr).1, (ringWords s addr).2⟩

/-- It is tried again now: 25,000 Moss ticks have passed, or the ring's HEAD or WATCH word has changed (R531). -/
def Retry.now (q : Retry) (s : State) (addr : Nat) : Bool := decide (q.due ≤ s.tick) || ringWords s addr != (q.head, q.watch)

/-- HEAD and TAIL written to a command ring's header; what cannot be written is owed (R531). -/
def writeHeads (s : State) (ref : RingRef) : State :=
  match s.ringIn ref with
  | none => s
  | some r => match write64 s (r.addr + 16) r.head with
    | (s, e1) => match write64 s (r.addr + 24) r.tail with
      | (s, e2) =>
        if e1.isNone && e2.isNone then s.setRingIn ref fun x => { x with owed := none }
        else ringFault (s.setRingIn ref fun x => { x with owed := some (retryAfter s r.addr) }) 0x04 ref false

/-- HEAD and TAIL that are owed are due to be written again. -/
def headsDue (s : State) (ref : RingRef) : Bool :=
  (s.ringIn ref).any fun r => r.owed.any fun q => q.now s r.addr

/-- How many more SUBMIT_BATCH records a ring may take. -/
def batchRoom (s : State) : RingRef → Nat
  | .ctl _ => 1
  | .stream id => match s.open? id with
    | some x => 64 - heldCount x
    | none => 0

/-- The dispatcher keeps the last WATCH value it has read of a slot's control ring (R42, R532). -/
def keepWatch (s : State) (ref : RingRef) (w : Nat) : State :=
  match ref with
  | .ctl k => s.setSlot k fun x => { x with lastWatch := w }
  | .stream _ => s

/-- A WATCH value that runs more than the ring's size ahead of HEAD: reading stops (R31). -/
def overrunRing (s : State) (ref : RingRef) (r : RingIn) : State :=
  let s := ringFault (s.setRingIn ref fun x => { x with stopped := true }) 0x02 ref false
  match ref with
  | .ctl _ => s
  | .stream id => pushTurn (s.setStream id fun x => { x with overrun := true }) (.comp id)
      { idx := r.head, comp := some { status := stBounds, stream := id, detail := 0xFF, seq := r.head % 2 ^ 32 } }

/-- What is published up to a WATCH value is read, and HEAD and TAIL are written where they have moved or are due again. -/
def readUpTo (s : State) (ref : RingRef) (r : RingIn) (w : Nat) : State :=
  let s := s.setRingIn ref fun x => { x with tail := max x.tail w }
  let s := readRecs ref (2 ^ r.log2) s (batchRoom s ref)
  let moved := (s.ringIn ref).map (fun x => (x.tail, x.head)) != some (r.tail, r.head)
  settle (if moved || headsDue s ref then writeHeads s ref else s) ref

/-- WATCH of a ring whose header is known; a word that cannot be read counts as unchanged (R532). -/
def observeRing (s : State) (ref : RingRef) : State :=
  match s.ringIn ref with
  | none => s
  | some r =>
    if r.stopped then s
    else match read64 s (r.addr + 48) with
      | (s, .error _) => readUpTo (ringFault s 0x06 ref false) ref r r.tail
      | (s, .ok w) =>
        let s := keepWatch s ref w
        if r.tail < w ∧ 2 ^ r.log2 < w - r.head then overrunRing s ref r else readUpTo s ref r w

/-- SCOMP_RING as it is known, or its header read for the first time (R28): nothing where it could not be read, and no ring
where its header may not be used. -/
def readScomp (s : State) (k : Nat) : State × Option (Option RingOut) :=
  match (s.slot k).scomp with
  | some o => (s, some (some o))
  | none => match devRead s (scompAddr k) 64 with
    | (s, .error _) => (ringFault s 0x04 (.ctl k) true, none)
    | (s, .ok b) => (s, some (if headerOk b 1 true then some (RingOut.of (scompAddr k) b) else none))

/-- SCOMP_RING of a claimed slot is named by the answer to a HALT that comes before the control ring's first record. -/
def nameScomp (s : State) (k : Nat) : State :=
  if (s.slot k).scomp.isSome then s
  else match read64 s (ownerAddr k) with
    | (s, .error _) => ringFault s 0x06 (.ctl k) false
    | (s, .ok owner) =>
      if owner = 0 then s
      else match readScomp s k with
        | (s, some (some o)) => s.setSlot k fun x => { x with scomp := some o }
        | (s, _) => s

/-- The first sight of a claimed slot's rings, once WATCH has changed (R42): both headers are checked, and a bad one is not read
until SLOT_RECLAIM. -/
def nameSlot (s : State) (k : Nat) : State :=
  match read64 s (ownerAddr k) with
  | (s, .error _) => ringFault s 0x06 (.ctl k) false
  | (s, .ok owner) => match devRead s (ctlAddr k) 64 with
    | (s, .error _) => ringFault s 0x06 (.ctl k) false
    | (s, .ok c) =>
      let w := fieldN c 48 8
      if owner = 0 ∨ w = (s.slot k).lastWatch then s
      else if w = 0 then keepWatch s (.ctl k) 0
      else match readScomp s k with
        | (s, none) => s
        | (s, some o) =>
          let s := keepWatch s (.ctl k) w
          if headerOk c 0 false && o.isSome then
            observeRing (s.setSlot k fun x => { x with ctl := some (RingIn.of (ctlAddr k) c), scomp := o }) (.ctl k)
          else ringFault (s.setSlot k fun x => { x with ctlFault := true }) 0x01 (.ctl k) (headerOk c 0 false)

/-- The dispatcher reads rings: it has been started, and no Sluice runs (R362). -/
def ringsRead (s : State) : Bool := s.trust.ready && s.fab.phase == .none

/-- WATCH_OBSERVE: a ring's WATCH is observed and its new records are read. -/
def watchObserve (ref : RingRef) (s : State) : State :=
  if !(ringsRead s) then s
  else match ref with
    | .ctl k =>
      if 64 ≤ k ∨ (s.slot k).ctlFault then s
      else if (s.slot k).ctl.isNone then nameSlot s k
      else observeRing s ref
    | .stream id => if (s.open? id).any (·.closing) then s else observeRing s ref

def execWatchObserve (ring : RingRef) (s : State) : Host.Outcome State Fault Refusal := .next (watchObserve ring s)

/-! ### Signals (R464, R480) -/

/-- The MSI-X table's word at an offset; an entry never written is masked (log 40, PRESUMED). -/
def msixWord (s : State) (off : Nat) : Word :=
  ((s.ext.msix.find? (·.1 == off)).map (·.2)).getD (if off % 16 = 8 then 0x100000000 else 0)

/-- An MSI-X message of a vector: sent, held pending while masked, or never sent. -/
def sendMsix (s : State) (v : Nat) : State :=
  if 2048 ≤ v then bump s (pgPcie + 0x430) 1
  else if bit (msixWord s (16 * v + 8)) 32 then { s with ext := { s.ext with msixPending := insertNew v s.ext.msixPending } }
  else { s with out := .msix v :: s.out }

/-- An MSI written to an IMSIC file: its identity is pending there (R463). -/
def writeMsi (s : State) (core file identity : Nat) : State :=
  { s with
    out := .imsic core file identity :: s.out
    host := { s.host with msis := insertNew (core, file, identity) s.host.msis } }

/-- A ring signal to a host core by entry n of SIG_MAP, or its drop. -/
def sendSig (s : State) (n : Nat) : State :=
  let e := s.reg (pgHost + 0x8000 + 8 * n)
  let core := fld e 45 40
  if bit e 63 && fld e 10 0 != 0 && bitOf s.host.running core && !((dispCores s).contains core) then
    bump (writeMsi s core (fld e 34 32) (fld e 10 0)) (pgHost + 0x430) 1
  else firstEvent (bump s (pgHost + 0x438) 1) pgHost 0x448 (2 ^ 48 + core * 2 ^ 32 + n)

/-- The signal that SIGNAL_ROUTE names. -/
def raiseSignal (s : State) (route : Nat) : State :=
  match route / 4096 with
  | 1 => sendSig s (route % 4096)
  | 2 => if s.ext.pcieRoot then s else sendMsix s (route % 4096)
  | _ => s

/-! ### Delivery (R32, R45, R531) -/

def stateNum : SState → Nat
  | .closed => 0
  | .idle => 1
  | .bound => 2
  | .running => 3
  | .paused => 4
  | .draining => 5
  | .halted => 6
  | .faulted => 7

/-- A stream status block (R45). -/
def statusBlock (x : Stream) : List Byte :=
  natLE 1 (stateNum x.state) ++ natLE 3 0 ++ natLE 4 x.late ++ natLE 8 x.batchesDone ++ natLE 4 x.stalls ++ natLE 4 x.spills
  ++ natLE 4 x.timeouts ++ natLE 4 (x.batches.filter (·.state == .held)).length ++ natLE 1 x.faultStatus ++ natLE 1 x.faultStage
  ++ List.replicate 30 0

/-- A completion entry (R35). -/
def compBytes (c : Comp) (phase time : Nat) : List Byte :=
  natLE 8 c.tag ++ natLE 2 c.opcode ++ natLE 1 c.status ++ natLE 1 (c.flags + phase) ++ natLE 2 c.stream ++ natLE 2 c.detail
  ++ natLE 4 c.count ++ natLE 4 c.aux ++ natLE 4 c.seq ++ natLE 4 time

/-- The command ring beside a completion ring, for naming faults. -/
def refOf : CompRef → RingRef
  | .scomp k => .ctl k
  | .comp id => .stream id

/-- A delivery that failed is tried again (R531). -/
def retryLater (s : State) (r : CompRef) : State := s.setRingOut r fun o => { o with retry := some (retryAfter s o.addr) }

/-- The streams whose status blocks a turn reflects: its own, and those that its completion says have stopped. -/
def turnStreams (s : State) (r : CompRef) (t : Turn) : List Nat :=
  (match r with
  | .comp id => [id]
  | .scomp k => (t.comp.filter fun c => (s.stream? c.stream).any (·.session == k)).toList.map (·.stream)) ++ t.streams

/-- The status block written if it has changed: false when it could not be. -/
def writeStatus (s : State) (x : Stream) : State × Bool :=
  if x.dirty then
    match devWrite s x.statusAddr (statusBlock x) with
    | (s, none) => (s.setStream x.id fun y => { y with dirty := false }, true)
    | (s, some _) => (ringFault s 0x05 (.stream x.id) false, false)
  else (s, true)

/-- The status blocks of streams, each written if it has changed: false when one could not be. -/
def writeStatuses (s : State) (ids : List Nat) : State × Bool :=
  ids.foldl (fun a id => match a.1.stream? id with
    | none => a
    | some x => match writeStatus a.1 x with
      | (s, b) => (s, a.2 && b)) (s, true)

/-- The status block written when it changes apart from a completion (R45); what cannot be written is tried again (R531). -/
def keepStatus (s : State) (id : Nat) : State :=
  match writeStatuses s [id] with
  | (s, true) => s
  | (s, false) => retryLater s (.comp id)

/-- The same for several streams. -/
def keepStatuses (s : State) (ids : List Nat) : State := ids.foldl keepStatus s

/-- What a turn changes in the status block is counted once, before its block is written. -/
def countTurn (s : State) (r : CompRef) (t : Turn) : State :=
  match r, t.after, t.comp with
  | .comp id, .batchEnd, some c =>
    if t.counted then s
    else
      let s := s.setRingOut r fun o => { o with turns := match o.turns with
        | u :: l => { u with counted := true } :: l
        | [] => [] }
      s.setStream id fun x => { x with
        batchesDone := (x.batchesDone + 1) % 2 ^ 64
        timeouts := if c.status = stTimeout then (x.timeouts + 1) % 2 ^ 32 else x.timeouts
        dirty := true }
  | _, _, _ => s

/-- A delivery that met memory it cannot use (R531). -/
def deliveryFault (s : State) (r : CompRef) : State := retryLater (ringFault s 0x04 (refOf r) true) r

/-- WATCH of a completion ring advances past an entry that is written, and its signal is raised. -/
def advanceWatch (s : State) (r : CompRef) (o : RingOut) (t : Turn) : State × Option Turn :=
  match write64 s (o.addr + 48) (o.watch + 1) with
  | (s, none) =>
    let s := s.setRingOut r fun o => { o with
      watch := o.watch + 1
      owedWatch := false
      turns := o.turns.drop 1 }
    (if (t.comp.map (·.signal)) = some true then raiseSignal s o.route else s, some t)
  | (s, some _) => (deliveryFault (s.setRingOut r fun o => { o with owedWatch := true }) r, none)

/-- The entry of a turn is written where the ring has room. -/
def writeEntry (s : State) (r : CompRef) (o : RingOut) (t : Turn) (c : Comp) : State × Option Turn :=
  match read64 s (o.addr + 16) with
  | (s, .error _) => (deliveryFault s r, none)
  | (s, .ok head) =>
    if head + 2 ^ o.log2 ≤ o.watch then (s, none)
    else
      let phase := 1 - o.watch / 2 ^ o.log2 % 2
      match devWrite s (o.base + o.watch % 2 ^ o.log2 * 32) (compBytes c phase (s.tick % 2 ^ 32)) with
      | (s, none) => advanceWatch s r o t
      | (s, some _) => (deliveryFault s r, none)

/-- One attempt to deliver the front turn: the state, and the turn once its WATCH is written. -/
def deliver (s : State) (r : CompRef) : State × Option Turn :=
  match s.ringOut r with
  | none => (s, none)
  | some o => match o.turns with
    | [] => (s, none)
    | t :: _ => match t.comp with
      | none => (s, none)
      | some c =>
        let s := countTurn s r t
        if o.owedWatch then advanceWatch s r o t
        else match writeStatuses s (turnStreams s r t) with
          | (s, false) => (retryLater s r, none)
          | (s, true) => writeEntry s r o t c

end Sys2Proof.Machine
end

