-- ==== Sys2Proof/Machine/Mover.lean ====
section
/-! DEFINITION. The stream engines of a tile (R66 to R70) and the blocks of its pool as they take and leave them (R67, R72,
R73): requests and credits, merge groups, fetched blocks, steps, and waiters. They change timing and counts only. -/

namespace Sys2Proof.Machine

def State.mover (s : State) (t : Nat) : Mover := s.disp.movers.getD t {}
def State.setMover (s : State) (t : Nat) (f : Mover → Mover) : State :=
  { s with disp := { s.disp with movers := modifyAt s.disp.movers t f } }

/-- A stream's pool on a tile. -/
def State.hold? (s : State) (t id : Nat) : Option Hold := (s.stream? id).bind fun x => x.holds.find? (·.tile == t)
def State.setHold (s : State) (t id : Nat) (f : Hold → Hold) : State :=
  s.setStream id fun x => { x with holds := x.holds.map fun h => if h.tile = t then f h else h }

/-! ### Requests and credits (R66) -/

/-- The credit pool of a request: 0 HBM read, 1 Fen read, 2 write. -/
def poolOf (write : Bool) (addr : Nat) : Nat :=
  if write then 2 else match placeOf addr with
    | .fen _ _ => 1
    | _ => 0

/-- Credits of a pool (R66). -/
def poolDepth (pool : Nat) : Nat := if pool = 0 then 128 else 64

def poolNum : CreditPool → Nat
  | .hbmRead => 0
  | .fenRead => 1
  | .write => 2

/-- The requests of a range: at most 4 KiB each, none crossing a 4 KiB boundary. -/
def requestsOf : Nat → Nat → Nat → List (Nat × Nat)
  | 0, _, _ => []
  | f + 1, a, n => if n = 0 then [] else
      let w := Nat.min n (4096 - a % 4096)
      (a, w) :: requestsOf f (a + w) (n - w)

/-- Two requests of one stream and direction. -/
def sameWay (a b : Request) : Bool := a.stream == b.stream && (a.pool == 2) == (b.pool == 2)

/-- Held requests in order: one is issued when its pool has a credit and none of its stream and direction is still held before
it. The engine with them issued, those still held, and those issued. -/
def admitHeld : Mover → List Request → List Request → Mover × List Request
  | m, kept, [] => ({ m with waiting := kept }, [])
  | m, kept, q :: l =>
    if !(kept.any (sameWay q)) && decide ((m.out.filter (·.pool == q.pool)).length < poolDepth q.pool) then
      let r := admitHeld { m with out := m.out ++ [q] } kept l
      (r.1, q :: r.2)
    else admitHeld m (kept ++ [q]) l

/-- Flits of a request: one, and those of the data a write carries (log 74, DESIGN CHOICE). -/
def requestFlits (q : Request) : Nat := if q.pool = 2 then 1 + ceilDiv q.len 64 else 1

/-- What may be issued of a tile's held requests goes onto the fabric. -/
def pumpTile (s : State) (t : Nat) : State :=
  let r := admitHeld (s.mover t) [] (s.mover t).waiting
  r.2.foldl (fun s q => sendPacket s (.request t q) laneReq (routeOf s (tileSpot t) (addrSpot q.addr)) (requestFlits q))
    (s.setMover t fun _ => r.1)

/-! ### Merge groups (R69, R70) -/

/-- A group is issued as requests. -/
def issueGroup (s : State) (t : Nat) (g : Group) : State :=
  let qs := (requestsOf (g.len / 4096 + 2) g.start g.len).map fun q => (⟨g.stream, poolOf g.write q.1, q.1, q.2⟩ : Request)
  pumpTile (s.setMover t fun m => { m with
    groups := m.groups.filter fun h => !(h == g)
    waiting := m.waiting ++ qs }) t

/-- A transfer can join a group: it is of the same stream and direction, begins where the group ends, keeps it within
64 KiB, and comes within 256 ns of its first transfer. -/
def joins (g : Group) (tick stream : Nat) (write : Bool) (addr len : Nat) : Bool :=
  g.stream == stream && g.write == write && g.start + g.len == addr && decide (g.len + len ≤ 65536) && decide (tick ≤ g.first + 6)

/-- A transfer opens a group, after the group of its stream and direction that it cannot join, and after the oldest when all
8 are in use. -/
def openGroup (s : State) (t : Nat) (g : Group) (merge : Bool) : State :=
  let s := ((s.mover t).groups.filter fun h => h.stream == g.stream && h.write == g.write).foldl (fun s h => issueGroup s t h) s
  let s := match (s.mover t).groups with
    | h :: l => if 7 ≤ l.length then issueGroup s t h else s
    | [] => s
  let s := s.setMover t fun m => { m with groups := m.groups ++ [g] }
  if !merge || 65536 ≤ g.len then issueGroup s t g else s

/-- A transfer of a stream on a tile: it joins a group or opens one. -/
def openTransfer (s : State) (t stream : Nat) (write : Bool) (addr len : Nat) : State :=
  if len = 0 then s
  else
    let merge := bit (s.reg (pgTile t + 0x400)) 8
    match (s.mover t).groups.find? fun g => merge && joins g s.tick stream write addr len with
    | some g =>
      let g' := { g with len := g.len + len }
      let s := s.setMover t fun m => { m with groups := m.groups.map fun h => if h = g then g' else h }
      let s := bump s (pgTile t + 0x428) 1
      if g'.len = 65536 then issueGroup s t g' else s
    | none => openGroup s t ⟨stream, write, addr, len, s.tick⟩ merge

/-- The sequencer waits on a transfer in a read group: an input of the group's stream has no block ready, and the block being
filled lies in the group. -/
def seqWaits (m : Mover) (g : Group) : Bool :=
  !g.write && m.feeds.any fun f => f.stream == g.stream && f.ready == []
    && f.filling.any fun b => decide (b.start < g.start + g.len ∧ g.start < b.start + b.len)

/-- A group is issued by its age of 256 ns, or because the sequencer waits on it. -/
def groupDue (s : State) (m : Mover) (g : Group) : Bool := decide (g.first + 7 ≤ s.tick) || seqWaits m g

/-- MERGE_GROUP_ISSUE. -/
def mergeGroupIssue (t group : Nat) (s : State) : State :=
  match (s.mover t).groups[group]? with
  | some g => if groupDue s (s.mover t) g then issueGroup s t g else s
  | none => s

def execMergeGroupIssue (tile group : Nat) (s : State) : Host.Outcome State Fault Refusal := .next (mergeGroupIssue tile group s)

/-! ### Blocks of the pool (R67, R73) -/

/-- A stream that a spill was made for still waits for blocks of the tile: until it has them, the Weir gives none beyond a
floor to any other (R74). -/
def winnerWaits (s : State) (t id : Nat) : Bool :=
  (tileHolds s t).any fun p => p.2.winner.any fun w => w != id && (s.hold? t w).any (·.wanted != 0)

/-- The Weir can give a stream further blocks on a tile. -/
def weirFits (s : State) (t id : Nat) (h : Hold) (n : Nat) : Bool :=
  let need := max h.floor (h.held + n) - max h.floor h.held
  need == 0 || (decide (need ≤ freeBlocks s t) && !(winnerWaits s t id))

/-- A feed's key: its stage for a batch, and the input. -/
def Feed.is (f : Feed) (g : Feed) : Bool := f.stream == g.stream && f.batch == g.batch && f.stage == g.stage && f.input == g.input

def State.setFeed (s : State) (t : Nat) (g : Feed) (f : Feed → Feed) : State :=
  s.setMover t fun m => { m with feeds := m.feeds.map fun x => if x.is g then f x else x }

/-- The next block of ranges still to be fetched: at most 16 KiB of the first, and the rest. -/
def nextBlock : List (Nat × Nat) → Option ((Nat × Nat) × List (Nat × Nat))
  | [] => none
  | (a, n) :: l => if n ≤ 16384 then some ((a, n), l) else some ((a, 16384), (a + 16384, n - 16384) :: l)

/-- The fetch engine begins to fill a block of an input. -/
def beginBlock (s : State) (t : Nat) (f : Feed) (extra : Bool) : State :=
  match nextBlock f.ranges with
  | none => s.setFeed t f fun x => { x with asking := false }
  | some (b, rest) =>
    let s := s.setFeed t f fun x => { x with
      asking := false
      ranges := rest
      filling := x.filling ++ [⟨b.1, b.2, b.2, extra⟩] }
    openTransfer s t f.stream false b.1 b.2

/-- Blocks granted to a stream on a tile: it waits for none any longer, and an input that waited begins its block. -/
def giveBlocks (s : State) (t id n : Nat) : State :=
  let s := s.setHold t id fun h => { h with held := h.held + n, wanted := 0 }
  let s : State := { s with
    fab := { s.fab with edges := s.fab.edges.filter fun e => !(e.tile == t && e.waiter == id) }
    disp := { s.disp with streams := s.disp.streams.map fun x => { x with
      holds := x.holds.map fun h => if h.tile = t ∧ h.winner = some id then { h with winner := none } else h } } }
  match (s.mover t).feeds.find? fun f => f.stream == id && f.asking with
  | some f => beginBlock s t f true
  | none => s

/-- The floor-zero streams that wait for blocks of a tile and are not spilled there: one that a spill was made for first, then
in OPEN_STREAM order (log 75, DESIGN CHOICE). -/
def waitersOn (s : State) (t : Nat) : List (Nat × Nat) :=
  let ws := s.disp.streams.flatMap fun x => (x.holds.filter fun h => h.tile == t && h.floor == 0 && h.wanted != 0 && h.spilled == 0).map
    fun h => (x.order, x.id, h.wanted)
  let old := (List.range s.disp.opened).flatMap fun o => (ws.filter (·.1 == o)).map (·.2)
  let won (w : Nat × Nat) : Bool := (tileHolds s t).any fun p => p.2.winner == some w.1
  old.filter won ++ old.filter fun w => !(won w)

/-- Blocks that have become free are granted to the streams that wait for them (R73, R74). -/
def grantWaiters (s : State) (t : Nat) : State :=
  (waitersOn s t).foldl (fun s w => match s.hold? t w.1 with
    | some h => if weirFits s t w.1 h w.2 then giveBlocks s t w.1 w.2 else s
    | none => s) s

/-- A stream gives back blocks of a tile; where it holds none beyond its floor, nobody waits on it there. -/
def releaseBlocks (s : State) (t id n : Nat) : State :=
  if n = 0 then s
  else
    let s := s.setHold t id fun h => { h with held := h.held - n }
    let more : Bool := (s.hold? t id).any fun h => decide (h.floor < h.held)
    let s : State := if more then s else { s with fab := { s.fab with
      edges := s.fab.edges.filter fun e => !(e.tile == t && e.holder == id) } }
    grantWaiters s t

/-! ### Run-ahead, the ready queue and steps (R66, R67) -/

/-- Run-ahead of a stream on a tile: FETCH_AHEAD, or less where a refusal has lowered it. -/
def runAhead (s : State) (t id : Nat) : Nat :=
  let set := s.rfld (pgTile t + 0x400) 3 0
  (((s.mover t).ahead.find? (·.1 == id)).map fun a => min a.2 set).getD set

/-- The stream's blocks on a tile are spilled, or are being spilled. -/
def spilledOn (s : State) (t id : Nat) : Bool := (s.hold? t id).any fun h => h.spilling != 0 || h.spilled != 0

/-- One more block for an input, where its run-ahead allows: refused, a stream with a floor runs on with what it holds, and a
floor-zero stream waits. -/
def askBlock (s : State) (t : Nat) (f : Feed) : State :=
  let have_ := f.filling.length + f.ready.length
  if f.ranges = [] ∨ f.asking ∨ runAhead s t f.stream ≤ have_ ∨ spilledOn s t f.stream then s
  else match s.hold? t f.stream with
    | none => s
    | some h =>
      if h.wanted = 0 ∧ weirFits s t f.stream h 1 then beginBlock (s.setHold t f.stream fun h => { h with held := h.held + 1 }) t f true
      else if h.floor ≠ 0 then
        if have_ = 0 then beginBlock s t f false
        else s.setMover t fun m => { m with ahead := (m.ahead.filter (·.1 != f.stream)) ++ [(f.stream, have_)] }
      else if h.wanted ≠ 0 then s
      else (s.setHold t f.stream fun h => { h with wanted := 1 }).setFeed t f fun x => { x with asking := true }

/-- Every input of a tile asks for one more block in turn, as often as the deepest run-ahead allows. -/
def feedTile (s : State) (t : Nat) : State :=
  (List.range 8).foldl (fun s _ => (s.mover t).feeds.foldl (fun s f =>
    match (s.mover t).feeds.find? (·.is f) with
    | some f => askBlock s t f
    | none => s) s) s

/-- Feeds of one stage for one batch. -/
def Feed.of (f : Feed) (id idx i : Nat) : Bool := f.stream == id && f.batch == idx && f.stage == i

/-- The sequencer issues a step of a stage: every input that has more takes part with one ready block. -/
def issueStep (m : Mover) (id idx i : Nat) : Mover :=
  let fs := m.feeds.filter (·.of id idx i)
  let can : Bool := fs.any (·.ready != []) && (fs.all fun f => f.ready != [] || (f.ranges == [] && f.filling == [])) && decide (m.exec.length < 32)
  if can then
    { m with
      feeds := m.feeds.map fun f => if f.of id idx i then { f with ready := f.ready.drop 1 } else f
      exec := m.exec ++ [⟨id, idx, i, (fs.filter fun f => (f.ready.head?).getD false).length⟩] }
  else m

/-- Steps of every stage on a tile whose blocks are ready. -/
def issueSteps (s : State) (t : Nat) : State :=
  (s.mover t).feeds.foldl (fun s f => if spilledOn s t f.stream then s else s.setMover t fun m => issueStep m f.stream f.batch f.stage) s

/-- Data of a request has arrived: the blocks it covers fill, and full ones join the ready queue. -/
def fillBlocks (f : Feed) (q : Request) : Feed :=
  if f.stream ≠ q.stream ∨ q.pool = 2 then f
  else
    let bs := f.filling.map fun b => { b with left := b.left - (min (b.start + b.len) (q.addr + q.len) - max b.start q.addr) }
    { f with filling := bs.filter (·.left != 0), ready := f.ready ++ (bs.filter (·.left == 0)).map (·.extra) }

/-- Steps issued before this tick retire, and their blocks are free; a spilled stream's stand still at their boundary. -/
def retireSteps (s : State) (t : Nat) : State :=
  let go (e : ExecStep) : Bool := !(spilledOn s t e.stream)
  let gone := (s.mover t).exec.filter go
  let s := s.setMover t fun m => { m with exec := m.exec.filter fun e => !(go e) }
  gone.foldl (fun s e => releaseBlocks s t e.stream e.blocks) s

/-- One Moss tick of a tile's engines. -/
def tickMover (s : State) (t : Nat) : State :=
  if s.mover t = {} then s
  else
    let s := retireSteps s t
    let s := feedTile (issueSteps s t) t
    ((s.mover t).groups.filter (groupDue s (s.mover t))).foldl (fun s g => issueGroup s t g) s

/-! ### The inputs and outputs of a stage -/

/-- The part of n bytes that falls to tile j of T (R185, R266; log 75, DESIGN CHOICE). -/
def shareOf (a n j T : Nat) : List (Nat × Nat) :=
  let lo := n * j / T
  let hi := n * (j + 1) / T
  if lo < hi then [(a + lo, hi - lo)] else []

/-- What of an input in memory one tile of a stage fetches: its share of the data, of the validity bitmap and of the offsets. -/
def feedRanges (c : Col) (j T : Nat) : List (Nat × Nat) :=
  match c.src with
  | none => []
  | some m => shareOf m.addr m.bytes j T ++ (if m.validity = 0 then [] else shareOf m.validity (ceilDiv c.count 8) j T)
      ++ if m.offs = 0 then [] else shareOf m.offs m.offsBytes j T

/-- The feeds of a stage's inputs on its tiles, and the blocks they run ahead by; results of earlier stages that lie in the
staging area are fetched from there. -/
def fetchInputs (s : State) (id idx i : Nat) (tiles : List Nat) (ins : List (Option Col)) (staged : List (Nat × Nat × Nat)) : State :=
  tiles.zipIdx.foldl (fun s tj =>
    let fs := ins.zipIdx.flatMap fun q =>
      let mem := (q.1.map fun c => feedRanges c tj.2 tiles.length).getD []
      let area := (staged.filter (·.1 == q.2)).flatMap fun a => shareOf a.2.1 a.2.2 tj.2 tiles.length
      if mem ++ area = [] then [] else [({ stream := id, batch := idx, stage := i, input := q.2, ranges := mem ++ area } : Feed)]
    if fs = [] then s else feedTile (s.setMover tj.1 fun m => { m with feeds := m.feeds ++ fs }) tj.1) s

/-- Everything a stage reads has reached a tile. -/
def fed (s : State) (t id idx i : Nat) : Bool :=
  (s.mover t).feeds.all fun f => !(f.of id idx i) || (f.ranges == [] && f.filling == [])

/-- A stage's work on a tile ends: its feeds and steps leave the engines, and their blocks are free. -/
def endFeeds (s : State) (t id idx i : Nat) : State :=
  let m := s.mover t
  let n := ((m.feeds.filter (·.of id idx i)).map fun f => ((f.filling.filter (·.extra)).length + (f.ready.filter (· == true)).length)).sum
    + ((m.exec.filter fun e => e.stream == id && e.batch == idx && e.stage == i).map (·.blocks)).sum
  let s := s.setMover t fun m => { m with
    feeds := m.feeds.filter fun f => !(f.of id idx i)
    exec := m.exec.filter fun e => !(e.stream == id && e.batch == idx && e.stage == i) }
  releaseBlocks s t id n
/-- Output blocks that leave a tile: write transfers of at most a block each. -/
def writeBack (s : State) (t id addr len : Nat) : State :=
  (List.range (ceilDiv len 16384)).foldl (fun s k => openTransfer s t id true (addr + 16384 * k) (min 16384 (len - 16384 * k))) s

/-- The same, spread over the tiles of a stage. -/
def writeBackAll (s : State) (tiles : List Nat) (id addr len : Nat) : State :=
  tiles.zipIdx.foldl (fun s tj => (shareOf addr len tj.2 tiles.length).foldl (fun s q => writeBack s tj.1 id q.1 q.2) s) s

/-- The fetch engine reads nothing more for a stream that leaves its tile; what it writes goes on. -/
def dropReads (s : State) (t id : Nat) : State :=
  s.setMover t fun m => { m with
    groups := m.groups.filter fun g => g.stream != id || g.write
    waiting := m.waiting.filter fun q => q.stream != id || q.pool == 2
    feeds := m.feeds.filter (·.stream != id)
    exec := m.exec.filter (·.stream != id)
    ahead := m.ahead.filter (·.1 != id) }

/-- The fetch engine issues no further request for a stream; those issued complete (R360). -/
def dropFetch (s : State) (t id : Nat) : State :=
  pumpTile ((dropReads s t id).setMover t fun m => { m with
    groups := m.groups.filter (·.stream != id)
    waiting := m.waiting.filter (·.stream != id) }) t

/-! ### Leaving tiles (R72) -/

/-- Tiles a stream holds: those of its stages under way and of its resident groups. -/
def tilesOfStream (s : State) (id : Nat) : List Nat :=
  let a := (s.assigns.filter fun a => a.stream == id && keyCls a.page == 8).map fun a => keyInst a.page
  ((a ++ (s.disp.residents.filter (·.stream == id)).flatMap (·.tiles)).foldl (fun l t => insertNew t l) [])

/-- A stream leaves the tiles that none of its stages holds any longer: its floor and blocks there are free. -/
def leaveTiles (s : State) (id : Nat) : State :=
  let stay := tilesOfStream s id
  let left := (((s.stream? id).map (·.holds)).getD []).map (·.tile) |>.filter fun t => !(stay.contains t)
  let s := s.setStream id fun x => { x with holds := x.holds.filter fun h => stay.contains h.tile }
  let gone (e : Edge) : Bool := (e.waiter == id || e.holder == id) && !(stay.contains e.tile)
  let s : State := { s with fab := { s.fab with edges := s.fab.edges.filter fun e => !(gone e) } }
  left.foldl (fun s t => grantWaiters (dropReads s t id) t) s

/-! ### CREDIT_RETURN (R66, R353) -/

/-- The oldest request of a tile's pool has its answer: its data fills blocks, and what was held for the credit is issued;
CREDIT_STALL counts the cycles it was held. -/
def tileReturn (t p held : Nat) (s : State) : State :=
  let m := s.mover t
  match m.out.findIdx? (·.pool == p) with
  | none => s
  | some i =>
    let q := (m.out[i]?).getD ⟨0, 0, 0, 0⟩
    let s := dropPacket (dropPacket s (.request t q)) (.response t q)
    let s := s.setMover t fun m => { m with
      out := m.out.eraseIdx i
      feeds := m.feeds.map fun f => fillBlocks f q }
    let s := if m.waiting = [] then s else bump s (pgTile t + 0x430) held
    feedTile (issueSteps (pumpTile s t) t) t

end Sys2Proof.Machine
end

