-- ==== Sys2Proof/Machine/Power.lean ====
section
/-! DEFINITION. Clocks, tile and die sleep, supplies and temperature limits (R390 to R404, R512 to R525). -/

namespace Sys2Proof.Machine

/-! ### The reference (R391) -/

/-- REFCLK_LOSS: no edge for 160 ns; the clocks run from the internal oscillator. -/
def refclkLoss (s : State) : State :=
  if s.power.mossUp ∧ ¬ s.power.onInternal then
    let k := pgClk + 0x400
    let s := s.setReg k (wd (2 ^ 63 + 2 ^ 62 + (s.rfld k 31 0 + 1) % 2 ^ 32))
    let s := raiseInt s pgClk 0
    { s with power := { s.power with onInternal := true, lossAt := s.tick } }
  else s

def execRefclkLoss (s : State) : Host.Outcome State Fault Refusal := .next (refclkLoss s)

/-- REFCLK_RETURN: the reference has been present for 1 ms. -/
def refclkReturn (s : State) : State :=
  if s.power.onInternal ∧ s.power.lossAt + 25000 ≤ s.tick then
    let s := s.setRfld (pgClk + 0x400) 62 62 0
    { s with power := { s.power with onInternal := false } }
  else s

def execRefclkReturn (s : State) : Host.Outcome State Fault Refusal := .next (refclkReturn s)

/-- FAULT_N is asserted (R487): for reference loss, for boot recovery until the next boot, or for a die cut off. -/
def faultLow (s : State) : Bool := s.power.mossUp && (s.power.onInternal || s.power.faultN || s.cutOff != [])

/-! ### Throttling (R403, R404) -/

/-- The step-down a sample asks for, in MHz: 200 above FAST_W, 50 while both the 1 ms average and the sample exceed
SUSTAIN_W or a compute die has reached THERM_C. -/
def stepDown (s : State) (p : PowerSample) : Nat :=
  let ceil := s.reg (pgPwr + 0x410)
  if fld ceil 47 32 < p.watts then 200
  else if (fld ceil 15 0 < p.avg1 && fld ceil 15 0 < p.watts) || p.temps.any (fld ceil 55 48 ≤ ·) then 50
  else 0

/-- Does a sample count towards a step up: the 1 ms average below SUSTAIN_W − HYST_W and no temperature condition? -/
def coolSample (s : State) (p : PowerSample) : Bool :=
  let ceil := s.reg (pgPwr + 0x410)
  p.avg1 + fld ceil 31 16 < fld ceil 15 0 && !p.temps.any (fld ceil 55 48 ≤ ·)

/-- POWER_SAMPLE: every 10 µs. -/
def powerSample (p : PowerSample) (s : State) : State :=
  if s.power.vinGood then
    let tclk := s.rfld (pgClk + 0x410) 15 0
    let cap := s.rfld (pgClk + 0x418) 15 0
    let down := stepDown s p
    let cool := if coolSample s p then s.power.coolSamples + 1 else 0
    let t1 := if 0 < down then Nat.max 850 (tclk - down) else if 100 ≤ cool then tclk + 50 else tclk
    let t2 := Nat.min t1 cap
    let s := s.setReg (pgPwr + 0x428) (wd (Nat.max (s.rfld (pgPwr + 0x428) 15 0) (p.watts % 2 ^ 16)))
    let s := if 0 < down ∧ t1 < tclk then bump s (pgClk + 0x420) 1 else s
    let gate := 0 < down ∧ tclk = 850
    let s := if gate then bump s (pgPwr + 0x440) 1 else s
    let s := s.setReg (pgClk + 0x410) (wd t2)
    { s with power := { s.power with
        sample := p
        coolSamples := if 100 ≤ cool then 0 else cool
        issueGate := if gate then s.power.issueGate + 25 else s.power.issueGate
        hot := p.temps.any (105 < ·) || p.hbmTemps.any (100 < ·) || decide (105 < p.iodTemp) } }
  else s

def execPowerSample (p : PowerSample) (s : State) : Host.Outcome State Fault Refusal := .next (powerSample p s)

/-! ### Tiles (R393) -/

/-- The values a page's window takes at its entry to sleep (R384). -/
def captureWindow (s : State) (page : Nat) : List Word :=
  (List.range (snapRegs (keyCls page))).map fun i =>
    match i with
    | 0 => regShown s (page + 0x18)
    | 1 => regShown s (page + 0x38)
    | 2 => regShown s (page + 0x40)
    | 3 => regShown s (page + 0x50)
    | i => regShown s (page + 0x400 + 8 * (i - 4))

def captureAsleep (s : State) (page : Nat) : State :=
  { s with still := { s.still with
      asleep := (s.still.asleep.filter (·.1 ≠ page)) ++ [(page, captureWindow s page)] } }

/-- PG_CTL.PWR_REQ is AWAKE on a page. -/
def awakeReq (s : State) (page : Nat) : Bool := s.rfld (page + 0x10) 5 4 == 1

/-- A tile has a stage. -/
def tileBusy (s : State) (t : Nat) : Bool := s.assigns.any (·.page == pgTile t)

/-- A tile's stream engines hold nothing: no request, group, input or step. -/
def moverIdle (m : Mover) : Bool := m.groups == [] && m.out == [] && m.waiting == [] && m.feeds == [] && m.exec == []

/-- TILE_DOZE: 8 TCLK after its execute queue is empty, its fetch engine has no request outstanding and no step is ready; a tile
that has a stage has a step (log 20, DEDUCED). -/
def tileDoze (t : Nat) (s : State) : State :=
  if (s.tile t).power = .run ∧ ¬ tileBusy s t ∧ moverIdle (s.disp.movers.getD t {}) ∧ t < 52 then
    s.setTile t fun x => { x with power := .doze, since := s.tick }
  else s

def execTileDoze (t : Nat) (s : State) : Host.Outcome State Fault Refusal := .next (tileDoze t s)

/-- TILE_NAP: after NAP_IDLE_US in DOZE, unless PWR_REQ is AWAKE. -/
def tileNap (t : Nat) (s : State) : State :=
  if (s.tile t).power = .doze ∧ t < 52 ∧ ¬ awakeReq s (pgTile t)
      ∧ (s.tile t).since + s.rfld (pgPwr + 0x408) 15 0 * 25 ≤ s.tick then
    captureAsleep (s.setTile t fun x => { x with power := .nap, since := s.tick }) (pgTile t)
  else s

def execTileNap (t : Nat) (s : State) : Host.Outcome State Fault Refusal := .next (tileNap t s)

/-- TILE_WAKE: a stage, a WAKE or a register access reaches a tile in DOZE or NAP of an awake die. -/
def execTileWake (t : Nat) (s : State) : Host.Outcome State Fault Refusal :=
  .next (if (s.die (t / 13)).power = .active then wakeTile s t else s)

/-! ### Dies (R395 to R397) -/

/-- Pages of a compute die. -/
def diePages (d : Nat) : List Nat := allPages.filter fun p => pageDie p == some d

/-- DIE_WAKE: a wake source of R397 (0 a stage, 1 a WAKE, 2 an access, 3 AWAKE) reaches a die in MIRE or entering it. -/
def dieWake (d src : Nat) (s : State) : State :=
  if (s.die d).power = .mire ∨ (s.die d).power = .entering then wakeDieBy s d (src % 4) else s

def execDieWake (d src : Nat) (s : State) : Host.Outcome State Fault Refusal := .next (dieWake d src s)

/-- DIE_MIRE_ENTERED: 20 µs after entry began, memories are in self-refresh and the PLLs have stopped (R396). -/
def dieMireEntered (d : Nat) (s : State) : State :=
  if (s.die d).power = .entering ∧ (s.die d).since + 500 ≤ s.tick ∧ d < 4 then
    let s := (diePages d).foldl (fun s p => captureAsleep s p) s
    let s := s.setDie d fun x => { x with power := .mire, since := s.tick }
    let s := bump s (pgPwr + 0x430) 1
    s.setFen d fun f => { f with inSr := true, srEntries := f.srEntries + 1 }
  else s

def execDieMireEntered (d : Nat) (s : State) : Host.Outcome State Fault Refusal := .next (dieMireEntered d s)

/-! ### Supplies (R512, R515, R518, R519, R525) -/

/-- VSB3V3_GOOD: the Moss domain powers up, and DISP.TICK counts from here (R64, R390). -/
def vsbGood (s : State) : State :=
  if s.power.vsbGood then s else { s with tick := 0, power := { s.power with vsbGood := true } }

def execVsb3v3Good (s : State) : Host.Outcome State Fault Refusal := .next (vsbGood s)

/-- OFF_TIME_END: 50 ms after STANDBY entry a qualification may start (R519). -/
def offTimeEnd (s : State) : State :=
  match s.power.offUntil with
  | none => s
  | some t => if t ≤ s.tick then { s with power := { s.power with offUntil := none, qualFrom := s.tick } } else s

def execOffTimeEnd (s : State) : Host.Outcome State Fault Refusal := .next (offTimeEnd s)

/-- THERMTRIP_CLEAR: PWR_EN has been low for 10 ms and then high, with every sensor below 95 °C (R525). -/
def thermtripClear (hottest : Nat) (s : State) : State :=
  if s.power.thermtrip ∧ hottest < 95 then
    { s with power := { s.power with thermtrip := false, qualFrom := s.tick } }
  else s

def execThermtripClear (hottest : Nat) (s : State) : Host.Outcome State Fault Refusal := .next (thermtripClear hottest s)

/-- PWROK_RELEASE: at the end of the rails stage, PG + 3 ms (R518). -/
def pwrokRelease (s : State) : State :=
  match s.power.pg with
  | some p => if s.power.vinGood ∧ p + 75000 ≤ s.tick then { s with power := { s.power with pwrok := true } } else s
  | none => s

def execPwrokRelease (s : State) : Host.Outcome State Fault Refusal := .next (pwrokRelease s)

/-- THERMTRIP thresholds by sensor (R524): 0 to 15 on the compute dies, 16 to 27 on the HBM base dies, 28 and 29 on the
I/O die. -/
def tripAt (sensor : Nat) : Nat := if 16 ≤ sensor ∧ sensor < 28 then 110 else 125

end Sys2Proof.Machine
end

