-- ==== Sys2Proof/Machine/Calmet.lean ====
section
/-! DEFINITION. Sessions and streams (R26, R37 to R50): slots, negotiation, stream states, RESET_STREAM and CLOSE_STREAM, and
what follows a completion that is written. -/

namespace Sys2Proof.Machine

/-! ### SLOT_CLAIM (R26) -/

/-- A host core's compare-and-swap of OWNER from 0 to a tag; it reads back what it found. -/
def slotClaim (slot tag : Nat) (s : State) : State :=
  if 64 ≤ slot ∨ tag = 0 then s
  else match read64 s (ownerAddr slot) with
    | (s, .error _) => answer s .loadFault
    | (s, .ok v) =>
      let s := if v = 0 then (write64 s (ownerAddr slot) tag).1 else s
      answer s (.word (BitVec.ofNat 64 v))

/-- SLOT_CLAIM. -/
def execSlotClaim (slot tag : Nat) (s : State) : Host.Outcome State Fault Refusal := .next (slotClaim slot tag s)

/-! ### The checks of a control record (R34, R47, R48) -/

/-- The fields that every record has: FLAGS, SESSION, DEADLINE and reserved bytes; and the parameter bytes from an offset on. -/
def commonFails (r : Rec) (slot : Nat) (deadline : Bool) (paramEnd : Nat) : List Fail :=
  failIf (decide (4 ≤ r.flags)) stBadField 2 ++ failIf (r.n 6 2 != slot) stBadField 6
  ++ failIf (!deadline && r.n 16 4 != 0) stBadField 16 ++ failIf (!(zeroAt r.bytes 20 4)) stBadField 20
  ++ failIf (!(zeroAt r.bytes paramEnd (128 - paramEnd))) stBadField paramEnd

/-- STREAM of a record that names one: in range, and not open in another session. -/
def streamFails (s : State) (r : Rec) (slot : Nat) : List Fail :=
  if 1024 ≤ r.stream then failIf true stBadField 4
  else match s.open? r.stream with
    | some x => failIf (x.session != slot) stDenied 4
    | none => []

/-- STREAM of a record that names none. -/
def noStreamFails (r : Rec) : List Fail := failIf (r.stream != 0xFFFF) stBadField 4

/-- The session of the slot must be open (R47). -/
def sessionFails (s : State) (slot : Nat) : List Fail := failIf (s.session slot).isNone stWrongState 0xFF

/-- The stream must be open, with no CLOSE_STREAM started, and in one of some states (R46). -/
def stateFails (s : State) (r : Rec) (p : SState → Bool) : List Fail :=
  match s.open? r.stream with
  | some x => failIf (x.closing || !(p x.state)) stWrongState 0xFF
  | none => failIf true stWrongState 0xFF

/-- The front record of a slot's control ring, when it has an opcode and may start. -/
def frontCtl (s : State) (slot op : Nat) : Option Rec :=
  if !(ringsRead s) then none
  else match (s.slot slot).ctl.map (·.recs) with
    | some (r :: _) => if r.op = op && barrierOk s (.ctl slot) r then some r else none
    | _ => none

/-- A record leaves the queue and is in progress. -/
def takeCtl (s : State) (slot : Nat) (r : Rec) : State :=
  (s.setRingIn (.ctl slot) fun x => { x with recs := x.recs.drop 1 }).setSlot slot fun k => { k with inflight := k.inflight ++ [r] }

/-- A control record starts: its checks in the order of R48, then its effect; the records behind it may be refused. -/
def startCtl (s : State) (slot op : Nat) (aux : State → Nat) (checks : Rec → State → State × List Fail)
    (act : Rec → State → State) : State :=
  match frontCtl s slot op with
  | none => s
  | some r =>
    match checks r (takeCtl s slot r) with
    | (s, fs) =>
      let s := match pickFail fs with
        | some f => endCtl (countReject s f.status) slot r f.status f.detail 0 (aux s) .nothing
        | none => act r s
      settle s (.ctl slot)

/-- Checks that read no memory. -/
def pureChecks (f : Rec → State → List Fail) : Rec → State → State × List Fail := fun r s => (s, f r s)

/-! ### OPEN_SESSION and CLOSE_SESSION (R37 to R42) -/

/-- The level that answers a proposal (R37). -/
def answerLevel (floor lo hi : Nat) : Option Nat := (implementedLevels.reverse).find? fun l => decide (max lo floor ≤ l ∧ l ≤ hi)

def sessionAux (s : State) : Nat := s.fuses.floor * 65536 + 0x0202

def openSession (slot : Nat) (s : State) : State :=
  startCtl s slot 0x01 sessionAux
    (pureChecks fun r s =>
      let lo := r.n 24 2
      let hi := r.n 26 2
      let fl := r.n 28 4
      commonFails r slot false 40 ++ noStreamFails r ++ failIf (decide (hi < lo)) stBadField 0xFF ++ failIf (decide (4 ≤ fl)) stBadField 28
      ++ failIf (decide (lo ≤ hi) && (answerLevel s.fuses.floor lo hi).isNone) stLevel 0xFF
      ++ failIf (fl == 3) stDenied 28 ++ failIf (s.session slot).isSome stWrongState 0xFF)
    fun r s =>
      let level := (answerLevel s.fuses.floor (r.n 24 2) (r.n 26 2)).getD 0
      let x : Session := ⟨level, r.n 28 4, s.disp.serials + 1, r.n 32 4, r.n 36 4, 0, 0⟩
      let s := s.setSlot slot fun k => { k with session := some x }
      let s := { s with disp := { s.disp with serials := s.disp.serials + 1 } }
      endCtl s slot r stDone 0 level (sessionAux s) .nothing

/-- OPEN_SESSION. -/
def execOpenSession (slot : Nat) (s : State) : Host.Outcome State Fault Refusal := .next (openSession slot s)

/-- The open streams of a slot's session. -/
def streamsOf (s : State) (slot : Nat) : List Stream := s.disp.streams.filter fun x => x.session == slot && x.state != .closed

/-- Tables and rule sets that bound plans name. -/
def planTables (s : State) : List Nat :=
  s.disp.streams.flatMap fun x => match x.plan with
    | none => []
    | some p => p.tables.filterMap fun q =>
        if opGroup (stOp (p.stages.getD q.1 [])) = 2 ∨ stOp (p.stages.getD q.1 []) = 0x0802 then some (TRec.of q.2).id else none
def planSets (s : State) : List Nat :=
  s.disp.streams.flatMap fun x => match x.plan with
    | none => []
    | some p => p.tables.filterMap fun q => if opGroup (stOp (p.stages.getD q.1 [])) = 5 then some (SetRec.of q.2).id else none

/-- Tables and rule sets whose session has closed and that no bound plan names are released (R124, R226). -/
def releaseTables (s : State) : State :=
  let ts := (s.tables.dirs.filter fun e => !(entAlive s e) && !((planTables s).contains e.id)).map (·.id)
  let s := ts.foldl unregister s
  let rs := (s.sets.filter fun e => !(setAlive s e) && !((planSets s).contains e.id)).map (·.id)
  rs.foldl releaseSet s

def closeSession (slot : Nat) (s : State) : State :=
  startCtl s slot 0x02 (fun _ => 0)
    (pureChecks fun r s => commonFails r slot false 24 ++ noStreamFails r ++ sessionFails s slot
      ++ failIf (!(streamsOf s slot).isEmpty) stWrongState 0xFF)
    fun r s => releaseTables (endCtl (s.setSlot slot fun k => { k with session := none }) slot r stDone 0 0 0 .freeOwner)

/-- CLOSE_SESSION. -/
def execCloseSession (slot : Nat) (s : State) : Host.Outcome State Fault Refusal := .next (closeSession slot s)

/-! ### OPEN_STREAM (R28, R46, R71) -/

/-- Blocks of a stream's Weir floor on a tile. -/
def floorOf (policy kib : Nat) : Nat := if bitOf policy 2 then ceilDiv kib 16 else 16

/-- A ring header named by OPEN_STREAM, read where its address allows. -/
def readHeader (s : State) (addr kind off : Nat) : State × List Fail × List Byte :=
  if addr % 64 ≠ 0 then (s, failIf true stBadField off, [])
  else if !(inR44 addr 64) then (s, failIf true stBounds off, [])
  else match devRead s addr 64 with
    | (s, .ok h) => (s, failIf (!(headerOk h kind true)) stBadField off, h)
    | (s, .error e) => (s, failIf true e.status 0xFF, [])

def openStreamChecks (slot : Nat) (r : Rec) (s : State) : State × List Fail :=
  match readHeader s (r.n 24 8) 0 24 with
  | (s, f1, _) => match readHeader s (r.n 32 8) 1 32 with
    | (s, f2, _) =>
      let kib := r.n 56 2
      (s, commonFails r slot false 58 ++ streamFails s r slot ++ f1 ++ f2
        ++ failIf (r.n 40 8 % 64 != 0) stBadField 40 ++ failIf (decide (8 ≤ r.n 48 4)) stBadField 48
        ++ failIf (decide (4096 < kib) || (bitOf (r.n 48 4) 2 && decide (1 ≤ kib ∧ kib ≤ 255))) stBadField 56
        ++ failIf (r.n 40 8 % 64 == 0 && !(inR44 (r.n 40 8) 64)) stBounds 40
        ++ sessionFails s slot ++ failIf (s.open? r.stream).isSome stWrongState 0xFF)

/-- A new stream by its record. -/
def newStream (s : State) (slot : Nat) (r : Rec) : Stream where
  id := r.stream
  session := slot
  ring := RingIn.of (r.n 24 8) (peek s (r.n 24 8) 64)
  cring := RingOut.of (r.n 32 8) (peek s (r.n 32 8) 64)
  statusAddr := r.n 40 8
  policy := r.n 48 4
  stallTicks := if r.n 52 4 = 0 then 250000 else r.n 52 4
  floorBlocks := floorOf (r.n 48 4) (r.n 56 2)
  order := s.disp.opened

def openStream (slot : Nat) (s : State) : State :=
  startCtl s slot 0x10 (fun _ => 0) (openStreamChecks slot)
    fun r s =>
      let s := { s with disp := { s.disp with
        streams := (s.disp.streams.filter fun (x : Stream) => x.id != r.stream) ++ [newStream s slot r]
        opened := s.disp.opened + 1 } }
      let s := s.setStream r.stream fun x => { x with state := .idle }
      endCtl s slot r stDone 0 0 0 .nothing

/-- OPEN_STREAM. -/
def execOpenStream (slot : Nat) (s : State) : Host.Outcome State Fault Refusal := .next (openStream slot s)

/-! ### Changes of a stream's state (R46, R49) -/

/-- A command on an open stream in one of some states. -/
def streamCmd (s : State) (slot op : Nat) (p : SState → Bool) (act : Rec → State → State) : State :=
  startCtl s slot op (fun _ => 0)
    (pureChecks fun r s => commonFails r slot false 24 ++ streamFails s r slot ++ sessionFails s slot ++ stateFails s r p) act

/-- Resident groups of a stream lose their tiles (R72, R277). -/
def freeResidents (s : State) (id : Nat) : State :=
  leaveTiles { s with disp := { s.disp with residents := s.disp.residents.filter (·.stream != id) } } id

/-- A stream takes a state, which its status block has still to show; a resident group holds its tiles only in the others
(R277). -/
def setState (s : State) (id : Nat) (st : SState) : State :=
  let s := s.setStream id fun x => { x with state := st, dirty := true }
  if st = .running ∨ st = .paused ∨ st = .draining then s else freeResidents s id

/-- Held batches are queued, and queued batches are held. -/
def releaseHeld (b : Batch) : Batch := if b.state = .held then { b with state := .queued } else b
def holdQueued (b : Batch) : Batch := if b.state = .queued then { b with state := .held } else b

/-- The stall timer of a partly received record starts from zero (R81). -/
def restartTimer (tick : Nat) (t : TSlot) : TSlot := if t.part.isSome then { t with lastByte := tick } else t

/-- A stream runs: the batches held are queued, and its stall timers start from zero. -/
def startRunning (s : State) (id : Nat) : State :=
  (setState s id .running).setStream id fun x => { x with
    batches := x.batches.map releaseHeld
    slots := x.slots.map (restartTimer s.tick) }

/-- RUN: a BOUND stream runs. -/
def runStream (slot : Nat) (s : State) : State :=
  streamCmd s slot 0x12 (· == .bound) fun r s => endCtl (startRunning s r.stream) slot r stDone 0 0 0 .nothing

def execRun (slot : Nat) (s : State) : Host.Outcome State Fault Refusal := .next (runStream slot s)

/-- PAUSE: started batches go on; queued ones are held. -/
def pauseStream (slot : Nat) (s : State) : State :=
  streamCmd s slot 0x13 (· == .running) fun r s =>
    let s := (setState s r.stream .paused).setStream r.stream fun x => { x with batches := x.batches.map holdQueued }
    endCtl s slot r stDone 0 0 0 .nothing

def execPause (slot : Nat) (s : State) : Host.Outcome State Fault Refusal := .next (pauseStream slot s)

/-- RESUME: a PAUSED stream runs again. -/
def resumeStream (slot : Nat) (s : State) : State :=
  streamCmd s slot 0x14 (· == .paused) fun r s => endCtl (startRunning s r.stream) slot r stDone 0 0 0 .nothing

def execResume (slot : Nat) (s : State) : Host.Outcome State Fault Refusal := .next (resumeStream slot s)

/-- DRAIN: with nothing outstanding the stream is BOUND at once; else it is DRAINING until its last batch's completion is
written. -/
def drainStream (slot : Nat) (s : State) : State :=
  streamCmd s slot 0x15 (· == .running) fun r s =>
    match s.open? r.stream with
    | none => s
    | some x =>
      if x.batches.isEmpty then endCtl (setState s r.stream .bound) slot r stDone 0 0 0 .nothing
      else (setState s r.stream .draining).setStream r.stream fun x => { x with drain := some (slot, r.idx, 0) }

def execDrain (slot : Nat) (s : State) : Host.Outcome State Fault Refusal := .next (drainStream slot s)

/-! ### The end of what is under way -/

/-- A control record in progress, by its ring index. -/
def inflightRec (s : State) (slot idx : Nat) : Option Rec := (s.slot slot).inflight.find? (·.idx == idx)

/-- A control record that finishes late completes. -/
def endLate (s : State) (slot idx status count : Nat) (a : After) : State :=
  match inflightRec s slot idx with
  | some r => endCtl s slot r status (if status = stDone then 0 else 0xFF) count 0 a
  | none => s

/-- A completion of a stream's ring that RESET_STREAM waits for, or, where the stream closes, CLOSE_STREAM. -/
def owedBy (x : Stream) (closes : Bool) : Bool :=
  x.batches.any (·.stopped) || x.cring.turns.any fun t => closes || (t.comp.map (·.status)) == some stStopped

/-- RESET_STREAM and CLOSE_STREAM complete once every STOPPED completion is written, and for CLOSE_STREAM every other that
is owed; a closed stream leaves the dispatcher when its CLOSED status block is written. -/
def resetProgress (s : State) (id : Nat) : State :=
  match s.stream? id with
  | none => s
  | some x =>
    let due := x.resetWait.filter fun w => !(owedBy x w.2.2)
    let s := s.setStream id fun x => { x with resetWait := x.resetWait.filter fun w => owedBy x w.2.2 }
    due.foldl (fun s w => endLate (if w.2.2 then setState s id .closed else s) w.1 w.2.1 stDone 0 .nothing) s

/-- Memory allocated to a stream by its plan goes back to its session (R204, R314). -/
def freePlan (s : State) (x : Stream) : State :=
  (uncharge s x.session (x.charged.1 + x.cache * 2 ^ 20) x.charged.2).setStream x.id fun x => { x with
    plan := none
    cache := 0
    cached := []
    charged := (0, 0) }

/-- A stream's Slough area takes a size, where it had another (R76). -/
def sizeSlough (s : State) (x : Stream) (bytes : Nat) : State :=
  if bytes = x.slough then s
  else (charge (uncharge s x.session x.slough 0) x.session bytes 0).setStream x.id fun x => { x with slough := bytes }

/-- Sources bound by RECEIVE stages of a stream are free again (R474). -/
def freeBinds (s : State) (id : Nat) : State :=
  { s with disp := { s.disp with binds := s.disp.binds.filter fun b => b.2.2.2.1 != id } }

/-- The plan of a stream is unbound: what it held is free, and tables that only it kept are released. -/
def unbindPlan (s : State) (id : Nat) : State :=
  match s.stream? id with
  | none => s
  | some x => releaseTables (freeBinds (freeResidents (freePlan s x) id) id)

/-- HEAD and TAIL of a stream's ring set to its current WATCH; one that cannot be read counts as unchanged (R50, R532). -/
def skipRing (s : State) (id : Nat) : State :=
  match s.stream? id with
  | none => s
  | some x =>
    let go (s : State) (w : Nat) : State :=
      writeHeads (s.setStream id fun x => { x with
        ring := { x.ring with
          head := w
          tail := w
          stopped := false }
        overrun := false }) (.stream id)
    match read64 s (x.ring.addr + 48) with
    | (s, .ok w) => go s w
    | (s, .error _) => go (ringFault s 0x06 (.stream id) false) x.ring.tail

/-! ### Transfer slots at HALT and RESET_STREAM (R50, R79) -/

/-- The completion of a REARM (R78): one that replaced a shadow carries the generation it replaced; one whose descriptor was
itself replaced carries AUX 0 (log 76, DESIGN CHOICE). -/
def rearmComp (id : Nat) (d : SlotDesc) (tag : Nat) (signal : Bool) (status flags : Nat) : Comp where
  tag := tag
  opcode := 0x21
  status := status
  flags := flags + (if d.replaced.isSome then flOverwrite else 0)
  stream := id
  detail := if status = stDone then 0 else 0xFF
  count := d.gen
  aux := if flags = flReplaced then 0 else d.replaced.getD 0
  seq := d.idx % 2 ^ 32
  signal := signal

/-- A REARM's turn receives its completion; TAG and SIGNAL stand in the descriptor's record. -/
def endRearm (s : State) (id : Nat) (d : SlotDesc) (status flags : Nat) : State :=
  if d.waits then giveTurn s (.comp id) d.idx (rearmComp id d d.tag d.signal status flags) .nothing else s

/-- Every REARM whose descriptor is still in a shadow completes STOPPED, and its shadow is empty. -/
def stopShadows (s : State) (id : Nat) : State :=
  match s.stream? id with
  | none => s
  | some x =>
    let s := (x.slots.filterMap (·.shadow)).foldl (fun s d => endRearm s id d stStopped 0) s
    s.setStream id fun x => { x with slots := x.slots.map fun t => { t with shadow := none } }

/-- Every slot emptied: no transfer is left, so a REARM whose descriptor had become active completes. -/
def clearSlots (s : State) (id : Nat) : State :=
  let s := stopShadows s id
  match s.stream? id with
  | none => s
  | some x =>
    let s := (x.slots.flatMap fun t => t.old ++ t.active.toList).foldl (fun s d => endRearm s id d stDone 0) s
    s.setStream id fun x => { x with slots := List.replicate 16 {} }

/-- RESET_STREAM (R50): the plan unbound, transfer slots emptied, unread records skipped, the stream IDLE. -/
def resetStream (slot : Nat) (s : State) : State :=
  streamCmd s slot 0x16 (fun st => st == .halted || st == .faulted) fun r s =>
    let s := unbindPlan s r.stream
    let s := clearSlots s r.stream
    let s := setState (skipRing s r.stream) r.stream .idle
    resetProgress (s.setStream r.stream fun x => { x with
      resetWait := x.resetWait ++ [(slot, r.idx, false)]
      cursorBy := none }) r.stream

def execResetStream (slot : Nat) (s : State) : Host.Outcome State Fault Refusal := .next (resetStream slot s)

/-- COUNT and AUX of a batch (R57): ROWS where the plan selects nothing; what the last selection stage reports; and a free
value where that stage has not finished. -/
def batchCount (s : State) (x : Stream) (b : Batch) : State × Nat × Nat :=
  let aux (n : Nat) : Nat := if 0x0202 ≤ s.level x.session then n else 0
  if !b.selects then (s, b.rows, 0)
  else match b.select with
    | some (n, ties, _) => (s, n, aux ties)
    | none => match takeFreeBits s 32 with
      | (s, n) => match takeFreeBits s 32 with
        | (s, m) => (s, n, aux m)

/-- The completion of a batch. -/
def batchComp (x : Stream) (b : Batch) (status detail count aux flags : Nat) : Comp where
  tag := b.tag
  opcode := 0x20
  status := status
  flags := flags
  stream := x.id
  detail := detail
  count := count
  aux := aux
  seq := b.idx % 2 ^ 32
  signal := b.signal

/-- A batch that ends without starting completes STOPPED (R49). -/
def stopOne (id : Nat) (s : State) (b : Batch) : State :=
  match s.stream? id with
  | none => s
  | some x => match batchCount s x b with
    | (s, n, aux) => giveTurn (s.setBatch id b.idx fun b => { b with state := .done, stopped := true }) (.comp id) b.idx
        (batchComp x b stStopped 0xFF n aux 0) .batchEnd

def stopUnstarted (s : State) (id : Nat) : State :=
  match s.stream? id with
  | none => s
  | some x => (x.batches.filter fun b => b.state == .held || b.state == .queued).foldl (stopOne id) s

/-- A stream's Slough area is free (R76). -/
def freeSlough (s : State) (id : Nat) : State :=
  match s.stream? id with
  | none => s
  | some x => sizeSlough s x 0

/-- CLOSE_STREAM (R46, R76): held batches complete STOPPED, records not started are dropped, and what the stream held is
free, its Slough area with it; batches that are stopping complete first. -/
def closeStream (slot : Nat) (s : State) : State :=
  streamCmd s slot 0x17 (fun st => st == .idle || st == .bound || st == .halted || st == .faulted) fun r s =>
    let s := freeSlough (unbindPlan (clearSlots (stopUnstarted s r.stream) r.stream) r.stream) r.stream
    let s := s.setStream r.stream fun x => { x with
      ring := { x.ring with recs := [] }
      cring := { x.cring with turns := x.cring.turns.filter fun t => t.comp.isSome || x.batches.any (·.idx == t.idx) }
      resetWait := x.resetWait ++ [(slot, r.idx, true)]
      closing := true }
    resetProgress s r.stream

def execCloseStream (slot : Nat) (s : State) : Host.Outcome State Fault Refusal := .next (closeStream slot s)

/-! ### HALT's completion (R51, R360 to R364) -/

/-- A stream has stopped and its STOPPED completions are written. -/
def haltedDone (s : State) (id : Nat) : Bool :=
  match s.stream? id with
  | some x => !(x.batches.any (·.stopped)) && !(x.cring.turns.any fun t => (t.comp.map (·.status)) == some stStopped)
  | none => true

/-- Every stream a HALT waits for has stopped. -/
def HaltOp.done (h : HaltOp) (s : State) : Bool := h.toReceive.isEmpty && h.toAck.isEmpty && h.stopping.all (haltedDone s)

/-- The completion of a HALT: COUNT the streams halted, AUX the scope, SEQ the HALT_SEQ value. -/
def haltComp (h : HaltOp) (count : Nat) : Comp where
  tag := h.tag
  opcode := 0x30
  status := stDone
  stream := if h.scope = 0 then h.stream else 0xFFFF
  count := count
  aux := h.scope
  seq := h.seq
  signal := h.signal

/-- The index of a turn that answers no record of the ring. -/
def noRec : Nat := 2 ^ 64

/-- HALTs that have finished are answered; the completion reflects the status block of every stream halted (R45). The MC's is
answered session by session (R364). -/
def answerHalt (s : State) (h : HaltOp) : State :=
  match h.slot with
  | some k => pushTurn s (.scomp k) { idx := noRec, comp := some (haltComp h h.streams.length), streams := h.stopping }
  | none =>
    let slots := h.streams.foldl (fun a id => insertNew (s.slotOf id) a) []
    let s := slots.foldl (fun s k =>
      let mine := h.streams.filter fun id => s.slotOf id == k
      pushTurn s (.scomp k) { idx := noRec, comp := some (haltComp h mine.length), after := .mcHalt, streams := mine }) s
    { s with fab := { s.fab with
        mcPosts := s.fab.mcPosts ++ slots
        mcDone := slots.isEmpty && s.fab.mcPosts.isEmpty
        mcBusy := !(slots.isEmpty && s.fab.mcPosts.isEmpty) || s.fab.holdAsked } }

/-- HALTs of scope STREAM and SESSION, and any accepted in a Sluice, complete once their streams have stopped, those in a
Sluice when it ends; when every stream of a Sluice has stopped, it drains (R362, R363). -/
def haltProgress (s : State) : State :=
  let ready (h : HaltOp) : Bool := h.done s && s.fab.phase == .none
  let s' := (s.disp.halts.filter ready).foldl answerHalt
    { s with disp := { s.disp with halts := s.disp.halts.filter fun h => !(ready h) } }
  if s'.fab.phase = .stopping ∧ s'.disp.halts.all (fun h => h.done s') then
    { s' with fab := { s'.fab with phase := .draining } }
  else s'

/-! ### COMPLETION_POST and DELIVERY_RETRY (R32, R46, R531) -/

/-- OWNER returns to 0 and the slot is free (R42). -/
def freeSlot (s : State) (k : Nat) : State :=
  let s := (write64 s (ownerAddr k) 0).1
  s.setSlot k fun x => { lastWatch := x.lastWatch, haltSeq := x.haltSeq }

/-- A batch is in flight from its start until its completion is written. -/
def Batch.inFlight (b : Batch) : Bool := b.runs != []

/-- A batch's completion has been written: it is no longer in flight, and a DRAIN may end (R46). -/
def batchPosted (s : State) (id idx : Nat) : State :=
  let s : State := if (s.batch? id idx).any (·.inFlight) then { s with power := { s.power with lastWork := s.tick } } else s
  let s := s.setStream id fun x => { x with
    batches := x.batches.filter (·.idx != idx)
    drain := x.drain.map fun d => (d.1, d.2.1, d.2.2 + 1)
    dirty := true }
  match s.stream? id with
  | none => s
  | some x => match x.drain with
    | some (slot, rix, n) =>
      if x.state = .draining ∧ x.batches.isEmpty then
        endLate (setState (s.setStream id fun x => { x with drain := none }) id .bound) slot rix stDone n .nothing
      else s
    | none => s

/-- What follows a completion once it is written. -/
def afterPost (s : State) (r : CompRef) (t : Turn) : State :=
  match r with
  | .comp id =>
    let s := match t.after with
      | .batchEnd => batchPosted s id t.idx
      | _ => s
    settle (haltProgress (resetProgress s id)) (.stream id)
  | .scomp k =>
    let op := (t.comp.map (·.opcode)).getD 0
    let s := s.setSlot k fun x => { x with inflight := x.inflight.filter (·.idx != t.idx) }
    let s := match t.after with
      | .freeOwner => freeSlot s k
      | .mcHalt =>
        let left := s.fab.mcPosts.filter (· != k)
        { s with fab := { s.fab with
            mcPosts := left
            mcDone := left.isEmpty
            mcBusy := !left.isEmpty || s.fab.holdAsked } }
      | _ => s
    let s := if op = 0x17 then { s with disp := { s.disp with
        streams := s.disp.streams.filter fun x => !(x.state == .closed && x.session == k && some x.id == t.comp.map (·.stream)) } } else s
    settle s (.ctl k)

/-- One attempt at the front turn, and what follows it. -/
def postTurn (s : State) (r : CompRef) : State :=
  match deliver s r with
  | (s, some t) => afterPost s r t
  | (s, none) => s

/-- COMPLETION_POST: the front turn of a completion ring is delivered, unless an earlier failure waits to be tried again. -/
def completionPost (r : CompRef) (s : State) : State :=
  match s.ringOut r with
  | some o => if o.retry.isSome then s else postTurn s r
  | none => s

def execCompletionPost (ring : CompRef) (s : State) : Host.Outcome State Fault Refusal := .next (completionPost ring s)

/-- A delivery of a completion ring that failed is due to be tried again. -/
def deliveryDue (s : State) (r : CompRef) : Bool := (s.ringOut r).any fun o => o.retry.any fun q => q.now s o.addr

/-- What failed on a completion ring is tried again: its front turn, or a status block that no completion waits behind. -/
def redeliver (s : State) (r : CompRef) : State :=
  let s := s.setRingOut r fun o => { o with retry := none }
  match r, ((s.ringOut r).bind (·.turns.head?)).bind (·.comp) with
  | .comp id, none => keepStatus s id
  | _, _ => postTurn s r

/-- DELIVERY_RETRY: what failed is tried again once it is due, a command ring's HEAD and TAIL with it (R531). -/
def deliveryRetry (r : CompRef) (s : State) : State :=
  let s := if headsDue s (refOf r) then writeHeads s (refOf r) else s
  if deliveryDue s r then redeliver s r else s

def execDeliveryRetry (ring : CompRef) (s : State) : Host.Outcome State Fault Refusal := .next (deliveryRetry ring s)

end Sys2Proof.Machine
end

