-- ==== Sys2Proof/Machine/Link.lean ====
section
/-! DEFINITION. Transfer slots (R77 to R83), queue pairs as requesters and responders (R470 to R472), RECEIVE and SEND (R473 to
R478, R538). -/

namespace Sys2Proof.Machine

/-! ### Transfer slots (R77, R78, R538) -/

def Stream.slot (x : Stream) (k : Nat) : TSlot := x.slots.getD k {}
def State.setTSlot (s : State) (id k : Nat) (f : TSlot → TSlot) : State :=
  s.setStream id fun x => { x with slots := modifyAt x.slots k f }

/-- Messages that queue pairs have sent and not seen acknowledged. -/
def State.msgs (s : State) : List QpMsg := s.ext.qps.flatMap (·.msgs)

/-- The transfer slot of a SEND or RECEIVE stage. -/
def stageSlot (r : List Byte) : Nat := if stOp r = 0x0800 then fieldN r 48 1 else fieldN r 50 1

/-- A stage of a stream's plan. -/
def Stream.stage (x : Stream) (i : Nat) : List Byte := ((x.plan.map (·.stages)).getD []).getD i []

/-- A transfer is in flight on a slot: a record partly received, or a message not yet acknowledged. -/
def slotBusy (s : State) (x : Stream) (k : Nat) : Bool :=
  (x.slot k).part.isSome
  || s.msgs.any fun m => m.stream == x.id && stOp (x.stage m.stage) == 0x0800 && stageSlot (x.stage m.stage) == k

/-- Records still held under a descriptor older than a given one. -/
def olderHeld (t : TSlot) (d : SlotDesc) : Bool := t.whole.any fun a => decide (a.desc < d.idx) && !a.oversize

/-- A descriptor's REARM completes once nothing is held under an older one. -/
def rearmProgress (s : State) (id k : Nat) : State :=
  match s.stream? id with
  | none => s
  | some x =>
    let t := x.slot k
    let due (d : SlotDesc) : Bool := d.waits && !(olderHeld t d)
    let s := ((t.old ++ t.active.toList).filter due).foldl (fun s d => endRearm s id d stDone 0) s
    s.setTSlot id k fun t => { t with
      old := t.old.filter fun d => !(due d)
      active := t.active.map fun d => if due d then { d with waits := false } else d }

/-- A descriptor becomes active; one it follows whose REARM completion still waits is remembered. -/
def activate (t : TSlot) (d : Option SlotDesc) : TSlot :=
  { t with
    active := d
    shadow := none
    old := t.old ++ t.active.toList.filter (·.waits) }

/-- The in-flight transfer has ended: the shadow becomes active (R77). -/
def promote (s : State) (id k : Nat) : State :=
  match s.stream? id with
  | none => s
  | some x =>
    if (x.slot k).shadow.isSome && !(slotBusy s x k) then
      rearmProgress (s.setTSlot id k fun t => activate t t.shadow) id k
    else s

/-- SHADOW_PROMOTE. -/
def execShadowPromote (stream slotIx : Nat) (s : State) : Host.Outcome State Fault Refusal := .next (promote s stream slotIx)

/-! ### RECEIVE: records taken by a stage (R475, R538) -/

/-- Records a RECEIVE stage takes for a batch. -/
def recordsOf (r : List Byte) (rows : Nat) : Nat := if fieldN r 56 4 = 0 then rows else fieldN r 56 4

/-- The TIMEOUT of a stage under way has expired before a tick (R53, R54). -/
def runExpired (x : Stream) (tick : Nat) (u : StageRun) : Bool :=
  match u.issuedAt with
  | some t => stTimeoutOf (x.stage u.ix) != 0 && decide (t + stTimeoutOf (x.stage u.ix) < tick)
  | none => false

/-- The RECEIVE stage that waits on a slot: batch, stage and the records it needs. -/
def waitingRecv (x : Stream) (tick k : Nat) : Option (Nat × Nat × Nat) :=
  (x.batches.flatMap fun b => (b.runs.filter fun r => r.issuedAt.isSome && !r.finished && r.failure.isNone && !(runExpired x tick r)
    && stOp (x.stage r.ix) == 0x0801 && stageSlot (x.stage r.ix) == k).map fun r => (b.idx, r.ix, recordsOf (x.stage r.ix) b.rows)).head?

/-- Records of a slot that a batch's stage has taken. -/
def takenBy (t : TSlot) (b stage : Nat) : List Arrived := t.whole.filter fun a => a.taker == some (b, stage)

/-- Whole records given in arrival order to a stage that needs n more. -/
def giveTo (b stage : Nat) : Nat → List Arrived → List Arrived
  | _, [] => []
  | 0, l => l
  | n + 1, a :: t => if a.taker.isNone then { a with taker := some (b, stage) } :: giveTo b stage n t else a :: giveTo b stage (n + 1) t

/-- The waiting stage takes what has arrived whole; a record over 65,536 bytes or one that met a memory fault fails it. -/
def claim (s : State) (id k : Nat) : State :=
  match s.stream? id with
  | none => s
  | some x => match waitingRecv x s.tick k with
    | none => s
    | some (b, stage, need) =>
      let t := x.slot k
      let whole := giveTo b stage (need - (takenBy t b stage).length) t.whole
      let s := s.setTSlot id k fun t => { t with whole := whole }
      match (whole.filter fun a => a.taker == some (b, stage)).find? fun a => a.oversize || a.fault != 0 with
      | some a => failRun s id b stage (if a.oversize then stOversize else a.fault)
      | none => s

/-- Records that a batch took are freed at its completion. -/
def freeTaken (s : State) (id batch : Nat) : State :=
  let s := s.setStream id fun x => { x with
    slots := x.slots.map fun t => { t with whole := t.whole.filter fun a => (a.taker.map (·.1)) != some batch } }
  (List.range 16).foldl (fun s k => rearmProgress s id k) s

/-! ### RECEIVE: the placing of records (R81, R475, R538) -/

/-- Where the next record of a slot is placed under a descriptor: after the last record still held in its buffer. -/
def placeAt (t : TSlot) (d : SlotDesc) : Nat :=
  (t.whole.filter fun a => a.desc == d.idx && !a.oversize).foldl (fun m a => max m (roundUp (a.at_ + a.data.length) 8)) 0

/-- The bytes of a landing buffer: those of an active descriptor of KIND BYTES. -/
def landingBytes (d : SlotDesc) : Nat := if (Desc.of d.bytes).kind = kBytes then (Desc.of d.bytes).bytes else 0

/-- How bytes of a record were met. -/
inductive Placed where
  | taken | noSpace
  deriving DecidableEq, Repr

/-- May records be placed for a stream? -/
def takesRecords (x : Stream) : Bool :=
  x.state == .bound || x.state == .running || x.state == .paused || x.state == .draining

/-- Bytes of a record arrive on a slot; last tells its end. -/
def arrive (s : State) (id k : Nat) (origin data : List Byte) (last : Bool) : State × Placed :=
  let s := match s.stream? id with
    | some x => if (x.slot k).part.isNone then promote s id k else s
    | none => s
  match s.open? id with
  | none => (s, .noSpace)
  | some x =>
    let t := x.slot k
    match t.active with
    | none => (s, .noSpace)
    | some d =>
      if !(takesRecords x) then (s, .noSpace)
      else
        let old := t.part.getD { data := [], origin := origin, at_ := placeAt t d, desc := d.idx }
        let n := old.data.length + data.length
        let big := old.oversize || decide (65536 < n)
        if !big && decide (landingBytes d < old.at_ + n) then
          (s.setTSlot id k fun t => { t with part := none }, .noSpace)
        else
          let at_ := (Desc.of d.bytes).addr + old.at_ + old.data.length
          let w := if big then (s, none) else devWrite (wakeForWrite s at_) at_ data
          let fault := if old.fault ≠ 0 then old.fault else (w.2.map MemErr.status).getD 0
          let rc : Arrived := { old with data := if big then [] else old.data ++ data, oversize := big, fault := fault }
          let s := w.1.setTSlot id k fun t => { t with
            part := if last then none else some rc
            whole := if last then t.whole ++ [rc] else t.whole
            lastByte := s.tick
            stalled := false }
          (if last then promote (claim s id k) id k else s, .taken)

/-- A partial record is discarded with its link or queue pair (R83): the stage that waits for it ends TRUNCATED, or the next
one to start. -/
def tearSlot (s : State) (id k : Nat) : State :=
  match s.stream? id with
  | none => s
  | some x =>
    if (x.slot k).part.isNone then s
    else
      let s := s.setTSlot id k fun t => { t with part := none }
      let s := match waitingRecv x s.tick k with
        | some (b, stage, _) => failRun s id b stage stTruncated
        | none => s.setTSlot id k fun t => { t with torn := true }
      promote s id k

/-- The source that a RECEIVE stage binds: kind, port and number (R474). -/
def sourceOf (r : List Byte) : Nat × Nat × Nat :=
  match fieldN r 48 1 with
  | 0 => (0, 0, fieldN r 52 4)
  | 1 => (1, fieldN r 49 1, fieldN r 52 4)
  | _ => (2, fieldN r 49 1, 0)

/-- The stream and slot that a source is bound to. -/
def boundTo (s : State) (src : Nat × Nat × Nat) : Option (Nat × Nat) :=
  (s.disp.binds.find? fun b => b.1 == src.1 && b.2.1 == src.2.1 && b.2.2.1 == src.2.2).bind fun b =>
    (s.stream? b.2.2.2.1).map fun x => (x.id, stageSlot (x.stage b.2.2.2.2))

def tearSource (s : State) (src : Nat × Nat × Nat) : State :=
  match boundTo s src with
  | some (id, k) => tearSlot s id k
  | none => s

/-- RECORD_ARRIVAL: bytes of an ingress record; where they find no space, a queue pair answers receiver-not-ready and a
datagram is dropped and counted. -/
def recordArrival (id k : Nat) (origin data : List Byte) (last : Bool) (s : State) : State :=
  let idle := (s.open? id).any fun x => !(x.state == .running || x.state == .draining)
  if fieldN origin 0 1 = 3 ∧ idle then bump s (pgEth (fieldN origin 1 1) + 0x448) 1
  else match arrive s id k origin data last with
  | (s, .taken) => s
  | (s, .noSpace) =>
    let port := fieldN origin 1 1
    if fieldN origin 0 1 = 3 then bump s (pgEth port + 0x448) 1
    else { s with out := .nak port (fieldN origin 8 4) 0x20 :: s.out }

def execRecordArrival (stream slotIx : Nat) (origin data : List Byte) (last : Bool) (s : State) : Host.Outcome State Fault Refusal :=
  .next (recordArrival stream slotIx origin data last s)

/-- One more STALLED event in STALLS (R82). -/
def stallCounted (s : State) (id k : Nat) : State :=
  (s.setTSlot id k fun t => { t with stalled := true }).setStream id fun x => { x with
    stalls := (x.stalls + 1) % 2 ^ 32
    dirty := true }

/-- STALL_TIMER_EXPIRY: a partial record has been silent to the end of the tick in which STALL_TICKS run out, while the stream is
RUNNING or DRAINING (R81, R82). -/
def stallExpiry (id k : Nat) (s : State) : State :=
  match s.open? id with
  | none => s
  | some x =>
    let t := x.slot k
    if t.part.isSome && !t.stalled && (x.state == .running || x.state == .draining) && decide (t.lastByte + x.stallTicks < s.tick) then
      keepStatus (stallCounted s id k) id
    else s

def execStallTimerExpiry (stream slotIx : Nat) (s : State) : Host.Outcome State Fault Refusal := .next (stallExpiry stream slotIx s)

/-! ### Queue pairs (R470 to R472) -/

/-- A queue pair by its number; context i belongs to number 0x100 + i. -/
def State.qp? (s : State) (n : Nat) : Option Qp := s.ext.qps.find? fun q => q.index + 0x100 == n
def State.setQp (s : State) (n : Nat) (f : Qp → Qp) : State :=
  { s with ext := { s.ext with qps := s.ext.qps.map fun q => if q.index + 0x100 = n then f q else q } }

def Qp.port (q : Qp) : Nat := fieldN q.ctx 2 1
def Qp.flags (q : Qp) : Nat := fieldN q.ctx 1 1
def Qp.gid (q : Qp) : List Byte := sliceB q.ctx 16 16

def State.port (s : State) (p : Nat) : Port := s.ext.ports.getD p {}
def State.setPort (s : State) (p : Nat) (f : Port → Port) : State := { s with ext := { s.ext with ports := modifyAt s.ext.ports p f } }

/-- The READY queue pair marked PEER to a peer on a port. -/
def peerQp (s : State) (port : Nat) (gid : List Byte) : Option Qp :=
  s.ext.qps.find? fun q => q.state == .ready && bitOf q.flags 2 && q.port == port && q.gid == gid

/-- What a torn queue pair takes with it: partial records, and the batches whose messages it had not seen acknowledged. -/
def qpTear (s : State) (n : Nat) (st : QpState) : State :=
  match s.qp? n with
  | none => s
  | some q =>
    let s := s.setQp n fun q => { q with state := st, msgs := [] }
    let s := q.msgs.foldl (fun s m => failRun s m.stream m.batch m.stage stPeer) s
    let s := tearSource s (0, 0, n)
    q.msgs.foldl (fun s m => match s.stream? m.stream with
      | some x => if stOp (x.stage m.stage) = 0x0800 then promote s x.id (stageSlot (x.stage m.stage)) else s
      | none => s) s

/-- ETH.LAST_ERR of a queue pair's port. -/
def noteQp (s : State) (port cause index : Nat) : State := firstEvent s (pgEth port) 0x460 (cause * 2 ^ 48 + index)

/-- A queue pair moves to ERROR (R470): STATE 2 is written to its context. -/
def qpError (s : State) (n cause : Nat) : State :=
  match s.qp? n with
  | none => s
  | some q =>
    let s := (devWrite (wakeForWrite (qpTear s n .error) q.addr) q.addr [2]).1
    noteQp (bump s (pgEth q.port + 0x458) 1) q.port cause q.index

/-- Bytes of a packet by PMTU, and the PSN after a message or response of n bytes: one for each packet (R470). -/
def Qp.mtu (q : Qp) : Nat := 1024 * 2 ^ fieldN q.ctx 60 1
def Qp.nextPsn (q : Qp) (psn n : Nat) : Nat := (psn + max 1 (ceilDiv n q.mtu)) % 2 ^ 24

/-- A message given to a queue pair; it leaves at once where the port is up, and otherwise by retransmission (R472). -/
def qpSend (s : State) (n : Nat) (m : QpMsg) : State :=
  match s.qp? n with
  | none => s
  | some q =>
    let sent := q.nextPsn q.sendPsn m.data.length
    let s := s.setQp n fun q => { q with
      msgs := q.msgs ++ [m]
      sendPsn := sent
      sentAt := if q.msgs = [] then s.tick else q.sentAt }
    if (s.port q.port).up then { s with out := .packet q.port n m.kind m.data :: s.out } else s

/-! ### SEND (R477, R478) -/

/-- The reserved bytes and values of a destination entry. -/
def destOk (b : List Byte) : Bool :=
  let kind := fieldN b 0 1
  decide (kind ≤ 3) && decide (fieldN b 1 1 ≤ 3)
  && (if kind = 3 then fieldN b 2 2 != 0 && zeroAt b 8 8
    else fieldN b 2 2 == 0 && (kind != 2 || zeroAt b 12 12) && (kind == 1 || zeroAt b 24 4) && zeroAt b 28 4)

/-- The fields of a message that its packet carries: RKEY, REMOTE_ADDR and IMM before the data. -/
def packetOf (b data : List Byte) : List Byte := sliceB b 12 16 ++ data

/-- One message of a SEND stage. -/
def sendOne (c : Ctx) (entry data : List Byte) (s : State) : Res Unit :=
  let kind := fieldN entry 0 1
  let port := fieldN entry 1 1
  let limit := fieldN entry 4 4
  if !(destOk entry) then fail s stBadField
  else if kind = 3 then
    if (limit ≠ 0 ∧ limit < data.length) ∨ 9000 < data.length then fail s stNoSpace
    else if !(s.port port).up then fail s stPeer
    else ok { s with out := .packet port 0 3 (sliceB entry 2 2 ++ sliceB entry 16 16 ++ data) :: s.out } ()
  else match s.qp? (fieldN entry 8 4) with
    | none => fail s stPeer
    | some q =>
      if q.port ≠ port then fail s stBadField
      else if limit ≠ 0 ∧ limit < data.length then fail s stNoSpace
      else if q.state ≠ .ready then fail s stPeer
      else ok (qpSend s (fieldN entry 8 4) ⟨c.stream, c.idx, c.stage, kind, packetOf entry data⟩) ()

/-- The messages of a SEND stage's input. -/
def sendMessages (c : Col) : List (List Byte) := if c.kind = kBytes then [c.data] else (List.range c.count).map c.text

/-- The destination entries: one for each element, or the one that the slot's descriptor points at. -/
def sendEntries (c : Ctx) (ins : List (Option Col)) (n : Nat) (s : State) : Res (List (List Byte)) :=
  if bitOf (c.n 49 1) 0 then ok s ((List.range n).map fun i => sliceB (inCol ins 1).data (32 * i) 32)
  else
    let s := promote s c.stream (c.n 48 1)
    match (s.stream? c.stream).bind fun x => (x.slot (c.n 48 1)).active with
    | none => fail s stBadField
    | some d => andThen (readMem s (Desc.of d.bytes).addr 32) fun s e => ok s (List.replicate n e)

/-- SEND at its issue: messages leave in element order; the first that cannot leave fails the stage. -/
def sendIssue (c : Ctx) (ins : List (Option Col)) (s : State) : State :=
  let r := andThen (loadAll s ins) fun s ins =>
    let ms := sendMessages (inCol ins 0)
    andThen (sendEntries c ins ms.length s) fun s es =>
      eachRes (fun s m => sendOne c m.1 m.2 s) s (es.zip ms)
  match r with
  | (s, .ok _) => s
  | (s, .error e) => failRun s c.stream c.idx c.stage e.1

/-- Every message of a SEND stage has been acknowledged. -/
def sendDone (s : State) (id batch stage : Nat) : Bool :=
  !(s.msgs.any fun m => m.stream == id && m.batch == batch && m.stage == stage)

/-! ### RECEIVE with SOURCE NVME (R476) -/

/-- Bytes of a logical block of an enabled NVMe queue's namespace: the drive's own (log 41, DESIGN CHOICE). -/
def lbaBytes (s : State) (q : Nat) : Nat := Config.freeReal 900 (s.reg (pgPcie + 0x800 + 64 * q)).toNat 0

/-- An extent: starting block and block count. -/
def extentOf (w : Nat) : Nat × Nat := (w % 2 ^ 48, if w / 2 ^ 48 = 0 then 256 else w / 2 ^ 48)

/-- The next extent of a RECEIVE stage is asked of its queue once its record would fit; one extent is under way at a time, and
the number of its completions is the drive's. -/
def nvmeNext (s : State) (id batch stage : Nat) : State :=
  match s.stream? id, s.run? id batch stage with
  | some x, some run =>
    let r := x.stage stage
    let q := fieldN r 49 1
    match run.asked with
    | [] => s
    | e :: rest =>
      let t := x.slot (stageSlot r)
      if run.failure.isSome || s.ext.nvme.any (·.queue == q) then s
      else if !(bit (s.reg (pgPcie + 0x800 + 64 * q)) 63) then failRun s id batch stage stTruncated
      else
        let n := (extentOf e).2 * lbaBytes s q
        match t.active with
        | none => s
        | some d =>
          if n ≤ 65536 ∧ landingBytes d < placeAt t d + n then s
          else
            let f := takeFree s
            let rd : NvmeRead := { queue := q, stream := id, batch := batch, stage := stage, extent := e, left := f.2 + 1 }
            let s := f.1.setRun id batch stage fun r => { r with asked := rest }
            let s := { s with ext := { s.ext with nvme := s.ext.nvme ++ [rd] } }
            { s with out := .pcie 0x40 (s.reg (pgPcie + 0x818 + 64 * q)).toNat (natLE 8 e) :: s.out }
  | _, _ => s

/-- An NVMe queue is withdrawn (R476): its read is discarded with its partial record. -/
def nvmeTear (s : State) (q : Nat) : State :=
  let mine := s.ext.nvme.filter (·.queue == q)
  let s := { s with ext := { s.ext with nvme := s.ext.nvme.filter (·.queue != q) } }
  let s := tearSource s (2, q, 0)
  mine.foldl (fun s m => failRun s m.stream m.batch m.stage stTruncated) s

/-! ### RECEIVE at issue and finish -/

def recvIssue (c : Ctx) (ins : List (Option Col)) (s : State) : State :=
  let k := stageSlot c.record
  match s.stream? c.stream with
  | none => s
  | some x =>
    if (x.slot k).torn then failRun (s.setTSlot c.stream k fun t => { t with torn := false }) c.stream c.idx c.stage stTruncated
    else if c.n 48 1 = 2 then
      match loadAll s ins with
      | (s, .error e) => failRun s c.stream c.idx c.stage e.1
      | (s, .ok ins) =>
        let ext := (List.range (inCol ins 0).count).map (inCol ins 0).bits
        nvmeNext (claim (s.setRun c.stream c.idx c.stage fun r => { r with asked := ext }) c.stream k) c.stream c.idx c.stage
    else claim s c.stream k

/-- The records that a stage needs have arrived. -/
def recvReady (s : State) (id batch stage rows : Nat) : Bool :=
  match s.stream? id with
  | some x => (takenBy (x.slot (stageSlot (x.stage stage))) batch stage).length == recordsOf (x.stage stage) rows
  | none => false

/-- RECEIVE's outputs: the records, and their origins. -/
def recvOut (c : Ctx) (s : State) : Res (List (Option Col)) :=
  match s.stream? c.stream with
  | none => fail s stStopped
  | some x =>
    let rs := takenBy (x.slot (stageSlot c.record)) c.idx c.stage
    ok s [some (mkText (rs.map fun a => some a.data)),
      some (mkTensor 6 [rs.length, 1, 1, 32] ((rs.flatMap fun a => sliceB a.origin 0 32).map fun b => some b.toNat))]

/-! ### Checks (R474, R477) -/

def extUses (r : List Byte) : List Use × List Use :=
  if stOp r = 0x0800 then ([.must, Use.iff (bitOf (fieldN r 49 1) 0)], [])
  else ([Use.iff (fieldN r 48 1 == 2)], [.must, .must])

/-- The checks of SEND and RECEIVE at the bind; taken tells sources bound by other stages. -/
def extBind (s : State) (taken : List (Nat × Nat × Nat)) (r : List Byte) : List Fail :=
  if stOp r = 0x0800 then
    failIf (decide (15 < fieldN r 48 1)) stBadField 48 ++ failIf (decide (1 < fieldN r 49 1)) stBadField 49 ++ failIf (!(zeroAt r 50 206)) stBadField 50
  else
    let src := fieldN r 48 1
    let q := s.qp? (fieldN r 52 4)
    failIf (decide (2 < src)) stBadField 48 ++ failIf (decide ((if src = 2 then 15 else 3) < fieldN r 49 1)) stBadField 49
    ++ failIf (src == 0 && (q.map fun q => q.port != fieldN r 49 1) == some true) stBadField 49
    ++ failIf (decide (15 < fieldN r 50 1)) stBadField 50 ++ failIf (!(zeroAt r 51 1)) stBadField 51
    ++ failIf (src == 1 && decide (fieldN r 52 4 = 0 ∨ 65535 < fieldN r 52 4)) stBadField 52
    ++ failIf (decide (65536 < fieldN r 56 4)) stBadField 56 ++ failIf (!(zeroAt r 60 196)) stBadField 60
    ++ failIf (taken.contains (sourceOf r)) stDenied 52
    ++ failIf (src == 0 && (q.map (·.state)) != some .ready) stPeer 52

def extInputs (r : List Byte) (ins : List (Option Col)) : List Fail :=
  if stOp r = 0x0800 then
    checkIn ins 0 (fun c => c.kind == kBytes || isColumn c (· == 0x0E)) ++ checkIn ins 1 (fun c => c.kind == kTensor && c.type_ == 6)
    ++ match ins.getD 0 none, ins.getD 1 none with
      | some a, some b => failIf (b.count != 32 * (if a.kind = kBytes then 1 else a.count)) stBadField (inOff 1)
      | _, _ => []
  else checkIn ins 0 fun c => isColumn c (· == 9)

/-- KIND, TYPE and dimensions of RECEIVE's outputs (R475). -/
def extOut (r : List Byte) (rows o : Nat) : Nat × Nat × List Nat :=
  if o = 0 then (kColumn, 0x0E, []) else (kTensor, 6, [recordsOf r rows, 1, 1, 32])

/-! ### REARM (R77 to R79) -/

/-- A descriptor that R8 allows, whatever its use, with USED and COUNT 0 (R183). -/
def slotDescOk (d : Desc) : Bool := d.fieldsOk false && d.used == 0 && d.count == 0

def rearmChecks (s : State) (x : Stream) (r : Rec) : State × List Fail :=
  let pre := commonFails r x.session false 44 ++ failIf (r.stream != x.id) stBadField 4
    ++ failIf (decide (15 < r.n 24 1)) stBadField 24 ++ failIf (!(zeroAt r.bytes 25 7)) stBadField 25 ++ failIf (r.n 32 8 % 64 != 0) stBadField 32
  let post := failIf (x.state == .idle || x.state == .halted || x.state == .faulted) stWrongState 0xFF
  if r.n 32 8 % 64 ≠ 0 then (s, pre ++ post)
  else if !(inR44 (r.n 32 8) 64) then (s, pre ++ failIf true stBounds 32 ++ post)
  else match devRead s (r.n 32 8) 64 with
    | (s, .error e) => (s, pre ++ failIf true e.status 0xFF ++ post)
    | (s, .ok b) => (s, pre ++ failIf (!(slotDescOk (Desc.of b))) stBadField 32 ++ failIf (!((Desc.of b).inBounds false)) stBounds 32 ++ post)

/-- The front record of a stream's ring, when it has an opcode and may start. -/
def frontRec (s : State) (id op : Nat) : Option (Stream × Rec) :=
  if !(ringsRead s) then none
  else (s.open? id).bind fun x => match x.ring.recs with
    | r :: _ => if r.op = op ∧ barrierOk s (.stream id) r ∧ ¬ x.closing then some (x, r) else none
    | [] => none

def takeRec (s : State) (id : Nat) : State := s.setStream id fun x => { x with ring := { x.ring with recs := x.ring.recs.drop 1 } }

/-- The new descriptor acts on its slot. -/
def rearmSlot (s : State) (x : Stream) (r : Rec) : State :=
  let k := r.n 24 1
  let d : SlotDesc := { bytes := peek s (r.n 32 8) 64, gen := r.n 40 4, idx := r.idx, waits := true, tag := r.tag, signal := r.signal }
  let t := x.slot k
  if slotBusy s x k then
    match t.shadow with
    | none => s.setTSlot x.id k fun t => { t with shadow := some d }
    | some o =>
      let s := endRearm s x.id o stDone flReplaced
      s.setTSlot x.id k fun t => { t with shadow := some { d with replaced := some o.gen } }
  else
    rearmProgress (s.setTSlot x.id k fun t => activate t (some d)) x.id k

/-- REARM. -/
def rearmStream (id : Nat) (s : State) : State :=
  match frontRec s id 0x21 with
  | none => s
  | some (x, r) =>
    match rearmChecks (takeRec s id) x r with
    | (s, fs) =>
      let s := match pickFail fs with
        | some f => endRec (countReject s f.status) id r f.status f.detail (r.n 40 4) 0
        | none =>
          let s := promote s id (r.n 24 1)
          match s.stream? id with
          | some x => rearmSlot s x r
          | none => s
      settle s (.stream id)

def execRearm (stream : Nat) (s : State) : Host.Outcome State Fault Refusal := .next (rearmStream stream s)

end Sys2Proof.Machine
end

