-- ==== Sys2Proof/Machine/Peer.lean ====
section
/-! DEFINITION. Peer sessions (R41, R150): what this part publishes on a peer as its client when BIND_PLAN accepts a plan with
PEER_LOOKUP stages, and how it closes what it opened. Where things lie in AREA is the model's (log 81, DESIGN CHOICE). -/

namespace Sys2Proof.Machine

/-! ### What goes to a peer (R26, R34, R150) -/

/-- Kinds of packets of a peer session beside its requests (kind 16): RDMA writes and atomic compare-and-swaps. -/
def pkWrite : Nat := 17
def pkCas : Nat := 18

/-- A packet to a peer: the address it is for, and its bytes. -/
def peerPacket (q : Qp) (kind : Nat) (s : State) (addr : Nat) (data : List Byte) : State :=
  { s with out := .packet q.port (q.index + 0x100) kind (natLE 8 addr ++ data) :: s.out }

def peerWrite (q : Qp) (s : State) (addr : Nat) (data : List Byte) : State := peerPacket q pkWrite s addr data

/-- Zero bytes with fields written in: offset, size and value. -/
def bytesWith (n : Nat) (fields : List (Nat × Nat × Nat)) : List Byte :=
  fields.foldl (fun b f => overlay b f.1 (natLE f.2.1 f.2.2)) (List.replicate n 0)

/-- A command record (R34). -/
def recordBytes (op stream slot : Nat) (params : List (Nat × Nat × Nat)) : List Byte :=
  bytesWith 128 ([(0, 2, op), (4, 2, stream), (6, 2, slot)] ++ params)

/-- A ring header (R27): an empty ring of 64 entries. -/
def ringHeader (base kind : Nat) : List Byte := bytesWith 64 [(0, 8, base), (8, 1, 6), (9, 1, kind)]

/-- The base of a session slot on a peer (R25). -/
def peerSlotAddr (slot : Nat) : Nat := 0x40000000000 + 512 * slot

/-! ### Sessions (R41) -/

/-- The lower bound of the levels proposed. -/
def peerFloor (s : State) : Nat := max 0x0101 s.fuses.floor

/-- A slot claimed on a peer, its rings, and OPEN_SESSION published there with SFLAGS.PEER. -/
def openPeerSession (q : Qp) (owner slot level area peer : Nat) (s : State) : State :=
  let at_ := peerSlotAddr slot
  let s := peerPacket q pkCas s at_ (natLE 8 0 ++ natLE 8 (owner + 1))
  let s := peerWrite q s (at_ + 64) (ringHeader (area + 0x6000) 0)
  let s := peerWrite q s (at_ + 128) (ringHeader (area + 0x8000) 1)
  let s := peerWrite q s (area + 0x6000) (recordBytes 0x01 0xFFFF slot [(24, 2, peerFloor s), (26, 2, 0x0202), (28, 4, 1)])
  let s := peerWrite q s (at_ + 112) (natLE 8 1)
  { s with disp := { s.disp with peers := s.disp.peers ++ [{ session := owner, peer := peer, port := q.port, slot := slot, level := level, area := area }] } }

/-- The open session to a peer. -/
def peerSession? (s : State) (peer : Nat) : Option PeerSession := s.disp.peers.find? (·.peer == peer)

def State.setPeer (s : State) (peer : Nat) (f : PeerSession → PeerSession) : State :=
  { s with disp := { s.disp with peers := s.disp.peers.map fun p => if p.peer = peer then f p else p } }

/-- A record published on the control ring of a peer session. -/
def publish (q : Qp) (peer op stream : Nat) (params : List (Nat × Nat × Nat)) (s : State) : State :=
  match peerSession? s peer with
  | none => s
  | some p =>
    let s := peerWrite q s (p.area + 0x6000 + p.published % 64 * 128) (recordBytes op stream p.slot params)
    let s := peerWrite q s (peerSlotAddr p.slot + 112) (natLE 8 (p.published + 1))
    s.setPeer peer fun p => { p with published := p.published + 1 }

/-! ### Streams of REMOTE shards (R150) -/

/-- A REMOTE shard of a plan: its stage and number, its entry, the stage record, and the feature entries. -/
structure Remote where
  stage : Nat
  shard : Nat
  entry : Shard
  record : List Byte
  features : List Feature
  deriving DecidableEq, Repr

/-- The feature entries as the peer is given them: MEAN is bound as SUM. -/
def remoteFeatures (h : Remote) : List Byte :=
  h.features.flatMap fun f => bytesWith 16 [(2, 1, if f.pool = 1 then 0 else f.pool), (4, 4, f.off)]

/-- The one-stage LOOKUP plan of a REMOTE shard: pooled FP32 rows for the plan's features. -/
def remoteStage (h : Remote) : List Byte :=
  let weighted := bitOf (fieldN h.record 73 1) 0
  bytesWith 256 ([(0, 2, 0x0200), (16, 2, 0xFE00), (18, 2, 0xFE01), (20, 2, if weighted then 0xFE02 else 0xFFFF)]
    ++ ((List.range 5).map fun i => (22 + 2 * i, 2, 0xFFFF)) ++ [(32, 2, 0xFE00), (34, 2, 0xFFFF), (36, 2, 0xFFFF), (38, 2, 0xFFFF)]
    ++ [(48, 8, h.entry.area + 0x100), (56, 8, h.entry.area + 0x4000), (64, 2, 1), (66, 2, h.features.length),
      (68, 4, fieldN h.record 68 4), (73, 1, fieldN h.record 73 1)])

/-- A stream opened on the peer for a shard: its rings, the REF record of REMOTE_TABLE, features and plan are placed in AREA, and
OPEN_STREAM, BIND_PLAN and RUN published. -/
def startRemote (q : Qp) (id remote : Nat) (h : Remote) (s : State) : State :=
  let a := h.entry.area
  let peer := leNat h.entry.gid
  let s := peerWrite q s a (ringHeader (a + 0x1000) 0)
  let s := peerWrite q s (a + 0x40) (ringHeader (a + 0x3000) 1)
  let s := peerWrite q s (a + 0x100) (bytesWith 128 [(0, 2, h.entry.table), (2, 1, formRef)])
  let s := peerWrite q s (a + 0x4000) (remoteFeatures h)
  let s := peerWrite q s (a + 0x200) (remoteStage h)
  let s := publish q peer 0x10 remote [(24, 8, a), (32, 8, a + 0x40), (40, 8, a + 0x80)] s
  let s := publish q peer 0x11 remote [(24, 8, a + 0x200), (32, 1, 1)] s
  let s := publish q peer 0x12 remote [] s
  s.setPeer peer fun p => { p with streams := p.streams ++ [⟨id, h.stage, h.shard, remote, a⟩] }

/-- Answers of peers that are still to be used, and the failures met. -/
abbrev Peering := State × List PeerAnswer × List Fail

/-- One REMOTE shard: the session to its peer is opened unless one is open, and then its stream; anything but success completes the
bind with PEER, naming the stage (R41, R152). -/
def openRemote (slot id : Nat) (h : Remote) (a : Peering) : Peering :=
  let bad (s : State) (l : List PeerAnswer) : Peering := (s, l, [{ status := stPeer, stage := h.stage + 1 }])
  let peer := leNat h.entry.gid
  let run (q : Qp) (s : State) : List PeerAnswer → Peering
    | .running r :: t => (startRemote q id r h s, t, [])
    | _ :: t => bad s t
    | [] => bad s []
  if a.2.2 ≠ [] then a
  else match peerQp a.1 h.entry.port h.entry.gid with
    | none => bad a.1 a.2.1
    | some q =>
      if (peerSession? a.1 peer).isSome then run q a.1 a.2.1
      else match a.2.1 with
        | .opened k l :: t =>
          if peerFloor a.1 ≤ l ∧ implementedLevels.contains l then run q (openPeerSession q slot k l h.entry.area peer a.1) t else bad a.1 t
        | _ :: t => bad a.1 t
        | [] => bad a.1 []

/-! ### Closing (R41) -/

/-- The close of a peer session: HALT through the session's mailbox; RESET_STREAM and CLOSE_STREAM for each stream opened there;
CLOSE_SESSION. -/
def closePeer (q : Qp) (p : PeerSession) (s : State) : State :=
  let at_ := peerSlotAddr p.slot
  let s := peerWrite q s (at_ + 192) (recordBytes 0x30 0xFFFF p.slot [(24, 1, 1)])
  let s := peerWrite q s (at_ + 8) (natLE 8 1)
  let s := p.streams.foldl (fun s x => publish q p.peer 0x17 x.remote [] (publish q p.peer 0x16 x.remote [] s)) s
  publish q p.peer 0x02 0xFFFF [] s

end Sys2Proof.Machine
end

