-- ==== Sys2Proof/Machine/Picture.lean ====
section
/-! DEFINITION. PICTURE_DECODE with its cache, and PICTURE_TRANSFORM (R309 to R320). -/

namespace Sys2Proof.Machine

/-! ### Sample descriptors (R309) -/

def kPictures : Nat := 4

/-- An FP32 code is finite. -/
def fin32 (x : Nat) : Bool := (fp32.dec x).isFin

/-- The seven FP32 fields of a descriptor: crop, ANGLE, BRIGHT, CONTRAST. -/
def descFloats (d : List Byte) : List Nat := (List.range 7).map fun i => fieldN d (24 + 4 * i) 4

/-- The crop fields stand for the whole frame. -/
def cropWhole (d : List Byte) : Bool := (List.range 4).all fun i => (fp32.dec (fieldN d (24 + 4 * i) 4)).isZero

/-- A descriptor's own faults, before its extents: CORRUPT, OVERSIZE or none. -/
def descStatus (d : List Byte) : Nat :=
  let side (o : Nat) : Bool := let v := fp32.dec (fieldN d o 4)
    !v.isZero && !v.isNeg
  if bitsOf (fieldN d 12 4) 31 5 ≠ 0 ∨ ¬ zeroAt d 52 4 ∨ fieldN d 8 4 = 0 ∨ ¬ (descFloats d).all fin32
      ∨ ¬ (cropWhole d || (side 32 && side 36)) ∨ fieldN d 56 8 % 8 ≠ 0 then stCorrupt
  else if 67108864 < fieldN d 8 4 then stOversize
  else if ¬ inR44 (fieldN d 0 8) (fieldN d 8 4) then stBounds
  else 0

/-- A mesh's header as it lies in memory: CORRUPT when malformed, BOUNDS when the mesh leaves the places of R44. -/
def meshStatus (s : State) (d : List Byte) : Res Nat :=
  let a := fieldN d 56 8
  if a = 0 then ok s 0
  else if ¬ inR44 a 16 then ok s stBounds
  else andThen (readMem s a 16) fun s h =>
    let gx := fieldN h 0 2
    let gy := fieldN h 2 2
    if gx < 2 ∨ 64 < gx ∨ gy < 2 ∨ 64 < gy ∨ ¬ zeroAt h 4 12 then ok s stCorrupt
    else ok s (if inR44 a (16 + 8 * gx * gy) then 0 else stBounds)

/-! ### PICTURE_DECODE (R310 to R314) -/

def pdLimit (x : Nat) : Nat := if x = 0 then 16384 else x

/-- The channels of decoded pictures. -/
def pdChannels (r : List Byte) : Nat := if fieldN r 49 1 = 0 then 3 else 1

/-- The decode class of a stage. -/
def pdClass (r : List Byte) : Nat := fieldN r 48 1 * 2 + fieldN r 49 1

/-- The picture of decoded data: its size by R312, and samples that are a function of the data alone (log 5, DESIGN CHOICE). -/
def decodedPic (r bytes : List Byte) (w h : Nat) : Pic :=
  let s := 2 ^ fieldN r 48 1
  let w' := ceilDiv w s
  let h' := ceilDiv h s
  { w := w', h := h', ch := pdChannels r, data := (List.range (w' * h' * pdChannels r)).map (Config.freeByte (0x100 + pdClass r) bytes) }

/-- 4 KiB blocks that a cached picture occupies. -/
def picBlocks (p : Pic) : Nat := ceilDiv p.data.length 4096

/-- The most recent entries that fit a number of blocks. -/
def cacheFit : Nat → List (Nat × Nat × Pic) → List (Nat × Nat × Pic)
  | _, [] => []
  | room, e :: t => if picBlocks e.2.2 ≤ room then e :: cacheFit (room - picBlocks e.2.2) t else []

/-- A decoded picture inserted as the most recent entry (R314). -/
def cacheInsert (x : Stream) (id cls : Nat) (p : Pic) : Stream :=
  if x.cache = 0 ∨ x.cache * 256 < picBlocks p then x
  else { x with cached := cacheFit (x.cache * 256) ((id, cls, p) :: x.cached.filter fun e => !(e.1 == id && e.2.1 == cls)) }

/-- A hit moves its entry to the front. -/
def cacheTouch (x : Stream) (id cls : Nat) : Stream :=
  { x with cached := (x.cached.filter fun e => e.1 == id && e.2.1 == cls) ++ x.cached.filter fun e => !(e.1 == id && e.2.1 == cls) }

/-- A hole, counted at its unit. -/
def picHole (c : Ctx) (page : Nat) (s : State) (desc : List Byte) (status : Nat) : Res Pic :=
  ok (noteErr (bump s (page + 0x418) 1) page 0x438 status c.stream c.stage c.op) { status := status, desc := desc }

/-- One sample: its descriptor, then the cache or its JPEG data. -/
def decodeSample (c : Ctx) (page : Nat) (s : State) (d : List Byte) : Res Pic :=
  let r := c.record
  andThen (if descStatus d = 0 then meshStatus s d else ok s (descStatus d)) fun s st =>
  if st ≠ 0 then picHole c page s d st
  else
    let id := fieldN d 16 8
    let hit : Option (Nat × Nat × Pic) := (s.stream? c.stream).bind fun x => x.cached.find? fun e => e.1 == id && e.2.1 == pdClass r
    match hit with
    | some e => ok (bump (s.setStream c.stream fun x => cacheTouch x id (pdClass r)) (page + 0x410) 1) { e.2.2 with desc := d }
    | none => andThen (readMem s (fieldN d 0 8) (fieldN d 8 4)) fun s bytes =>
      match readJpeg (pdLimit (c.n 52 2)) (pdLimit (c.n 54 2)) bytes with
      | .hole st unsup => picHole c page (if unsup then bump s (page + 0x420) 1 else s) d st
      | .frame w h _ _ =>
        let p := decodedPic r bytes w h
        let s := bump s (page + 0x408) 1
        let s := if bitOf (fieldN d 12 4) 4 then s else s.setStream c.stream fun x => cacheInsert x id (pdClass r) p
        ok s { p with desc := d }

/-- The sample table's bytes, and descriptor i of it. -/
def tableEntries (t : Col) : Nat := t.size / 64
def tableEntry (t : Col) (i : Nat) (s : State) : Res (List Byte) :=
  match t.src with
  | some m => readMem s (m.addr + 64 * i) 64
  | none => ok s ((t.data.drop (64 * i)).take 64)

/-- One row of sample indices (R311); a null index is an empty row. -/
def decodeRow (c : Ctx) (ix table : Col) (s : State) (k : Nat) : Res Pic :=
  let page := pageOfRow c.pages ix.count k
  let i := ix.bits k
  if ¬ ix.isValid k ∨ i = 2 ^ 64 - 1 then ok s { empty := true }
  else if tableEntries table ≤ i then fail (noteErr s page 0x438 stCorrupt c.stream c.stage c.op) stCorrupt
  else match andThen (tableEntry table i s) fun s d => decodeSample c page s d with
    | (s, .error e) => (noteErr s page 0x438 e.1 c.stream c.stage c.op, .error e)
    | x => x

/-- A picture set. -/
def mkPics (ps : List Pic) : Col := { kind := kPictures, count := ps.length, pics := ps }

/-- PICTURE_DECODE over a batch. -/
def decodeRun (c : Ctx) (ins : List (Option Col)) (s : State) : Res (List (Option Col)) :=
  let ix := inCol ins 0
  andThen (eachRes (decodeRow c ix (inCol ins 1)) s (List.range ix.count)) fun s ps =>
    match (if bitOf (c.n 50 1) 0 then ps.find? fun p => p.status != 0 else none) with
    | some p => fail s p.status
    | none => ok s [some (mkPics ps)]

def decodeBind (r : List Byte) : List Fail :=
  failIf (decide (3 < fieldN r 48 1)) stBadField 48 ++ failIf (decide (1 < fieldN r 49 1)) stBadField 49
  ++ failIf (decide (1 < fieldN r 50 1)) stBadField 50 ++ failIf (decide (8 < fieldN r 51 1)) stBadField 51
  ++ failIf (decide (16384 < fieldN r 52 2)) stBadField 52 ++ failIf (decide (16384 < fieldN r 54 2)) stBadField 54
  ++ failIf (decide (65536 < fieldN r 56 4)) stBadField 56 ++ failIf (!(zeroAt r 60 196)) stBadField 60

/-! ### PICTURE_TRANSFORM (R315 to R320): FP32 steps on codes -/

def a32 (x y : Nat) : Nat := fadd fp32 x y
def s32 (x y : Nat) : Nat := fsub fp32 x y
def m32 (x y : Nat) : Nat := fmul fp32 x y
def d32 (x y : Nat) : Nat := fdiv fp32 x y
def i32 (i : Int) : Nat := fp32.enc (FV.ofInt i)
def half32 : Nat := 0x3F000000

/-- A point. -/
abbrev Pt := Nat × Nat

/-- The crop of a descriptor, or the whole corrected frame: X, Y, width, height. -/
def cropOf (d : List Byte) (p : Pic) : Nat × Nat × Nat × Nat :=
  if cropWhole d then (0, 0, i32 p.w, i32 p.h) else (fieldN d 24 4, fieldN d 28 4, fieldN d 32 4, fieldN d 36 4)

def quarter : Nat → Pt → Pt
  | 0, q => q
  | n + 1, q => quarter n (q.2, s32 one32 q.1)

/-- Steps 1 to 4 of R316 for a place (u, v) in the output. -/
def placeIn (r d : List Byte) (p : Pic) (u v : Nat) : Pt :=
  let q : Pt := (d32 u (i32 (fieldN r 48 2)), d32 v (i32 (fieldN r 50 2)))
  let fl := fieldN d 12 4
  let q : Pt := (if bitOf fl 0 then s32 one32 q.1 else q.1, if bitOf fl 1 then s32 one32 q.2 else q.2)
  let q := quarter (bitsOf fl 3 2) q
  let (x, y, w, h) := cropOf d p
  (a32 x (m32 q.1 w), a32 y (m32 q.2 h))

/-- ANGLE turns the point about the crop's centre (step 5). The last bits of sine and cosine are not stated (log 4, DESIGN CHOICE). -/
def turn (d : List Byte) (p : Pic) (q : Pt) : Pt :=
  let ang := fieldN d 40 4
  let zero := (fp32.dec ang).isZero
  let cosA := if zero then one32 else Config.freeReal 20 ang 0x0C % 2 ^ 32
  let sinA := if zero then 0 else Config.freeReal 21 ang 0x0C % 2 ^ 32
  let (x, y, w, h) := cropOf d p
  let cx := a32 x (d32 w (i32 2))
  let cy := a32 y (d32 h (i32 2))
  let dx := s32 q.1 cx
  let dy := s32 q.2 cy
  (s32 (a32 cx (m32 dx cosA)) (m32 dy sinA), a32 (a32 cy (m32 dx sinA)) (m32 dy cosA))

/-- A cell index of a mesh and the fractional coordinate in it (R317). -/
def meshCell (g size x : Nat) : Nat × Nat :=
  let f := d32 (m32 x (i32 (g - 1))) (i32 size)
  let i := if fin32 f then (clampI 0 ((g : Int) - 2) (fp32.dec f).floor).toNat else 0
  (i, s32 f (i32 i))

/-- Bilinear interpolation. -/
def lerp32 (a b t : Nat) : Nat := a32 (m32 a (s32 one32 t)) (m32 b t)

/-- A point mapped through a mesh, given as its bytes. -/
def meshMap (mesh : List Byte) (p : Pic) (q : Pt) : Pt :=
  if mesh = [] then q
  else
    let gx := fieldN mesh 0 2
    let gy := fieldN mesh 2 2
    let (i, fx) := meshCell gx p.w q.1
    let (k, fy) := meshCell gy p.h q.2
    let at_ (i k o : Nat) : Nat := fieldN mesh (16 + 8 * (k * gx + i) + o) 4
    let go (o : Nat) : Nat := lerp32 (lerp32 (at_ i k o) (at_ (i + 1) k o) fx) (lerp32 (at_ i (k + 1) o) (at_ (i + 1) (k + 1) o) fx) fy
    (go 0, go 4)

/-- Lens correction (R318). -/
def lensMap (r : List Byte) (q : Pt) : Pt :=
  if ¬ bitOf (fieldN r 57 1) 0 then q
  else
    let n (i : Nat) : Nat := fieldN r (104 + 4 * i) 4
    let f := n 0
    let xn := d32 (s32 q.1 (n 1)) f
    let yn := d32 (s32 q.2 (n 2)) f
    let xx := m32 xn xn
    let yy := m32 yn yn
    let r2 := a32 xx yy
    let r4 := m32 r2 r2
    let g := a32 (a32 (a32 one32 (m32 (n 3) r2)) (m32 (n 4) r4)) (m32 (n 5) (m32 r4 r2))
    let two := i32 2
    let xd := a32 (a32 (m32 xn g) (m32 (m32 (m32 two (n 6)) xn) yn)) (m32 (n 7) (a32 r2 (m32 two xx)))
    let yd := a32 (a32 (m32 yn g) (m32 (n 6) (a32 r2 (m32 two yy)))) (m32 (m32 (m32 two (n 7)) xn) yn)
    (a32 (n 1) (m32 f xd), a32 (n 2) (m32 f yd))

/-- The filter that is used, and whether it replaces FILTER (R319). -/
def filterOf (r d : List Byte) : Nat × Bool :=
  let f := fieldN r 52 1
  let g := if ¬ (fp32.dec (fieldN d 40 4)).isZero then 1
    else if f = 3 ∧ (fieldN d 56 8 ≠ 0 ∨ bitOf (fieldN r 57 1) 0) then 1 else f
  (g, g != f)

/-- Channel c of a pixel on the 0 to 255 scale; outside the picture FILL, or the nearest edge. -/
def pixel (r : List Byte) (p : Pic) (c : Nat) (i j : Int) : Nat :=
  let inside : Bool := decide (0 ≤ i ∧ i < p.w ∧ 0 ≤ j ∧ j < p.h)
  if inside || fieldN r 56 1 == 1 then
    let x := (clampI 0 ((p.w : Int) - 1) i).toNat
    let y := (clampI 0 ((p.h : Int) - 1) j).toNat
    i32 ((p.data.getD ((y * p.w + x) * p.ch + c) 0).toNat)
  else fieldN r (64 + 4 * c) 4

/-- The Keys cubic with a = -0.5, rounded once. -/
def keys (t : FV) : Nat :=
  let t := t.abs
  let one := FV.ofInt 1
  let t2 := t.mul t
  let t3 := t2.mul t
  let h (n : Int) : FV := FV.ofScaled n (-1)
  if t.le one then fp32.enc ((((h 3).mul t3).add ((h (-5)).mul t2)).add one)
  else if t.lt (FV.ofInt 2) then fp32.enc (((((h (-1)).mul t3).add ((h 5).mul t2)).add ((FV.ofInt (-4)).mul t)).add (FV.ofInt 2))
  else 0

/-- A sum of weighted pixels, whose order the manual does not fix. -/
def weigh (fr : Nat → Nat) (l : List (Nat × Nat)) : Nat := sumAny fp32 fr (l.map fun p => m32 p.1 p.2)

def clamp255 (x : Nat) : Nat :=
  let v := fp32.dec x
  if v.lt (FV.ofInt 0) then 0 else if (FV.ofInt 255).lt v then i32 255 else x

/-- The source sampled at a point, for a filter other than AREA; a point that is not finite gives a free value. -/
def sampleAt (fr : Nat → Nat) (filter : Nat) (r : List Byte) (p : Pic) (c : Nat) (q : Pt) : Nat :=
  if ¬ (fin32 q.1 ∧ fin32 q.2) then fr 0 % 2 ^ 32
  else if filter = 0 then pixel r p c (fp32.dec q.1).floor (fp32.dec q.2).floor
  else
    let x := s32 q.1 half32
    let y := s32 q.2 half32
    let i := (fp32.dec x).floor
    let j := (fp32.dec y).floor
    let fx := s32 x (i32 i)
    let fy := s32 y (i32 j)
    if filter = 1 then
      weigh fr [(m32 (s32 one32 fx) (s32 one32 fy), pixel r p c i j), (m32 fx (s32 one32 fy), pixel r p c (i + 1) j),
        (m32 (s32 one32 fx) fy, pixel r p c i (j + 1)), (m32 fx fy, pixel r p c (i + 1) (j + 1))]
    else
      let ks : List Int := [-1, 0, 1, 2]
      let w (f : Nat) (k : Int) : Nat := keys ((FV.ofInt k).add (fp32.dec f).neg)
      clamp255 (weigh fr (ks.flatMap fun b => ks.map fun a => (m32 (w fx a) (w fy b), pixel r p c (i + a) (j + b))))

/-- The pixels that an interval overlaps, with the overlap of each. -/
def overlaps (lo hi : Nat) : List (Int × Nat) :=
  let a := fp32.dec lo
  let b := fp32.dec hi
  let i0 := a.floor
  let i1 := b.floor
  (List.range ((i1 - i0).toNat + 1)).map fun k =>
    let i := i0 + k
    let l := a.max (FV.ofInt i)
    let h := b.min (FV.ofInt (i + 1))
    (i, fp32.enc (h.add l.neg))

/-- The mean of the source over a pixel's footprint (AREA). -/
def areaAt (fr : Nat → Nat) (r d : List Byte) (p : Pic) (c u v : Nat) : Nat :=
  let a := placeIn r d p (i32 u) (i32 v)
  let b := placeIn r d p (i32 (u + 1)) (i32 (v + 1))
  if ¬ (fin32 a.1 ∧ fin32 a.2 ∧ fin32 b.1 ∧ fin32 b.2) then fr 0 % 2 ^ 32
  else
    let lo (x y : Nat) : Nat := fp32.enc ((fp32.dec x).min (fp32.dec y))
    let hi (x y : Nat) : Nat := fp32.enc ((fp32.dec x).max (fp32.dec y))
    let l : List (Nat × Nat) := (overlaps (lo a.2 b.2) (hi a.2 b.2)).flatMap fun y =>
      (overlaps (lo a.1 b.1) (hi a.1 b.1)).map fun x => (m32 x.2 y.2, pixel r p c x.1 y.1)
    d32 (weigh fr l) (sumAny fp32 (fun i => fr (i + 1)) (l.map (·.1)))

/-- Channel c of the source for output pixel (u, v). -/
def sourceAt (fr : Nat → Nat) (r d mesh : List Byte) (p : Pic) (c u v : Nat) : Nat :=
  let f := (filterOf r d).1
  if f = 3 then areaAt fr r d p c u v
  else sampleAt fr f r p c (lensMap r (meshMap mesh p (turn d p (placeIn r d p (a32 (i32 u) half32) (a32 (i32 v) half32)))))

/-- 0.299 R + 0.587 G + 0.114 B. -/
def luma32 (a b c : Nat) : Nat := a32 (a32 (m32 0x3E991687 a) (m32 0x3F1645A2 b)) (m32 0x3DE978D5 c)

/-- The channels of an output pixel, in order, after contrast, brightness and channel order (R320). -/
def colours (fr : Nat → Nat) (r d mesh : List Byte) (p : Pic) (u v : Nat) : List Nat :=
  let adj (x : Nat) : Nat := a32 (a32 (m32 (s32 x (i32 128)) (a32 one32 (fieldN d 48 4))) (i32 128)) (fieldN d 44 4)
  let chs := (List.range p.ch).map fun c => adj (sourceAt (fun i => fr (4096 * i + c)) r d mesh p c u v)
  let g (i : Nat) : Nat := chs.getD i 0
  match fieldN r 55 1 with
  | 2 => [if p.ch = 1 then g 0 else luma32 (g 0) (g 1) (g 2)]
  | 1 => if p.ch = 1 then [g 0, g 0, g 0] else [g 2, g 1, g 0]
  | _ => if p.ch = 1 then [g 0, g 0, g 0] else [g 0, g 1, g 2]

/-- A channel converted to the output type; a NaN as an integer is a free value. -/
def toOut (fr : Nat) (r : List Byte) (c x : Nat) : Nat :=
  if fieldN r 54 1 = 6 then
    match (fp32.dec x) with
    | .nan => fr % 256
    | .inf n => if n then 0 else 255
    | v => (clampI 0 255 ((v.toInt true).getD 0)).toNat
  else bf16.enc (fp32.dec (m32 (s32 x (fieldN r (80 + 4 * c) 4)) (fieldN r (92 + 4 * c) 4)))

/-- Channels of the output. -/
def ptChannels (r : List Byte) : Nat := if fieldN r 55 1 = 2 then 1 else 3

/-- The output elements of one row, in the order of LAYOUT. -/
def transformRow (fr : Nat → Nat) (r mesh : List Byte) (p : Pic) : List Nat :=
  let w := fieldN r 48 2
  let h := fieldN r 50 2
  let ch := ptChannels r
  if p.empty ∨ p.status ≠ 0 then List.replicate (w * h * ch) 0
  else
    let at_ (i u v : Nat) : Nat :=
      let px := v * w + u
      toOut (fr (8 * px + i)) r i ((colours (fun k => fr (8 * (w * h) * (k + 1) + px)) r p.desc mesh p u v).getD i 0)
    if fieldN r 53 1 = 0 then (List.range h).flatMap fun v => (List.range w).flatMap fun u => (List.range ch).map fun i => at_ i u v
    else (List.range ch).flatMap fun i => (List.range h).flatMap fun v => (List.range w).map fun u => at_ i u v

/-- The mesh of a row, read again when it is used. -/
def readMesh (s : State) (p : Pic) : Res (List Byte) :=
  let a := fieldN p.desc 56 8
  if p.empty ∨ p.status ≠ 0 ∨ a = 0 then ok s []
  else andThen (readMem s a 16) fun s h => andThen (readMem s (a + 16) (8 * fieldN h 0 2 * fieldN h 2 2)) fun s pts => ok s (h ++ pts)

/-- PICTURE_TRANSFORM over a batch. -/
def transformRun (c : Ctx) (ins : List (Option Col)) (s : State) : Res (List (Option Col)) :=
  let r := c.record
  let ps := (inCol ins 0).pics
  let px := fieldN r 48 2 * fieldN r 50 2
  let one (s : State) (p : Pic × Nat) : Res (List Nat) :=
    let page := pageOfRow c.pages ps.length p.2
    match readMesh s p.1 with
    | (s, .error e) => (noteErr s page 0x438 e.1 c.stream c.stage c.op, .error e)
    | (s, .ok mesh) =>
      let s := bump s (page + 0x428) px
      let s := if !p.1.empty && p.1.status == 0 && (filterOf r p.1.desc).2 then bump s (page + 0x430) 1 else s
      ok s (transformRow (fun i => c.free (80 + p.2) i) r mesh p.1)
  andThen (eachRes one s ps.zipIdx) fun s rows =>
    let ty := fieldN r 54 1
    let dims := if fieldN r 53 1 = 0 then [ps.length, fieldN r 50 2, fieldN r 48 2, ptChannels r]
      else [ps.length, ptChannels r, fieldN r 50 2, fieldN r 48 2]
    ok s [some (mkTensor ty dims ((rows.flatMap id).map some)), some (mkCol 6 (ps.map fun p => some p.status))]

def transformBind (r : List Byte) : List Fail :=
  let n (o : Nat) : Nat := fieldN r o 4
  let lens := bitOf (fieldN r 57 1) 0
  let u8 := fieldN r 54 1 == 6
  let istdOk (o : Nat) : Bool := fin32 (n o) && !(fp32.dec (n o)).isZero
  failIf (fieldN r 48 2 == 0 || decide (4096 < fieldN r 48 2)) stBadField 48
  ++ failIf (fieldN r 50 2 == 0 || decide (4096 < fieldN r 50 2)) stBadField 50
  ++ failIf (decide (3 < fieldN r 52 1)) stBadField 52 ++ failIf (decide (1 < fieldN r 53 1)) stBadField 53
  ++ failIf (!(u8 || fieldN r 54 1 == 0x0B)) stBadField 54 ++ failIf (decide (2 < fieldN r 55 1)) stBadField 55
  ++ failIf (decide (1 < fieldN r 56 1)) stBadField 56 ++ failIf (decide (1 < fieldN r 57 1)) stBadField 57
  ++ failIf (decide (8 < fieldN r 58 1)) stBadField 58 ++ failIf (!(zeroAt r 59 5)) stBadField 59
  ++ failIf (!(zeroAt r 76 4)) stBadField 76 ++ failIf (u8 && !(zeroAt r 80 12)) stBadField 80
  ++ failIf (if u8 then !(zeroAt r 92 12) else !(istdOk 92 && istdOk 96 && istdOk 100)) stBadField 92
  ++ failIf (if lens then !(!(fp32.dec (n 104)).isZero && !(fp32.dec (n 104)).isNeg && !(fp32.dec (n 104)).isNan) else n 104 != 0) stBadField 104
  ++ failIf (!lens && n 108 != 0) stBadField 108 ++ failIf (!lens && n 112 != 0) stBadField 112
  ++ failIf (!lens && !(zeroAt r 116 20)) stBadField 116 ++ failIf (!(zeroAt r 136 120)) stBadField 136

end Sys2Proof.Machine
end

