-- ==== Sys2Proof/Machine/Rel.lean ====
section
/-! DEFINITION. The relational and feature operators (chapter 7): what BIND_PLAN and SUBMIT_BATCH check of them, and what
they compute. -/

namespace Sys2Proof.Machine

/-! ### Expression programs (R190 to R194) -/

/-- One instruction of a program. -/
structure Insn where
  op : Nat
  d : Nat
  a : Nat
  b : Nat
  imm : Nat
  deriving DecidableEq, Repr

def Insn.of (w : Nat) : Insn := ⟨bitsOf w 31 24, bitsOf w 23 20, bitsOf w 19 16, bitsOf w 15 12, bitsOf w 11 0⟩

/-- A program block. -/
structure Prog where
  insns : List Insn
  consts : List Nat
  kinds : Nat
  types : List Nat
  deriving DecidableEq, Repr

/-- Bytes of a program block, from its header. -/
def progBytes (h : List Byte) : Nat := roundUp (16 + 4 * fieldN h 0 2) 8 + 8 * fieldN h 2 1

def Prog.of (b : List Byte) : Prog where
  insns := (numsLE 4 ((b.drop 16).take (4 * fieldN b 0 2))).map Insn.of
  consts := numsLE 8 ((b.drop (roundUp (16 + 4 * fieldN b 0 2) 8)).take (8 * fieldN b 2 1))
  kinds := fieldN b 8 8
  types := (List.range 4).map fun i => fieldN b (4 + i) 1

/-- How an operation uses D, A, B and IMM: reads of registers, and whether fields it does not use are 0. -/
inductive OpForm where
  | ldc | ldk | ldn | out | binary | unary | sel | len
  deriving DecidableEq, Repr

def opForm (op : Nat) : Option OpForm :=
  if op = 0x01 then some .ldc
  else if op = 0x02 then some .ldk
  else if op = 0x03 then some .ldn
  else if op = 0x05 then some .out
  else if op = 0x42 then some .sel
  else if op = 0x60 then some .len
  else if op = 0x04 ∨ op = 0x17 ∨ op = 0x18 ∨ op = 0x23 ∨ op = 0x40 ∨ op = 0x50 ∨ op = 0x51 ∨ (0x53 ≤ op ∧ op ≤ 0x55)
    then some .unary
  else if (0x10 ≤ op ∧ op ≤ 0x16) ∨ (0x20 ≤ op ∧ op ≤ 0x22) ∨ (0x24 ≤ op ∧ op ≤ 0x26) ∨ (0x30 ≤ op ∧ op ≤ 0x33) ∨ op = 0x41
    then some .binary
  else none

/-- Fields an instruction does not use are 0 (R191). -/
def Insn.clean (i : Insn) : OpForm → Bool
  | .ldc | .len => i.a == 0 && i.b == 0 && decide (i.imm < 8)
  | .ldk => i.a == 0 && i.b == 0 && decide (i.imm < 64)
  | .ldn => i.a == 0 && i.b == 0 && i.imm == 0
  | .out => i.d == 0 && i.b == 0 && decide (i.imm < 4)
  | .binary | .sel => i.imm == 0
  | .unary => i.b == 0 && i.imm == 0

/-- The registers an instruction reads. -/
def Insn.reads (i : Insn) : OpForm → List Nat
  | .out | .unary => [i.a]
  | .binary => [i.a, i.b]
  | .sel => [i.d, i.a, i.b]
  | _ => []

/-- A program obeys R194 up to each instruction: every register read has been written. -/
def regsOk : List Insn → List Nat → Bool
  | [], _ => true
  | i :: t, seen => match opForm i.op with
    | none => false
    | some f => (i.reads f).all seen.contains && regsOk t (if f = .out then seen else i.d :: seen)

/-- What a program's header alone tells (R190, R194). -/
def progHeadOk (r : List Byte) (h : List Byte) : Bool :=
  decide (1 ≤ fieldN h 0 2 ∧ fieldN h 0 2 ≤ 256) && decide (fieldN h 2 1 ≤ 64) && zeroAt h 3 1
  && (List.range 4).all fun o => decide (fieldN h (4 + o) 1 ≤ 0x0D) && outUsed r o == (fieldN h (4 + o) 1 != 0)

/-- A program's checks at the bind (R194). -/
def progOk (r : List Byte) (b : List Byte) (p : Prog) : Bool :=
  let outs := p.insns.filter (·.op == 0x05)
  progHeadOk r b && p.insns.all (fun i => match opForm i.op with
      | none => false
      | some f => i.clean f && (f != .ldk || decide (i.imm < p.consts.length))
          && ((f != .ldc && f != .len) || inUsed r i.imm)
          && (f != .out || p.types.getD i.imm 0 != 0))
  && regsOk p.insns []
  && (List.range 4).all (fun o =>
      let n := (outs.filter (·.imm == o)).length
      decide (n ≤ 1) && (!outUsed r o || n == 1))

/-- A register's value: none is null. -/
abbrev VReg := Option Val

/-- A value rounded to binary64. -/
def rnd64 : FV → FV
  | .nan => .nan
  | v => fp64.dec (fp64.enc v)

/-- A 64-bit two's complement integer. -/
def wrapI (i : Int) : Int := sext 64 (wrapN 64 i)

/-- Conversion to floating, rounding to nearest even. -/
def toF : Val → FV
  | .int i => rnd64 (FV.ofInt i)
  | .flt f => f

/-- Conversion to integer (CVTI): truncation, saturation, NaN to null. -/
def toI : Val → Option Int
  | .int i => some i
  | .flt .nan => none
  | .flt (.inf neg) => some (if neg then -(2 ^ 63 : Nat) else (2 ^ 63 : Nat) - 1)
  | .flt f => (f.toInt false).map (clampI (-(2 ^ 63 : Nat)) ((2 ^ 63 : Nat) - 1))

/-- A truth value. -/
def truth (b : Bool) : VReg := some (.int (if b then 1 else 0))

/-- Is a value nonzero? -/
def nonzero : Val → Bool
  | .int i => i != 0
  | .flt f => !f.isZero

/-- Truncating division, and the remainder with the sign of A. -/
def divI (a b : Int) : VReg := if b = 0 ∨ (a = -(2 ^ 63 : Nat) ∧ b = -1) then none else some (.int (Int.tdiv a b))
def modI (a b : Int) : VReg := if b = 0 then none else some (.int (Int.tmod a b))

/-- Bitwise operations and shifts on 64-bit integers. -/
def bitI (op : Nat) (a b : Int) : Int :=
  let x := wrapN 64 a
  let y := wrapN 64 b
  match op with
  | 0x20 => sext 64 (x &&& y)
  | 0x21 => sext 64 (x ||| y)
  | 0x22 => sext 64 (x ^^^ y)
  | 0x24 => sext 64 (x * 2 ^ (y % 64))
  | 0x25 => sext 64 (x / 2 ^ (y % 64))
  | _ => a / 2 ^ (y % 64)

/-- A two-operand operation on values that are not null. -/
def evalBinary (op : Nat) (a b : Val) : VReg :=
  if op = 0x14 then
    match toI a, toI b with
    | some x, some y => modI x y
    | _, _ => none
  else if 0x20 ≤ op ∧ op ≤ 0x26 then
    match toI a, toI b with
    | some x, some y => some (.int (bitI op x y))
    | _, _ => none
  else match a, b with
    | .int x, .int y => match op with
      | 0x10 => some (.int (wrapI (x + y)))
      | 0x11 => some (.int (wrapI (x - y)))
      | 0x12 => some (.int (wrapI (x * y)))
      | 0x13 => divI x y
      | 0x15 => some (.int (min x y))
      | 0x16 => some (.int (max x y))
      | 0x30 => truth (x == y)
      | 0x31 => truth (x != y)
      | 0x32 => truth (decide (x < y))
      | _ => truth (decide (x ≤ y))
    | _, _ =>
      let x := toF a
      let y := toF b
      match op with
      | 0x10 => some (.flt (rnd64 (x.add y)))
      | 0x11 => some (.flt (rnd64 (x.add y.neg)))
      | 0x12 => some (.flt (rnd64 (x.mul y)))
      | 0x13 => some (.flt (rnd64 (x.div y)))
      | 0x15 => some (.flt (x.min y))
      | 0x16 => some (.flt (x.max y))
      | 0x30 => truth (x.eq y)
      | 0x31 => truth (!(x.eq y))
      | 0x32 => truth (x.lt y)
      | _ => truth (x.le y)

/-- A one-operand operation on a value that is not null; the free number chooses within a function's accuracy. -/
def evalUnary (fr op : Nat) (a : Val) : VReg :=
  let real (n : Nat) : VReg :=
    let x := toF a
    let c := fp64.enc x
    match x with
    | .nan => some (.flt .nan)
    | _ => if n = 7 ∧ x.lt (.fin true 1 0) then some (.flt .nan) else some (.flt (fp64.dec (realCode fp64 n 0 1 fr c)))
  match op with
  | 0x17 => match a with
    | .int x => some (.int (wrapI (-x)))
    | .flt f => some (.flt f.neg)
  | 0x18 => match a with
    | .int x => some (.int (wrapI x.natAbs))
    | .flt f => some (.flt f.abs)
  | 0x23 => (toI a).map fun x => .int (-x - 1)
  | 0x50 => (toI a).map .int
  | 0x51 => some (.flt (toF a))
  | 0x53 => some (.flt (rnd64 (toF a).sqrt))
  | 0x54 => real 7
  | 0x55 => real 1
  | _ => some a

/-- The element that LDC loads (R192). -/
def ldcVal (v : Val) : Val :=
  match v with
  | .int i => .int (wrapI i)
  | v => v

/-- One instruction on one row: registers and outputs. -/
def stepInsn (p : Prog) (fr : Nat → Nat) (elem : Nat → VReg) (len : Nat → VReg) (st : List VReg × List VReg) (k : Nat) (i : Insn) :
    List VReg × List VReg :=
  let (v, o) := st
  let a := v.getD i.a none
  let b := v.getD i.b none
  let set (x : VReg) := (setAt v i.d x, o)
  match opForm i.op with
  | some .ldc => set ((elem i.imm).map ldcVal)
  | some .ldk =>
    let c := p.consts.getD i.imm 0
    set (some (if bitOf p.kinds i.imm then .flt (fp64.dec c) else .int (sext 64 c)))
  | some .ldn => set none
  | some .len => set (len i.imm)
  | some .out => (v, setAt o i.imm a)
  | some .sel => set (match v.getD i.d none with
      | none => none
      | some d => if nonzero d then a else b)
  | some .unary => if i.op = 0x40 then set (truth a.isNone) else set (a.bind (evalUnary (fr k) i.op))
  | some .binary => if i.op = 0x41 then set (if a.isSome then a else b) else set (a.bind fun x => b.bind (evalBinary i.op x))
  | none => st

/-- A program on one row: its outputs' registers. -/
def runProg (p : Prog) (fr : Nat → Nat) (elem len : Nat → VReg) : List VReg :=
  (p.insns.zipIdx.foldl (fun st q => stepInsn p fr elem len st q.2 q.1)
    (List.replicate 16 none, List.replicate 4 none)).2

/-- A program on row e of the inputs. -/
def progRow (c : Ctx) (p : Prog) (ins : List (Option Col)) (e : Nat) : List VReg :=
  runProg p (fun k => c.free 1 (e * 256 + k)) (fun i => (inCol ins i).val e)
    (fun i => if (inCol ins i).isValid e then some (.int ((inCol ins i).text e).length) else none)

/-- LDC and LEN name inputs of the right types (R194, R182). -/
def progInputs (p : Prog) (ins : List (Option Col)) : List Fail :=
  p.insns.flatMap fun i =>
    if i.op = 0x01 then checkIn ins i.imm fun c => isColumn c isNumeric
    else if i.op = 0x60 then checkIn ins i.imm fun c => isColumn c (· == 0x0E) else []

/-! ### PROJECT and FILTER (R195 to R197) -/

/-- The numeric or text columns a relational stage accepts. -/
def relCol (c : Col) : Bool := isColumn c fun t => decide (1 ≤ t ∧ t ≤ 0x0E)

/-- The inputs used other than some. -/
def usedBut (r : List Byte) (not : List Nat) : List Nat := (List.range 8).filter fun i => inUsed r i && !not.contains i

def runProject (c : Ctx) (ins : List (Option Col)) (s : State) : Res (List (Option Col)) :=
  let p := Prog.of (blockAt c.blocks 304)
  let gather := bitOf (c.n 56 1) 0
  let which := usedBut c.record (if gather then [7] else [])
  must s (sameCount ins which) stCorrupt fun s =>
    let n := rowsOf ins which
    let map := if gather then (List.range (inCol ins 7).count).map fun e => (inCol ins 7).bits e else List.range n
    must s (map.all (decide <| · < n) && (!gather || (List.range map.length).all fun e => (inCol ins 7).isValid e)) stCorrupt fun s =>
      let rows := map.map (progRow c p ins)
      let s := spread s c.pages 0x508 (List.replicate map.length 1)
      ok s ((List.range 4).map fun o =>
        if outUsed c.record o then
          let t := p.types.getD o 0
          some (mkCol t (rows.map fun r => (r.getD o none).bind (castTo t false false false)))
        else none)

/-- Elements of a column picked by row. -/
def pickRows (c : Col) (rows : List Nat) : Col :=
  if c.type_ = 0x0E then mkText (rows.map fun e => if c.isValid e then some (c.text e) else none)
  else mkCol c.type_ (rows.map fun e => if c.isValid e then some (c.bits e) else none)

/-- The stack in whose view alone a column's data lies, and its validity bitmap where it has one. -/
def stackOfCol (x : Col) : Option Nat :=
  let at_ (a n : Nat) : Option Nat := if 0x10000000000 ≤ a ∧ inR44 a n then (match placeOf a with
    | .hbm k _ => some k
    | _ => none) else none
  x.src.bind fun m => (at_ m.addr m.bytes).bind fun k =>
    if m.validity = 0 ∨ at_ m.validity (ceilDiv x.count 8) = some k then some k else none

/-- The engine that a FILTER's predicate is pushed to (R197). -/
def pushable (c : Ctx) (srcs : List (Option Col)) (p : Prog) : Option Nat :=
  let places := (usedBut c.record []).map fun i =>
    let x := inCol srcs i
    if typeBytes x.type_ ≤ 8 ∧ x.type_ ≠ 0x0E then stackOfCol x else none
  let opsOk := p.insns.all fun i => [0x01, 0x02, 0x30, 0x31, 0x32, 0x33, 0x20, 0x21, 0x23, 0x40, 0x05].contains i.op
  match places with
  | some k :: t => if bitOf (c.n 56 1) 1 && t.all (· == some k) && decide (p.insns.length ≤ 16) && opsOk then some k else none
  | _ => none

def runFilter (c : Ctx) (ins : List (Option Col)) (s : State) : Res (List (Option Col)) :=
  let p := Prog.of (blockAt c.blocks 304)
  let which := usedBut c.record []
  must s (sameCount ins which) stCorrupt fun s =>
    let n := rowsOf ins which
    let pred := (List.range n).map fun e => ((progRow c p ins e).getD 0 none).bind (castTo 1 false false false)
    let s := spread s c.pages 0x508 (List.replicate n 1)
    if bitOf (c.n 56 1) 0 then ok s [some (mkCol 1 (pred.map fun x => some (x.getD 0))), none, none, none]
    else
      let keep := (List.range n).filter fun e => pred.getD e none == some 1
      let s := spread s c.pages 0x510 (pred.map fun x => if x = some 1 then 0 else 1)
      ok s ((List.range 4).map fun o => if outUsed c.record o then some (pickRows (inCol ins o) keep) else none)

/-! ### SCAN (R186 to R189) -/

/-- A column of a segment's directory. -/
structure SegCol where
  id : Nat
  type_ : Nat
  enc : Nat
  flags : Nat
  off : Nat
  len : Nat
  crc : Nat
  clean : Bool
  deriving DecidableEq, Repr

def SegCol.of (b : List Byte) : SegCol :=
  ⟨fieldN b 0 4, fieldN b 4 1, fieldN b 5 1, fieldN b 6 2, fieldN b 8 8, fieldN b 16 8, fieldN b 24 4, zeroAt b 28 4⟩

/-- The directory of a segment. -/
def segDir (seg : List Byte) : List SegCol :=
  (List.range (fieldN seg 6 2)).map fun i => SegCol.of (sliceB seg (64 + 32 * i) 32)

/-- The status of a segment's header and directory; 0 when they are right (R189). -/
def segStatus (rest : List Byte) : Nat :=
  if rest.length < 64 then stTruncated
  else if fieldN rest 0 4 ≠ 0x534C4F43 ∨ fieldN rest 4 2 ≠ 1 then stCorrupt
  else
    let cols := fieldN rest 6 2
    let total := fieldN rest 16 8
    if rest.length < total then stTruncated
    else if total % 8 ≠ 0 ∨ total < 64 + 32 * cols ∨ cols = 0 ∨ 256 < cols ∨ fieldN rest 8 4 = 0 ∨ ¬ zeroAt rest 24 40 then stCorrupt
    else if crc32c (rest.take 12 ++ (rest.drop 16).take (48 + 32 * cols)) ≠ fieldN rest 12 4 then stCorrupt
    else if (segDir rest).all fun d => d.clean && decide (1 ≤ d.type_ ∧ d.type_ ≤ 0x0E) && decide (d.enc ≤ 1)
        && !(d.enc == 1 && d.type_ == 0x0E) && decide (d.flags ≤ 1) && d.off % 8 == 0 && decide (64 + 32 * cols ≤ d.off)
        && decide (d.off + d.len ≤ total) then 0
    else stCorrupt

/-- RLE runs (R187): the elements, or none when the counts do not sum to the rows; a further run after the last row passes
them. -/
def rleRuns (w rows : Nat) : Nat → Nat → List Byte → Option (List Nat)
  | 0, done, _ => if done = rows then some [] else none
  | f + 1, done, b =>
    if done = rows then (if b.length < 4 + w then some [] else none)
    else
      let n := fieldN b 0 4
      if b.length < 4 + w ∨ n = 0 ∨ rows < done + n then none
      else (rleRuns w rows f (done + n) (b.drop (4 + w))).map fun t => List.replicate n (fieldN b 4 w) ++ t

/-- The elements of one column of one segment: their bytes, none for a null; or nothing when the body is malformed. -/
def segBody (seg : List Byte) (d : SegCol) (rows : Nat) : Option (List (Option (List Byte))) :=
  let body := sliceB seg d.off d.len
  if crc32c body ≠ d.crc then none
  else
    let vlen := if bitOf d.flags 0 then roundUp (ceilDiv rows 8) 8 else 0
    let valid (e : Nat) : Bool := !(bitOf d.flags 0) || bitmapBit body e
    let vals := body.drop vlen
    let w := typeBytes d.type_
    let es : Option (List (List Byte)) :=
      if d.enc = 1 then (rleRuns w rows (rows + 1) 0 vals).map fun l => l.map (natLE w)
      else if d.type_ = 0x0E then
        let offs := numsLE 4 (vals.take (4 * (rows + 1)))
        let data := vals.drop (4 * (rows + 1))
        if offs.length = rows + 1 ∧ vals.length ≥ 4 * (rows + 1) ∧ offsetsOk offs data.length then
          some ((List.range rows).map fun e => (data.drop (offs.getD e 0)).take (offs.getD (e + 1) 0 - offs.getD e 0))
        else none
      else if vals.length < rows * w then none
      else some ((List.range rows).map fun e => sliceB vals (e * w) w)
    if body.length < vlen then none
    else es.map fun l => l.zipIdx.map fun p => if valid p.2 then some p.1 else none

/-- The columns asked for, from one segment. -/
def segCols (c : Ctx) (seg : List Byte) : Option (List (List (Option (List Byte)))) :=
  let rows := fieldN seg 8 4
  (List.range 4).foldl (fun acc o => acc.bind fun a =>
    if !outUsed c.record o then some (a ++ [[]])
    else match (segDir seg).find? (·.id == c.n (48 + 4 * o) 4) with
      | none => if bitOf (c.n 68 1) 0 then some (a ++ [List.replicate rows none]) else none
      | some d => if d.type_ ≠ c.n (64 + o) 1 then none
        else (segBody seg d rows).map fun l => a ++ [l]) (some [])

/-- Is the declared size of a committed output more than its descriptor holds (R189)? -/
def declaredOver (c : Ctx) (o rows bytes : Nat) : Bool :=
  match c.outs.getD o none with
  | none => false
  | some d => if d.type_ = 0x0E then decide (d.offsBytes < 4 * (rows + 1)) || decide (d.bytes < bytes)
      else decide (d.bytes < rows * typeBytes d.type_)

/-- Bytes of data that a column of a segment declares: its body less its validity bitmap and its offsets. -/
def declaredBytes (seg : List Byte) (d : SegCol) : Nat :=
  let rows := fieldN seg 8 4
  d.len - (if bitOf d.flags 0 then roundUp (ceilDiv rows 8) 8 else 0) - (if d.type_ = 0x0E then 4 * (rows + 1) else 0)

/-- SCAN over the segments that are left: rows, declared bytes and elements so far by output, or the status. -/
def scanSegs (c : Ctx) : Nat → List Byte → Nat → List Nat → List (List (Option (List Byte))) →
    Except Nat (List (List (Option (List Byte))))
  | 0, _, _, _, acc => .ok acc
  | f + 1, rest, rows, decl, acc =>
    if rest = [] then .ok acc
    else
      let st := segStatus rest
      if st ≠ 0 then .error st
      else
        let total := fieldN rest 16 8
        let seg := rest.take total
        let rows := rows + fieldN seg 8 4
        let decl := (List.range 4).map fun o =>
          decl.getD o 0 + (((segDir seg).find? (·.id == c.n (48 + 4 * o) 4)).map (declaredBytes seg)).getD 0
        if 1048576 < rows ∨ (List.range 4).any (fun o => outUsed c.record o && declaredOver c o rows (decl.getD o 0)) then .error stOversize
        else match segCols c seg with
          | none => .error stCorrupt
          | some cols => scanSegs c f (rest.drop total) rows decl ((List.range 4).map fun o => acc.getD o [] ++ cols.getD o [])

def runScan (c : Ctx) (ins : List (Option Col)) (s : State) : Res (List (Option Col)) :=
  let data := (inCol ins 0).data
  match scanSegs c (data.length / 64 + 1) data 0 [] [[], [], [], []] with
  | .error st => fail s st
  | .ok cols =>
    let n := (cols.foldl (fun a l => max a l.length) 0)
    ok (spread s c.pages 0x508 (List.replicate n 1)) ((List.range 4).map fun o =>
      if outUsed c.record o then
        let t := c.n (64 + o) 1
        let es := cols.getD o []
        some (if t = 0x0E then mkText es else mkCol t (es.map fun e => e.map leNat))
      else none)

/-! ### CAST, HASH, BUCKETIZE, NORMALIZE -/

/-- A stage that maps input o to output o element by element. -/
def mapCols (c : Ctx) (ins : List (Option Col)) (t : Nat → Nat) (f : Nat → Nat → Option Val → Option Nat) (s : State) :
    Res (List (Option Col)) :=
  let which := (List.range 4).filter (inUsed c.record)
  must s (sameCount ins which) stCorrupt fun s =>
    let n := rowsOf ins which
    ok (spread s c.pages 0x508 (List.replicate n 1)) ((List.range 4).map fun o =>
      if outUsed c.record o then some (mkCol (t o) ((List.range n).map fun e => f o e ((inCol ins o).val e))) else none)

def runCast (c : Ctx) (ins : List (Option Col)) (s : State) : Res (List (Option Col)) :=
  let t := c.n 48 1
  mapCols c ins (fun _ => t) (fun o _ v =>
    v.bind (castTo t (bitOf (c.n 49 1) 0) (bitOf (c.n 49 1) 1) (narrower t (inCol ins o).type_))) s

/-- The message of a row (R201): none when an input is null. -/
def hashMsg (ins : List (Option Col)) (which : List Nat) (e : Nat) : Option (List Byte) :=
  which.foldl (fun a i => a.bind fun m =>
    let x := inCol ins i
    if !x.isValid e then none
    else if x.type_ = 0x0E then
      some (m ++ (if which.length = 1 then x.text e else natLE 4 (x.text e).length ++ x.text e))
    else some (m ++ hashBytes (valOf x.type_ (x.bits e)))) (some [])

def runHash (c : Ctx) (ins : List (Option Col)) (s : State) : Res (List (Option Col)) :=
  let which := (List.range 4).filter (inUsed c.record)
  must s (sameCount ins which) stCorrupt fun s =>
    let n := rowsOf ins which
    let key := sliceB c.record 72 16
    let one (e : Nat) : Option Nat := (hashMsg ins which e).map fun m =>
      let h := hashBy (c.n 48 1) key m
      w64 ((if c.n 56 8 = 0 then h else h % c.n 56 8) + c.n 64 8)
    ok (spread s c.pages 0x508 (List.replicate n 1)) [some (mkCol 9 ((List.range n).map one)), none, none, none]

/-- The bucket of a value (R205); boundaries are values of their type. -/
def bucketOf (bounds : List FV) (infSep nullNan : Bool) : Option Val → Option Nat
  | none => if nullNan then some (bounds.length + 1) else none
  | some (.int i) => some (bounds.filter fun b => b.le (FV.ofInt i)).length
  | some (.flt .nan) => some (bounds.length + 1)
  | some (.flt (.inf neg)) => some (if infSep then bounds.length + (if neg then 2 else 3) else if neg then 0 else bounds.length)
  | some (.flt f) => some (bounds.filter fun b => b.le f).length

/-- The boundaries of a BUCKETIZE stage. -/
def boundsOf (r : List Byte) (b : List Byte) : List FV :=
  (numsLE 8 b).map fun x => if fieldN r 60 1 = 0 then FV.ofInt (sext 64 x) else fp64.dec x

def runBucketize (c : Ctx) (ins : List (Option Col)) (s : State) : Res (List (Option Col)) :=
  let bs := boundsOf c.record (blockAt c.blocks 48)
  let conv : Val → Val := fun v => if c.n 60 1 = 1 then .flt (toF v) else v
  mapCols c ins (fun _ => 8) (fun _ _ v =>
    (bucketOf bs (bitOf (c.n 61 1) 0) (bitOf (c.n 61 1) 1) (v.map conv)).map fun k => (k + c.n 64 4) % 2 ^ 32) s

/-- One NORMALIZE value (R207) on FP64. -/
def normVal (mode : Nat) (a b : FV) (fr : Nat) (x : FV) : FV :=
  let one : FV := .fin false 1 0
  let zero : FV := .fin false 0 0
  let real (v : FV) : FV := match v with
    | .nan => .nan
    | _ => fp64.dec (realCode fp64 7 0 1 fr (fp64.enc v))
  if x.isNan then .nan
  else match mode with
    | 0 => rnd64 ((rnd64 (x.add a.neg)).mul b)
    | 1 =>
      let q := rnd64 ((rnd64 (x.add a.neg)).div (rnd64 (b.add a.neg)))
      (q.max zero).min one
    | 2 => real (x.max zero)
    | 3 => let r := real x.abs
      if x.isZero then x else if x.isNeg then r.neg else r
    | _ => (x.max a).min b

/-- The output type of a NORMALIZE format. -/
def normType (f : Nat) : Nat := if f = 0 then 0x0C else if f = 1 then 0x0B else 0x0A

def runNormalize (c : Ctx) (ins : List (Option Col)) (s : State) : Res (List (Option Col)) :=
  let t := normType (c.n 48 1)
  let fmt := (fmtOf t).getD fp32
  mapCols c ins (fun _ => t) (fun o e v =>
    let k := 64 + 32 * o
    let x : Option FV := match v with
      | some v => some (toF v)
      | none => if bitOf (c.n (k + 1) 1) 0 then some (fp64.dec (c.n (k + 24) 8)) else none
    x.map fun x => fmt.enc (normVal (c.n k 1) (fp64.dec (c.n (k + 8) 8)) (fp64.dec (c.n (k + 16) 8)) (c.free 2 (e * 4 + o)) x)) s

/-! ### Joins (R208 to R215) -/

/-- An entry of a join table: key encoding, payload validity bits and payload bytes. -/
structure JEntry where
  key : Nat
  valid : Nat
  pay : List Byte
  deriving DecidableEq, Repr

/-- ceil(log2 n), 0 for n of 0 or 1. -/
def clog2 (n : Nat) : Nat := if n ≤ 1 then 0 else Nat.log2 (n - 1) + 1

/-- Bytes of STARTS. -/
def startsBytes (l : Nat) : Nat := roundUp (4 * (2 ^ l + 1)) 8

/-- Partitions that a build over its in-tile limit spills (R211): the first split by the top bits, and a further split of
each partition still over the limit that has more than one bucket. -/
def splitCount (limit eb : Nat) : Nat → Nat → List Nat → Nat
  | 0, _, _ => 0
  | f + 1, bits, bs =>
    if bs.length * eb ≤ limit ∨ bits = 0 then 0
    else
      let half := 2 ^ (bits - 1)
      2 + splitCount limit eb f (bits - 1) (bs.filter (· % 2 ^ bits < half)) + splitCount limit eb f (bits - 1) (bs.filter (half ≤ · % 2 ^ bits))

def spillParts (limit eb l : Nat) (buckets : List Nat) : Nat :=
  let total := buckets.length * eb
  let p := ((List.range (l + 1)).find? fun p => decide (total ≤ limit * 2 ^ p)).getD l
  2 ^ p + ((List.range (2 ^ p)).map fun k =>
    splitCount limit eb l (l - p) (buckets.filter fun b => b / 2 ^ (l - p) == k)).sum

/-- What a build or grouping holds in its tiles: bytes of an entry, bits of a bucket number, and the bucket of each entry. -/
structure TileLoad where
  entry : Nat
  bits : Nat
  buckets : List Nat
  deriving DecidableEq, Repr

/-- The key of a row of a build, by its 8-byte encoding (R210). -/
def joinKey (k : Col) (e : Nat) : Nat := leNat (hashBytes (valOf k.type_ (k.bits e)))

/-- The rows that a build enters (R210). -/
def joinRows (c : Ctx) (ins : List (Option Col)) : List Nat :=
  let k := inCol ins 0
  let rows := (List.range (rowsOf ins [0])).filter k.isValid
  let dup := c.n 49 1 % 4
  if dup = 0 then rows
  else if dup = 1 then rows.filter fun e => !(rows.any fun f => decide (f < e) && joinKey k f == joinKey k e)
  else rows.filter fun e => !(rows.any fun f => decide (e < f) && joinKey k f == joinKey k e)

/-- The payload columns of a build, and the bytes of its entries. -/
def joinPays (c : Ctx) : List Nat := (usedBut c.record []).filter (1 ≤ ·)
def joinEntryBytes (c : Ctx) (ins : List (Option Col)) : Nat :=
  roundUp (16 + ((joinPays c).map fun i => typeBytes (inCol ins i).type_).sum) 8

def joinLoad (c : Ctx) (ins : List (Option Col)) : TileLoad :=
  let rows := joinRows c ins
  let l := clog2 rows.length
  ⟨joinEntryBytes c ins, l, rows.map fun e => hashBy (c.n 48 1) (sliceB c.record 64 16) (natLE 8 (joinKey (inCol ins 0) e)) % 2 ^ l⟩

def runJoinBuild (c : Ctx) (ins : List (Option Col)) (s : State) : Res (List (Option Col)) :=
  let pays := joinPays c
  must s (sameCount ins (usedBut c.record [])) stCorrupt fun s =>
    let n := rowsOf ins [0]
    let k := inCol ins 0
    let rows := joinRows c ins
    let s := spread (spread s c.pages 0x508 (List.replicate n 1)) c.pages 0x518 ((List.range n).map fun e => b2n (!k.isValid e))
    must s (decide (rows.length ≤ 268435456)) stOversize fun s =>
      let q := joinLoad c ins
      let eb := q.entry
      let sorted := (List.range (2 ^ q.bits)).map fun u => ((rows.zip q.buckets).filter (·.2 == u)).map (·.1)
      let starts := sorted.foldl (fun a b => a ++ [a.getLastD 0 + b.length]) [0]
      let entry (e : Nat) : List Byte :=
        let v := (pays.zipIdx.foldl (fun a p => a + b2n ((inCol ins p.1).isValid e) * 2 ^ p.2) 0)
        sliceB (natLE 8 (joinKey k e) ++ natLE 8 v ++ pays.flatMap fun i => natLE (typeBytes (inCol ins i).type_)
          (if (inCol ins i).isValid e then (inCol ins i).bits e else 0)) 0 eb
      let sb := startsBytes q.bits
      let hdr := natLE 4 0x4A54424C ++ natLE 2 1 ++ natLE 1 k.type_ ++ natLE 1 (c.n 48 1) ++ natLE 1 q.bits ++ natLE 1 pays.length
        ++ natLE 2 eb ++ natLE 4 rows.length ++ sliceB c.record 64 16
        ++ (List.range 7).flatMap (fun i => natLE 1 (if pays.contains (i + 1) then (inCol ins (i + 1)).type_ else 0))
        ++ natLE 1 (c.n 49 1) ++ natLE 8 (64 + sb + rows.length * eb) ++ List.replicate 16 0
      ok s [some (mkBytes (hdr ++ sliceB (starts.flatMap (natLE 4)) 0 sb ++ (sorted.flatten.flatMap entry))), none, none, none]

/-- Bytes of the join object, from memory or from an earlier stage. -/
def objBytes (s : State) (c : Col) (off n : Nat) : Res (List Byte) :=
  match c.src with
  | some m => readMem s (m.addr + off) n
  | none => ok s (sliceB c.data off n)

/-- The matches of one key: the entries of its bucket with an equal key, in entry order. -/
def probeKey (s : State) (o : Col) (h : List Byte) (key : Nat) : Res (List JEntry) :=
  let l := fieldN h 8 1
  let eb := fieldN h 10 2
  let n := fieldN h 12 4
  let u := hashBy (fieldN h 7 1) (sliceB h 16 16) (natLE 8 key) % 2 ^ l
  andThen (objBytes s o (64 + 4 * u) 8) fun s b =>
    let a := fieldN b 0 4
    let z := fieldN b 4 4
    must s (decide (a ≤ z) && decide (z ≤ n)) stCorrupt fun s =>
      andThen (objBytes s o (64 + startsBytes l + a * eb) ((z - a) * eb)) fun s es =>
        ok s (((chunksN eb (z - a) es).map fun e => (⟨fieldN e 0 8, fieldN e 8 8, e.drop 16⟩ : JEntry)).filter (·.key == key))

/-- The header checks of a join object (R215). -/
def joinHeader (o : Col) (h : List Byte) : Nat :=
  let pays := fieldN h 9 1
  let types := (List.range 7).map fun i => fieldN h (32 + i) 1
  let eb := roundUp (16 + ((types.take pays).map typeBytes).sum) 8
  let l := fieldN h 8 1
  if h.length < 64 then stTruncated
  else if fieldN h 0 4 ≠ 0x4A54424C ∨ fieldN h 4 2 ≠ 1 ∨ ¬ isInt (fieldN h 6 1) ∨ 3 < fieldN h 7 1 ∨ 28 < l ∨ 7 < pays
    ∨ ¬ ((types.take pays).all isNumeric) ∨ fieldN h 10 2 ≠ eb
    ∨ fieldN h 40 8 ≠ 64 + startsBytes l + fieldN h 12 4 * eb then stCorrupt
  else if o.size < fieldN h 40 8 then stTruncated
  else 0

/-- What a probe row emits: the row's position with an entry, or with none (R213). -/
def probeEmit (form limit : Nat) (row : Nat) (isNull : Bool) (ms : List JEntry) : List (Nat × Option JEntry) :=
  let ms := if limit = 0 then ms else ms.take limit
  if form = 0 then ms.map fun m => (row, some m)
  else if form = 1 then (if ms = [] then [(row, none)] else ms.map fun m => (row, some m))
  else if form = 2 then (if ms = [] then [] else [(row, none)])
  else if isNull || ms == [] then [(row, none)] else []

def runJoinProbe (c : Ctx) (ins : List (Option Col)) (s : State) : Res (List (Option Col)) :=
  let k := inCol ins 0
  let o := inCol ins 1
  let n := k.count
  andThen (if o.size < 64 then fail s stTruncated else objBytes s o 0 64) fun s h =>
    let st := joinHeader o h
    if st ≠ 0 then fail s st
    else
      let picks := (List.range 3).map fun i => c.n (52 + i) 1
      must s (picks.all fun p => p == 0xFF || decide (p < fieldN h 9 1)) stCorrupt fun s =>
        andThen (eachRes (fun s e =>
          if k.isValid e then
            andThen (probeKey s o h (joinKey k e)) fun s ms => ok s (false, ms)
          else ok s (true, [])) s (List.range n)) fun s ms =>
          let s := spread s c.pages 0x508 (List.replicate n 1)
          let s := spread s c.pages 0x518 (ms.map fun m => b2n m.1)
          let s := spread s c.pages 0x528 (ms.map fun m => b2n (!m.1))
          let s := spread s c.pages 0x530 (ms.map fun m => m.2.length)
          let rows := (ms.zipIdx.flatMap fun p => probeEmit (c.n 48 1) (c.n 50 2) p.2 p.1.1 p.1.2)
          must s (decide (rows.length ≤ 16777216)) stOversize fun s =>
            let types := (List.range 7).map fun i => fieldN h (32 + i) 1
            let pay (pk : Nat) : Col :=
              let off := ((types.take pk).map typeBytes).sum
              let t := types.getD pk 0
              mkCol t (rows.map fun r => r.2.bind fun e => if bitOf e.valid pk then some (fieldN e.pay off (typeBytes t)) else none)
            ok s (some (mkCol 8 (rows.map fun r => some r.1)) :: (List.range 3).map fun i =>
              if outUsed c.record (i + 1) then some (pay (picks.getD i 0)) else none)

/-! ### GROUP_AGG (R217, R218) -/

/-- Groups in the order of their first rows: the key (none for null) and the rows. -/
def groupsOf (k : Col) (drop : Bool) : List (Option Nat × List Nat) :=
  (List.range k.count).foldl (fun gs e =>
    let key := if k.isValid e then some (k.bits e) else none
    if key.isNone && drop then gs
    else match findPos (fun (g : Option Nat × List Nat) => decide (g.1 = key)) gs with
      | some i => modifyAt gs i fun g => (g.1, g.2 ++ [e])
      | none => gs ++ [(key, [e])]) []

/-- One aggregate of one group. -/
def aggOf (f : Nat) (fr : Nat → Nat) (v : Col) (rows : List Nat) : Option Val :=
  let vals := rows.filterMap v.val
  let nonNull := (rows.filter v.isValid).length
  let floats := isFloat v.type_
  let codes := vals.map valF64
  let nan := vals.any fun x => match x with
    | .flt .nan => true
    | _ => false
  let best (lt : Val → Val → Bool) : Option Val := vals.foldl (fun m x => match m with
    | none => some x
    | some y => if lt x y then some x else some y) none
  let ltV : Val → Val → Bool := fun a b => match a, b with
    | .int x, .int y => decide (x < y)
    | a, b => (toF a).lt (toF b)
  match f with
  | 0 => some (.int nonNull)
  | 1 => some (.int rows.length)
  | 2 => if vals = [] then none
    else if floats then some (.flt (fp64.dec (sumAny fp64 fr codes)))
    else some (.int (wrapI (vals.map fun x => (toI x).getD 0).sum))
  | 3 => if nan then some (.flt .nan) else best ltV
  | 4 => if nan then some (.flt .nan) else best fun a b => ltV b a
  | 5 => if vals = [] then none
    else some (.flt (rnd64 ((fp64.dec (sumAny fp64 fr codes)).div (toF (.int nonNull)))))
  | 6 => v.val (rows.headD 0)
  | _ => v.val (rows.getLastD 0)

/-- Groups in the tiles: the key and a value of each output; partitions are by the Fold64 hash of the key (R218). -/
def groupLoad (c : Ctx) (ins : List (Option Col)) : TileLoad :=
  let k := inCol ins 0
  let gs := groupsOf k (bitOf (c.n 48 1) 0)
  let l := clog2 gs.length
  let bucket (g : Option Nat) : Nat := (g.map fun b => fold64 [] (hashBytes (valOf k.type_ b)) % 2 ^ l).getD 0
  ⟨8 + ((List.range 3).map fun i => if outUsed c.record (i + 1) then 8 else 0).sum, l, gs.map fun g => bucket g.1⟩

def runGroupAgg (c : Ctx) (ins : List (Option Col)) (s : State) : Res (List (Option Col)) :=
  must s (sameCount ins (usedBut c.record [])) stCorrupt fun s =>
    let k := inCol ins 0
    let gs := groupsOf k (bitOf (c.n 48 1) 0)
    must s (decide (gs.length ≤ 1048576)) stOversize fun s =>
      let s := spread s c.pages 0x508 (List.replicate k.count 1)
      ok s (some (mkCol k.type_ (gs.map (·.1))) :: (List.range 3).map fun i =>
        let t := c.n (52 + i) 1
        if outUsed c.record (i + 1) then
          some (mkCol t (gs.zipIdx.map fun g => (aggOf (c.n (49 + i) 1) (fun j => c.free (3 + i) (g.2 * 65536 + j))
            (inCol ins (i + 1)) g.1.2).bind (castTo t false false false)))
        else none)

/-! ### Spills (R211, R218) -/

/-- What the tiles of a stage hold for builds and grouping, in bytes. -/
def tileLimit (c : Ctx) (s : State) : Nat := (c.pages.map fun p => s.rfld (p + 0x500) 3 0).sum * 2 ^ 20

/-- A JOIN_BUILD or GROUP_AGG over its tiles' limit takes a spill area under the session's quota, until the stage ends; partitions
count on its tiles in turn (log 83, DESIGN CHOICE: R211 does not say on which tile a partition counts, nor how large a group is in
its tiles). -/
def relSpill (c : Ctx) (ins : List (Option Col)) (s : State) : State :=
  let q := if c.op = 0x0106 then joinLoad c ins else groupLoad c ins
  let size := q.buckets.length * q.entry
  let area := roundUp size (16 * 2 ^ 20)
  let limit := tileLimit c s
  if size ≤ limit ∨ !(sameCount ins (usedBut c.record [])) ∨ (if c.op = 0x0106 then 268435456 else 1048576) < q.buckets.length then s
  else if quotaFits s (s.slotOf c.stream) area 0 then
    let s := (charge s (s.slotOf c.stream) area 0).setRun c.stream c.idx c.stage fun u => { u with spill := area }
    (List.range (spillParts limit q.entry q.bits q.buckets)).foldl (fun s i => bump s (c.pages.getD (i % max 1 c.pages.length) 0 + 0x520) 1) s
  else failRun (noteErr s c.page 0x540 stNoSpace c.stream c.stage c.op) c.stream c.idx c.stage stNoSpace

/-! ### Checks of the relational group -/

/-- The uses of inputs and outputs (R534). -/
def relUses (r : List Byte) : List Use × List Use :=
  let same (i : Nat) : Use := Use.iff (inUsed r i)
  match stOp r with
  | 0x0100 => ([.must], (List.range 4).map fun o => Use.iff (fieldN r (64 + o) 1 != 0))
  | 0x0101 => (List.replicate 7 .may ++ [if bitOf (fieldN r 56 1) 0 then .must else .may], List.replicate 4 .may)
  | 0x0102 => (List.replicate 8 .may, if bitOf (fieldN r 56 1) 0 then [.must, .never, .never, .never]
      else (List.range 4).map same)
  | 0x0103 => ([.may, .may, .may, .may], [.must])
  | 0x0104 | 0x0105 | 0x0109 => ([.may, .may, .may, .may], (List.range 4).map same)
  | 0x0106 => (.must :: List.replicate 7 .may, [.must])
  | 0x0107 => ([.must, .must], .must :: (List.range 3).map fun i => Use.iff (fieldN r (52 + i) 1 != 0xFF))
  | _ => (.must :: (List.range 3).map (fun i => if !outUsed r (i + 1) then .never
      else if fieldN r (49 + i) 1 = 1 then .may else .must), [.must, .may, .may, .may])

/-- The checks of a relational stage's operands at the bind. -/
def relBind (r : List Byte) (b : Blocks) : List Fail :=
  let finite (k : Nat) : Bool := (fp64.dec (fieldN r k 8)).isFin
  match stOp r with
  | 0x0100 =>
    failIf (!(zeroAt r 69 187) || decide (1 < fieldN r 68 1)) stBadField 68
    ++ (List.range 4).flatMap fun o => failIf (decide (0x0E < fieldN r (64 + o) 1)) stBadField (64 + o)
  | 0x0101 =>
    let p := Prog.of (blockAt b 304)
    failIf (!(zeroAt r 57 199) || decide (1 < fieldN r 56 1)) stBadField 56
    ++ failIf (fieldN r 48 8 % 16 != 0) stBadField 48
    ++ failIf (blockAt b 48 != [] && !(progHeadOk r (blockAt b 48))) stBadField 48
    ++ failIf (blockAt b 304 != [] && (!progOk r (blockAt b 304) p
        || (bitOf (fieldN r 56 1) 0 && p.insns.any fun i => (i.op == 0x01 || i.op == 0x60) && i.imm == 7))) stBadField 48
  | 0x0102 =>
    let p := Prog.of (blockAt b 304)
    -- the program's one output is the predicate, whatever the stage's outputs carry
    let r' := overlay r 32 ((List.range 4).flatMap fun o => natLE 2 (if o = 0 then 0 else 0xFFFF))
    failIf (!(zeroAt r 57 199) || decide (3 < fieldN r 56 1)) stBadField 56
    ++ failIf (fieldN r 48 8 % 16 != 0) stBadField 48
    ++ failIf (blockAt b 48 != [] && !(progHeadOk r' (blockAt b 48) && fieldN (blockAt b 48) 4 1 == 1)) stBadField 48
    ++ failIf (blockAt b 304 != [] && (!progOk r' (blockAt b 304) p || p.types.getD 0 0 != 1
        || p.insns.any fun i => i.op == 0x05 && i.imm != 0)) stBadField 48
  | 0x0103 =>
    failIf (decide (3 < fieldN r 48 1) || !(zeroAt r 49 7)) stBadField 48
    ++ failIf (fieldN r 48 1 == 0 && !(zeroAt r 72 16)) stBadField 72 ++ failIf (!(zeroAt r 88 168)) stBadField 88
    ++ failIf (!((List.range 4).any (inUsed r))) stBadField 16
  | 0x0104 =>
    let bs := boundsOf r (blockAt b 48)
    let n := fieldN r 56 4
    failIf (decide (n = 0 ∨ 65535 < n)) stBadField 56
    ++ failIf (decide (1 < fieldN r 60 1)) stBadField 60 ++ failIf (decide (3 < fieldN r 61 1)) stBadField 61
    ++ failIf (!(zeroAt r 62 2)) stBadField 62 ++ failIf (!(zeroAt r 68 188)) stBadField 68
    ++ failIf (fieldN r 48 8 % 8 != 0) stBadField 48
    ++ failIf (blockAt b 48 != [] && !(bs.all FV.isFin && (bs.zip (bs.drop 1)).all fun p => p.1.lt p.2)) stBadField 48
    ++ failIf (decide (0xFFFFFFFF < fieldN r 64 4 + n + (if bitOf (fieldN r 61 1) 0 then 3 else 1))) stBadField 64
  | 0x0105 =>
    failIf (decide (2 < fieldN r 48 1) || !(zeroAt r 49 15)) stBadField 48 ++ failIf (!(zeroAt r 192 64)) stBadField 192
    ++ (List.range 4).flatMap fun i =>
      let k := 64 + 32 * i
      if !inUsed r i then failIf (!(zeroAt r k 32)) stBadField k
      else
        let a := fp64.dec (fieldN r (k + 8) 8)
        let z := fp64.dec (fieldN r (k + 16) 8)
        let bad := match fieldN r k 1 with
          | 0 => !(finite (k + 8)) || !(finite (k + 16))
          | 1 => !(finite (k + 8)) || !(finite (k + 16)) || z.le a
          | 2 | 3 => !(a.isZero) || !(z.isZero)
          | 4 => a.isNan || z.isNan || z.lt a
          | _ => true
        failIf (bad || decide (1 < fieldN r (k + 1) 1) || !(zeroAt r (k + 2) 6)) stBadField k
  | 0x0106 =>
    failIf (decide (3 < fieldN r 48 1)) stBadField 48 ++ failIf (decide (2 < fieldN r 49 1)) stBadField 49
    ++ failIf (!(zeroAt r 50 14)) stBadField 50 ++ failIf (fieldN r 48 1 == 0 && !(zeroAt r 64 16)) stBadField 64
    ++ failIf (!(zeroAt r 80 176)) stBadField 80
    ++ (List.range 7).flatMap fun i => failIf (i != 0 && inUsed r (i + 1) && !inUsed r i) stBadField (inOff (i + 1))
  | 0x0107 =>
    failIf (decide (3 < fieldN r 48 1)) stBadField 48 ++ failIf (!(zeroAt r 49 1)) stBadField 49
    ++ failIf (!(zeroAt r 55 201)) stBadField 55
    ++ (List.range 3).flatMap fun i => failIf (decide (6 < fieldN r (52 + i) 1 ∧ fieldN r (52 + i) 1 ≠ 0xFF)
        || (decide (2 ≤ fieldN r 48 1) && fieldN r (52 + i) 1 != 0xFF)) stBadField (52 + i)
  | 0x0108 =>
    failIf (decide (1 < fieldN r 48 1)) stBadField 48 ++ failIf (!(zeroAt r 55 201)) stBadField 55
    ++ (List.range 3).flatMap fun i => failIf (decide (7 < fieldN r (49 + i) 1)) stBadField (49 + i)
      ++ failIf (if outUsed r (i + 1) then !(isNumeric (fieldN r (52 + i) 1)) else fieldN r (52 + i) 1 != 0) stBadField (52 + i)
  | _ =>
    failIf (!(isNumeric (fieldN r 48 1))) stBadField 48 ++ failIf (decide (3 < fieldN r 49 1)) stBadField 49
    ++ failIf (!(zeroAt r 50 206)) stBadField 50

/-- What a relational stage accepts of its inputs (R182); from_ gives the operator whose output an input is, 0 for a batch
descriptor. SCAN takes an INFLATE's bytes (R335), and JOIN_PROBE the object of a JOIN_BUILD (R212). -/
def relInputs (r : List Byte) (b : Blocks) (from_ : Nat → Nat) (ins : List (Option Col)) : List Fail :=
  match stOp r with
  | 0x0100 => checkIn ins 0 fun c => c.kind == kSegments || (from_ 0 == 0x0701 && c.kind == kBytes)
  | 0x0101 =>
    let p := Prog.of (blockAt b 304)
    ((List.range 7).flatMap fun i => checkIn ins i relCol) ++ progInputs p ins
    ++ (if bitOf (fieldN r 56 1) 0 then checkIn ins 7 fun c => isColumn c (· == 8) else checkIn ins 7 relCol)
  | 0x0102 => ((List.range 8).flatMap fun i => checkIn ins i relCol) ++ progInputs (Prog.of (blockAt b 304)) ins
  | 0x0103 => (List.range 4).flatMap fun i => checkIn ins i relCol
  | 0x0104 => (List.range 4).flatMap fun i => checkIn ins i fun c => isColumn c fun t => if fieldN r 60 1 = 0 then isInt t else isNumeric t
  | 0x0105 => (List.range 4).flatMap fun i => checkIn ins i fun c => isColumn c isNumeric
  | 0x0106 => checkIn ins 0 (fun c => isColumn c isInt) ++ (List.range 7).flatMap fun i => checkIn ins (i + 1) fun c => isColumn c isNumeric
  | 0x0107 => checkIn ins 0 (fun c => isColumn c isInt)
    ++ checkIn ins 1 fun c => c.kind == kBytes && (from_ 1 == 0 || from_ 1 == 0x0106)
  | 0x0108 => checkIn ins 0 (fun c => isColumn c isInt) ++ (List.range 3).flatMap fun i => checkIn ins (i + 1) fun c =>
      isColumn c fun t => isNumeric t || (t == 0x0E && decide (fieldN r (49 + i) 1 ≤ 1))
  | _ => (List.range 4).flatMap fun i => checkIn ins i fun c => isColumn c isNumeric

/-- KIND and TYPE of a relational stage's outputs where they are known; TYPE of none depends on an input. -/
def relOut (r : List Byte) (b : Blocks) (ins : List (Option Col)) (o : Nat) : Option (Nat × Nat) :=
  match stOp r with
  | 0x0100 => some (kColumn, fieldN r (64 + o) 1)
  | 0x0101 => some (kColumn, (Prog.of (blockAt b 304)).types.getD o 0)
  | 0x0102 => if bitOf (fieldN r 56 1) 0 then some (kColumn, 1) else (ins.getD o none).map fun c => (kColumn, c.type_)
  | 0x0103 => some (kColumn, 9)
  | 0x0104 => some (kColumn, 8)
  | 0x0105 => some (kColumn, normType (fieldN r 48 1))
  | 0x0106 => some (kBytes, 0)
  | 0x0107 => if o = 0 then some (kColumn, 8) else none
  | 0x0108 => if o = 0 then (ins.getD 0 none).map fun c => (kColumn, c.type_) else some (kColumn, fieldN r (51 + o) 1)
  | _ => some (kColumn, fieldN r 48 1)

/-- What a relational stage computes. -/
def relRun (c : Ctx) (ins : List (Option Col)) (s : State) : Res (List (Option Col)) :=
  let go (f : Ctx → List (Option Col) → State → Res (List (Option Col))) : Res (List (Option Col)) :=
    andThen (loadAll s ins) fun s ins => f c ins s
  match c.op with
  | 0x0100 => go runScan
  | 0x0101 => go runProject
  | 0x0102 => go runFilter
  | 0x0103 => go runHash
  | 0x0104 => go runBucketize
  | 0x0105 => go runNormalize
  | 0x0106 => go runJoinBuild
  | 0x0107 => andThen (loadAll s (ins.take 1)) fun s i0 => runJoinProbe c (i0 ++ ins.drop 1) s
  | 0x0108 => go runGroupAgg
  | _ => go runCast

end Sys2Proof.Machine
end

