-- ==== Sys2Proof/Machine/Select.lean ====
section
/-! DEFINITION. Selection (chapter 10): the order, duplicates, ties and sentinels, TOPK, SORT and MERGE_LISTS, pieces and
their merging. -/

namespace Sys2Proof.Machine

/-- An element of a row: its position, score, score bits and element key, and whether the id it carries is null. -/
structure El where
  pos : Nat
  val : Val
  bits : Nat
  key : Nat
  noId : Bool := false
  deriving DecidableEq, Repr

/-- A score is better than another under an order (R283). -/
def better (order : Nat) (a b : Val) : Bool :=
  match a, b with
  | .int x, .int y => if order = 0 then decide (y < x) else decide (x < y)
  | a, b => if order = 0 then (toF b).lt (toF a) else (toF a).lt (toF b)

/-- Element a comes before element b (R283). -/
def El.before (order : Nat) (a b : El) : Bool :=
  better order a.val b.val || (!(better order b.val a.val) && decide (a.pos < b.pos))

/-- An element put in its place of an ordered list. -/
def insertEl (order : Nat) (a : El) : List El → List El
  | [] => [a]
  | b :: t => if a.before order b then a :: b :: t else b :: insertEl order a t

/-- Elements best first. -/
def sortEls (order : Nat) (l : List El) : List El := l.foldr (insertEl order) []

/-- The first element of each key, in order (R285). -/
def dedupEls : List El → List Nat → List El
  | [], _ => []
  | a :: t, seen => if seen.contains a.key then dedupEls t seen else a :: dedupEls t (a.key :: seen)

/-- The elements of a row that remain, best first. -/
def remaining (order : Nat) (dedup : Bool) (l : List El) : List El :=
  if dedup then dedupEls (sortEls order l) [] else sortEls order l

/-- The tie count of a row (R287). -/
def tieCount (order k : Nat) (l : List El) : Nat :=
  if l.length ≤ k ∨ k = 0 then 0
  else match l[k - 1]? with
    | some b => ((l.drop k).filter fun a => !(better order b.val a.val) && !(better order a.val b.val)).length
    | none => 0

/-- A NaN score is no valid element (R284). -/
def isNanVal : Val → Bool
  | .flt .nan => true
  | _ => false

/-- Elements to a piece (R293). -/
def pieceLen : Nat := 65536

/-! ### Rows of a stage -/

def selFlags (r : List Byte) : Nat := fieldN r 53 1
def isFlat (r : List Byte) : Bool := stOp r != 0x0402 && bitOf (selFlags r) 3

/-- Row count and row length of a TOPK or SORT stage. -/
def rowShape (r : List Byte) (x : Col) : Nat × Nat :=
  if isFlat r then (1, x.count) else (prod (x.dims.take 3), x.dims.getD 3 0)

/-- k of a row (R286). -/
def selK (r : List Byte) (l : Nat) : Nat := if stOp r = 0x0401 then l else fieldN r 48 4

/-- The valid elements of a row of a TOPK or SORT stage (R284). -/
def rowEls (r : List Byte) (ins : List (Option Col)) (row l : Nat) : List El :=
  let x := inCol ins 0
  let ks := inCol ins 1
  let len := if bitOf (selFlags r) 1 then (if (inCol ins 3).isValid row then (inCol ins 3).bits row else 0) else l
  let keyed := inUsed r 1
  (List.range (min l len)).filterMap fun p =>
    let e := row * l + p
    if !x.isValid e || (keyed && !ks.isValid e) then none
    else
      let v := valOf x.type_ (x.bits e)
      if isNanVal v then none else some ⟨p, v, x.bits e, if keyed then ks.bits e else p, false⟩

/-- Is duplicate removal in force? -/
def selDedup (r : List Byte) : Bool := bitOf (selFlags r) 0

/-- The valid entries of a row of a MERGE_LISTS stage, by global position (R297). A null id is a null element key under DEDUP; without
it the entry is valid and carries a null id on (log 87, DEDUCED). -/
def listEls (r : List Byte) (ins : List (Option Col)) (row : Nat) : List El :=
  let m := fieldN r 54 1
  let lens := (List.range m).map fun j => (inCol ins j).dims.getD 3 0
  (List.range m).flatMap fun j =>
    let x := inCol ins j
    let ids := inCol ins (4 + j)
    let l := lens.getD j 0
    let base := (lens.take j).sum
    (List.range l).filterMap fun p =>
      let e := row * l + p
      let noId := !(ids.isValid e)
      if !x.isValid e || (if noId then selDedup r else ids.bits e == 0xFFFFFFFFFFFFFFFF) then none
      else
        let v := valOf x.type_ (x.bits e)
        if isNanVal v then none else some ⟨base + p, v, x.bits e, ids.bits e, noId⟩

/-- What a row keeps. -/
def rowKept (r : List Byte) (els : List El) : List El := remaining (fieldN r 52 1) (selDedup r) els

/-! ### Pieces (R293, R294) -/

/-- The pieces of a row. -/
def rowPieces (l : Nat) : Nat := ceilDiv l pieceLen

/-- The rows whose partial lists have to be merged. -/
def selMulti (r : List Byte) (ins : List (Option Col)) : List Nat :=
  if stOp r = 0x0402 then []
  else
    let sh := rowShape r (inCol ins 0)
    if rowPieces sh.2 ≤ 1 then [] else List.range sh.1

/-- The elements of a row in piece q. -/
def pieceEls (els : List El) (q : Nat) : List El := els.filter fun e => decide (e.pos / pieceLen = q)

/-- The page of the tile that holds piece q of a row. -/
def pieceTile (pages : List Nat) (rows l row q : Nat) : Nat :=
  pages.getD (rowTile (rows * rowPieces l) pages.length (row * rowPieces l + q)) 0

/-- The merging of a row's partial lists on the tile of its first piece: SEL_MERGE_CNT counts their entries and SEL_DUP_CNT
the duplicates found across pieces. -/
def mergeRow (r : List Byte) (pages : List Nat) (ins : List (Option Col)) (row : Nat) (s : State) : State :=
  let sh := rowShape r (inCol ins 0)
  let els := rowEls r ins row sh.2
  let parts := (List.range (rowPieces sh.2)).map fun q => rowKept r (pieceEls els q)
  let lists := parts.map fun p => if stOp r = 0x0400 then p.take (fieldN r 48 4) else p
  let page := pieceTile pages sh.1 sh.2 row 0
  let cross := (parts.map (·.length)).sum - (rowKept r els).length
  let s := bump s (page + 0x608) (lists.map (·.length)).sum
  if cross = 0 then s else bump s (page + 0x610) cross

/-- The scan of every piece: SEL_ELEM_CNT, and SEL_DUP_CNT for duplicates within a piece. -/
def scanPieces (r : List Byte) (pages : List Nat) (ins : List (Option Col)) (s : State) : State :=
  let sh := rowShape r (inCol ins 0)
  (List.range sh.1).foldl (fun s row =>
    let els := rowEls r ins row sh.2
    (List.range (rowPieces sh.2)).foldl (fun s q =>
      let page := pieceTile pages sh.1 sh.2 row q
      let es := pieceEls els q
      let dups := es.length - (rowKept r es).length
      let s := bump s (page + 0x600) (min pieceLen (sh.2 - q * pieceLen))
      if dups = 0 then s else bump s (page + 0x610) dups) s) s

/-! ### Results -/

/-- What a selection reports in the completion (R57): the smallest n, the ties left out, and whether a row was partial. -/
structure Tally where
  least : Nat
  ties : Nat
  short : Bool
  deriving DecidableEq, Repr

/-- The report of rows with n remaining elements and their ties. -/
def tallyOf (k : Nat) (rows : List (Nat × Nat)) : Tally where
  least := rows.foldl (fun m x => min m (min x.1 k)) k
  ties := (rows.map (·.2)).sum
  short := rows.any fun x => decide (x.1 < k)

/-- Ties and partial rows counted on the tile that works a row. -/
def countRows (s : State) (pageOf : Nat → Nat) (k : Nat) (rows : List (Nat × Nat)) : State :=
  rows.zipIdx.foldl (fun s x =>
    let s := if x.1.2 = 0 then s else bump s (pageOf x.2 + 0x618) x.1.2
    if x.1.1 < k then bump s (pageOf x.2 + 0x620) 1 else s) s

/-- The k entries of an output row: what f gives of a kept element, and the sentinel. -/
def padTo {α : Type} (k : Nat) (f : El → α) (sent : α) (l : List El) : List α :=
  let es := l.take k
  es.map f ++ List.replicate (k - es.length) sent

def sentinelId : Nat := 0xFFFFFFFFFFFFFFFF

/-- Payload rows gathered for the kept elements of a row (R295). -/
def gatherRow (r : List Byte) (tbl : Col) (l row k : Nat) (kept : List El) (s : State) : Res (List Byte) :=
  let p := tbl.dims.getD 3 0
  let total := prod (tbl.dims.take 3)
  andThen (eachRes (fun s (e : El) =>
    let n := if bitOf (selFlags r) 2 then e.key else if isFlat r then e.pos else row * l + e.pos
    must s (decide (n < total)) stCorrupt fun s => objBytes s tbl (n * p) p) s (kept.take k)) fun s bs =>
    ok s (bs.flatten ++ List.replicate ((k - min k kept.length) * p) 0)

def runTopk (c : Ctx) (ins : List (Option Col)) (s : State) : Res (List (Option Col) × Tally) :=
  let r := c.record
  let x := inCol ins 0
  let (rows, l) := rowShape r x
  let k := selK r l
  must s (!(bitOf (selFlags r) 1) || (List.range rows).all fun i =>
      !((inCol ins 3).isValid i) || decide ((inCol ins 3).bits i ≤ l)) stCorrupt fun s =>
    let kept := (List.range rows).map fun i => rowKept r (rowEls r ins i l)
    let stats := kept.map fun e => (e.length, if stOp r = 0x0401 then 0 else tieCount (fieldN r 52 1) k e)
    let pageOf (i : Nat) : Nat := pieceTile c.pages rows l i 0
    let s := scanPieces r c.pages ins s
    let s := countRows s pageOf k stats
    let lead := if isFlat r then [1, 1, 1] else x.dims.take 3
    let gathered : Res (List Byte) :=
      if inUsed r 2 then
        andThen (eachRes (fun s (q : List El × Nat) =>
          andThen (gatherRow r (inCol ins 2) l q.2 k q.1 s) fun s b =>
            ok (bump s (pageOf q.2 + 0x628) (min k q.1.length * (inCol ins 2).dims.getD 3 0)) b) s kept.zipIdx) fun s bs => ok s bs.flatten
      else ok s []
    andThen gathered fun s pay =>
      let p := (inCol ins 2).dims.getD 3 0
      let pd := [lead.getD 0 1, lead.getD 1 1, lead.getD 2 1 * k, p]
      ok s ([some (mkTensor x.type_ (lead ++ [k]) (kept.flatMap (padTo k (fun e => some e.bits) none))),
          some (mkTensor 9 (lead ++ [k]) (kept.flatMap (padTo k (fun e => some e.pos) (some sentinelId)))),
          (if inUsed r 2 then some { kind := kTensor, type_ := 6, count := prod pd, dims := pd, data := pay } else none),
          some (mkTensor 8 (lead ++ [2]) (stats.flatMap fun q => [some q.1, some (if c.level < 0x0202 then 0 else q.2)]))],
        tallyOf k stats)

def runMergeLists (c : Ctx) (ins : List (Option Col)) (s : State) : Res (List (Option Col) × Tally) :=
  let r := c.record
  let m := fieldN r 54 1
  let lead := (inCol ins 0).dims.take 3
  let rows := prod lead
  let k := fieldN r 48 4
  let lens := (List.range m).map fun j => (inCol ins j).dims.getD 3 0
  let all := (List.range rows).map fun i => listEls r ins i
  let kept := all.map (rowKept r)
  let stats := kept.map fun e => (e.length, tieCount (fieldN r 52 1) k e)
  let pageOf (i : Nat) : Nat := c.pages.getD (rowTile rows c.pages.length i) 0
  let s := spread s c.pages 0x600 (List.replicate rows lens.sum)
  let s := spread s c.pages 0x610 ((all.zip kept).map fun q => q.1.length - q.2.length)
  let s := countRows s pageOf k stats
  ok s ([some (mkTensor (inCol ins 0).type_ (lead ++ [k]) (kept.flatMap (padTo k (fun e => some e.bits) none))),
      some (mkTensor 9 (lead ++ [k]) (kept.flatMap (padTo k (fun e => if e.noId then none else some e.key) (some sentinelId)))),
      some (mkTensor 9 (lead ++ [k]) (kept.flatMap (padTo k (fun e => some e.pos) (some sentinelId)))),
      some (mkTensor 8 (lead ++ [2]) (stats.flatMap fun q => [some q.1, some (if c.level < 0x0202 then 0 else q.2)]))],
    tallyOf k stats)

/-! ### Checks -/

/-- The uses of inputs and outputs (R289, R290, R296). -/
def selUses (r : List Byte) : List Use × List Use :=
  if stOp r = 0x0402 then
    let m := fieldN r 54 1
    if m < 2 ∨ 4 < m then (List.replicate 8 .may, List.replicate 4 .must)
    else (((List.range 4).map fun j => Use.iff (decide (j < m))) ++ (List.range 4).map fun j => Use.iff (decide (j < m)),
      List.replicate 4 .must)
  else
    let f := selFlags r
    ([.must, Use.iff (bitOf f 0 || bitOf f 2), .may, Use.iff (bitOf f 1)], [.may, .may, Use.iff (inUsed r 2), .may])

/-- The checks of a selection stage's operands at the bind (R291, R296). -/
def selBind (r : List Byte) : List Fail :=
  failIf (decide (1 < fieldN r 52 1)) stBadField 52
  ++ if stOp r = 0x0402 then
    failIf (decide (fieldN r 48 4 = 0 ∨ 4096 < fieldN r 48 4)) stBadField 48 ++ failIf (decide (1 < fieldN r 53 1)) stBadField 53
    ++ failIf (decide (fieldN r 54 1 < 2 ∨ 4 < fieldN r 54 1)) stBadField 54 ++ failIf (!(zeroAt r 55 201)) stBadField 55
  else
    failIf (if stOp r = 0x0401 then fieldN r 48 4 != 0 else decide (fieldN r 48 4 = 0 ∨ 4096 < fieldN r 48 4)) stBadField 48
    ++ failIf (decide (0x0F < selFlags r) || (bitOf (selFlags r) 1 && bitOf (selFlags r) 3)) stBadField 53
    ++ failIf (!(zeroAt r 54 202)) stBadField 54
    ++ failIf (!((List.range 4).any (outUsed r))) stBadField (outOff 0)

/-- Score types (R289). -/
def scoreType (t : Nat) : Bool := decide (2 ≤ t ∧ t ≤ 0x0C)

/-- Two columns checked together, when both are known. -/
def pairIn (ins : List (Option Col)) (i j : Nat) (p : Col → Col → Bool) : List Fail :=
  match ins.getD i none, ins.getD j none with
  | some a, some b => failIf (!(p a b)) stBadField (inOff j)
  | _, _ => []

/-- What a selection stage accepts of its inputs (R291, R296). -/
def selInputs (r : List Byte) (ins : List (Option Col)) : List Fail :=
  if stOp r = 0x0402 then
    (List.range 4).flatMap fun j =>
      checkIn ins j (fun c => c.kind == kTensor && scoreType c.type_ && decide (1 ≤ c.dims.getD 3 0 ∧ c.dims.getD 3 0 ≤ 65536))
      ++ checkIn ins (4 + j) (fun c => c.kind == kTensor && c.type_ == 9)
      ++ pairIn ins j (4 + j) (fun a b => a.dims == b.dims)
      ++ (if j = 0 then [] else pairIn ins 0 j fun a b => a.type_ == b.type_ && a.dims.take 3 == b.dims.take 3)
  else
    checkIn ins 0 (fun c => c.kind == kTensor && scoreType c.type_)
    ++ checkIn ins 1 (fun c => c.kind == kTensor && c.type_ == 9) ++ pairIn ins 0 1 (fun a b => a.dims == b.dims)
    ++ checkIn ins 2 (fun c => c.kind == kTensor && c.type_ == 6 && decide (1 ≤ c.dims.getD 3 0 ∧ c.dims.getD 3 0 ≤ 4096))
    ++ checkIn ins 3 (fun c => isColumn c (· == 8)) ++ pairIn ins 0 3 fun a b => b.count == (rowShape r a).1

/-- TYPE and shape of a selection stage's outputs where they are known. -/
def selOut (r : List Byte) (ins : List (Option Col)) (o : Nat) : Option (Nat × List Nat) :=
  (ins.getD 0 none).bind fun x =>
    let lead := if isFlat r then [1, 1, 1] else x.dims.take 3
    let k := selK r (rowShape r x).2
    if o = 0 then some (x.type_, lead ++ [k])
    else if o = 1 then some (9, lead ++ [k])
    else if o = 3 then some (8, lead ++ [2])
    else if stOp r = 0x0402 then some (9, lead ++ [k])
    else (ins.getD 2 none).map fun t => (6, [lead.getD 0 1, lead.getD 1 1, lead.getD 2 1 * k, t.dims.getD 3 0])

/-- Limits of a stage when it starts (R292, R297): elements, rows, and the length of a SORT row. -/
def selOver (r : List Byte) (ins : List (Option Col)) : Bool :=
  let x := inCol ins 0
  if stOp r = 0x0402 then
    let rows := prod (x.dims.take 3)
    decide (1048576 < rows ∨ 16777216 < rows * ((List.range (fieldN r 54 1)).map fun j => (inCol ins j).dims.getD 3 0).sum)
  else
    let sh := rowShape r x
    decide (16777216 < x.count ∨ 1048576 < sh.1) || (stOp r == 0x0401 && decide (1048576 < sh.2))

/-- The inputs of a selection stage read from memory, but for a payload table. -/
def selLoad (r : List Byte) (ins : List (Option Col)) (s : State) : Res (List (Option Col)) :=
  if stOp r = 0x0402 then loadAll s ins
  else andThen (loadAll s (ins.zipIdx.map fun p => if p.2 = 2 then none else p.1)) fun s l =>
    ok s (l.zipIdx.map fun p => if p.2 = 2 then ins.getD 2 none else p.1)

/-- What a selection stage computes of inputs that have been read. -/
def selRun (c : Ctx) (ins : List (Option Col)) (s : State) : Res (List (Option Col) × Tally) :=
  if c.op = 0x0402 then runMergeLists c ins s else runTopk c ins s

end Sys2Proof.Machine
end

