-- ==== Sys2Proof/Machine/Shuffle.lean ====
section
/-! DEFINITION. SHUFFLE and BATCH (R321 to R326), and the checks of the Preparation group (R301 to R331, R534). -/

namespace Sys2Proof.Machine

/-! ### The permutation (R322) -/

/-- One evaluation of the permutation on b bits. -/
def perm (key : List Byte) (b x : Nat) : Nat :=
  let a := ceilDiv b 2
  let c := b - a
  let rd (p : Nat × Nat) (r : Nat) : Nat × Nat :=
    let f := fold64 key (natLE 8 (if r % 2 = 0 then p.2 else p.1) ++ natLE 8 r)
    if r % 2 = 0 then (p.1 ^^^ (f % 2 ^ a), p.2) else (p.1, p.2 ^^^ (f % 2 ^ c))
  let q := [0, 1, 2, 3].foldl rd (x / 2 ^ c, x % 2 ^ c)
  q.1 * 2 ^ c + q.2

/-- Cycle-walking: the value below n and the evaluations made. -/
def walk (key : List Byte) (b n : Nat) : Nat → Nat → Nat → Nat × Nat
  | 0, y, k => (y, k)
  | f + 1, y, k => if y < n then (y, k) else walk key b n f (perm key b y) (k + 1)

/-- Bits of the permutation of n samples. -/
def permBits (n : Nat) : Nat := Nat.max 2 (if n ≤ 1 then 0 else Nat.log2 (n - 1) + 1)

/-- The permutation key of an epoch. -/
def permKey (seed epoch : Nat) : List Byte := (shake256_256 (natLE 8 seed ++ natLE 8 epoch)).take 16

/-- The sample at a position of an epoch, and the evaluations it took. -/
def sampleOf (n seed epoch i : Nat) : Nat × Nat :=
  let b := permBits n
  let key := permKey seed epoch
  walk key b n (2 ^ b - n) (perm key b i) 1

/-! ### SHUFFLE (R321, R323) -/

/-- A candidate row: its sample, epoch and position; none for a padding row. -/
abbrev Cand := Option (Nat × Nat × Nat)

/-- The cursor after a position (R323). -/
def cursorNext (n : Nat) (c : Nat × Nat) : Nat × Nat := if c.2 + 1 < n then (c.1, c.2 + 1) else ((c.1 + 1) % 2 ^ 32, 0)

/-- Rows emitted from a cursor: positions, and padding rows once an epoch has ended under PAD. -/
def emit (n : Nat) (pad : Bool) : Nat → Nat × Nat → List (Option (Nat × Nat))
  | 0, _ => []
  | k + 1, c => some c :: (if pad && decide (n ≤ c.2 + 1) then List.replicate k none else emit n pad k (cursorNext n c))

/-- The cursor past every row of a list: past the last position, or at the epoch after it when padding follows. -/
def cursorPast (n : Nat) (rows : List (Option (Nat × Nat))) (start : Nat × Nat) : Nat × Nat :=
  match (rows.filterMap id).getLast? with
  | some c => cursorNext n c
  | none => start

/-- ALL-ones, which a padding row carries. -/
def ones64 : Nat := 2 ^ 64 - 1

/-- Rows that SHUFFLE emits for a batch. -/
def shuffleRows (r : List Byte) (rows : Nat) : Nat := rows + fieldN r 72 2

/-- Both outputs of SHUFFLE. -/
def candCols (cs : List Cand) : List (Option Col) :=
  [some (mkCol 9 (cs.map fun c => some ((c.map (·.1)).getD ones64))),
   some (mkCol 9 (cs.map fun c => some ((c.map fun x => x.2.1 * 2 ^ 32 + x.2.2).getD ones64)))]

/-- The candidates back from SHUFFLE's outputs. -/
def candsOf (outs : List (Option Col)) : List Cand :=
  let a := inCol outs 0
  let b := inCol outs 1
  (List.range a.count).map fun i => if b.bits i = ones64 then none else some (a.bits i, b.bits i / 2 ^ 32, b.bits i % 2 ^ 32)

/-- The BATCH stage of a plan is bound with FILL_NEXT (R323, R324). -/
def planFills (p : Plan) : Bool := p.stages.any fun r => stOp r == 0x0604 && fieldN r 48 1 == 1

/-- SHUFFLE issued for a batch: the rows it emits, the cursor's advance but under FILL_NEXT, and the counters. -/
def shuffleIssue (c : Ctx) (s : State) : State :=
  let r := c.record
  let n := c.n 48 8
  match s.stream? c.stream with
  | none => s
  | some x =>
    let rows := emit n (c.n 74 1 == 1) (shuffleRows r c.rows) x.cursor
    let found := rows.map fun p => p.map fun q => (q, sampleOf n (c.n 56 8) q.1 q.2)
    let cs : List Cand := found.map fun p => p.map fun q => (q.2.1, q.1.1, q.1.2)
    let past := cursorPast n rows x.cursor
    let fills := (x.plan.map planFills).getD false
    let s := bump s (pgShuf + 0x400) ((found.filterMap id).map (·.2.2)).sum
    let s := bump s (pgShuf + 0x408) rows.length
    let s := s.setStream c.stream fun y =>
      if fills then { y with cursorBy := some c.idx } else { y with cursor := past }
    let s := s.setBatch c.stream c.idx fun b => { b with
      curFrom := x.cursor
      curTo := past }
    s.setRun c.stream c.idx c.stage fun u => { u with outs := candCols cs }

/-- A batch that completes without its BATCH stage finishing moves the cursor past every row it emitted (R323). -/
def cursorGiveUp (s : State) (stream idx : Nat) : State :=
  match s.batch? stream idx with
  | none => s
  | some b => s.setStream stream fun x => if x.cursorBy = some idx then { x with
      cursor := b.curTo
      cursorBy := none } else x

/-! ### BATCH (R324 to R326) -/

/-- A slot of a batch: the candidate's number, or none. -/
structure BSlot where
  cand : Option Nat
  valid : Bool
  pad : Bool
  spent : Bool
  deriving DecidableEq, Repr

/-- What BATCH decides: slots, candidates passed, and rejected candidates with the slots they would have filled. -/
structure BPlan where
  slots : List BSlot
  passed : Nat
  rejects : List (Nat × Nat)
  deriving DecidableEq, Repr

/-- A candidate's judgement: 0 good, 1 bad, 2 padding. -/
def judge (cs : List Cand) (status : Nat → Nat) (i : Nat) : Nat :=
  if (cs.getD i none).isNone then 2 else if status i = 0 then 0 else 1

/-- Slots under MASK. -/
def maskPlan (cs : List Cand) (status : Nat → Nat) (rows : Nat) : BPlan where
  slots := (List.range rows).map fun i => ⟨some i, judge cs status i == 0, judge cs status i == 2, false⟩
  passed := rows
  rejects := (List.range rows).filterMap fun i => if judge cs status i = 1 then some (i, i) else none

/-- Slots under FILL_NEXT. -/
def fillPlan (cs : List Cand) (status : Nat → Nat) (rows : Nat) : BPlan :=
  let all := List.range cs.length
  let good := (all.filter fun i => judge cs status i == 0).take rows
  let passed := if good.length = rows then good.getLastD 0 + 1 else cs.length
  let padded := all.any fun i => judge cs status i == 2
  { slots := (List.range rows).map fun k => match good[k]? with
      | some i => ⟨some i, true, false, false⟩
      | none => ⟨none, false, padded, !padded⟩
    passed := passed
    rejects := (List.range passed).filterMap fun i =>
      if judge cs status i = 1 then some (i, (good.filter fun g => decide (g < i)).length) else none }

/-- The batch record (R326). -/
def batchRecord (policy rows : Nat) (cs : List Cand) (status : Nat → Nat) (p : BPlan) (from_ to_ : Nat × Nat) (epochBad : Nat) : List Byte :=
  let mask := bitmapOf (p.slots.map (·.valid))
  let m := roundUp mask.length 8
  let entry (k : Nat) (q : BSlot) : List Byte :=
    let empty := q.pad || q.spent
    let c : Nat × Nat × Nat := ((q.cand.bind fun i => cs.getD i none)).getD (ones64, from_.1, 2 ^ 32 - 1)
    let subst := policy == 1 && q.valid && q.cand != some k
    let wrapped := !empty && c.2.1 == to_.1 && c.2.1 != from_.1
    natLE 8 (if empty then ones64 else c.1) ++ natLE 4 (if empty then 2 ^ 32 - 1 else c.2.2)
      ++ natLE 1 (if empty then 0 else ((q.cand.map status).getD 0))
      ++ natLE 1 (b2n q.valid + 2 * b2n subst + 4 * b2n q.pad + 8 * b2n wrapped + 16 * b2n q.spent) ++ natLE 2 0
  let reject (x : Nat × Nat) : List Byte :=
    let c : Nat × Nat × Nat := (cs.getD x.1 none).getD (0, 0, 0)
    natLE 8 c.1 ++ natLE 4 c.2.2 ++ natLE 4 c.2.1 ++ natLE 4 x.2 ++ natLE 1 (status x.1) ++ natLE 3 0
  let valid := (p.slots.filter (·.valid)).length
  let padded := (p.slots.filter fun q => q.pad || q.spent).length
  natLE 4 0x48435442 ++ natLE 2 1 ++ natLE 1 policy ++ natLE 1 0 ++ natLE 4 from_.1 ++ natLE 4 from_.2 ++ natLE 4 to_.1 ++ natLE 4 to_.2
    ++ natLE 4 rows ++ natLE 4 valid ++ natLE 4 (rows - valid - padded) ++ natLE 4 (if policy = 1 then p.rejects.length else 0)
    ++ natLE 4 p.rejects.length ++ natLE 4 epochBad ++ natLE 4 padded ++ natLE 4 0 ++ natLE 8 (64 + m + 16 * rows + 24 * p.rejects.length)
    ++ mask ++ List.replicate (m - mask.length) 0 ++ (p.slots.zipIdx.flatMap fun q => entry q.2 q.1) ++ p.rejects.flatMap reject

/-- Candidate rows of an input. -/
def candRows (c : Col) : Nat := if c.kind = kTensor then c.dims.headD 0 else c.count

/-- An input's rows picked by slot; a masked slot holds zeros. -/
def pickSlots (c : Col) (slots : List BSlot) : Col :=
  let n := candRows c
  let w := c.data.length / max 1 n
  let per := c.count / max 1 n
  let pick (q : BSlot) : Option Nat := if q.valid then q.cand else none
  { c with
    count := per * slots.length
    dims := if c.kind = kTensor then slots.length :: c.dims.drop 1 else c.dims
    data := slots.flatMap fun q => match pick q with
      | some i => (c.data.drop (i * w)).take w
      | none => List.replicate w 0
    valid := if c.valid = [] then [] else slots.flatMap fun q => match pick q with
      | some i => (c.valid.drop (i * per)).take per
      | none => List.replicate per true }

/-- BATCH over a batch whose SHUFFLE stage emitted candidates: outputs, counters, the cursor and EPOCH_BAD. -/
def batchRun (c : Ctx) (shuf : List Byte) (cs : List Cand) (ins : List (Option Col)) (s : State) : Res (List (Option Col)) :=
  let policy := c.n 48 1
  let st := ins.getD 3 none
  match (List.range 4).find? fun i => ((ins.getD i none).map candRows).any fun n => n != cs.length with
  | some i => failAt (noteErr s pgShuf 0x438 stCorrupt c.stream c.stage c.op) stCorrupt (inOff i)
  | none => match s.stream? c.stream, s.batch? c.stream c.idx with
    | some x, some b =>
      let status (i : Nat) : Nat := match st with
        | some y => if y.isValid i then y.bits i else 0x23
        | none => 0
      let p := if policy = 0 then maskPlan cs status c.rows else fillPlan cs status c.rows
      let n := fieldN shuf 48 8
      let seen := cs.take p.passed
      let lastPos := (seen.filterMap id).getLast?
      let padEnd : Bool := seen.any (·.isNone)
      let to_ : Nat × Nat := match lastPos with
        | some q => if padEnd then ((q.2.1 + 1) % 2 ^ 32, 0) else cursorNext n (q.2.1, q.2.2)
        | none => b.curFrom
      let epoch := (lastPos.map (·.2.1)).getD b.curFrom.1
      let fresh := (p.rejects.filter fun q => ((cs.getD q.1 none).map (·.2.1)) == some epoch).length
      let total := (if x.badEpoch = epoch then x.epochBad else 0) + fresh
      let s := s.setStream c.stream fun y => { y with
        epochBad := total
        badEpoch := epoch
        cursor := if policy = 1 then to_ else y.cursor
        cursorBy := if y.cursorBy = some c.idx then none else y.cursorBy }
      let s := s.setBatch c.stream c.idx fun y => { y with
        curTo := to_
        subst := y.subst || (policy == 1 && p.rejects != []) }
      let s := if policy = 0 then bump s (pgShuf + 0x410) p.rejects.length else bump s (pgShuf + 0x418) p.rejects.length
      let rec_ := batchRecord policy c.rows cs status p b.curFrom to_ total
      ok s (((List.range 3).map fun i => (ins.getD i none).map fun y => pickSlots y p.slots) ++ [some (mkBytes rec_)])
    | _, _ => fail s stCorrupt

/-! ### Checks -/

def prepUses (r : List Byte) : List Use × List Use :=
  match stOp r with
  | 0x0600 => ([.must], [.must, .may, .may, .may])
  | 0x0601 => ([.must, .must], [.must])
  | 0x0602 => ([.must], [.must, .must])
  | 0x0603 => ([], [.must, .must])
  | _ => ((List.range 3).map (fun i => Use.iff (outUsed r i)) ++ [.may], (List.range 3).map (fun i => Use.iff (inUsed r i)) ++ [.must])

def shuffleBind (r : List Byte) (fills : Bool) : List Fail :=
  let n := fieldN r 48 8
  failIf (n == 0 || decide (2 ^ 32 ≤ n)) stBadField 48 ++ failIf (decide (n ≤ fieldN r 68 4)) stBadField 68
  ++ failIf (decide (256 < fieldN r 72 2) || (fieldN r 72 2 != 0 && !fills)) stBadField 72
  ++ failIf (decide (1 < fieldN r 74 1)) stBadField 74 ++ failIf (!(zeroAt r 75 181)) stBadField 75

/-- Operand checks; fills says whether the plan has a BATCH stage with FILL_NEXT. -/
def prepBind (r : List Byte) (b : Blocks) (fills : Bool) : List Fail :=
  match stOp r with
  | 0x0600 => tokenBind r b
  | 0x0601 => decodeBind r
  | 0x0602 => transformBind r
  | 0x0603 => shuffleBind r fills
  | _ => failIf (decide (1 < fieldN r 48 1)) stBadField 48 ++ failIf (!(zeroAt r 49 207)) stBadField 49

/-- FILL_NEXT needs level 2.2 (R40, R324). -/
def prepLevel (level : Nat) (r : List Byte) : List Fail :=
  failIf (decide (level < 0x0202) && stOp r == 0x0604 && fieldN r 48 1 == 1) stLevel 48

/-- Checks of known inputs (R182). -/
def prepInputs (r : List Byte) (ins : List (Option Col)) : List Fail :=
  match stOp r with
  | 0x0600 => checkIn ins 0 fun c => c.kind == kColumn && c.type_ == 0x0E
  | 0x0601 => checkIn ins 0 (fun c => isColumn c (· == 9)) ++ checkIn ins 1 (fun c => c.kind == kBytes)
  | 0x0602 => checkIn ins 0 fun c => c.kind == kPictures
  | 0x0604 => ((List.range 3).flatMap fun i => checkIn ins i fun c => (c.kind == kColumn || c.kind == kTensor) && decide (1 ≤ c.type_ ∧ c.type_ ≤ 0x0C))
      ++ checkIn ins 3 fun c => isColumn c (· == 6)
  | _ => []

/-- The KIND, TYPE and dimensions that an output has; an empty dimension list sets none. -/
def prepOut (r : List Byte) (rows : Nat) (ins : List (Option Col)) (o : Nat) : Option (Nat × Nat × List Nat) :=
  match stOp r with
  | 0x0600 => some (kColumn, if o = 0 then 9 else if o = 3 then 6 else 8, [])
  | 0x0601 => some (kPictures, 0, [])
  | 0x0602 =>
    if o = 0 then
      let n := ((ins.getD 0 none).map (·.count)).getD rows
      some (kTensor, fieldN r 54 1, if fieldN r 53 1 = 0 then [n, fieldN r 50 2, fieldN r 48 2, ptChannels r]
        else [n, ptChannels r, fieldN r 50 2, fieldN r 48 2])
    else some (kColumn, 6, [])
  | 0x0603 => some (kColumn, 9, [])
  | _ =>
    if o = 3 then some (kBytes, 0, [])
    else (ins.getD o none).map fun c => (c.kind, c.type_, if c.kind = kTensor then rows :: c.dims.drop 1 else [])

/-- Reading inputs when the stage starts: a sample table is read row by row (R309). -/
def prepLoad (r : List Byte) (ins : List (Option Col)) (s : State) : Res (List (Option Col)) :=
  if stOp r = 0x0601 then andThen (loadAll s (ins.take 1)) fun s l => ok s (l ++ ins.drop 1) else loadAll s ins

/-- Which unit class a stage of the group runs on, and its MAX_UNITS (R301). -/
def prepClass (r : List Byte) : Nat × Nat :=
  let cap (n : Nat) : Nat := if n = 0 then 8 else n
  match stOp r with
  | 0x0600 => (13, cap (fieldN r 63 1))
  | 0x0601 => (12, cap (fieldN r 51 1))
  | 0x0602 => (12, cap (fieldN r 58 1))
  | _ => (14, 1)

end Sys2Proof.Machine
end

