-- ==== Sys2Proof/Machine/Plan.lean ====
section
/-! DEFINITION. Plans (R59 to R62, R76, R533, R534): what BIND_PLAN reads and checks, peer sessions, and what SUBMIT_BATCH
checks of a batch's descriptors against the plan. -/

namespace Sys2Proof.Machine

/-! ### Operators (R62) -/

/-- Operator codes that the part knows. -/
def opKnown (op : Nat) : Bool :=
  decide (0x0100 ≤ op ∧ op ≤ 0x0109) || decide (0x0200 ≤ op ∧ op ≤ 0x0204) || decide (0x0300 ≤ op ∧ op ≤ 0x0306)
  || decide (0x0400 ≤ op ∧ op ≤ 0x0402) || op == 0x0500 || op == 0x0501 || decide (0x0600 ≤ op ∧ op ≤ 0x0604)
  || op == 0x0700 || op == 0x0701 || decide (0x0800 ≤ op ∧ op ≤ 0x0802)

/-- The lowest level that accepts an operator. -/
def opLowest (op : Nat) : Nat := if op = 0x0108 ∨ op = 0x0802 then 0x0101 else if op = 0x0203 then 0x0200 else 0x0100

/-- Does a stage name table records, or a rule-set record? -/
def namesTables (op : Nat) : Bool := [0x0200, 0x0201, 0x0202, 0x0203, 0x0802].contains op
def namesSet (op : Nat) : Bool := opGroup op == 5

/-- The uses of a stage's ports (R534). -/
def opUses (r : List Byte) : List Use × List Use :=
  match opGroup (stOp r) with
  | 1 => relUses r
  | 2 => tabUses r
  | 3 => denseUses r
  | 4 => selUses r
  | 5 => reedUses r
  | 6 => prepUses r
  | 7 => packUses r
  | _ => if stOp r = 0x0802 then tabUses r else extUses r

/-- Ports used where they must not be, or unused where they must be. -/
def usesFails (r : List Byte) : List Fail :=
  let u := opUses r
  ((List.range 8).flatMap fun i => failIf (!((u.1.getD i .never).ok (inUsed r i))) stBadField (inOff i))
  ++ (List.range 4).flatMap fun o => failIf (!((u.2.getD o .never).ok (outUsed r o))) stBadField (outOff o)

/-- An input reference names an earlier stage's used output, a batch descriptor, or nothing (R61). -/
def refOk (plan : List (List Byte)) (i ref : Nat) : Bool :=
  if ref = 0xFFFF then true
  else if ref / 256 = 0xFE then decide (ref % 256 ≤ 31)
  else decide (ref / 256 < i) && decide (ref % 256 ≤ 3) && outUsed (plan.getD (ref / 256) []) (ref % 256)

/-- An output word (R61). -/
def outOk (w : Nat) : Bool := w == 0 || w == 0xFFFF || (w / 256 == 0xFE && decide (w % 256 ≤ 31))

/-- Names a picture set where it may not: committed by a PICTURE_DECODE stage, or read by another operator (R310). -/
def pictureFails (plan : List (List Byte)) (r : List Byte) : List Fail :=
  failIf (stOp r == 0x0601 && outWord r 0 / 256 == 0xFE) stBadField (outOff 0)
  ++ (List.range 8).flatMap fun i =>
    let f := inRef r i
    failIf (decide (f / 256 < 0xFE) && stOp (plan.getD (f / 256) []) == 0x0601 && stOp r != 0x0602) stBadField (inOff i)

/-- The fields of R60. -/
def recordFails (plan : List (List Byte)) (tilesMax i : Nat) (r : List Byte) : List Fail :=
  let op := stOp r
  let tiled := opGroup op == 1 || opGroup op == 3 || opGroup op == 4
  failIf (decide (2 < stRole r) || (i != 0 && decide (stRole r < stRole (plan.getD (i - 1) [])))) stBadField 2
  ++ failIf ((if tiled then decide (stTiles r = 0 ∨ 48 < stTiles r) else stTiles r != 0)
    || (tilesMax != 0 && decide (tilesMax < stTiles r))) stBadField 3
  ++ failIf (decide (1 < stFlags r)) stBadField 4 ++ failIf (!(zeroAt r 5 3)) stBadField 5
  ++ failIf (stTimeoutOf r != 0 && op != 0x0801 && op != 0x0802) stBadField 8 ++ failIf (!(zeroAt r 12 4)) stBadField 12
  ++ ((List.range 8).flatMap fun k => failIf (!(refOk plan i (inRef r k))) stBadField (inOff k))
  ++ ((List.range 4).flatMap fun o => failIf (!(outOk (outWord r o))) stBadField (outOff o))
  ++ failIf (!(zeroAt r 40 8)) stBadField 40 ++ usesFails r ++ pictureFails plan r

/-! ### What the bind reads for a stage (R59, R533) -/

/-- A block to read: its key among the stage's blocks, the operand that names it, its address and length. -/
abbrev Want := Nat × Nat × Nat × Nat

/-- Blocks whose length the stage record itself gives. -/
def wants (r : List Byte) : List Want :=
  let at_ (k off len : Nat) (ok : Bool) : List Want := if ok then [(k, off, fieldN r off 8, len)] else []
  match stOp r with
  | 0x0101 | 0x0102 => at_ 48 48 16 (fieldN r 48 8 % 16 == 0)
  | 0x0104 => at_ 48 48 (8 * fieldN r 56 4) (fieldN r 48 8 % 8 == 0 && decide (1 ≤ fieldN r 56 4 ∧ fieldN r 56 4 ≤ 65535))
  | 0x0200 | 0x0802 =>
    let n := fieldN r 64 2
    (if fieldN r 48 8 % 64 = 0 ∧ 1 ≤ n ∧ n ≤ 64 then (List.range n).map fun i => (tableKey i, 48, fieldN r 48 8 + 128 * i, 128) else [])
    ++ at_ 56 56 (16 * fieldN r 66 2) (fieldN r 56 8 % 16 == 0 && decide (1 ≤ fieldN r 66 2 ∧ fieldN r 66 2 ≤ 256))
    ++ at_ 80 80 (32 * fieldN r 97 1) (stOp r == 0x0802 && fieldN r 80 8 % 32 == 0 && decide (2 ≤ fieldN r 97 1 ∧ fieldN r 97 1 ≤ 16))
  | 0x0201 | 0x0202 | 0x0203 => at_ (tableKey 0) 48 128 true
  | 0x0301 => at_ 72 72 64 (fieldN r 72 8 != 0)
  | 0x0305 =>
    let ok (off : Nat) : Bool := fieldN r 73 1 == 1 && fieldN r off 8 != 0 && decide (1 ≤ fieldN r 80 4 ∧ fieldN r 80 4 ≤ 65536)
    at_ 88 88 (4 * fieldN r 80 4) (ok 88) ++ at_ 96 96 (4 * fieldN r 80 4) (ok 96)
  | 0x0500 | 0x0501 => at_ 48 48 64 (fieldN r 48 8 % 64 == 0)
  | 0x0600 => at_ 48 48 64 (fieldN r 48 8 % 64 == 0 && inFen (fieldN r 48 8) 64)
  | _ => []

/-- One block read; a fault names the stage. -/
def readWant (s : State) (w : Want) : State × List Fail × Blocks :=
  if !(inR44 w.2.2.1 w.2.2.2) then (s, failIf true stBounds w.2.1, [])
  else match devRead s w.2.2.1 w.2.2.2 with
    | (s, .ok b) => (s, [], [(w.1, b)])
    | (s, .error e) => (s, failIf true e.status 0xFF, [])

/-- Blocks whose extent only a block read before gives: a program after its header, and the walk of a trie's continuation
string. -/
def readMore (s : State) (r : List Byte) (b : Blocks) : State × List Fail × Blocks :=
  let h := blockAt b 48
  match stOp r with
  | 0x0101 | 0x0102 => if h = [] ∨ 256 < fieldN h 0 2 ∨ 64 < fieldN h 2 1 then (s, [], []) else readWant s (304, 48, fieldN r 48 8, progBytes h)
  | 0x0600 =>
    if h = [] ∨ trieOk h = false then (s, [], [])
    else match trieRoot r h s with
      | (s, .ok (some n)) => (s, [], [(64, natLE 4 n)])
      | (s, .ok none) => (s, [], [])
      | (s, .error e) => (s, failIf true e.1 0xFF, [])
  | _ => (s, [], [])

/-- Every block of a stage. -/
def readBlocks (s : State) (r : List Byte) : State × List Fail × Blocks :=
  let a := (wants r).foldl (fun (a : State × List Fail × Blocks) w => match readWant a.1 w with
    | (s, f, b) => (s, a.2.1 ++ f, a.2.2 ++ b)) (s, [], [])
  match readMore a.1 r a.2.2 with
  | (s, f, b) => (s, a.2.1 ++ f, a.2.2 ++ b)

/-! ### What stages give (R61, R182) -/

/-- Stands for KIND where COLUMN and TENSOR both serve. -/
def kAny : Nat := 0xFF

/-- KIND, TYPE and dimensions of a stage's output where they are known; an empty list of dimensions sets none. -/
def opOut (r : List Byte) (b : Blocks) (rows : Nat) (ins : List (Option Col)) (o : Nat) : Option (Nat × Nat × List Nat) :=
  match opGroup (stOp r) with
  | 1 => (relOut r b ins o).map fun q => (q.1, q.2, [])
  | 2 => some (kAny, outFormatType r, [])
  | 3 => some (kTensor, fieldN r 48 1, (denseShape r b ins).getD [])
  | 4 => (selOut r ins o).map fun q => (kTensor, q.1, q.2)
  | 5 => some ((reedOut o).1, (reedOut o).2, [])
  | 6 => prepOut r rows ins o
  | 7 => (packOut r ins o).map fun q => (q.1, q.2, [])
  | _ => if stOp r = 0x0802 then some (kAny, outFormatType r, []) else some (extOut r rows o)

/-- KIND and TYPE of the outputs of a plan's stages, as far as the plan alone tells them. -/
def planOuts (blocksAt : Nat → Blocks) (plan : List (List Byte)) : List (List (Option Col)) :=
  plan.zipIdx.foldl (fun acc q =>
    let ins := (List.range 8).map fun k => (acc.getD (inRef q.1 k / 256) []).getD (inRef q.1 k % 256) none
    acc ++ [(List.range 4).map fun o =>
      if outUsed q.1 o then (opOut q.1 (blocksAt q.2) 1 ins o).map fun t => { kind := t.1, type_ := t.2.1 } else none]) []

/-- A CAST of an earlier stage's VARBYTES (R198). -/
def castFails (outs : List (List (Option Col))) (r : List Byte) : List Fail :=
  if stOp r ≠ 0x0109 then []
  else (List.range 4).flatMap fun k =>
    failIf (((outs.getD (inRef r k / 256) []).getD (inRef r k % 256) none).any (·.type_ == 0x0E)) stBadField (inOff k)

/-! ### The checks of a stage at the bind -/

/-- What a bind has built so far. -/
structure Draft where
  dirs : List TableEnt
  sets : List RuleSet
  fails : List Fail := []
  tables : List (Nat × List Byte) := []
  blocks : List (Nat × Nat × List Byte) := []
  sources : List (Nat × Nat × Nat) := []

/-- A descriptor that an operand names may not need a level above the session's (R40). -/
def namedDescs (r : List Byte) (b : Blocks) : List (Nat × Desc) :=
  if stOp r = 0x0301 ∧ fieldN r 72 8 ≠ 0 ∧ blockAt b 72 ≠ [] then [(72, wDesc b)] else []

/-- Addresses of operands that the bind does not read, and those in descriptors that operands name, must lie in the places of
R44. -/
def addrFails (r : List Byte) (b : Blocks) : List Fail :=
  let at_ (off n : Nat) : List Fail := failIf (fieldN r off 8 != 0 && !(inR44 (fieldN r off 8) n)) stBounds off
  ((namedDescs r b).flatMap fun d => failIf (!(d.2.inBounds true)) stBounds d.1)
  ++ match stOp r with
  | 0x0301 => at_ 80 (4 * (if fieldN r 72 8 = 0 then 1 else (wDesc b).dims.getD 2 0))
  | 0x0305 => at_ 88 (4 * fieldN r 80 4) ++ at_ 96 (4 * fieldN r 80 4)
  | _ => []

/-- The checks of a stage's operands by its operator. -/
def opBind (s : State) (d : Draft) (fills : Bool) (r : List Byte) (b : Blocks) (recs : List (List Byte)) (setRec : List Byte) : List Fail :=
  match opGroup (stOp r) with
  | 1 => relBind r b
  | 2 => tabBind r b recs
  | 3 => denseBind r
  | 4 => selBind r
  | 5 => reedBind r b setRec
  | 6 => prepBind r b fills
  | 7 => packBind r
  | _ => if stOp r = 0x0802 then tabBind r b recs else extBind s d.sources r

/-- What of a stage needs a level above the session's: its operator, or the field or named descriptor that asks for it (R40, R62,
R264). -/
def levelFails (level : Nat) (r : List Byte) (b : Blocks) : List Fail :=
  failIf (decide (level < opLowest (stOp r))) stLevel 0
  ++ ((namedDescs r b).flatMap fun d => failIf (decide (level < 0x0201) && d.2.type_ == 0x19) stLevel d.1)
  ++ (if opGroup (stOp r) = 3 then denseLevel level r else if opGroup (stOp r) = 6 then prepLevel level r else [])

/-- One stage of a bind, by its index and record. -/
def bindStage (w : Binder) (plan : List (List Byte)) (tilesMax : Nat) (s : State) (d : Draft) (i : Nat) (r : List Byte) : State × Draft :=
  let here (l : List Fail) : List Fail := l.map fun f => { f with stage := i + 1 }
  if !(opKnown (stOp r)) then (s, { d with fails := d.fails ++ here (failIf true stBadOpcode 0) })
  else match readBlocks s r with
    | (s, f, b) =>
      let op := stOp r
      let raw := if namesTables op then stageRecs r b else []
      let tabs := (raw.filter (· != [])).foldl (fun (a : List TableEnt × List Fail) t =>
        (dirAdd a.1 w t, a.2 ++ trecFails w.level 48 t ++ dirCheck s a.1 w (op == 0x0200 || op == 0x0802) 48 t)) (d.dirs, [])
      let recs := raw.map (resolveRec tabs.1)
      let set0 := if namesSet op then blockAt b 48 else []
      let setF := if set0 = [] then [] else setCheck s d.sets w (op == 0x0500) set0
      let sets := if set0 = [] ∨ setF ≠ [] then d.sets else setAdd d.sets w set0
      let setRec := resolveSet sets set0
      let fills := plan.any fun x => stOp x == 0x0604 && fieldN x 48 1 == 1
      let blocksAt (j : Nat) : Blocks := (d.blocks.filter (·.1 == j)).map (·.2)
      let fs := recordFails plan tilesMax i r ++ castFails (planOuts blocksAt (plan.take i)) r ++ f ++ tabs.2 ++ setF ++ opBind s d fills r b recs setRec ++ addrFails r b
        ++ levelFails w.level r b
      (s, { d with
        dirs := tabs.1
        sets := sets
        fails := d.fails ++ here fs
        tables := d.tables ++ (recs.map fun t => (i, t)) ++ (if set0 = [] then [] else [(i, setRec)])
        blocks := d.blocks ++ b.map fun x => (i, x.1, x.2)
        sources := d.sources ++ if op = 0x0801 then [sourceOf r] else [] })

/-- The stages of a bind in plan order. -/
def bindStages (w : Binder) (plan : List (List Byte)) (tilesMax : Nat) : State → Draft → Nat → List (List Byte) → State × Draft
  | s, d, _, [] => (s, d)
  | s, d, i, r :: t => match bindStage w plan tilesMax s d i r with
    | (s, d) => bindStages w plan tilesMax s d (i + 1) t

/-- SHUFFLE, BATCH and TABLE_SWITCH stages beyond one, and a BATCH without a SHUFFLE before it (R174, R302). -/
def orderFails (plan : List (List Byte)) : List Fail :=
  plan.zipIdx.flatMap fun p =>
    let before := plan.take p.2
    let again := (stOp p.1 == 0x0203 || stOp p.1 == 0x0603 || stOp p.1 == 0x0604) && before.any fun q => stOp q == stOp p.1
    let lone := stOp p.1 == 0x0604 && !(before.any fun q => stOp q == 0x0603)
    (failIf (again || lone) stBadField 0).map fun f => { f with stage := p.2 + 1 }

/-! ### Resident groups and the demand for tiles (R59, R275, R276) -/

/-- The resident group of a stage. -/
def groupOf (r : List Byte) : Option Nat := if isResident r then some (fieldN r 89 1) else none

/-- The resident groups of a plan: number, TILES, and the stages in it. -/
def groupsIn (plan : List (List Byte)) : List (Nat × Nat × List Nat) :=
  (List.range 8).filterMap fun g =>
    let ix := (List.range plan.length).filter fun i => groupOf (plan.getD i []) == some g
    match ix with
    | [] => none
    | i :: _ => some (g, stTiles (plan.getD i []), ix)

/-- Blocks of a group's footprint. -/
def groupBlocks (blocks : List (Nat × Nat × List Byte)) (tiles : Nat) (ix : List Nat) : Nat :=
  footprint (ix.filterMap fun i => (blocks.find? fun b => b.1 == i && b.2.1 == 72).map fun b => Desc.of b.2.2) tiles

/-- A tile that the dispatcher may assign at all. -/
def tileUsable (s : State) (t : Nat) : Bool := (s.tile t).enabled && !(s.tile t).quarantined

/-- Usable tiles of a compute die. -/
def dieTiles (s : State) (d : Nat) : Nat := ((List.range 13).filter fun i => tileUsable s (13 * d + i)).length

/-- Tiles that a plan asks for: the sum of TILES, a resident group's once. -/
def tileDemand (plan : List (List Byte)) : Nat :=
  ((plan.filter fun r => !(isResident r)).map stTiles).sum + ((groupsIn plan).map fun g => g.2.1).sum

def groupFails (s : State) (plan : List (List Byte)) (blocks : List (Nat × Nat × List Byte)) : List Fail :=
  ((groupsIn plan).flatMap fun g =>
    (g.2.2.flatMap fun i => (failIf (stTiles (plan.getD i []) != g.2.1) stBadField 3).map fun f => { f with stage := i + 1 })
    ++ (failIf (!((List.range 4).any fun d => decide (g.2.1 ≤ dieTiles s d)) || decide (768 < groupBlocks blocks g.2.1 g.2.2)) stNoSpace 0xFF).map
      fun f => { f with stage := (g.2.2.headD 0) + 1 })
  ++ failIf (decide (((List.range 4).map (dieTiles s)).sum < tileDemand plan)) stNoSpace 0xFF

/-! ### Quotas of a bind (R44, R76, R204, R225, R314) -/

/-- Tiles that a floor-zero stream's Slough area is sized by. -/
def sloughTiles (plan : List (List Byte)) (overlap tilesMax : Nat) : Nat :=
  if tilesMax ≠ 0 then tilesMax else min 48 ((overlap + 1) * (plan.map tilesWanted).sum)

/-- Bytes of a stream's Slough area. -/
def sloughBytes (x : Stream) (plan : List (List Byte)) (overlap tilesMax : Nat) : Nat :=
  if x.floorBlocks = 0 then sloughTiles plan overlap tilesMax * 2 ^ 24 else 0

/-- MiB of the plan's decode cache. -/
def cacheMib (plan : List (List Byte)) : Nat := ((plan.filter fun r => stOp r == 0x0601).map fun r => fieldN r 56 4).sum

/-- Fen bytes of copied boundary tables (R204), and of copied GAMMA and BETA arrays (R273). -/
def boundBytes (plan : List (List Byte)) : Nat :=
  (plan.map fun r => match stOp r with
    | 0x0104 => 8 * fieldN r 56 4
    | 0x0305 => 4 * fieldN r 80 4 * (b2n (fieldN r 88 8 != 0) + b2n (fieldN r 96 8 != 0))
    | _ => 0).sum

/-- Fen bytes of the shadows of rule sets that a bind registers. -/
def newShadow (old new : List RuleSet) : Nat :=
  ((new.filter fun e => !(old.any (·.id == e.id))).map fun e => shadowBytes (SetRec.of e.record)).sum

/-! ### Peers of a plan (R41, R150) -/

/-- The REMOTE shards that a plan names, in stage order. -/
def remotesOf (plan : List (List Byte)) (blocks : List (Nat × Nat × List Byte)) : List Remote :=
  plan.zipIdx.flatMap fun p =>
    if stOp p.1 ≠ 0x0802 then []
    else
      let b : Blocks := (blocks.filter fun x => x.1 == p.2).map (·.2)
      ((shardsOf p.1 b).zipIdx.filter (·.1.kind == 1)).map fun h => ⟨p.2, h.2, h.1, p.1, featuresOf p.1 b⟩

/-! ### BIND_PLAN -/

/-- Stage records read from the plan's memory. -/
def readPlan : Nat → State → Nat → Nat → State × List Fail × List (List Byte)
  | 0, s, _, _ => (s, [], [])
  | n + 1, s, a, i => match devRead s a 256 with
    | (s, .error e) => (s, [{ status := e.status, stage := i + 1 }], [])
    | (s, .ok b) => match readPlan n s (a + 256) (i + 1) with
      | (s, f, l) => (s, f, b :: l)

/-- The checks of the command record itself. -/
def bindPre (s : State) (slot : Nat) (r : Rec) : List Fail :=
  commonFails r slot false 36 ++ streamFails s r slot
  ++ failIf (r.n 24 8 % 256 != 0) stBadField 24 ++ failIf (decide (r.n 32 1 = 0 ∨ 64 < r.n 32 1)) stBadField 32
  ++ failIf (decide (2 < r.n 33 1)) stBadField 33 ++ failIf (decide (8 < r.n 34 1)) stBadField 34 ++ failIf (decide (48 < r.n 35 1)) stBadField 35
  ++ failIf (r.n 24 8 % 256 == 0 && !(inR44 (r.n 24 8) (256 * r.n 32 1))) stBounds 24
  ++ sessionFails s slot ++ stateFails s r fun st => st == .idle || st == .bound

/-- The first shuffle stage's cursor. -/
def bindCursor (plan : List (List Byte)) : Nat × Nat :=
  ((plan.find? fun r => stOp r == 0x0603).map fun r => (fieldN r 64 4, fieldN r 68 4)).getD (0, 0)

/-- Every check of a plan, in the state that has read it. -/
def checkPlan (slot : Nat) (r : Rec) (x : Stream) (s : State) : State × Draft × List (List Byte) :=
  let w : Binder := ⟨slot, ((s.session slot).map (·.serial)).getD 0, if (s.session slot).isSome then s.level slot else 0x0202⟩
  match readPlan (r.n 32 1) s (r.n 24 8) 0 with
  | (s, f, plan) =>
    let taken : List (Nat × Nat × Nat) := (s.disp.binds.filter fun b => b.2.2.2.1 != x.id).map fun b => (b.1, b.2.1, b.2.2.1)
    let d0 : Draft := ⟨s.tables.dirs, s.sets, f, [], [], taken⟩
    match bindStages w plan (r.n 35 1) s d0 0 plan with
    | (s, d) =>
      let free := uncharge s slot (x.charged.1 + x.slough + x.cache * 2 ^ 20) x.charged.2
      let hbm := sloughBytes x plan (r.n 33 1) (r.n 35 1) + cacheMib plan * 2 ^ 20
      let fen := boundBytes plan + newShadow s.sets d.sets
      let more := orderFails plan ++ groupFails s plan d.blocks ++ failIf (!(quotaFits free slot hbm fen)) stNoSpace 0xFF
      (s, { d with fails := d.fails ++ more }, plan)

/-- A stream takes a plan: what the old one held is free, new tables and rule sets are registered, and what the plan
allocates is charged. -/
def adoptPlan (slot : Nat) (r : Rec) (x : Stream) (d : Draft) (plan : List (List Byte)) (s : State) : State :=
  let slough := sloughBytes x plan (r.n 33 1) (r.n 35 1)
  let shadow := newShadow s.sets d.sets
  let fresh := (d.dirs.filter fun e => !(s.tables.dirs.any (·.id == e.id))).map (·.id)
  let s := freeBinds (freeResidents (sizeSlough (freePlan s x) x slough) x.id) x.id
  let s : State := { s with
    tables := { s.tables with dirs := s.tables.dirs ++ d.dirs.filter fun (e : TableEnt) => fresh.contains e.id }
    sets := s.sets ++ d.sets.filter fun (e : RuleSet) => !(s.sets.any (·.id == e.id)) }
  let s := fresh.foldl trackTable s
  let s := charge s slot (cacheMib plan * 2 ^ 20) (boundBytes plan + shadow)
  let binds : List (Nat × Nat × Nat × Nat × Nat) := (plan.zipIdx.filter fun p => stOp p.1 == 0x0801).map fun p =>
    let q := sourceOf p.1
    (q.1, q.2.1, q.2.2, x.id, p.2)
  let s : State := { s with disp := { s.disp with binds := s.disp.binds ++ binds } }
  let s := s.setStream x.id fun x => { x with
    plan := some ⟨plan, r.n 33 1, r.n 34 1, r.n 35 1, d.tables, d.blocks⟩
    cache := cacheMib plan
    cached := []
    charged := (0, boundBytes plan)
    cursor := bindCursor plan
    epochBad := 0
    badEpoch := (bindCursor plan).1
    cursorBy := none }
  releaseTables (setState s x.id .bound)

/-! ### What a batch's descriptors must be for the plan (R61, R182) -/

/-- What a stage accepts of its inputs; from_ gives the operator whose result an input is, 0 for a batch descriptor. -/
def opInputs (r : List Byte) (b : Blocks) (recs : List (List Byte)) (from_ : Nat → Nat) (ins : List (Option Col)) : List Fail :=
  match opGroup (stOp r) with
  | 1 => relInputs r b from_ ins
  | 2 => tabInputs r recs ins
  | 3 => denseInputs r b ins
  | 4 => selInputs r ins
  | 5 => reedInputs r (recs.getD 0 []) ins
  | 6 => prepInputs r ins
  | 7 => packInputs r ins
  | _ => if stOp r = 0x0802 then tabInputs r recs ins else extInputs r ins

/-- An output descriptor suits what is committed to it; SEGMENTS takes an INFLATE stage's BYTES too (R335). -/
def outSuits (op : Nat) (d : Desc) (q : Nat × Nat × List Nat) : Bool :=
  (d.kind == q.1 || (q.1 == kAny && decide (d.kind ≤ kTensor)) || (d.kind == kSegments && q.1 == kBytes && op == 0x0701))
  && d.type_ == q.2.1 && (q.2.2 == [] || d.dims == q.2.2)

/-- The blocks of a stage of a bound plan. -/
def Plan.blocksOf (p : Plan) (i : Nat) : Blocks := (p.blocks.filter fun x => x.1 == i).map (·.2)

/-- The descriptors of a batch as far as they are read (R533): none where one could not be. -/
abbrev Descs := List (Option (List Byte))

/-- A descriptor of a batch that was read. -/
def descOf? (ds : Descs) (n : Nat) : Option Desc := (ds.getD n none).map Desc.of

/-- Stage i's inputs as batch descriptors show them; those of earlier stages are not known yet. -/
def knownIns (ins : Descs) (r : List Byte) : List (Option Col) :=
  (List.range 8).map fun k =>
    let f := inRef r k
    if f / 256 = 0xFE then (descOf? ins (f % 256)).map fun d => d.col (inOff k) else none

/-- The checks of a descriptor by itself, at the reference that names it (R182). -/
def descFails (level : Nat) (input : Bool) (off : Nat) (d : Desc) : List Fail :=
  failIf (!(d.fieldsOk input)) stBadField off ++ failIf (decide (level < 0x0201) && d.type_ == 0x19) stLevel off
  ++ failIf (!(d.inBounds input)) stBounds off

/-- What a stage requires of the descriptors that it and its operands name; ins and outs are the batch's, of which its record
counts nIn and nOut. -/
def stageDescFails (p : Plan) (level rows nIn nOut : Nat) (ins outs : Descs) (i : Nat) (r : List Byte) : List Fail :=
  let b := p.blocksOf i
  let known := knownIns ins r
  let used := (List.range 8).filter fun k => inRef r k / 256 == 0xFE
  let written := (List.range 4).filter fun o => outWord r o / 256 == 0xFE
  (used.flatMap fun k => failIf (decide (nIn ≤ inRef r k % 256)) stBadField (inOff k))
  ++ (written.flatMap fun o => failIf (decide (nOut ≤ outWord r o % 256)) stBadField (outOff o))
  ++ (written.flatMap fun o => match descOf? outs (outWord r o % 256), opOut r b rows known o with
    | some d, some t => failIf (!(outSuits (stOp r) d t)) stBadField (outOff o)
    | _, _ => [])
  ++ opInputs r b (planRecs p i) (fun _ => 0) known
  ++ (used.flatMap fun k => ((descOf? ins (inRef r k % 256)).map (descFails level true (inOff k))).getD [])
  ++ (written.flatMap fun o => ((descOf? outs (outWord r o % 256)).map (descFails level false (outOff o))).getD [])
  ++ (namedDescs r b).flatMap fun d => descFails level true d.1 d.2

/-- What a plan requires of a batch's descriptors, stage by stage (R61, R182). -/
def planFails (p : Plan) (level rows nIn nOut : Nat) (ins outs : Descs) : List Fail :=
  p.stages.zipIdx.flatMap fun q =>
    (stageDescFails p level rows nIn nOut ins outs q.2 q.1).map fun f => { f with stage := q.2 + 1 }

/-- Batch descriptors that a plan names, as input references or output words. -/
def planNames (p : Option Plan) (input : Bool) (n : Nat) : Bool :=
  (((p.map (·.stages)).getD []).flatMap fun r =>
    if input then (List.range 8).map (inRef r) else (List.range 4).map (outWord r)).contains (0xFE00 + n)

/-- A descriptor that no stage names must still obey R8; the failure lies in the record's field. -/
def looseFails (p : Option Plan) (input : Bool) (off : Nat) (ds : Descs) : List Fail :=
  (List.range ds.length).flatMap fun n => match descOf? ds n with
    | some d => failIf (!(planNames p input n) && !(d.reservedOk)) stBadField off
    | none => []

/-- The descriptors of an array read one by one; those that cannot be read give the status of R533. -/
def readDescList : Nat → State → Nat → State × List Fail × Descs
  | 0, s, _ => (s, [], [])
  | n + 1, s, a => match devRead s a 64 with
    | (s, .ok b) => match readDescList n s (a + 64) with
      | (s, f, l) => (s, f, some b :: l)
    | (s, .error e) => match readDescList n s (a + 64) with
      | (s, f, l) => (s, failIf true e.status 0xFF ++ f, none :: l)

/-- An array of descriptors read at acceptance. -/
def readDescs (s : State) (addr n off : Nat) : State × List Fail × Descs :=
  if addr % 64 ≠ 0 ∨ 32 < n ∨ n = 0 then (s, [], [])
  else if !(inR44 addr (64 * n)) then (s, failIf true stBounds off, [])
  else readDescList n s addr

/-- The checks of a batch's descriptors: where its record puts the arrays, and how many it counts (R61, R182, R533). -/
def batchFails (s : State) (p : Option Plan) (level rows inAddr nIn outAddr nOut : Nat) : State × List Fail × Descs × Descs :=
  match readDescs s inAddr nIn 24 with
  | (s, f1, ins) => match readDescs s outAddr nOut 40 with
    | (s, f2, outs) =>
      let pf := (p.map fun p => planFails p level rows nIn nOut ins outs).getD []
      (s, f1 ++ f2 ++ looseFails p true 24 ins ++ looseFails p false 40 outs ++ pf, ins, outs)

/-- A plan has a selection stage (R57). -/
def Plan.selects (p : Plan) : Bool := p.stages.any fun r => opGroup (stOp r) == 4

/-- One held batch checked against a new plan: it keeps the descriptors then read, or completes in its turn (R46). -/
def recheckOne (id : Nat) (x : Stream) (p : Plan) (s : State) (b : Batch) : State :=
  match batchFails s (some p) (s.level x.session) b.rows b.inAddr b.inDesc.length b.outAddr b.outDesc.length with
  | (s, fs, ins, outs) =>
    let b := { b with selects := p.selects }
    match pickFail fs with
    | none => s.setBatch id b.idx fun _ => { b with inDesc := ins.filterMap fun d => d, outDesc := outs.filterMap fun d => d }
    | some f => match batchCount s x b with
      | (s, n, aux) => giveTurn (countReject (s.setBatch id b.idx fun _ => { b with state := .done }) f.status) (.comp id) b.idx
          (batchComp x b f.status f.detail n aux 0) .batchEnd

/-- Held batches checked again against a new plan (R46, R533). -/
def recheckHeld (s : State) (id : Nat) : State :=
  match s.stream? id with
  | none => s
  | some x => match x.plan with
    | none => s
    | some p => (x.batches.filter fun b => b.state == .held).foldl (recheckOne id x p) s

/-- The stream by which a plan is judged: the one that the record names, or a new one where the session has none by that
number; its state is judged last (R48). -/
def bindStream (s : State) (slot : Nat) (r : Rec) : Stream :=
  ((s.open? r.stream).filter fun x => x.session == slot).getD
    { id := r.stream, session := slot, ring := RingIn.of 0 [], cring := RingOut.of 0 [], statusAddr := 0 }

/-- The stage records can be read: PLAN and STAGE_COUNT are in range, and the records lie in the places of R44. -/
def planThere (r : Rec) : Bool :=
  r.n 24 8 % 256 == 0 && decide (1 ≤ r.n 32 1 ∧ r.n 32 1 ≤ 64) && inR44 (r.n 24 8) (256 * r.n 32 1)

/-- Every check of a BIND_PLAN, and the plan as far as it was read (R48, R59, R533). -/
def bindChecks (slot : Nat) (r : Rec) (s : State) : State × List Fail × Option (Draft × List (List Byte)) :=
  let pre := bindPre s slot r
  if !(planThere r) then (s, pre, none)
  else match checkPlan slot r (bindStream s slot r) s with
    | (s, d, plan) => (s, pre ++ d.fails, some (d, plan))

/-- AUX of BIND_PLAN: the largest TILES of any stage read (R43). -/
def mostTiles (plan : List (List Byte)) : Nat := (plan.map stTiles).foldl max 0

/-- BIND_PLAN: the record and its plan are checked, peers are opened, and the stream takes the plan. -/
def bindGo (slot : Nat) (peers : List PeerAnswer) (r : Rec) (s : State) : State :=
  match bindChecks slot r s with
  | (s, fs, got) =>
    let aux := mostTiles ((got.map (·.2)).getD [])
    match pickFail fs, got, s.open? r.stream with
    | some f, _, _ => endCtl (countReject s f.status) slot r f.status f.detail 0 aux .nothing
    | none, some (d, plan), some x =>
      match (remotesOf plan d.blocks).foldl (fun a h => openRemote slot x.id h a) (s, peers, []) with
      | (s, _, f :: _) => endCtl s slot r f.status f.detail 0 aux .nothing
      | (s, _, []) =>
        let s := recheckHeld (adoptPlan slot r x d plan s) x.id
        endCtl s slot r stDone 0 (r.n 32 1) aux .nothing
    | none, _, _ => s

def bindPlan (slot : Nat) (peers : List PeerAnswer) (s : State) : State :=
  startCtl s slot 0x11 (fun _ => 0) (fun _ s => (s, [])) (bindGo slot peers)

/-- BIND_PLAN. -/
def execBindPlan (slot : Nat) (peers : List PeerAnswer) (s : State) : Host.Outcome State Fault Refusal := .next (bindPlan slot peers s)

/-! ### PEER_SESSION_CLOSE (R41, R150) -/

/-- A bound plan names a peer. -/
def peerNamed (s : State) (peer : Nat) : Bool :=
  s.disp.streams.any fun x => match x.plan with
    | some p => (remotesOf p.stages p.blocks).any fun h => leNat h.entry.gid == peer
    | none => false

/-- No bound plan names the peer any longer: the session is closed there, where it can be reached, and forgotten here. -/
def peerSessionClose (session peer : Nat) (s : State) : State :=
  match s.disp.peers.find? fun p => p.session == session && p.peer == peer with
  | none => s
  | some p =>
    if peerNamed s peer then s
    else
      let s := match s.ext.qps.find? fun q => q.state == .ready && bitOf q.flags 2 && leNat q.gid == peer with
        | some q => closePeer q p s
        | none => s
      { s with disp := { s.disp with peers := s.disp.peers.filter fun p => !(p.session == session && p.peer == peer) } }

/-- PEER_SESSION_CLOSE. -/
def execPeerSessionClose (session peer : Nat) (s : State) : Host.Outcome State Fault Refusal := .next (peerSessionClose session peer s)

end Sys2Proof.Machine
end

