-- ==== Sys2Proof/Machine/Batch.lean ====
section
/-! DEFINITION. Batches (R49, R52 to R57, R76, R84 to R87): their acceptance, start, stages, commit point and end. -/

namespace Sys2Proof.Machine

/-! ### SUBMIT_BATCH (R43, R46, R61, R182) -/

/-- Checks of the record's own fields. -/
def submitPre (x : Stream) (r : Rec) : List Fail :=
  commonFails r x.session true 48 ++ failIf (r.stream != x.id) stBadField 4
  ++ failIf (r.n 24 8 % 64 != 0) stBadField 24 ++ failIf (decide (r.n 32 2 = 0 ∨ 32 < r.n 32 2)) stBadField 32
  ++ failIf (decide (32 < r.n 34 2)) stBadField 34 ++ failIf (decide (r.n 36 4 = 0 ∨ 1048576 < r.n 36 4)) stBadField 36
  ++ failIf (if r.n 34 2 = 0 then r.n 40 8 != 0 else r.n 40 8 % 64 != 0) stBadField 40

/-- A batch as its record gives it. -/
def newBatch (x : Stream) (r : Rec) (ins outs : List (List Byte)) : Batch where
  idx := r.idx
  tag := r.tag
  signal := r.signal
  deadline := r.n 16 4
  rows := r.n 36 4
  inDesc := ins
  outDesc := outs
  inAddr := r.n 24 8
  outAddr := r.n 40 8
  selects := x.plan.any (·.selects)
  state := if x.state = .running then .queued else .held

/-- Every check of a SUBMIT_BATCH, and the descriptors read for it. -/
def submitChecks (x : Stream) (r : Rec) (s : State) : State × List Fail × List (List Byte) × List (List Byte) :=
  match batchFails s x.plan (s.level x.session) (r.n 36 4) (r.n 24 8) (r.n 32 2) (r.n 40 8) (r.n 34 2) with
  | (s, fs, ins, outs) =>
    let st := failIf (!(x.state == .bound || x.state == .running || x.state == .paused)) stWrongState 0xFF
    (s, submitPre x r ++ fs ++ st, ins.filterMap fun d => d, outs.filterMap fun d => d)

/-- A batch joins its stream; one that is held changes HELD (R45). -/
def acceptBatch (s : State) (id : Nat) (b : Batch) : State :=
  s.setStream id fun x => { x with
    batches := x.batches ++ [b]
    dirty := x.dirty || b.state == .held }

/-- SUBMIT_BATCH: accepted, a batch is queued on a RUNNING stream and held on a BOUND or PAUSED one. Refused at acceptance, its
completion carries COUNT 0 and AUX 0 (log 76, DESIGN CHOICE: R43 and R57 set no value for a batch that is not accepted). -/
def submitBatch (id : Nat) (s : State) : State :=
  match frontRec s id 0x20 with
  | none => s
  | some (x, r) => match submitChecks x r (takeRec s id) with
    | (s, fs, ins, outs) =>
      let s := match pickFail fs with
        | some f => endRec (countReject s f.status) id r f.status f.detail 0 0
        | none => keepStatus (acceptBatch s id (newBatch x r ins outs)) id
      settle s (.stream id)

def execSubmitBatch (stream : Nat) (s : State) : Host.Outcome State Fault Refusal := .next (submitBatch stream s)

/-! ### Order of stages (R84, R86) -/

/-- Is a stage a SEND? Its work follows the commit point (R52). -/
def isSend (r : List Byte) : Bool := stOp r == 0x0800

/-- The last stage of a role. -/
def lastOf (p : Plan) (role : Nat) : Option Nat :=
  ((List.range p.stages.length).filter fun i => stRole (p.stages.getD i []) == role).getLast?

/-- The stage of batch m − 1 whose end lets batch m start, at an overlap depth of 1 or 2. -/
def gateStage (p : Plan) : Nat :=
  let a := if p.overlap = 1 then lastOf p 1 else lastOf p 0
  let b := if p.overlap = 1 then lastOf p 0 else lastOf p 1
  a.getD (b.getD (p.stages.length - 1))

/-- The batch in flight before one of a stream. -/
def before? (x : Stream) (idx : Nat) : Option Batch := ((x.batches.takeWhile (·.idx != idx)).filter (·.inFlight)).getLast?

def Batch.stageDone (b : Batch) (i : Nat) : Bool := b.state == .done || b.runs.any fun r => r.ix == i && r.finished

/-- A batch may enter the role of a stage: the batch before it has finished every stage of that role. -/
def roleOk (x : Stream) (p : Plan) (idx i : Nat) : Bool :=
  match before? x idx with
  | none => true
  | some b => (List.range p.stages.length).all fun j => stRole (p.stages.getD j []) != stRole (p.stages.getD i []) || b.stageDone j

/-- The stage that a batch comes to next: stages run in plan order, SEND stages after the commit point. -/
def nextStage (p : Plan) (b : Batch) : Option Nat :=
  ((b.runs.filter fun r => !r.finished && isSend (p.stages.getD r.ix []) == (b.state == .committed)).map (·.ix)).head?

/-- Stages that have become ready are marked with the tick (R86). -/
def refreshReady (s : State) (id : Nat) : State :=
  match s.stream? id with
  | none => s
  | some x => match x.plan with
    | none => s
    | some p => x.batches.foldl (fun s b =>
        if b.stopped || !(b.state == .started || b.state == .committed) then s
        else match nextStage p b with
          | some i => if roleOk x p b.idx i then
              s.setRun id b.idx i fun r => if r.readyAt.isNone then { r with readyAt := some s.tick } else r else s
          | none => s) s

/-! ### Tiles (R65, R72, R86) -/

/-- A tile's unreserved pool covers a stream's floor and further blocks, and it hosts fewer than 64 streams. -/
def canHost (s : State) (x : Stream) (t more : Nat) : Bool :=
  if x.holds.any (·.tile == t) then decide (more ≤ freeBlocks s t)
  else decide (x.floorBlocks + more ≤ freeBlocks s t) && decide ((tileHolds s t).length < 64)

/-- A tile that may be assigned to a stage of a stream now; one of a die in MIRE may, and the issue wakes the die (R397). -/
def tileOpen (s : State) (x : Stream) (stage t more : Nat) : Bool :=
  decide (t < 52) && tileUsable s t && pageEn s (pgTile t) && (s.tile t).power != .off && (s.die (t / 13)).power != .off
  && !(s.cutOff.contains (t / 13)) && !(s.disp.residents.any fun g => g.tiles.contains t)
  && !(s.assigns.any fun a => a.page == pgTile t && a.stream == x.id && a.stage == stage) && canHost s x t more

/-- TILES_MAX allows further tiles (R86). -/
def tilesAllowed (s : State) (x : Stream) (p : Plan) (units : List Nat) : Bool :=
  p.tilesMax == 0 || decide ((units.foldl (fun l t => insertNew t l) (tilesOfStream s x.id)).length ≤ p.tilesMax)

/-- The unit class of a stage that holds no tile, the number of its units, and the most a stage takes (R301, R332). -/
def unitClass (r : List Byte) : Option (Nat × Nat × Nat) :=
  match opGroup (stOp r) with
  | 6 => let c := prepClass r
    some (c.1, if c.1 = 14 then 1 else 8, c.2)
  | 7 => some (11, 16, if fieldN r 51 1 = 0 then 16 else fieldN r 51 1)
  | _ => none

/-- A unit of a class is free. -/
def unitOpen (s : State) (cls u : Nat) : Bool := pageEn s (pageKey cls u) && !(s.assigns.any fun a => a.page == pageKey cls u)

/-- Pages of the units of a stage. -/
def unitPages (r : List Byte) (units : List Nat) : List Nat :=
  match unitClass r with
  | some c => units.map fun u => pageKey c.1 u
  | none => units.map pgTile

def noRepeat (l : List Nat) : Bool := l.length == (l.foldl (fun a x => insertNew x a) []).length

/-- The resident group of a stage, where the stream's group holds its tiles. -/
def heldGroup (s : State) (id : Nat) (r : List Byte) : Option Resident :=
  (groupOf r).bind fun g => s.disp.residents.find? fun x => x.stream == id && x.group == g

/-- The tiles of a die on its Dyke ring, in order: the active ones (R275). -/
def ringTiles (s : State) (d : Nat) : List Nat := ((List.range 13).map fun p => 13 * d + p).filter fun t => (s.tile t).enabled

/-- Tiles of a ring that follow each other on it. -/
def ringRun (ring ts : List Nat) : Bool :=
  let next (t : Nat) : Nat := ring.getD (((findPos (· == t) ring).getD 0 + 1) % ring.length) 0
  decide ((ts.filter fun t => !(ts.contains (next t))).length ≤ 1)

/-- Tiles that a resident group may take: of one die, in rising order, consecutive where the die allows (R275). -/
def groupOpen (s : State) (x : Stream) (stage n blocks : Nat) (units : List Nat) : Bool :=
  let d := units.headD 0 / 13
  let free (t : Nat) : Bool := tileOpen s x stage t blocks
  let ring := ringTiles s d
  let consec := (List.range ring.length).any fun a => (List.range n).all fun i => free (ring.getD ((a + i) % ring.length) 0)
  units.length == n && units.all (fun t => t / 13 == d && free t) && (units.zip (units.drop 1)).all (fun p => decide (p.1 < p.2))
  && (!consec || ringRun ring units)

/-- The units that an issue names suit the stage. -/
def unitsOk (s : State) (x : Stream) (p : Plan) (i : Nat) (units : List Nat) : Bool :=
  let r := p.stages.getD i []
  match unitClass r with
  | some c => decide (1 ≤ units.length ∧ units.length ≤ c.2.2) && noRepeat units
      && units.all fun u => decide (u < c.2.1) && unitOpen s c.1 u
  | none =>
    if tilesWanted r = 0 then units == []
    else match heldGroup s x.id r with
      | some g => units == g.tiles && !(s.assigns.any fun a => a.stream == x.id && a.stage == i)
      | none =>
        tilesAllowed s x p units
        && if isResident r then
            groupOpen s x i (stTiles r) (match groupOf r with
              | some g => (((groupsIn p.stages).find? (·.1 == g)).map fun q => groupBlocks p.blocks q.2.1 q.2.2).getD 0
              | none => 0) units
          else units.length == tilesWanted r && noRepeat units && units.all fun t => tileOpen s x i t 0

/-- A waiting stage could be issued now. -/
def couldIssue (s : State) (x : Stream) (p : Plan) (i : Nat) : Bool :=
  let r := p.stages.getD i []
  match unitClass r with
  | some c => (List.range c.2.1).any (unitOpen s c.1)
  | none =>
    let free := (List.range 52).filter fun t => tileOpen s x i t 0
    decide (tilesWanted r ≤ free.length)
    && (p.tilesMax == 0 || decide ((tilesOfStream s x.id).length + tilesWanted r ≤ p.tilesMax))

/-- Stages compete for tiles, or for the units of one class. -/
def sameKind (r q : List Byte) : Bool :=
  match unitClass r, unitClass q with
  | some a, some b => a.1 == b.1
  | none, none => tilesWanted r != 0 && tilesWanted q != 0
  | _, _ => false

/-- A stage that became ready at tick u of a batch of a stream is served before one of another: by tick, then by stream number,
then by batch. -/
def readyBefore (u t : Nat) (y x b c : Nat) : Bool := decide (u < t ∨ (u = t ∧ (y < x ∨ (y = x ∧ b < c))))

/-- Another stage became ready before a stage of batch idx, or in the same tick and comes first, and could be issued: it is
served first. -/
def servedFirst (s : State) (x : Stream) (idx : Nat) (r : List Byte) (ready : Nat) : Bool :=
  s.disp.streams.any fun y => match y.plan with
    | none => false
    | some q => y.batches.any fun b => !(y.id == x.id && b.idx == idx) && (b.state == .started || b.state == .committed) && !b.stopped
        && b.runs.any fun u => u.issuedAt.isNone && !u.finished && (u.readyAt.any fun t => readyBefore t ready y.id x.id b.idx idx)
          && sameKind r (q.stages.getD u.ix []) && couldIssue s y q u.ix

/-- A stream's floor is reserved on tiles that it comes to (R72). -/
def reserveFloor (s : State) (x : Stream) (tiles : List Nat) : State :=
  s.setStream x.id fun y => { y with
    holds := tiles.foldl (fun hs t => if hs.any (·.tile == t) then hs else hs ++ [{ tile := t, floor := x.floorBlocks }]) y.holds }

/-! ### BATCH_START (R76, R84, R173) -/

/-- The switch counts that a batch pins: of the VERSIONED tables its look-up stages name. -/
def pinsOf (s : State) (p : Plan) : List (Nat × Nat) :=
  (p.tables.filter fun q => [0x0200, 0x0802].contains (stOp (p.stages.getD q.1 []))).foldl (fun a q =>
    let t := TRec.of q.2
    if !t.versioned || a.any (·.1 == t.id) then a
    else match s.table? t.id with
      | some e => a ++ [(t.id, e.switch)]
      | none => a) []

/-- Batch m may start. -/
def mayStart (x : Stream) (p : Plan) (b : Batch) : Bool :=
  (x.state == .running || x.state == .draining) && b.state == .queued
  && !((x.batches.takeWhile (·.idx != b.idx)).any fun c => c.state == .held || c.state == .queued)
  && decide ((x.batches.filter (·.inFlight)).length ≤ p.overlap)
  && (match before? x b.idx with
    | none => true
    | some c => p.overlap != 0 && c.stageDone (gateStage p))
  && roleOk x p b.idx 0

/-! ### The end of a batch (R49, R55 to R57) -/

/-- A unit's work on a stage ends; a tile's feeds and steps of it leave its engines. -/
def endUnit (s : State) (a : Assign) : State :=
  if keyCls a.page = 8 then endFeeds s (keyInst a.page) a.stream a.batch a.stage else s

/-- What a batch holds is released. -/
def releaseBatch (s : State) (id idx : Nat) : State :=
  match s.stream? id, s.batch? id idx with
  | some x, some b =>
    let s := dropKeys (dropWindows s id idx) id idx
    let s := if b.state = .committed then s else releaseSwitch s id idx
    let s := freeTaken (cursorGiveUp s id idx) id idx
    let s := uncharge s x.session (b.stagingBytes + (b.runs.map (·.spill)).sum) 0
    let mine (a : Assign) : Bool := a.stream == id && a.batch == idx
    let s := (s.assigns.filter mine).foldl endUnit s
    let tiles := (s.assigns.filter mine).filterMap fun a => if keyCls a.page = 8 then some (keyInst a.page) else none
    let s : State := { s with assigns := s.assigns.filter fun a => !(mine a) }
    let s := tiles.foldl (fun s t => s.setTile t fun y => { y with since := s.tick }) s
    let s := s.setBatch id idx fun b => { b with
      stagingBytes := 0
      staged := []
      pins := b.pins
      updates := []
      runs := b.runs.map fun r => { r with finished := true, asked := [], spill := 0 } }
    let s : State := { s with power := { s.power with lastWork := s.tick } }
    leaveTiles s id
  | _, _ => s

/-- A batch ends with a status: its completion takes its turn. -/
def finishBatch (s : State) (id idx status detail : Nat) : State :=
  match s.stream? id, s.batch? id idx with
  | some x, some b =>
    if b.state = .done then s
    else match batchCount s x b with
      | (s, n, aux) =>
        let flags := (if b.subst then flSubst else 0) + (if b.state = .committed then flCommitted else 0)
        let s := releaseBatch s id idx
        let s := s.setBatch id idx fun b => { b with state := .done }
        let s := if status = stPoison then errorTrigger s 2 else s
        let s := if 0x10 ≤ status ∧ status ≤ 0x13 then bump s (pgDisp + 0x428) 1 else s
        giveTurn s (.comp id) idx (batchComp x b status (if status ≤ stPartial then 0 else detail) n aux flags) .batchEnd
  | _, _ => s

/-- A started batch stops (R49): one past its commit point first has its search updates applied. -/
def stopStarted (s : State) (id : Nat) (b : Batch) : State :=
  if b.state = .committed ∧ b.searching ≠ 0 then s.setBatch id b.idx fun b => { b with stopped := true }
  else finishBatch (s.setBatch id b.idx fun b => { b with stopped := true }) id b.idx stStopped 0xFF

/-- A DRAIN that cannot end completes STOPPED. -/
def stopDrain (s : State) (id : Nat) : State :=
  match (s.stream? id).bind (·.drain) with
  | some (slot, rix, n) => endLate (s.setStream id fun x => { x with drain := none }) slot rix stStopped n .nothing
  | none => s

/-- A run-time failure under HALT_ON_ERROR: the stream is FAULTED and its other batches complete STOPPED. -/
def faultStream (s : State) (id status stage : Nat) : State :=
  match s.stream? id with
  | none => s
  | some x =>
    let s := (setState s id .faulted).setStream id fun x => { x with
      faultStatus := status
      faultStage := stage }
    let s := (x.batches.filter fun b => b.state == .started || b.state == .committed).foldl (fun s b => stopStarted s id b) s
    stopDrain (stopUnstarted s id) id

/-- Is a status of a started batch a run-time failure that puts its stream in FAULTED (R55)? -/
def faults (x : Stream) (status : Nat) : Bool :=
  bitOf x.policy 0 && decide (stBounds ≤ status) && status != stStopped && (status != stTimeout || bitOf x.policy 1)
  && (x.state == .running || x.state == .paused || x.state == .draining)

/-- A started batch completes. -/
def endBatch (s : State) (id idx status detail : Nat) : State :=
  match s.stream? id with
  | none => s
  | some x =>
    let s := finishBatch s id idx status detail
    let s := if faults x status then faultStream s id status (detail / 256) else s
    refreshReady s id

/-- A batch past its commit point completes once its SEND stages and its search updates are done. -/
def batchProgress (s : State) (id idx : Nat) : State :=
  match s.stream? id, s.batch? id idx with
  | some x, some b =>
    if b.state ≠ .committed ∨ b.searching ≠ 0 then s
    else if b.stopped then (if x.state = .faulted then finishBatch s id idx stStopped 0xFF else s)
    else if !(b.runs.all (·.finished)) then s
    else match b.failure with
      | some (st, dt) => endBatch s id idx st dt
      | none =>
        let part := (b.select.map fun q => q.2.2).getD false && decide (0x0202 ≤ s.level x.session)
        endBatch s id idx (if part then stPartial else stDone) 0
  | _, _ => s

/-- A batch starts: its staging area is allocated, at a place in HBM that the manual does not give, its versions are pinned, its
deadline begins. -/
def batchStart (id staging : Nat) (s : State) : State :=
  match s.open? id with
  | none => s
  | some x => match x.plan, x.batches.find? (·.state == .queued) with
    | some p, some b =>
      if !(mayStart x p b) then s
      else
        let pins := pinsOf s p
        let fits := quotaFits s x.session staging 0
        let s := if fits then charge s x.session staging 0 else s
        let f := takeFree s
        let s := f.1.setBatch id b.idx fun b => { b with
          state := .started
          start := s.tick
          pins := pins
          stagingBytes := if fits then staging else 0
          stagingAddr := f.2 % 0x9900000 * 4096
          runs := (List.range p.stages.length).map fun i => { ix := i } }
        let s := dispatcherWakes s
        let s : State := { s with power := { s.power with dev := .active, lastWork := s.tick } }
        if fits then refreshReady s id else endBatch s id b.idx stNoSpace 0xFF
    | _, _ => s

def execBatchStart (stream staging : Nat) (s : State) : Host.Outcome State Fault Refusal := .next (batchStart stream staging s)

/-! ### STAGE_ISSUE (R53, R72, R86, R277, R537) -/

/-- The context of a stage's run. -/
def mkCtx (s : State) (x : Stream) (p : Plan) (b : Batch) (i : Nat) (pages : List Nat) : Ctx where
  stream := x.id
  idx := b.idx
  stage := i
  record := p.stages.getD i []
  blocks := p.blocksOf i
  rows := b.rows
  level := s.level x.session
  pages := pages
  outs := (List.range 4).map fun o =>
    let w := outWord (p.stages.getD i []) o
    if w / 256 = 0xFE then (b.outDesc[w % 256]?).map Desc.of else none
  seed := s.freeCtr

/-- The inputs of a stage: descriptors still to be read, and results of earlier stages. -/
def gatherIns (b : Batch) (r : List Byte) : List (Option Col) :=
  (List.range 8).map fun k =>
    let f := inRef r k
    if f / 256 = 0xFE then (b.inDesc[f % 256]?).map fun d => (Desc.of d).col (inOff k)
    else if f = 0xFFFF then none
    else ((b.runs.find? (·.ix == f / 256)).map fun u => u.outs.getD (f % 256) none).getD none

/-- The offsets of a stage's internal inputs. -/
def internalOffs (r : List Byte) : List Nat := ((List.range 8).filter fun k => decide (inRef r k / 256 < 0xFE)).map inOff

/-- The checks of R537, made when a stage starts: a breach is CORRUPT at the reference of an internal input. -/
def internalFail (c : Ctx) (p : Plan) (recs : List (List Byte)) (ins : List (Option Col)) : Option Nat :=
  let r := c.record
  let offs := internalOffs r
  if offs = [] then none
  else
    let fs := opInputs r c.blocks recs (fun k => if inRef r k / 256 < 0xFE then stOp (p.stages.getD (inRef r k / 256) []) else 0) ins
      ++ (List.range 4).flatMap fun o => match c.outs.getD o none, opOut r c.blocks c.rows ins o with
      | some d, some q => failIf (!(outSuits (stOp r) d q)) stBadField (outOff o)
      | _, _ => []
    (pickFail fs).map fun f => if offs.contains f.off then f.off else offs.headD 0xFF

/-- The first failure of a stage under way, at a field. -/
def failRunAt (s : State) (stream idx stage status off : Nat) : State :=
  s.setRun stream idx stage fun r => if r.failure.isSome then r else { r with failure := some (status, off) }

/-- Where a unit's page keeps the first failure of a stage of an operator group (R220, R281, R299, R330). -/
def lastErrAt (op : Nat) : Option Nat :=
  match opGroup op with
  | 1 => some 0x540
  | 3 => some 0x5C8
  | 4 => some 0x630
  | 6 => some (if op = 0x0600 then 0x430 else 0x438)
  | _ => none

/-- A failure of a stage as a whole: its first unit keeps it; of SEARCH and SEARCH_UPDATE, the set's Reedbed (R233), with bank 0
(log 84, DESIGN CHOICE: the manual does not say which unit or bank keeps a failure that belongs to none). -/
def noteStage (s : State) (c : Ctx) (recs : List (List Byte)) (status : Nat) : State :=
  if opGroup c.op = 5 then
    let q := SetRec.of (recs.getD 0 [])
    noteReed s q.die status q.id c.stream 0
  else match lastErrAt c.op with
    | some off => noteErr s c.page off status c.stream c.stage c.op
    | none => s

/-- A result whose failure is the stage's as a whole. -/
def noted {α : Type} (c : Ctx) (recs : List (List Byte)) : Res α → Res α
  | (s, .error e) => (noteStage s c recs e.1, .error e)
  | r => r

/-- A PEER_LOOKUP's requests go to its peers. -/
def askPeers (c : Ctx) (ins : List (Option Col)) (s : State) : State :=
  match s.run? c.stream c.idx c.stage with
  | none => s
  | some u => u.asked.foldl (fun s k =>
      let h := (shardsOf c.record c.blocks).getD k ⟨1, 0, 0, 0, [], 0⟩
      match peerQp s h.port h.gid with
      | none => failRun s c.stream c.idx c.stage stPeer
      | some q => qpSend s (q.index + 0x100) ⟨c.stream, c.idx, c.stage, pkPeer, natLE 2 k ++ shardAsk c.record c.blocks c.rows k ins⟩) s

/-- A resident group takes its tiles, and each member loads its shards and biases (R277): a load that fails takes none. -/
def loadGroup (s : State) (c : Ctx) (p : Plan) (units : List Nat) : State :=
  match groupOf c.record with
  | none => s
  | some g =>
    if (heldGroup s c.stream c.record).isSome then s
    else match (groupsIn p.stages).find? (·.1 == g) with
      | none => s
      | some q =>
        match eachRes (fun s i => andThen (readWeights s (p.stages.getD i []) (p.blocksOf i)) fun s w => ok s (i, w.1, w.2)) s q.2.2 with
        | (s, .error e) => failRun (noteStage s c [] e.1) c.stream c.idx c.stage e.1
        | (s, .ok ws) =>
          let h : Resident := ⟨c.stream, g, units, groupBlocks p.blocks q.2.1 q.2.2, ws⟩
          let s : State := { s with disp := { s.disp with residents := s.disp.residents ++ [h] } }
          units.foldl (fun s t => bump s (pgTile t + 0x5C0) 1) s

/-- Commands that a relational stage pushes to a Culvert engine: a FILTER's predicate (R197), and the keys of a JOIN_PROBE whose object
lies in one stack view, each tile's own (R214). -/
def relPush (c : Ctx) (ins : List (Option Col)) (s : State) : State :=
  let n := (inCol ins 0).count
  let share (i : Nat) : Nat := (i + 1) * n / max 1 c.pages.length - i * n / max 1 c.pages.length
  match c.op with
  | 0x0102 => match pushable c ins (Prog.of (blockAt c.blocks 304)) with
    | some k => pushCommands c .predicate k (rowsOf ins (usedBut c.record [])) (bump s (c.page + 0x538) 1) c.page
    | none => s
  | 0x0107 => match stackOfCol (inCol ins 1) with
    | some k => c.pages.zipIdx.foldl (fun s p => pushCommands c .probe k (share p.2) s p.1) s
    | none => s
  | _ => s

/-- What an operator does as its stage is issued. -/
def opIssue (c : Ctx) (recs : List (List Byte)) (b : Batch) (ins : List (Option Col)) (s : State) : State :=
  let keep (s : State) (l : List (Option Col)) : State := s.setRun c.stream c.idx c.stage fun u => { u with ins := l }
  let loaded (r : Res (List (Option Col))) (f : List (Option Col) → State → State) : State :=
    match r with
    | (s, .ok l) => f l (keep s l)
    | (s, .error e) => failRunAt (noteStage s c recs e.1) c.stream c.idx c.stage e.1 e.2
  match c.op with
  | 0x0102 | 0x0107 => relPush c ins (keep s ins)
  | 0x0106 | 0x0108 => loaded (loadAll s ins) (relSpill c)
  | 0x0200 => loaded (loadAll s ins) (lookupIssue c recs b.pins)
  | 0x0802 => loaded (loadAll s ins) fun l s => askPeers c l (lookupIssue c recs b.pins l s)
  | 0x0201 | 0x0202 => loaded (loadAll s ins) (updateIssue c recs)
  | 0x0400 | 0x0401 | 0x0402 => loaded (selLoad c.record ins s) fun l s =>
      s.setRun c.stream c.idx c.stage fun u => { u with merges := selMulti c.record l }
  | 0x0500 => loaded (loadAll s ins) (searchIssue c (recs.getD 0 []))
  | 0x0603 => shuffleIssue c s
  | 0x0800 => sendIssue c ins s
  | 0x0801 => recvIssue c ins s
  | _ => keep s ins

/-- Stages within LOOKAHEAD of stage i: those after it in its batch; those of the next batch to start, counted from the plan's
end; and, under overlap, its HEAD stages, counted from the stage whose end lets it start (R84, R87). -/
def stagesAhead (x : Stream) (p : Plan) (i : Nat) : List Nat :=
  let n := p.stages.length
  let own := (List.range n).filter fun j => decide (i < j ∧ j ≤ i + p.lookahead)
  let next := (List.range n).filter fun m => decide (n + m ≤ i + p.lookahead)
    || (p.overlap != 0 && stRole (p.stages.getD m []) == 0 && decide (max (gateStage p) i + 1 + m ≤ i + p.lookahead))
  own ++ if x.batches.any fun b => b.state == .queued then next else []

/-- The units that pre-wake chooses for a stage: those that a resident group holds, or as many as the stage takes of the free
eligible tiles or units, in the order of their numbers (log 75, DESIGN CHOICE: the manual does not give the order). -/
def prewakeUnits (s : State) (x : Stream) (p : Plan) (j : Nat) : List Nat :=
  let r := p.stages.getD j []
  match unitClass r, heldGroup s x.id r with
  | some c, _ => (((List.range c.2.1).filter (unitOpen s c.1)).take c.2.2).map fun u => pageKey c.1 u
  | none, some g => g.tiles.map pgTile
  | none, none => (((List.range 52).filter fun t => tileOpen s x j t 0).take (tilesWanted r)).map pgTile

/-- Units that PREWAKE stages within LOOKAHEAD of a stage need (R87). -/
def prewakePages (s : State) (x : Stream) (p : Plan) (i : Nat) : List Nat :=
  (((stagesAhead x p i).filter fun j => bitOf (stFlags (p.stages.getD j [])) 0).flatMap (prewakeUnits s x p)).foldl
    (fun l q => insertNew q l) []

/-- WAKE messages leave the dispatcher. -/
def sendWakes (s : State) (pages : List Nat) : State :=
  let new := pages.filter fun q => !(s.fab.wakes.contains q)
  if new = [] then s
  else
    let s := new.foldl (fun s q => sendPacket s (.wake q) laneNormal (routeOf s iodSpot (pageSpot q)) 1) s
    bump { s with fab := { s.fab with wakes := s.fab.wakes ++ new } } (pgFab + 0x418) new.length

/-- SHUFFLE under FILL_NEXT waits until the batch before has advanced the cursor (R323). -/
def cursorFree (x : Stream) (p : Plan) (r : List Byte) : Bool := stOp r != 0x0603 || !(planFills p) || x.cursorBy.isNone

/-- The dies of a stage's tiles have work: a stage is issued to a unit of each (R395, R397). -/
def workDies (s : State) (units : List Nat) : State :=
  (units.foldl (fun l t => insertNew (t / 13) l) []).foldl (fun s d => wakeDieBy s d 0) s

/-- Inputs of a stage whose data lies in the batch's staging area: input, address and length. -/
def stagedIns (b : Batch) (r : List Byte) : List (Nat × Nat × Nat) :=
  (List.range 8).flatMap fun k =>
    (b.staged.filter fun a => a.1 == inRef r k / 256 && a.2.1 == inRef r k % 256).map fun a => (k, a.2.2.1, a.2.2.2)

/-- A stage is issued for a batch on its units. -/
def issueStage (x : Stream) (p : Plan) (b : Batch) (i : Nat) (units : List Nat) (s : State) : State :=
  let r := p.stages.getD i []
  let pages := unitPages r units
  let tiles := if (unitClass r).isNone then units else []
  let c := mkCtx s x p b i pages
  let s : State := { s with
    freeCtr := s.freeCtr + 1
    assigns := s.assigns ++ pages.map fun q => ⟨q, x.id, b.idx, i⟩ }
  let s := tiles.foldl wakeTile (workDies (reserveFloor s x tiles) tiles)
  let recs := planRecs p i
  let ins := gatherIns b r
  let s := s.setRun x.id b.idx i fun u => { u with
    issuedAt := some s.tick
    pages := pages
    steps := if isResident r ∧ 1 < units.length then List.replicate units.length 0 else [] }
  let s := sendWakes s (prewakePages s x p i)
  match internalFail c p recs ins with
  | some off => failRunAt (noteStage s c recs stCorrupt) x.id b.idx i stCorrupt off
  | none =>
    if denseOver r c.blocks ins || (opGroup (stOp r) == 4 && selOver r ins) then failRun (noteStage s c recs stOversize) x.id b.idx i stOversize
    else opIssue c recs b ins (fetchInputs (loadGroup s c p units) x.id b.idx i tiles ins (stagedIns b r))

def stageIssue (id idx i : Nat) (units : List Nat) (s : State) : State :=
  match s.open? id, s.batch? id idx with
  | some x, some b => match x.plan, b.runs.find? (·.ix == i) with
    | some p, some u =>
      let r := p.stages.getD i []
      match u.readyAt with
      | some t =>
        if b.stopped || u.issuedAt.isSome || u.finished || nextStage p b != some i || !(b.state == .started || b.state == .committed)
          || s.power.issueGate != 0 || !(cursorFree x p r) || !(unitsOk s x p i units) || servedFirst s x idx r t then s
        else issueStage x p b i units s
      | none => s
    | _, _ => s
  | _, _ => s

def execStageIssue (stream batch stage : Nat) (units : List Nat) (s : State) : Host.Outcome State Fault Refusal :=
  .next (stageIssue stream batch stage units s)

/-! ### STAGE_FINISH -/

/-- The stage's tile that the Weir holds up: one that waits for blocks or has been spilled (R73 to R75). -/
def heldUp (x : Stream) (u : StageRun) : Bool :=
  x.holds.any fun h => u.pages.contains (pgTile h.tile) && (h.spilling != 0 || h.spilled != 0 || (h.floor == 0 && h.wanted != 0))

/-- Everything that a stage waits for has come. -/
def stageReady (s : State) (x : Stream) (p : Plan) (b : Batch) (u : StageRun) : Bool :=
  let r := p.stages.getD u.ix []
  u.windows == 0 && u.keys == [] && u.merges == [] && u.steps.all (fun n => decide (u.pages.length ≤ n)) && !(heldUp x u)
  && u.pages.all (fun q => (pageDie q).all (fun d => (s.die d).power == .active)
    && (keyCls q != 8 || fed s (keyInst q) x.id b.idx u.ix))
  && match stOp r with
    | 0x0203 => u.arrived
    | 0x0802 => u.asked.all fun k => u.answers.any (·.1 == k)
    | 0x0800 => sendDone s x.id b.idx u.ix
    | 0x0801 => recvReady s x.id b.idx u.ix b.rows
    | _ => true

/-- A resident group that holds a tile leaves its tiles (R277, R494, R498). -/
def releaseGroups (s : State) (t : Nat) : State :=
  let out := s.disp.residents.filter fun g => g.tiles.contains t
  let s : State := { s with disp := { s.disp with residents := s.disp.residents.filter fun g => !(g.tiles.contains t) } }
  out.foldl (fun s g => leaveTiles s g.stream) s

/-- What the units of a stage found: an uncorrectable tile SRAM word is counted, and the fourth within a second quarantines
the tile. -/
def quarantine (s : State) (t : Nat) : State :=
  if (s.tile t).quarantined then s
  else
    let s := s.setTile t fun y => { y with quarantined := true }
    let s := releaseGroups s t
    { s with trust := { s.trust with testList := insertNew t s.trust.testList, log := .quarantine t :: s.trust.log } }

/-- Is a finding recorded where it was made? -/
def faultNoted (op : Nat) : StageFault → Bool
  | .datapath _ => opGroup op == 3
  | .window _ => true
  | _ => false

/-- A finding of the checks of a stage's units, and the status it ends the stage with (R337, R356, R494, R496, R498). -/
def applyFault (s : State) (c : Ctx) : StageFault → State × Option Nat
  | .none => (s, none)
  | .sramCorrected t n => if c.pages.contains (pgTile t) then ((List.range n).foldl (fun s _ => countCE s (pgTile t)) s, none) else (s, none)
  | .meshCorrected n => ((List.range n).foldl (fun s _ => countCE s pgFab) s, none)
  | .sram t =>
    if c.pages.contains (pgTile t) then
      let s := countUE s (pgTile t)
      let s := s.setTile t fun y => { y with ueTicks := s.tick :: y.ueTicks.filter fun k => decide (s.tick < k + 25000000) }
      let s := releaseGroups s t
      (if 4 ≤ (s.tile t).ueTicks.length then quarantine s t else s, some stUncorrectable)
    else (s, none)
  | .datapath t =>
    if c.pages.contains (pgTile t) then
      (quarantine (noteErr (countUE s (pgTile t)) (pgTile t) 0x5C8 stUncorrectable c.stream c.stage c.op) t, some stUncorrectable)
    else (s, none)
  | .meshFlit die router lane =>
    if die < 4 ∧ router < 20 ∧ lane ≤ 2 then
      (firstEvent (countUE s pgFab) pgFab 0x460 (die * 256 + lane * 32 + router), some stPoison)
    else (s, none)
  | .window n =>
    if c.pages.contains (pgDefl n) then
      (noteErr (countUE s (pgDefl n)) (pgDefl n) 0x448 stUncorrectable c.stream c.stage c.op, some stUncorrectable)
    else (s, none)

/-- The last selection stage of a plan (R57). -/
def lastSelect (p : Plan) : Option Nat := ((List.range p.stages.length).filter fun i => opGroup (stOp (p.stages.getD i [])) == 4).getLast?

/-- An update staged for the commit point. -/
def stageUpdate (s : State) (c : Ctx) (u : Update) : State := s.setBatch c.stream c.idx fun b => { b with updates := b.updates ++ [u] }

/-- A stage's operator over its inputs: its outputs, with the updates it stages and what it reports. -/
def opFinish (c : Ctx) (p : Plan) (recs : List (List Byte)) (u : StageRun) (s : State) : Res (List (Option Col)) :=
  let none_ (s : State) : Res (List (Option Col)) := ok s []
  let ins := u.ins
  match c.op with
  | 0x0200 | 0x0802 => lookupOut c recs u s
  | 0x0201 | 0x0202 => none_ (stageUpdate s c (.rows c.stage (TRec.of (recs.getD 0 [])).id 0 u.staged))
  | 0x0203 => none_ (stageUpdate s c (.switch c.stage (TRec.of (recs.getD 0 [])).id 0))
  | 0x0204 =>
    if c.n 56 8 ≠ 0 ∧ !(inR44 (c.n 48 8) (c.n 56 8)) then failAt s stBounds 48
    else none_ (stageUpdate s c (.discard c.stage (c.n 48 8) (c.n 56 8)))
  | 0x0500 => searchOut c (recs.getD 0 []) u s
  | 0x0501 => andThen (noted c recs (loadAll s ins)) fun s l => andThen (updateRecords c (recs.getD 0 []) l s) fun s rs =>
      none_ (stageUpdate s c (.search c.stage (SetRec.of (recs.getD 0 [])).id rs))
  | 0x0600 => noted c recs (andThen (prepLoad c.record ins s) fun s l => tokenRun c l s)
  | 0x0601 => andThen (noted c recs (prepLoad c.record ins s)) fun s l => decodeRun c l s
  | 0x0602 => transformRun c ins s
  | 0x0603 => ok s u.outs
  | 0x0604 =>
    let k := (p.stages.findIdx? fun r => stOp r == 0x0603).getD 0
    let cs := candsOf (((s.run? c.stream c.idx k).map (·.outs)).getD [])
    andThen (noted c recs (prepLoad c.record ins s)) fun s l => batchRun c (p.stages.getD k []) cs l s
  | 0x0700 | 0x0701 => match loadAll s ins with
    | (s, .error e) => (noteErr s c.page 0x448 e.1 c.stream c.stage c.op, .error e)
    | (s, .ok l) => packRun c l s
  | 0x0800 => none_ s
  | 0x0801 => recvOut c s
  | op =>
    if opGroup op = 1 then noted c recs (relRun c ins s)
    else if opGroup op = 3 then
      let held := (heldGroup s c.stream c.record).bind fun g => (g.weights.find? (·.1 == c.stage)).map fun w => (w.2.1, w.2.2)
      noted c recs (denseRun c held ins s)
    else andThen (noted c recs (selRun c ins s)) fun s q =>
      let s := if lastSelect p = some c.stage then
          s.setBatch c.stream c.idx fun b => { b with select := some (q.2.least, q.2.ties, q.2.short) }
        else s
      ok s q.1

/-- Outputs whose type no check could know before suit their descriptors. -/
def lateSuits (c : Ctx) (ins outs : List (Option Col)) : Option Nat :=
  ((List.range 4).find? fun o => match c.outs.getD o none, outs.getD o none with
    | some d, some y => (opOut c.record c.blocks c.rows ins o).isNone && d.type_ != y.type_
    | _, _ => false).map outOff

/-- The units of a finished stage are free (R86), and its spill area (R211). -/
def freeUnits (s : State) (id idx i : Nat) : State :=
  let mine (a : Assign) : Bool := a.stream == id && a.batch == idx && a.stage == i
  let s := (s.assigns.filter mine).foldl endUnit s
  let tiles := (s.assigns.filter mine).filterMap fun a => if keyCls a.page = 8 then some (keyInst a.page) else none
  let s : State := { s with assigns := s.assigns.filter fun a => !(mine a) }
  let s := tiles.foldl (fun s t => s.setTile t fun y => { y with since := s.tick }) s
  let area := ((s.run? id idx i).map (·.spill)).getD 0
  let s := (uncharge s (s.slotOf id) area 0).setRun id idx i fun u => { u with spill := 0 }
  leaveTiles (workDies s tiles) id

/-- The tiles among the units of a stage. -/
def StageRun.tiles (u : StageRun) : List Nat := (u.pages.filter fun q => keyCls q == 8).map keyInst

/-- Results of a stage that do not stay in pool blocks go to the batch's staging area, while it has room (R76). -/
def stageOutputs (x : Stream) (idx : Nat) (u : StageRun) (outs : List (Option Col)) (s : State) : State :=
  outs.zipIdx.foldl (fun s q => match q.1, s.batch? x.id idx with
    | some y, some b =>
      let at_ := (b.staged.map (·.2.2.2)).sum
      let n := y.data.length
      if b.stagingBytes < at_ + n ∨ n = 0 then s
      else writeBackAll (s.setBatch x.id idx fun b => { b with staged := b.staged ++ [(u.ix, q.2, b.stagingAddr + at_, n)] })
        u.tiles x.id (b.stagingAddr + at_) n
    | _, _ => s) s

/-- A stage fails: its batch completes, or, for a SEND stage, ends its sending. -/
def stageFails (s : State) (x : Stream) (idx i status off : Nat) : State :=
  endBatch s x.id idx status ((i + 1) * 256 + off)

/-- A stage finishes for a batch. -/
def finishStage (x : Stream) (p : Plan) (b : Batch) (u : StageRun) (f : StageFault) (s : State) : State :=
  let i := u.ix
  let c := mkCtx s x p b i u.pages
  let s : State := { s with freeCtr := s.freeCtr + 1 }
  let note (s : State) (st : Nat) : State := noteStage s c (planRecs p i) st
  match applyFault s c f with
  | (s, some st) => stageFails (if faultNoted c.op f then s else note s st) x b.idx i st 0xFF
  | (s, none) => match u.failure with
    | some e => stageFails s x b.idx i e.1 e.2
    | none =>
      if !(stageReady s x p b u) then s
      else match opFinish c p (planRecs p i) u s with
        | (s, .error e) => stageFails s x b.idx i e.1 e.2
        | (s, .ok outs) => match lateSuits c u.ins outs with
          | some off => stageFails (note s stCorrupt) x b.idx i stCorrupt off
          | none =>
            let s := s.setRun x.id b.idx i fun r => { r with
              finished := true
              outs := outs }
            let s := stageOutputs x b.idx u outs s
            batchProgress (refreshReady (freeUnits s x.id b.idx i) x.id) x.id b.idx

def stageFinish (id idx i : Nat) (f : StageFault) (s : State) : State :=
  match s.open? id, s.batch? id idx with
  | some x, some b => match x.plan, b.runs.find? (·.ix == i) with
    | some p, some u =>
      if b.stopped || u.finished || u.issuedAt.isNone || !(b.state == .started || b.state == .committed) then s
      else finishStage x p b u f s
    | _, _ => s
  | _, _ => s

def execStageFinish (stream batch stage : Nat) (fault : StageFault) (s : State) : Host.Outcome State Fault Refusal :=
  .next (stageFinish stream batch stage fault s)

/-! ### COMMIT_POINT (R52, R85, R146, R183) -/

/-- A result fits the buffers of its descriptor. -/
def outFits (d : Desc) (y : Col) : Bool :=
  decide (y.data.length ≤ d.bytes) && (d.type_ != 0x0E || decide (4 * (y.count + 1) ≤ d.offsBytes))
  && (d.validity == 0 || decide (y.count ≤ d.capacity))

/-- The results that a batch commits: stage, output, descriptor number and data. -/
def committedOuts (p : Plan) (b : Batch) : List (Nat × Nat × Nat × Col) :=
  b.runs.flatMap fun u => (List.range 4).filterMap fun o =>
    let w := outWord (p.stages.getD u.ix []) o
    if w / 256 = 0xFE then (u.outs.getD o none).map fun y => (u.ix, o, w % 256, y) else none

/-- A validity bitmap; the bits past the last element have no given value. -/
def validBits (s : State) (y : Col) : State × List Byte :=
  let bits := bitmapOf ((List.range y.count).map y.isValid)
  if y.count % 8 = 0 then (s, bits)
  else match takeFreeBits s 8 with
    | (s, f) => (s, overlay bits (bits.length - 1)
        [BitVec.ofNat 8 ((bits.getLastD 0).toNat % 2 ^ (y.count % 8) + f / 2 ^ (y.count % 8) * 2 ^ (y.count % 8))])

/-- One write of the commit point, keeping the first fault. -/
def commitWrite (a : State × Nat) (addr : Nat) (data : List Byte) : State × Nat :=
  match devWrite (wakeForWrite a.1 addr) addr data with
  | (s, e) => (s, if a.2 ≠ 0 then a.2 else (e.map MemErr.status).getD 0)

/-- A result written to its buffers, then COUNT and USED to the descriptor's own memory. -/
def writeOut (b : Batch) (a : State × Nat) (q : Nat × Nat × Nat × Col) : State × Nat :=
  let d := Desc.of (b.outDesc.getD q.2.2.1 [])
  let y := q.2.2.2
  let a := commitWrite a d.addr y.data
  let a := if d.type_ = 0x0E then commitWrite a d.offs (y.offsets.flatMap (natLE 4)) else a
  let a := if d.validity = 0 then a
    else match validBits a.1 y with
      | (s, bits) => commitWrite (s, a.2) d.validity bits
  let base := b.outAddr + 64 * q.2.2.1
  commitWrite (commitWrite a (base + 32) (natLE 4 y.count)) (base + 40) (natLE 8 y.data.length)

/-- The write requests of a committed result, from the tiles that made it. -/
def commitRequests (x : Stream) (b : Batch) (s : State) (q : Nat × Nat × Nat × Col) : State :=
  let d := Desc.of (b.outDesc.getD q.2.2.1 [])
  let y := q.2.2.2
  let tiles := ((b.runs.find? (·.ix == q.1)).map (·.tiles)).getD []
  let put (s : State) (a n : Nat) : State := writeBackAll s tiles x.id a n
  let s := put s d.addr y.data.length
  let s := if d.type_ = 0x0E then put s d.offs (4 * y.offsets.length) else s
  let s := if d.validity = 0 then s else put s d.validity (ceilDiv y.count 8)
  put s (b.outAddr + 64 * q.2.2.1 + 32) 16

/-- One staged update, in stage order; the first failure's status and stage are kept. -/
def applyUpdate (x : Stream) (b : Batch) (a : State × Nat × Nat) (u : Update) : State × Nat × Nat :=
  let note (stage : Nat) (q : State × Nat) : State × Nat × Nat :=
    if a.2.1 ≠ 0 ∨ q.2 = 0 then (q.1, a.2) else (q.1, q.2, (stage + 1) * 256 + 0xFF)
  match u with
  | .rows stage table _ items => note stage (applyRows a.1 x.id (x.stage stage) table items)
  | .discard stage addr len => note stage (applyDiscard a.1 addr len)
  | .search stage set_ records => note stage (applySearch a.1 x.id b.idx set_ records, 0)
  | .switch stage table _ => note stage (applySwitch a.1 x.id table (x.stage stage), 0)

/-- A batch's deadline has passed its tick (R54). -/
def pastDeadline (s : State) (b : Batch) : Bool := b.deadline != 0 && decide (b.start + b.deadline < s.tick)

/-- Every stage but the SEND stages has finished, and every earlier batch has committed or completed. -/
def mayCommit (s : State) (x : Stream) (p : Plan) (b : Batch) : Bool :=
  b.state == .started && !b.stopped && !(pastDeadline s b)
  && b.runs.all (fun u => u.finished || isSend (p.stages.getD u.ix []))
  && (x.batches.takeWhile (·.idx != b.idx)).all fun c => c.state == .committed || c.state == .done

/-- The outputs are written and the updates applied; then SEND stages may run. -/
def commitBatch (x : Stream) (p : Plan) (b : Batch) (s : State) : State :=
  let outs := committedOuts p b
  match outs.find? fun q => !(outFits (Desc.of (b.outDesc.getD q.2.2.1 [])) q.2.2.2) with
  | some q =>
    let c := mkCtx s x p b q.1 (((b.runs.find? (·.ix == q.1)).map (·.pages)).getD [])
    endBatch (noteStage s c (planRecs p q.1) stNoSpace) x.id b.idx stNoSpace ((q.1 + 1) * 256 + outOff q.2.1)
  | none =>
    let a := outs.foldl (writeOut b) (outs.foldl (commitRequests x b) s, 0)
    let s := a.1.setBatch x.id b.idx fun b => { b with state := .committed }
    let r := b.updates.foldl (applyUpdate x b) (s, a.2, 0xFF)
    let s := if r.2.1 = 0 then r.1 else r.1.setBatch x.id b.idx fun b => { b with failure := some (r.2.1, r.2.2) }
    batchProgress (refreshReady s x.id) x.id b.idx

def commitPoint (id : Nat) (s : State) : State :=
  match s.open? id with
  | none => s
  | some x => match x.plan, x.batches.find? (·.state == .started) with
    | some p, some b => if mayCommit s x p b then commitBatch x p b s else s
    | _, _ => s

def execCommitPoint (stream : Nat) (s : State) : Host.Outcome State Fault Refusal := .next (commitPoint stream s)

/-- UPDATE_VERIFY_DRAIN: the keys before an update have finished, its record is applied, and its batch may complete. -/
def updateVerifyDrain (d : Nat) (s : State) : State :=
  match (s.reed d).updates with
  | [] => s
  | u :: _ => batchProgress (finishUpdate s d) u.stream u.batch

def execUpdateVerifyDrain (die : Nat) (s : State) : Host.Outcome State Fault Refusal := .next (updateVerifyDrain die s)

/-! ### Deadlines and timeouts (R53, R54) -/

/-- DEADLINE_EXPIRY: no commit point by the end of the expiry tick. -/
def deadlineExpiry (id idx : Nat) (s : State) : State :=
  match s.open? id, s.batch? id idx with
  | some _, some b =>
    if b.state == .started && !b.stopped && pastDeadline s b then
      let at_ := match (b.runs.filter fun u => !u.finished).map (·.ix) with
        | i :: _ => (i + 1) * 256
        | [] => 0
      endBatch s id idx stTimeout (at_ + 0xFF)
    else s
  | _, _ => s

def execDeadlineExpiry (stream batch : Nat) (s : State) : Host.Outcome State Fault Refusal := .next (deadlineExpiry stream batch s)

/-- What a RECEIVE or PEER_LOOKUP stage awaits has come. -/
def awaitedCame (s : State) (x : Stream) (b : Batch) (u : StageRun) : Bool :=
  if stOp (x.stage u.ix) = 0x0801 then recvReady s x.id b.idx u.ix b.rows
  else u.asked.all fun k => u.answers.any (·.1 == k)

/-- STAGE_TIMEOUT: the awaited arrival has not come by the end of the expiry tick. -/
def stageTimeout (id idx i : Nat) (s : State) : State :=
  match s.open? id, s.batch? id idx with
  | some x, some b => match b.runs.find? (·.ix == i) with
    | some u =>
      if b.state == .started && !b.stopped && !u.finished && runExpired x s.tick u && !(awaitedCame s x b u) then
        endBatch s id idx stTimeout ((i + 1) * 256 + 0xFF)
      else s
    | none => s
  | _, _ => s

def execStageTimeout (stream batch stage : Nat) (s : State) : Host.Outcome State Fault Refusal :=
  .next (stageTimeout stream batch stage s)

/-- One more arrival in LATE and DISP.LATE_CNT (R54). -/
def lateCounted (s : State) (id : Nat) : State :=
  bump (s.setStream id fun x => { x with late := (x.late + 1) % 2 ^ 32, dirty := true }) (pgDisp + 0x430) 1

/-- An arrival after its expiry is discarded and counted. -/
def countLate (s : State) (id : Nat) : State := keepStatus (lateCounted s id) id

/-- LATE_ARRIVAL: what a stage awaited comes in a later tick than its expiry, or after its batch has ended. A record for a
RECEIVE stage is no such arrival. -/
def lateArrival (id idx i : Nat) (s : State) : State :=
  match s.open? id with
  | none => s
  | some x =>
    let waits : Bool := match (s.batch? id idx).bind fun b => b.runs.find? (·.ix == i) with
      | some u => !u.finished && !(runExpired x s.tick u)
      | none => false
    if stOp (x.stage i) == 0x0801 || waits then s else countLate s id

def execLateArrival (stream batch stage : Nat) (s : State) : Host.Outcome State Fault Refusal :=
  .next (lateArrival stream batch stage s)

end Sys2Proof.Machine
end

