-- ==== Sys2Proof/Machine/Boot.lean ====
section
/-! DEFINITION. Firmware images, the boot chain, measurements, the cold start with its self-test and repairs, tally
requests and the Peat rows (R409 to R451, R501 to R506). -/

namespace Sys2Proof.Machine

def State.setTrust (s : State) (f : Trust → Trust) : State := { s with trust := f s.trust }

/-! ### Measurements (R422, R424) -/

/-- An extend of register M with an event digest; the MC logs it. -/
def extendMeas (s : State) (m : Nat) (digest : List Byte) (source : Nat) : State :=
  s.setTrust fun t => { t with
    meas := modifyAt t.meas m fun old => shake256_512 (old ++ digest)
    measCnt := modifyAt t.measCnt m (· + 1)
    log := .measured m digest source :: t.log }

/-- MEAS_EXTEND: a host write of SEC.MEAS_EXTEND with GO extends a register 8 to 15 with MEAS_EXT0–7 (R424). -/
def measExtend (who : Agent) (v : Word) (s : State) : State :=
  match regGate s who (rk 18 0 0x478) with
  | .through =>
    if who = .host ∧ pageEn s pgSec ∧ bit v 63 ∧ 8 ≤ fld v 3 0 then
      let e := (List.range 8).flatMap fun i => natLE 8 (s.reg (pgSec + 0x480 + 8 * i)).toNat
      answer (extendMeas s (fld v 3 0) e 3) .done
    else answer s .done
  | _ => answer s .busError

def execMeasExtend (who : Agent) (v : Word) (s : State) : Host.Outcome State Fault Refusal := .next (measExtend who v s)

/-! ### Firmware images (R412, R413, R418) -/

/-- A component's header, its LENGTH and its body within an image. -/
def compHeader (img : List Byte) (off : Nat) : List Byte := (img.drop off).take 4096
def compLen (h : List Byte) : Nat := fieldN h 16 8
def compBody (img : List Byte) (off : Nat) : List Byte := (img.drop (off + 4096)).take (compLen (compHeader img off))
def compSvn (h : List Byte) : Nat := fieldN h 8 1
def compPubkey (h : List Byte) : List Byte := sliceB h 128 1793

/-- The body limit of a component TYPE. -/
def bodyLimit : Nat → Nat
  | 1 => 4 * 2 ^ 20
  | 2 => 16 * 2 ^ 20
  | 3 => 48 * 2 ^ 20
  | _ => 4 * 2 ^ 20 - 8192

/-- Is a signer allowed for a component TYPE in a lifecycle state (R418)? -/
def signerAllowed (life : Life) (type_ signer : Nat) : Bool :=
  let root := signer == 0xFF
  let owner := decide (signer < 4)
  match life, type_ with
  | .retired, 1 => root
  | .retired, _ => false
  | .owned, 3 => owner
  | .owned, 4 => owner
  | _, _ => root

/-- Does the public key match the fused root digest or an ACTIVE owner slot's digest? -/
def signerKeyMatches (f : Fuses) (signer : Nat) (pubkey : List Byte) : Bool :=
  if signer = 0xFF then shake256_512 pubkey == f.rootDigest
  else match f.keys.getD signer .empty with
    | .active d => shake256_512 pubkey == d
    | _ => false

/-- The first address of the host carve-out, which ends at 0x098_FFFF_FFFF (R92, R457). -/
def carveBase (s : State) : Nat := 0x9900000000 - s.rfld (pgHost + 0x410) 8 0 * 2 ^ 30

/-- The hand-off area: the top 1 MiB of the carve-out (R457). -/
def handOff : Nat := 0x98FFF00000

/-- The checks of R413 (and of R457 for a HOST and R459 for a DISPATCHER), in order; the code of the first that fails. -/
def checkComp (s : State) (img : List Byte) (off type_ : Nat) : Option Nat :=
  let h := compHeader img off
  let len := compLen h
  let body := compBody img off
  let load := fieldN h 24 8
  let entry := fieldN h 32 8
  let carve := carveBase s
  if !(h.length == 4096 && fieldN h 0 4 == 0x474D4946 && fieldN h 4 2 == 1 && fieldN h 6 1 == type_ && zeroAt h 9 7
      && zeroAt h 40 24 && zeroAt h 1921 127 && zeroAt h 3328 768 && decide (len ≤ bodyLimit type_)
      && decide (off + 4096 + len ≤ img.length)) then some 0x02
  else if shake256_512 body ≠ sliceB h 64 64 then some 0x03
  else if !(signerAllowed s.trust.life type_ (fieldN h 7 1) && signerKeyMatches s.fuses (fieldN h 7 1) (compPubkey h)) then some 0x05
  else if !Config.signatureHolds (compPubkey h) (shake256_512 (h.take 2048)) (sliceB h 2048 1280) then some 0x04
  else if compSvn h < s.fuses.svn then some 0x06
  else if type_ = 3 ∧ ¬ (carve ≤ load ∧ load + len ≤ handOff ∧ carve ≤ entry ∧ entry < handOff) then some 0x02
  else if type_ = 2 ∧ ¬ (load + len ≤ 16 * 2 ^ 20 ∧ load ≤ entry ∧ entry < load + len) then some 0x02
  else none

def sourceNum : Source → Nat
  | .peat => 0
  | .mctp => 1
  | .pcie => 2

/-- A component refused: VERIFY_FAIL_CNT and LAST_ERR (R413, R431). -/
def refuseComp (s : State) (code type_ source bank : Nat) : State :=
  firstEvent (bump s (pgSec + 0x4D0) 1) pgSec 0x4D8 (code * 2 ^ 48 + type_ * 2 ^ 40 + source * 2 ^ 32 + bank)

/-- A source that holds no header-valid record at all: code 0x01 (R414). -/
def noRecord (s : State) (type_ source : Nat) : State :=
  firstEvent s pgSec 0x4D8 (1 * 2 ^ 48 + type_ * 2 ^ 40 + source * 2 ^ 32)

/-- The MC component of an image tried: the MC firmware runs when it passes, with its M1 events journalled (R414, R423). -/
def tryMc (s : State) (img : List Byte) (source bank seq : Nat) : State × Bool :=
  match checkComp s img 0 1 with
  | some c => (refuseComp s c 1 source bank, false)
  | none =>
    let h := compHeader img 0
    let e := Config.eventDigest 1 (h ++ natLE 1 source ++ natLE 1 bank ++ natLE 8 seq)
    (s.setTrust fun t => { t with
      mcRunning := true
      stage := .mcFirmware
      search := none
      mcHeader := h
      mcFrom := (source, bank, seq)
      journal := [e] }, true)

/-- The DISPATCHER and HOST components of an image tried: both pass, or the record is passed over (R415); M2 and M3 take
their events. -/
def tryFirmware (s : State) (img : List Byte) (source bank seq : Nat) : State × Bool :=
  let o1 := roundUp (4096 + compLen (compHeader img 0)) 4096
  let o2 := roundUp (o1 + 4096 + compLen (compHeader img o1)) 4096
  match checkComp s img o1 2 with
  | some c => (refuseComp s c 2 source bank, false)
  | none => match checkComp s img o2 3 with
    | some c => (refuseComp s c 3 source bank, false)
    | none =>
      let d := compHeader img o1
      let h := compHeader img o2
      let s := s.setTrust fun t => { t with
        dispHeader := d
        hostHeader := h
        hostBody := compBody img o2
        fwFrom := (source, bank, seq)
        fwLoaded := true
        search := none }
      let s := extendMeas s 2 (Config.eventDigest 2 (d ++ natLE 1 source ++ natLE 1 bank ++ natLE 8 seq)) 1
      (extendMeas s 3 (Config.eventDigest 3 h) 1, true)

def tryImage (s : State) (firmware : Bool) (img : List Byte) (source bank seq : Nat) : State × Bool :=
  if firmware then tryFirmware s img source bank seq else tryMc s img source bank seq

/-- The header-valid records of a slot in descending SEQUENCE, bank A first at equal SEQUENCE. -/
def slotRecords (s : State) (type_ : Nat) : List (Nat × PeatRec) :=
  let v (b : Nat) := ((peatRec? s b type_).filter (·.headerValid type_)).toList.map fun r => (b, r)
  match v 0, v 1 with
  | (_, a) :: _, (_, b) :: _ => if b.seq ≤ a.seq then [(0, a), (1, b)] else [(1, b), (0, a)]
  | x, y => x ++ y

/-- PEAT.LAST_ERR for a read that fails on an uncorrectable word (R433, R449). -/
def noteUnread (s : State) (b type_ sector : Nat) : State :=
  firstEvent s pgPeat 0x430 (5 * 2 ^ 48 + type_ * 2 ^ 40 + b * 2 ^ 32 + sector)

/-- Records tried in order until one yields; one that cannot be read is passed over. -/
def tryRecords (firmware : Bool) : List (Nat × PeatRec) → State → State × Bool
  | [], s => (s, false)
  | (b, r) :: t, s =>
    match r.unread with
    | some x => tryRecords firmware t (noteUnread s b 1 x)
    | none => match tryImage s firmware r.body 0 b r.seq with
      | (s, true) => (s, true)
      | (s, false) => tryRecords firmware t s

/-- The search through the sources in order (R414, R415): a source that has nothing delivered is waited for, and when
every source has failed the stage is RECOVERY with FAULT_N asserted. -/
def runSearch (firmware : Bool) : List Source → State → State
  | [], s =>
    { s.setTrust (fun t => { t with stage := .recovery, search := some ⟨firmware, [], s.tick⟩ }) with
      power := { s.power with faultN := true } }
  | .peat :: t, s =>
    let rs := slotRecords s 1
    if rs = [] then runSearch firmware t (noRecord s (if firmware then 2 else 1) 0)
    else match tryRecords firmware rs s with
      | (s, true) => s
      | (s, false) => runSearch firmware t s
  | .mctp :: t, s => match s.trust.mctpImage with
    | some img => match tryImage s firmware img 1 0 0 with
      | (s, true) => s
      | (s, false) => runSearch firmware t s
    | none => s.setTrust fun x => { x with search := some ⟨firmware, .mctp :: t, s.tick⟩ }
  | .pcie :: t, s => match s.trust.pcieImage with
    | some img => match tryImage s firmware img 2 0 0 with
      | (s, true) => s
      | (s, false) => runSearch firmware t s
    | none => s.setTrust fun x => { x with search := some ⟨firmware, .pcie :: t, s.tick⟩ }

/-- The sources in ORDER; PCIE is skipped where the part is a root port (R410). -/
def bootOrder (s : State) : List Source :=
  let l := match orderInForce s with
    | 0 => [Source.peat, .mctp]
    | 1 => [.peat, .pcie, .mctp]
    | 2 => [.mctp, .peat]
    | _ => [.pcie, .peat]
  if bitOf s.trust.straps 2 then l.filter (· ≠ .pcie) else l

/-! ### The cold start (R417, R422, R445, R501 to R506) -/

/-- The device ID (R425). -/
def deviceId (s : State) : List Byte := shake256_256 (Config.devicePublicKey s.fuses.seed)

/-- The slot of an audit entry is programmed: consumed, and not spoiled, or a key slot filled (R445). -/
def slotProgrammed (f : Fuses) (setting inst ix value : Nat) : Bool :=
  if setting = 4 then f.keys.getD value .empty != .empty
  else if f.spoiled.contains (setting, inst, ix) then false
  else if setting = 0x10 then ix < poolUsed f inst else ix < settingUsed f setting

/-- PENDING entries that no later entry of the same slot completes. -/
def openPending (es : List (List Byte)) : List (List Byte) :=
  es.filter fun e => fieldN e 9 1 == 0 && !es.any fun x => fieldN x 9 1 ≠ 0 && fieldN x 8 1 == fieldN e 8 1
    && fieldN x 12 2 == fieldN e 12 2 && fieldN x 14 2 == fieldN e 14 2 && decide (fieldN e 0 8 < fieldN x 0 8)
    && fieldN x 24 8 == fieldN e 24 8

/-- Reconciling the AUDIT ring with the fuses at boot (R445). -/
def reconcile (s : State) : State :=
  let s := (openPending (auditEntries s)).foldl (fun s e =>
    let phase := if slotProgrammed s.fuses (fieldN e 8 1) (fieldN e 12 2) (fieldN e 14 2) (fieldN e 24 8) then 3 else 2
    (appendAudit s (fieldN e 8 1) phase (fieldN e 10 1) (fieldN e 11 1) (fieldN e 12 2) (fieldN e 14 2)
      (fieldN e 16 8) (fieldN e 24 8) false).1) s
  let s := s.fuses.unaudited.foldl (fun s u =>
    let s := (appendAudit s u.1 0 0 0xFE u.2.1 u.2.2.1 0 u.2.2.2 false).1
    (appendAudit s u.1 3 0 0xFE u.2.1 u.2.2.1 0 u.2.2.2 false).1) s
  { s with fuses := { s.fuses with unaudited := [] } }

/-- A repair made at cold start from self-test (R503, R504): with a spare and a slot left it is fused, recorded and
audited; otherwise it is refused and the resource is left out of service. -/
def coldRepair (s : State) (inst kind target : Nat) (spare : Bool) (fix lose : Repair → Repair) : State :=
  let f := s.fuses
  if spare && decide (poolUsed f inst < poolSize inst) then
    let ix := poolUsed f inst
    let s := (appendAudit s 0x10 0 0 0xFE inst ix 0 target false).1
    let r : Repair := fix f.repair
    let e : RepairEntry := ⟨inst, kind, 1, target, s.tick⟩
    let s := { s with fuses := { usePool f inst with repair := { r with entries := r.entries ++ [e] } } }
    let s := s.setTrust fun t => { t with log := .repair 0x10 inst target :: t.log }
    (appendAudit s 0x10 1 0 0xFE inst ix 0 target false).1
  else
    { repairRefused s inst kind target with fuses := { f with repair := lose f.repair } }

/-- A tile that failed: its die's spare position takes its place, or the die offers one tile fewer. -/
def repairTile (s : State) (t : Nat) : State :=
  let d := t / 13
  let p := t % 13
  let r := s.fuses.repair
  let en := r.tileEn.getD d 0
  if bitOf en p then
    coldRepair s d 1 p (r.spareTile.getD d none).isSome
      (fun r => match r.spareTile.getD d none with
        | some q => { r with tileEn := setAt r.tileEn d (en - 2 ^ p + 2 ^ q), spareTile := setAt r.spareTile d none }
        | none => r)
      (fun r => { r with tileEn := setAt r.tileEn d (en - 2 ^ p) })
  else if r.spareTile.getD d none = some p then { s with fuses := { s.fuses with repair := { r with spareTile := setAt r.spareTile d none } } }
  else s

/-- A MU column that failed: one of two spare columns, or the whole tile (R259), which with no slot left is lost (R504). -/
def repairColumn (s : State) (c : Nat × Nat) : State :=
  let used := s.fuses.repair.muCols.getD c.1 0 / 4 ^ c.2 % 4
  if used < 2 then
    coldRepair s (c.1 / 13) 2 (c.1 % 13 * 4 + c.2) true
      (fun r => { r with muCols := modifyAt r.muCols c.1 (· + 4 ^ c.2) })
      (fun r => { r with tileEn := modifyAt r.tileEn (c.1 / 13) fun m => if bitOf m (c.1 % 13) then m - 2 ^ (c.1 % 13) else m })
  else repairTile s c.1

/-- A physical Fen layer or Reedbed bank that failed self-test, in service at a logical place. -/
def repairLayer (s : State) (c : Nat × Nat) : State :=
  let r := s.fuses.repair
  match findPos (· == c.2) (r.fenLayers.getD c.1 []) with
  | some l => coldRepair s c.1 3 l (r.fenSpare.getD c.1 7 ≠ 7)
      (fun r => { r with
        fenLayers := modifyAt r.fenLayers c.1 fun x => setAt x l (r.fenSpare.getD c.1 7)
        fenSpare := setAt r.fenSpare c.1 7 })
      (fun r => r)
  | none => if r.fenSpare.getD c.1 7 = c.2 then
      { s with fuses := { s.fuses with repair := { r with fenSpare := setAt r.fenSpare c.1 7 } } } else s

/-- A physical bank that failed self-test: one in service is spared or lost, a spare is one spare fewer. -/
def repairBank (s : State) (c : Nat × Nat) : State :=
  let r := s.fuses.repair
  match findPos (· == c.2) (r.reedMap.getD c.1 []) with
  | some b => coldRepair s c.1 4 b (r.reedFree.getD c.1 [] != []) (mapBank c.1 b) (loseBank c.1 b)
  | none => { s with fuses := { s.fuses with repair := { r with reedFree := modifyAt r.reedFree c.1 fun l => l.filter (· != c.2) } } }

/-- A host core that failed: a spare core, or one core fewer (R458, R504). -/
def repairCore (s : State) (c : Nat) : State :=
  let r := s.fuses.repair
  if bitOf r.coreEn c then
    coldRepair s 0x200 10 c (r.coreFree != [])
      (fun r => { r with coreEn := r.coreEn - 2 ^ c + 2 ^ (r.coreFree.headD 0), coreFree := r.coreFree.drop 1 })
      (fun r => { r with coreEn := r.coreEn - 2 ^ c })
  else { s with fuses := { s.fuses with repair := { r with coreFree := r.coreFree.filter (· != c) } } }

/-- Failures of idle spares come before the others of a self-test, so that none of them takes a place. -/
def sparesFirst {α : Type} (idle : α → Bool) (l : List α) : List α := l.filter idle ++ l.filter fun a => !(idle a)

/-- The stage of self-test and repair, and the repair record applied (R501, R503, R506). A quarantined tile is repaired only where
the self-test confirms it. -/
def applyTest (s : State) (x : SelfTest) : State :=
  let r := s.fuses.repair
  let s := (sparesFirst (fun t => r.spareTile.getD (t / 13) none == some (t % 13)) x.tiles).foldl repairTile s
  let s := x.columns.foldl repairColumn s
  let s := (sparesFirst (fun c => r.fenSpare.getD c.1 7 == c.2) x.layers).foldl repairLayer s
  let s := (sparesFirst (fun c => (r.reedFree.getD c.1 []).contains c.2) x.banks).foldl repairBank s
  let s := (sparesFirst r.coreFree.contains x.cores).foldl repairCore s
  let r := s.fuses.repair
  let s := { s with
    dies := s.dies.map fun _ => { power := .active, since := s.tick, lastUse := s.tick }
    tiles := (List.range 52).map fun t =>
      let on := bitOf (r.tileEn.getD (t / 13) 0) (t % 13)
      { power := if on then .run else .off, since := s.tick, enabled := on }
    hbms := (List.range 12).map fun k =>
      { marked := r.marks.getD k none, lanes := r.lanes.getD k 0, rows := r.rows.getD k 0 }
    fens := (List.range 4).map fun d =>
      { layers := r.fenLayers.getD d [0, 1, 2, 3], spare := r.fenSpare.getD d 4, spareDone := r.fenSpare.getD d 4 == 7 }
    cutOff := x.links.filterMap fun l => if 4 ≤ l then some (l - 4) else none
    fab := { s.fab with
      linkUp := (List.range 8).map fun l => !(x.links.contains l)
      linkDown := (List.range 8).map fun l => x.links.contains l }
    trust := { s.trust with testList := [] } }
  (List.range 52).foldl (fun s t => if (s.tile t).enabled then s else s.setReg (pgTile t + 0x10) 0) s

/-- The bring-up that starts at PG, once the MC firmware runs (R417): reconciliation with the AUDIT ring, self-test and
repairs, and the REPAIR record brought up to date. -/
def bringUp (s : State) (x : SelfTest) : State :=
  let s := { s.setTrust (fun t => { t with stage := .bringUp, coldTest := none }) with
    power := { s.power with pg := some s.tick } }
  syncRepairRecord (reconcile (applyTest s x))

/-- The MC firmware starts to run: a bring-up that waited for it starts. -/
def afterMc (s : State) : State :=
  match s.trust.coldTest with
  | some x => if s.trust.mcRunning ∧ s.power.vinGood then bringUp s x else s
  | none => s

/-- MOSS_RESET_RELEASE: 1 ms after VSB3V3 became good the Moss domain leaves reset, and the MC ROM searches the sources
(R409, R414, R515). -/
def mossRelease (s : State) : State :=
  if s.power.vsbGood ∧ ¬ s.power.mossUp ∧ 25000 ≤ s.tick then
    let s := { s with power := { s.power with mossUp := true, mossUpAt := s.tick, qualFrom := s.tick, faultN := false } }
    let s := s.setTrust fun t => { t with stage := .rom, life := s.fuses.life, journal := [] }
    runSearch false (bootOrder s) s
  else s

def execMossResetRelease (s : State) : Host.Outcome State Fault Refusal := .next (mossRelease s)

/-- BOOT_SOURCE_TIMEOUT: a source that has not started delivery within 10 s fails (R411). -/
def bootTimeout (s : State) : State :=
  match s.trust.search with
  | some ⟨fw, _ :: t, from_⟩ =>
    if from_ + 250000000 ≤ s.tick then afterMc (runSearch fw t (s.setTrust fun x => { x with search := none })) else s
  | _ => s

def execBootSourceTimeout (s : State) : Host.Outcome State Fault Refusal := .next (bootTimeout s)

/-- The majority of three samples of each strap (R517). -/
def majority3 (a b c : Nat) : Nat :=
  (List.range 4).foldl (fun m n => m + b2n (2 ≤ b2n (bitOf a n) + b2n (bitOf b n) + b2n (bitOf c n)) * 2 ^ n) 0

/-- VIN50_POWER_GOOD: a qualification of 2 ms ends (R512); straps are sampled, the lifecycle takes effect, the security
engine measures and replays the journal (R422, R423), and bring-up starts once the MC firmware runs. -/
def vinGood (samples : List Nat) (x : SelfTest) (s : State) : State :=
  if s.power.vsbGood ∧ s.power.mossUp ∧ ¬ s.power.vinGood ∧ ¬ s.power.thermtrip ∧ s.power.offUntil = none
      ∧ s.power.qualFrom + 50000 ≤ s.tick then
    let straps := majority3 (samples.getD 0 0) (samples.getD 1 0) (samples.getD 2 0)
    let life := s.fuses.life
    let s := { s with power := { s.power with
      vinGood := true
      dev := .active
      lastWork := s.tick
      faultN := s.power.faultN && !s.trust.mcRunning } }
    let lane (p : Port × Nat) : Port := { p.1 with spare := s.fuses.repair.ethSpare.getD p.2 15 }
    let s : State := { s with ext := { s.ext with
      pcieRoot := bitOf straps 2
      ports := s.ext.ports.zipIdx.map lane } }
    let s := if s.fuses.discardDue then
        let cut (b : PeatBank) : PeatBank := { b with recs := b.recs.filter fun p => p.1 ≠ 2 ∧ p.1 ≠ 5 }
        { s with banks := s.banks.map cut, fuses := { s.fuses with discardDue := false } }
      else s
    let s := s.setTrust fun t => { t with
      straps := straps
      life := life
      meas := List.replicate 16 (List.replicate 64 0)
      measCnt := List.replicate 16 0
      debug := if life = .blank then 1 else 0
      fwLoaded := false
      configured := false
      ready := false
      coldTest := some x }
    let s := extendMeas s 0 (Config.eventDigest 0 (natLE 1 (lifeNum life) ++ natLE 1 s.fuses.svn
      ++ natLE 1 (ownerSlots s.fuses) ++ natLE 1 s.fuses.override)) 0
    let s := extendMeas s 0 (Config.eventDigest 4 (natLE 1 straps)) 0
    let s := s.trust.journal.foldl (fun s e => extendMeas s 1 e 0) s
    afterMc s
  else s

def execVin50PowerGood (samples : List Nat) (x : SelfTest) (s : State) : Host.Outcome State Fault Refusal :=
  .next (vinGood samples x s)

/-- Every die that serves has been swept. -/
def allSwept (s : State) : Bool :=
  (List.range 4).all fun d => s.cutOff.contains d || (s.fen d).sweepDone

/-- FIRMWARE_LOAD: after the Fen sweep, the MC firmware searches for the DISPATCHER and HOST components (R415, R417);
a part in RETIRED loads neither (R418, R428). -/
def firmwareLoad (s : State) : State :=
  if s.trust.mcRunning ∧ s.power.vinGood ∧ s.power.pg.isSome ∧ allSwept s ∧ ¬ s.trust.fwLoaded ∧ s.trust.search = none
      ∧ s.trust.life ≠ .retired then
    runSearch true (bootOrder s) (s.setTrust fun t => { t with stage := .load })
  else s

def execFirmwareLoad (s : State) : Host.Outcome State Fault Refusal := .next (firmwareLoad s)

/-! ### Tally requests (R442 to R447) -/

/-- Is the signer of a request allowed by R428 and R442? -/
def tallySigner (s : State) (setting value signer : Nat) : Bool :=
  let life := s.fuses.life
  let root := signer == 0xFF
  let owner := isActive (s.fuses.keys.getD signer .empty)
  if s.trust.life = .retired then false
  else match setting with
    | 1 => match life, value with
      | .blank, _ => root
      | .provisioned, _ => root
      | .owned, _ => owner
      | .returned, _ => root || owner
      | _, _ => false
    | 3 => owner
    | 4 => owner
    | _ => root || (s.trust.life == .owned && owner)

/-- The four KEYS of a request. -/
def reqKeys (b : List Byte) : List (List Byte) := (List.range 4).map fun i => sliceB b (64 + 64 * i) 64

/-- The first check of R444 that a request fails. -/
def tallyCheck (s : State) (b : List Byte) : Option Nat :=
  let setting := fieldN b 6 1
  let signer := fieldN b 7 1
  let value := fieldN b 24 8
  let pub := sliceB b 320 1793
  if !s.power.vinGood then some 0x09
  else if !(b.length == 4096 && fieldN b 0 4 == 0x52594C54) then some 0x01
  else if !(fieldN b 4 2 == 1 && 1 ≤ setting && setting ≤ 6 && zeroAt b 10 6 && zeroAt b 2113 191 && zeroAt b 3584 512) then some 0x01
  else if sliceB b 32 32 ≠ deviceId s then some 0x02
  else if !(tallySigner s setting value signer && signerKeyMatches s.fuses signer pub) then some 0x03
  else if !Config.signatureHolds pub (shake256_512 (b.take 2304)) (sliceB b 2304 1280) then some 0x04
  else if fieldN b 8 2 ≠ settingUsed s.fuses setting ∨ fieldN b 16 8 ≠ settingValue s.fuses setting then some 0x05
  else if !valueAllowed s setting value signer then some 0x06
  else if givenKeys (reqKeys b) = [] ∧ (setting = 4 ∨ (setting = 1 ∧ value = 2)) then some 0x06
  else if !guardHolds s setting value then some 0x08
  else if setting ≠ 4 ∧ settingSlots setting ≤ settingUsed s.fuses setting then some 0x07
  else none

/-- The result of a request: REQ_STAT, the answer on its path, and a refusal recorded. -/
def tallyResult (s : State) (path : TallyPath) (setting code : Nat) : State :=
  let s := s.setTrust fun t => { t with reqSetting := setting, reqResult := code }
  if code = 0 then answer s .done else answer (refuseTally s code setting (pathNum path) 0) (.refused code)

/-- A request handled: refused by the first check that fails, or its PENDING entry written and its slot programmed. -/
def tallyStart (s : State) (path : TallyPath) (b : List Byte) (auditFails : Bool) : State :=
  let setting := fieldN b 6 1
  match tallyCheck s b with
  | some c => tallyResult s path setting c
  | none =>
    let ix := if setting = 4 then 0xFFFF else settingUsed s.fuses setting
    let old := settingValue s.fuses setting
    match appendAudit s setting 0 (pathNum path) (fieldN b 7 1) 0 ix old (fieldN b 24 8) auditFails with
    | (s, false) => tallyResult s path setting 0x0A
    | (s, true) => answer (s.setTrust fun t => { t with
        reqSetting := setting
        tally := some
          { path := path, setting := setting, value := fieldN b 24 8, slotIndex := ix, signer := fieldN b 7 1, old := old, keys := reqKeys b } }) .held

/-- A request joins those that wait, or is handled at once. -/
def tallyArrives (path : TallyPath) (b : List Byte) (auditFails : Bool) (s : State) : State :=
  if s.trust.tally.isSome then
    answer (s.setTrust fun t => { t with tallyQ := t.tallyQ ++ [(path, b, auditFails)] }) .held
  else tallyStart s path b auditFails

/-- TALLY_REQUEST: requests are handled one at a time, in arrival order (R444). Over Redfish it needs an Administrator, and
answers HTTP 503 while VIN50 is absent (R484). -/
def tallyRequest (path : TallyPath) (b : List Byte) (auditFails : Bool) (s : State) : State :=
  if !s.trust.mcRunning then s
  else match path with
    | .redfish role => asRole .administrator role (fun s =>
        tallyArrives path b auditFails (redfish s (if s.power.vinGood then 202 else 503) 0 [])) s
    | _ => tallyArrives path b auditFails s

def execTallyRequest (path : TallyPath) (b : List Byte) (auditFails : Bool) (s : State) : Host.Outcome State Fault Refusal :=
  .next (tallyRequest path b auditFails s)

/-- Requests that waited are handled in order until one is being applied. -/
def tallyNext : List (TallyPath × List Byte × Bool) → State → State
  | [], s => s.setTrust fun t => { t with tallyQ := [] }
  | (p, b, f) :: rest, s =>
    let s := tallyStart s p b f
    if s.trust.tally.isSome then s.setTrust fun t => { t with tallyQ := rest } else tallyNext rest s

/-- The end of a change: a verified slot takes its value and a DONE entry; a slot that fails is consumed and spoiled, with
an ABANDONED entry (R445). Repairs that wait are verified before requests are handled (log 53, DEDUCED). -/
def slotVerify (ok auditFails : Bool) (s : State) : State :=
  match s.trust.tally with
  | none => s
  | some j =>
    let s := s.setTrust fun t => { t with tally := none }
    let repair := j.setting = 0x10
    let f := if repair then s.fuses else useSlot s.fuses j.setting
    let s := if ok then
        let s := { s with fuses := if repair then f else fuseValue f j.setting j.value j.keys }
        let s := if repair then s else tallyResult (bump s (pgTally + 0x450) 1) j.path j.setting 0
        (appendAudit s j.setting 1 (pathNum j.path) j.signer j.inst j.slotIndex j.old j.value auditFails).1
      else
        let s := { s with fuses := { f with
          spoiled := f.spoiled ++ [(j.setting, j.inst, j.slotIndex)]
          repair := if repair then undoRepair j f.repair else f.repair } }
        let s := if repair ∧ j.kind = 5 then s.setStack j.place fun t => { t with marked := none } else s
        let s := if repair then s else tallyResult s j.path j.setting 0x0B
        (appendAudit s j.setting 2 (pathNum j.path) j.signer j.inst j.slotIndex j.old j.value auditFails).1
    let s := syncRepairRecord s
    match s.trust.repairJobs with
    | [] => tallyNext s.trust.tallyQ s
    | j :: rest => s.setTrust fun t => { t with
        tally := some j
        repairJobs := rest }

def execTallySlotVerify (ok auditFails : Bool) (s : State) : Host.Outcome State Fault Refusal :=
  .next (slotVerify ok auditFails s)

/-- The setting whose TF field lies at an offset of the TALLY page. -/
def settingAt : Nat → Option Nat
  | 0x400 => some 1
  | 0x408 => some 2
  | 0x410 => some 3
  | 0x418 => some 5
  | 0x420 => some 6
  | _ => none

/-- The value a TF write asks of a setting; a write of REVOKE must add exactly one bit, and names that slot (R451). -/
def tfValue (s : State) (setting : Nat) (v : Word) : Option Nat :=
  match setting with
  | 1 => some (fld v 2 0)
  | 2 => some (fld v 7 0)
  | 3 =>
    let now := revokedBits s.fuses
    (List.range 4).find? fun n => !bitOf now n && fld v 3 0 == now + 2 ^ n
  | 5 => some (fld v 15 0)
  | _ => some (fld v 2 0)

/-- TF_WRITE: a write of a tally-fused field of the TALLY page (R9, R447). -/
def tfWrite (who : Agent) (addr : Nat) (v : Word) (s : State) : State :=
  match placeOf addr with
  | .regs k =>
    match regGate s who k, settingAt (keyOff k), keyCls k with
    | .through, some setting, 20 =>
      if !(pageEn s pgTally) then answer s .done
      else if who ≠ .mc then answer (refuseTally s 0x0C setting 0 0) .done
      else match tfValue s setting v with
        | none => answer (refuseTally s 0x06 setting 0 0) .done
        | some x =>
          if !(valueAllowed s setting x 0xFF && guardHolds s setting x) then answer (refuseTally s 0x06 setting 0 0) .done
          else if settingSlots setting ≤ settingUsed s.fuses setting then answer (refuseTally s 0x07 setting 0 0) .done
          else
            let ix := settingUsed s.fuses setting
            let f := fuseValue (useSlot s.fuses setting) setting x []
            let f := { f with unaudited := f.unaudited ++ [(setting, 0, ix, x)] }
            answer { bump s (pgTally + 0x450) 1 with fuses := f } .done
    | .bus, _, _ => answer s .busError
    | _, _, _ => s
  | _ => s

def execTfWrite (who : Agent) (addr : Nat) (v : Word) (s : State) : Host.Outcome State Fault Refusal :=
  .next (tfWrite who addr v s)

/-! ### The Peat rows (R433, R436, R437) -/

/-- PEAT_RECORD_WRITE: the MC firmware writes a record. -/
def peatRecordWrite (type_ : Nat) (payload : List Byte) (ev : PeatEvent) (s : State) : State :=
  if s.power.mossUp ∧ s.trust.mcRunning ∧ 1 ≤ type_ ∧ type_ ≤ 5 then
    let r := peatWrite s type_ payload ev
    answer r.1 (if r.2 then .done else .refused 0)
  else s

def execPeatRecordWrite (type_ : Nat) (payload : List Byte) (ev : PeatEvent) (s : State) :
    Host.Outcome State Fault Refusal := .next (peatRecordWrite type_ payload ev s)

/-- What patrol finds of a record at a base within its bank: a sector it cannot read, or a DIGEST that fails. -/
def patrolFinds (b type_ base : Nat) (unread : List (Nat × Nat)) (r : PeatRec) : Option (Option Nat) :=
  if !(r.headerValid type_) || r.failed then none
  else match (recSectors base r.len).find? fun x => unread.contains (b, x) with
    | some x => some (some x)
    | none => if r.valid type_ then none else some none

/-- A record of the AUDIT ring by its position, or of another slot. -/
def recAt? (s : State) (b type_ pos : Nat) : Option PeatRec :=
  if type_ = 4 then ((s.bank b).audit.find? (·.1 == pos)).map (·.2) else peatRec? s b type_

/-- Patrol of one record: a DIGEST that fails is counted, and a record that fails is invalid from then on. -/
def patrolRec (unread : List (Nat × Nat)) (s : State) (at_ : Nat × Nat × Nat) : State :=
  let b := at_.1
  let type_ := at_.2.1
  let pos := at_.2.2
  let base := slotBase type_ + 8192 * pos
  match recAt? s b type_ pos with
  | none => s
  | some r =>
    let mark (u : Option Nat) (s : State) : State :=
      { s with banks := modifyAt s.banks b fun bk => putRec bk type_ pos { r with failed := true, unread := u } }
    match patrolFinds b type_ base unread r with
    | none => s
    | some (some x) => mark (some x) (noteUnread s b type_ x)
    | some none => mark none (firstEvent (bump s (pgPeat + 0x428) 1) pgPeat 0x430
        (4 * 2 ^ 48 + type_ * 2 ^ 40 + b * 2 ^ 32 + base / 4096))

/-- The records that patrol checks, in the order of the banks and their slots. -/
def patrolList (s : State) : List (Nat × Nat × Nat) :=
  [0, 1].flatMap fun b => [(b, 1, 0), (b, 2, 0), (b, 3, 0)] ++ (s.bank b).audit.map (fun p => (b, 4, p.1)) ++ [(b, 5, 0)]

/-- PEAT_PATROL: every 24 hours the MC checks every header-valid record; words may need correction, and sectors of a bank may not be
readable. -/
def peatPatrol (corrected : List Nat) (unread : List (Nat × Nat)) (s : State) : State :=
  if s.trust.mcRunning ∧ s.trust.patrolFrom + 86400 * 25000000 ≤ s.tick then
    let s := s.setTrust fun t => { t with patrolFrom := s.tick }
    let s := corrected.foldl (fun s _ => countCE s pgPeat) s
    (patrolList s).foldl (patrolRec unread) s
  else s

def execPeatPatrol (corrected : List Nat) (unread : List (Nat × Nat)) (s : State) : Host.Outcome State Fault Refusal :=
  .next (peatPatrol corrected unread s)

/-! ### JTAG (R429) -/

/-- The 32-byte challenge now offered; its bytes are free. -/
def challengeBytes (s : State) : List Byte :=
  (List.range 32).map (Config.freeByte 300 (natLE 8 s.trust.challenge))

/-- JTAG_UNLOCK: a token over the challenge, the device ID and the state is checked against the root key, or any ACTIVE
owner key in OWNED; a challenge answers one attempt, and an accepted unlock extends M0. -/
def jtagUnlock (signer : Nat) (pubkey token : List Byte) (s : State) : State :=
  if !s.power.vinGood then s
  else
    let life := s.trust.life
    let msg := shake256_512 (challengeBytes s ++ deviceId s ++ natLE 1 (lifeNum life))
    let allowed := match life with
      | .provisioned => signer == 0xFF
      | .returned => signer == 0xFF
      | .owned => isActive (s.fuses.keys.getD signer .empty)
      | _ => false
    let s := s.setTrust fun t => { t with challenge := t.challenge + 1 }
    if allowed && signerKeyMatches s.fuses signer pubkey
        && Config.signatureHolds pubkey msg token then
      let s := extendMeas s 0 (Config.eventDigest 5 msg) 0
      answer (s.setTrust fun t => { t with debug := if life = .owned then 3 else 2 }) .done
    else answer s (.refused 0)

def execJtagUnlock (signer : Nat) (pubkey token : List Byte) (s : State) : Host.Outcome State Fault Refusal :=
  .next (jtagUnlock signer pubkey token s)

/-- BOUNDARY_SCAN_EXTEST: EXTEST or CLAMP takes the pins from the device until a power cycle. -/
def execBoundaryScanExtest (s : State) : Host.Outcome State Fault Refusal :=
  .next { s with power := { s.power with scanned := true } }

end Sys2Proof.Machine
end

