-- ==== Sys2Proof/Machine/Memory.lean ====
section
/-! DEFINITION. The memory family: accesses to HBM granules and Fen lines, scrub, marking, sparing, training and the
cold sweep (R90 to R119). -/

namespace Sys2Proof.Machine

/-- An access that finds no data, as the one who made it sees it (R91, R495, R496): a host core takes a bus error or a
load access fault counted in HOST's PG_ERR_UE; the MC and units see the status. -/
def memFailure (s : State) (who : Agent) (load : Bool) (e : MemErr) : State :=
  match who, e with
  | .host, .bounds => answer s .busError
  | .host, .poison => if load then answer (countUE s pgHost) .loadFault else answer s .poisoned
  | .host, .uncorrectable => if load then answer (countUE s pgHost) .loadFault else answer s .uncorrectable
  | _, .bounds => answer s .bounds
  | _, .poison => answer s .poisoned
  | _, .uncorrectable => answer s .uncorrectable

/-- An access to memory of a die: passed on, held until the die is ACTIVE (R397), or without effect where nothing is
powered. -/
def memAccess (s : State) (d : Nat) (h : Instr) (go : State → State) : State :=
  match (s.die d).power with
  | .off => answer s .busError
  | .active => go (wakeDieBy s d 2)
  | _ => holdAt s d h

/-! ### Granules -/

/-- Does an access go through the host cores' caches? -/
def throughCache (who : Agent) (addr : Nat) : Bool := who == .host && cachedView addr

/-- After a host core's access a sector may be evicted, at a time that the manual does not give, and is where the cache is full;
a cache line corrected is counted (R499). -/
def afterHost (s : State) (ix : Nat) (ev : CacheEvent) : State :=
  let s := if ev.corrected then countCE s pgHost else s
  if ev.evict then evictSector s ix else cacheRoom s

/-- GRANULE_READ on an awake stack: what has struck the stack takes its place, the fill-map word is checked, and the granule
is decoded. -/
def granuleReadNow (who : Agent) (addr k o : Nat) (hits : HbmHits) (ev : CacheEvent) (s : State) : State :=
  if stackServes s k then
    if throughCache who addr then
      match hostLoad (strike s k hits) (granKey k (o / 256)) [0, 1, 2, 3] with
      | (s, .ok bs) => answer (afterHost s (granKey k (o / 256)) ev) (.data bs)
      | (s, .error e) => memFailure s who true e
    else match granRead (snoop (strike s k hits) (addr - o % 256) 256 false (who != .host)) k (o / 256) with
      | (s, .ok bs) => answer s (.data bs)
      | (s, .error e) => memFailure s who true e
  else memFailure s who true .uncorrectable

/-- GRANULE_READ (R96, R97, R99, R103): the granule that holds an address of either view. -/
def granuleRead (who : Agent) (addr : Nat) (hits : HbmHits) (ev : CacheEvent) (s : State) : State :=
  match placeOf addr with
  | .hbm k o => memAccess s (k / 3) (.granuleRead who addr hits ev) (granuleReadNow who addr k o hits ev)
  | _ => memFailure s who true .bounds

def execGranuleRead (who : Agent) (addr : Nat) (hits : HbmHits) (ev : CacheEvent) (s : State) : Host.Outcome State Fault Refusal :=
  .next (granuleRead who addr hits ev s)

/-- A write within the granule that holds an address, full when it covers all 256 bytes (R99, R101, R103). -/
def granuleWriteNow (who : Agent) (addr k o : Nat) (data : List Byte) (poison : Bool) (hits : HbmHits) (ev : CacheEvent) (s : State) :
    State :=
  if stackServes s k then
    if throughCache who addr then
      match hostStore (strike s k hits) (granKey k (o / 256)) (o % 256) data poison with
      | (s, none) => answer (afterHost s (granKey k (o / 256)) ev) .done
      | (s, some e) => memFailure s who false e
    else match granWrite (snoop (strike s k hits) addr data.length true (who != .host)) k (o / 256) (o % 256) data poison with
    | (s, none) => answer s .done
    | (s, some e) => memFailure s who false e
  else memFailure s who false .uncorrectable

def granuleWrite (who : Agent) (addr : Nat) (data : List Byte) (poison : Bool) (hits : HbmHits) (ev : CacheEvent) (s : State) :
    State :=
  match placeOf addr with
  | .hbm k o => memAccess (wakeForWrite s addr) (k / 3) (.granulePartialWrite who addr data poison hits ev)
      (granuleWriteNow who addr k o data poison hits ev)
  | _ => memFailure s who false .bounds

/-- GRANULE_FULL_WRITE: 256 bytes at a granule's start; anything else is no full-granule write and changes nothing. -/
def execGranuleFullWrite (who : Agent) (addr : Nat) (data : List Byte) (poison : Bool) (hits : HbmHits) (ev : CacheEvent) (s : State) :
    Host.Outcome State Fault Refusal :=
  .next (if addr % 256 = 0 ∧ data.length = 256 then granuleWrite who addr data poison hits ev s else s)

/-- GRANULE_PARTIAL_WRITE: any other write within one granule. -/
def execGranulePartialWrite (who : Agent) (addr : Nat) (data : List Byte) (poison : Bool) (hits : HbmHits) (ev : CacheEvent)
    (s : State) : Host.Outcome State Fault Refusal :=
  .next (if 0 < data.length ∧ addr % 256 + data.length ≤ 256 ∧ data.length ≠ 256
    then granuleWrite who addr data poison hits ev s else s)

/-! ### Patrol scrub (R104, R105) -/

/-- Granules of a stack. -/
def granules : Nat := 213909504

/-- Is scrub running on a stack: trained and present, enabled, and not in self-refresh? -/
def scrubRuns (s : State) (k : Nat) : Bool :=
  (s.stack k).trained && !(s.stack k).absent && bit (s.reg (pgHbmc k + 0x410)) 8
    && ((s.die (k / 3)).power == .active || (s.die (k / 3)).power == .entering)

/-- Has granule g fallen due on the pass clock? -/
def scrubDue (t : Stack) (g : Nat) : Bool := decide (t.period * 3600 * 25000000 * g ≤ t.passClock * granules)

/-- No granule from a to b - 1 of a stack is WRITTEN: their turns pass without a read. -/
def noneWritten (s : State) (k a b : Nat) : Bool :=
  s.gran.all fun p => !(decide (granKey k a ≤ p.1) && decide (p.1 < granKey k b) && p.2.fill == .written)

/-- The scrub's read of a granule and its write-back: a corrected granule is encoded again from the corrected data,
unless an access has come between. -/
def scrubGranule (s : State) (k g : Nat) (raced : Bool) : State :=
  if (s.granule (granKey k g)).fill = .written then
    match granData s k g true false with
    | (t, .ok bs) =>
      if (s.granule (granKey k g)).errs = [] ∨ raced then t else granStore t k g bs false
    | (t, .error _) => t
  else s

/-- The fill-map words of granules a to b of a stack read as scrub passes them, whatever states they hold (R103). -/
def scrubWords (s : State) (k a b : Nat) : State :=
  let mine := s.fillWords.filter fun p => decide (granKey k a / 32 ≤ p.1) && decide (p.1 ≤ granKey k b / 32)
  mine.foldl (fun s p => (fillWord s k (32 * (p.1 - granKey k 0 / 32)) true).1) s

/-- SCRUB_VISIT: granule g is the next whose turn does not pass, and it is due. -/
def scrubVisit (k g : Nat) (hits : HbmHits) (raced : Bool) (s : State) : State :=
  let t := s.stack k
  if k < 12 ∧ scrubRuns s k ∧ ¬ t.passEnded ∧ t.position ≤ g ∧ g < granules ∧ scrubDue t g ∧ noneWritten s k t.position g then
    let s := scrubGranule (scrubWords (strike s k hits) k t.position g) k g raced
    s.setStack k fun t =>
      if g + 1 = granules then { t with position := 0, passEnded := true, passes := (t.passes + 1) % 2 ^ 32 }
      else { t with position := g + 1 }
  else s

def execScrubVisit (k g : Nat) (hits : HbmHits) (raced : Bool) (s : State) : Host.Outcome State Fault Refusal :=
  .next (scrubVisit k g hits raced s)

/-- SCRUB_PASS_START: the pass has ended (its remaining turns pass) and the pass clock has reached its period; DIE_CE
restarts from zero and PERIOD_H takes effect. -/
def scrubPassStart (k : Nat) (s : State) : State :=
  let t := s.stack k
  if k < 12 ∧ scrubRuns s k ∧ t.period * 3600 * 25000000 ≤ t.passClock
      ∧ (t.passEnded ∨ noneWritten s k t.position granules) then
    let s := if t.passEnded then s else scrubWords s k t.position (granules - 1)
    s.setStack k fun t => { t with
      passes := if t.passEnded then t.passes else (t.passes + 1) % 2 ^ 32
      passEnded := false
      position := 0
      passClock := 0
      period := s.rfld (pgHbmc k + 0x410) 7 0
      dieCe := List.replicate 16 0
      reached := [] }
  else s

def execScrubPassStart (k : Nat) (s : State) : Host.Outcome State Fault Refusal := .next (scrubPassStart k s)

/-- Firmware marks a core die: a slot of the stack is consumed and the die is marked (R98); with no slot left nothing is
marked (R504). The answer says whether it is. -/
def markDie (s : State) (who : Agent) (k die value : Nat) : State × Bool :=
  match repairWrite s who (0x100 + k) 5 die value 0 k (s.stack k).marked.isNone
      fun r => { r with marks := setAt r.marks k (some die) } with
  | (s, true) => (s.setStack k fun t => { t with marked := some die }, true)
  | (s, false) => (s, false)

/-- A core die that firmware has cause to mark: marked, or reported as a refused repair where the stack has a marked die
already (R98, R504). -/
def markCause (s : State) (k die : Nat) : State :=
  if (s.stack k).marked.isSome then repairRefused s (0x100 + k) 5 die else (markDie s .mc k die die).1

/-- Firmware has marked each die whose count reached MARK_THRESH 10 ms before (R98). -/
def tickMark (s : State) (k : Nat) : State :=
  match (s.stack k).markDue with
  | [] => s
  | (die, at_) :: rest =>
    if (s.die (k / 3)).power = .mire then wakeDieBy s (k / 3) 3
    else if at_ + 250000 ≤ s.tick then markCause (s.setStack k fun t => { t with markDue := rest }) k die else s

/-- DIE_MARK: the MC's write marks a core die, which consumes a slot of the stack (R98, R447). -/
def dieMark (who : Agent) (k : Nat) (v : Word) (s : State) : State :=
  match regGate s who (rk 5 k 0x440) with
  | .bus => answer s .busError
  | .hold d => holdAt s d (.dieMark who k v)
  | .through =>
    if !(pageEn s (pgHbmc k)) then answer s .done else
    let die := fld v 3 0
    match markDie s who k die v.toNat with
    | (s, true) => answer (s.setStack k fun t => { t with markDue := t.markDue.filter (·.1 != die) }) .done
    | (s, false) => answer s .done

def execDieMark (who : Agent) (k : Nat) (v : Word) (s : State) : Host.Outcome State Fault Refusal :=
  .next (dieMark who k v s)

/-! ### Training (R103, R107, R108) -/

/-- A data lane repaired in the field: a slot of the stack each (R108). -/
def trainLane (k : Nat) (s : State) : State :=
  match repairWrite s .mc (0x100 + k) 6 1 1 (s.stack k).lanes k true fun x => { x with lanes := modifyAt x.lanes k (· + 1) } with
  | (s, ok) => if ok then s.setStack k fun t => { t with lanes := t.lanes + 1 } else s

/-- A set of n die rows repaired in the field: a slot of the stack for the set. -/
def trainRows (k : Nat) (s : State) (n : Nat) : State :=
  match repairWrite s .mc (0x100 + k) 7 n n (s.stack k).rows k true fun x => { x with rows := modifyAt x.rows k (· + n) } with
  | (s, ok) => if ok then s.setStack k fun t => { t with rows := t.rows + n } else s

/-- HBM_TRAINING_END: during bring-up an untrained stack reaches the highest passing bin not above the cap that CONFIG holds,
or is absent, which the repair record lists; field repairs of lanes and rows consume their slots, and a die found failed is
marked; the fill map stands at UNWRITTEN, and the first scrub pass starts at granule 0. SPEED.BIN reads 0 for an absent stack
(log 77, DESIGN CHOICE), and a cap that is no bin counts as the default (log 78, DESIGN CHOICE). -/
def trainStack (k : Nat) (r : TrainResult) (s : State) : State :=
  if k < 12 ∧ s.power.vinGood ∧ s.trust.mcRunning ∧ ¬ (s.stack k).trained ∧ (s.die (k / 3)).power ≠ .off then
    let s := s.setStack k fun t => { t with
      trained := true
      absent := r.bin.isNone
      cap := if r.cap ≤ 2 then r.cap else 2
      bin := Nat.min (r.bin.getD 0) (if r.cap ≤ 2 then r.cap else 2)
      passClock := 0
      period := s.rfld (pgHbmc k + 0x410) 7 0
      position := 0
      passes := 0
      passEnded := false
      dieCe := List.replicate 16 0
      reached := [] }
    let s := r.rows.foldl (trainRows k) ((trainLane k)^[r.lanes] s)
    let s := match r.failedDie with
      | none => s
      | some d => markCause s k (d % 16)
    let others := s.fuses.repair.absent.filter (· != k)
    let list := if r.bin.isNone then others ++ [k] else others
    if list = s.fuses.repair.absent then s
    else syncRepairRecord { s with fuses := { s.fuses with repair := { s.fuses.repair with absent := list } } }
  else s

def execHbmTrainingEnd (k : Nat) (r : TrainResult) (s : State) : Host.Outcome State Fault Refusal :=
  .next (trainStack k r s)

/-! ### Fen lines -/

/-- A read of a 64-byte line (R110, R111). -/
def fenReadNow (who : Agent) (d o : Nat) (err : LineErr) (ev : CacheEvent) (s : State) : State :=
  if fenServes s d then
    let line := o / 64
    let ix := fenKey d o / 256
    if who = .host then
      match hostLoad (fenStrike s d line err) ix [line % 4] with
      | (s, .ok bs) => answer (afterHost s ix ev) (.data ((bs.drop (64 * (line % 4))).take 64))
      | (s, .error e) => memFailure s who true e
    else match fenCheck (snoop (fenStrike s d line err) (fenKey d (64 * line)) 64 false true) d line with
      | (s, none) => answer s (.data (memBytes s.mem (fenKey d (64 * line)) 64))
      | (s, some e) => memFailure s who true e
  else memFailure s who true .uncorrectable

def fenLineRead (who : Agent) (addr : Nat) (err : LineErr) (ev : CacheEvent) (s : State) : State :=
  match placeOf addr with
  | .fen d o => memAccess s d (.fenLineRead who addr err ev) (fenReadNow who d o err ev)
  | _ => memFailure s who true .bounds

def execFenLineRead (who : Agent) (addr : Nat) (err : LineErr) (ev : CacheEvent) (s : State) : Host.Outcome State Fault Refusal :=
  .next (fenLineRead who addr err ev s)

/-- A write within a line (R111, R114): while a layer is copied every write goes to both layers. -/
def fenWriteNow (who : Agent) (d o : Nat) (data : List Byte) (poison : Bool) (err : LineErr) (ev : CacheEvent) (s : State) : State :=
  if fenServes s d then
    if who = .host then
      match hostStore (fenStrike s d (o / 64) err) (fenKey d o / 256) (o % 256) data poison with
      | (s, none) => answer (afterHost s (fenKey d o / 256) ev) .done
      | (s, some e) => memFailure s who false e
    else match fenPatch (snoop (fenStrike s d (o / 64) err) (fenKey d o) data.length true true) d (o / 64) (o % 64) data poison with
    | (s, none) => answer s .done
    | (s, some e) => memFailure s who false e
  else memFailure s who false .uncorrectable

def fenLineWrite (who : Agent) (addr : Nat) (data : List Byte) (poison : Bool) (err : LineErr) (ev : CacheEvent) (s : State) : State :=
  match placeOf addr with
  | .fen d o =>
    if 0 < data.length ∧ o % 64 + data.length ≤ 64 then
      memAccess (wakeForWrite s addr) d (.fenLineWrite who addr data poison err ev) (fenWriteNow who d o data poison err ev)
    else s
  | _ => memFailure s who false .bounds

def execFenLineWrite (who : Agent) (addr : Nat) (data : List Byte) (poison : Bool) (err : LineErr) (ev : CacheEvent) (s : State) :
    Host.Outcome State Fault Refusal :=
  .next (fenLineWrite who addr data poison err ev s)

/-- FEN_SWEEP_END: the cold sweep has zeroed every line of a die (R112); it takes at most 25,000 ticks. -/
def fenSweepEnd (d ticks : Nat) (s : State) : State :=
  if d < 4 ∧ s.power.vinGood ∧ s.trust.mcRunning ∧ (s.die d).power ≠ .off ∧ ¬ (s.fen d).sweepDone ∧ ticks ≤ 25000 then
    let s := s.setFen d fun f => { f with sweepDone := true, sweepTicks := ticks }
    { s with
      mem := s.mem.filter fun p => !(decide (fenKey d 0 ≤ p.1) && decide (p.1 < fenKey (d + 1) 0))
      fenLines := s.fenLines.filter fun p => !(decide (fenKey d 0 / 64 ≤ p.1) && decide (p.1 < fenKey (d + 1) 0 / 64)) }
  else s

def execFenSweepEnd (d ticks : Nat) (s : State) : Host.Outcome State Fault Refusal := .next (fenSweepEnd d ticks s)

/-- FEN_SPARE: the MC's write of SPARE_CTL.LAYER starts the copy of a logical layer; 4 to 7, or any write while the spare
is in use or a copy runs, is ignored (R114). A repair that the MC makes with the spare in use is a refused one (R504). -/
def fenSpare (who : Agent) (d : Nat) (v : Word) (s : State) : State :=
  match regGate s who (rk 7 d 0x408) with
  | .bus => answer s .busError
  | .hold x => holdAt s x (.fenSpare who d v)
  | .through =>
    let layer := fld v 2 0
    let f := s.fen d
    if 4 ≤ layer ∨ f.copying.isSome ∨ !(pageEn s (pgFen d)) then answer s .done
    else if f.spare = 7 then answer (if who = .mc then repairRefused s d 3 layer else s) .done
    else match repairWrite s who d 3 layer v.toNat f.lastLayer (f.layers.getD layer layer) true fun r => { r with
        fenLayers := modifyAt r.fenLayers d fun l => setAt l layer f.spare
        fenSpare := setAt r.fenSpare d 7 } with
      | (s, true) =>
        answer (s.setFen d fun f => { f with copying := some layer, copyStart := s.tick, lastLayer := layer }) .done
      | (s, false) => answer s .done

def execFenSpare (who : Agent) (d : Nat) (v : Word) (s : State) : Host.Outcome State Fault Refusal :=
  .next (fenSpare who d v s)

/-- Lines of a logical layer that are uncorrectable in the old layer are written poisoned in the spare (R114); a line
with one bad symbol is corrected by the copy. -/
def copiedLine (d layer : Nat) (p : Nat × FenLine) : Option (Nat × FenLine) :=
  if fenKey d 0 / 64 ≤ p.1 ∧ p.1 < fenKey (d + 1) 0 / 64 ∧ (p.1 - fenKey d 0 / 64) * 64 / 256 % 4 = layer then
    match p.2 with
    | .twoBad => some (p.1, .poisoned)
    | .oneBad => none
    | l => some (p.1, l)
  else some p

/-- FEN_SPARE_COPY_END: 2 GiB at 200 GB/s have been copied, and the spare takes the logical layer's place. -/
def fenSpareCopyEnd (d : Nat) (s : State) : State :=
  match (s.fen d).copying with
  | none => s
  | some layer =>
    if copiedMib (s.tick - (s.fen d).copyStart) = 2048 ∧ s.fab.phase ≠ .draining ∧ s.fab.phase ≠ .quiet then
      let s := s.setFen d fun f => { f with
        layers := setAt f.layers layer f.spare
        spare := 7
        copying := none
        spareDone := true }
      { s with fenLines := s.fenLines.filterMap (copiedLine d layer) }
    else s

def execFenSpareCopyEnd (d : Nat) (s : State) : Host.Outcome State Fault Refusal := .next (fenSpareCopyEnd d s)

/-- FEN_SCRUB_VISIT: the lines of a die are read in order; those before the line named are good and need no rewrite.
A corrected line is rewritten unless a write has come between; an uncorrectable one is poisoned (R500). -/
def fenScrubVisit (d line : Nat) (err : LineErr) (raced : Bool) (s : State) : State :=
  let f := s.fen d
  let base := fenKey d 0 / 64
  if d < 4 ∧ fenServes s d ∧ ¬ f.inSr ∧ f.scrubLine ≤ line ∧ line < 2 ^ 27
      ∧ s.fenLines.all (fun p => !(decide (base + f.scrubLine ≤ p.1) && decide (p.1 < base + line))) then
    let s := fenStrike s d line err
    let s := match s.fenLine (base + line) with
      | .good | .poisoned => s
      | .oneBad =>
        let s := fenCE s d line
        if raced then s else s.setFenLine (base + line) .good
      | .twoBad => fenUE s d line
    s.setFen d fun f => { f with
      scrubLine := (line + 1) % 2 ^ 27
      passCe := if line + 1 = 2 ^ 27 then List.replicate 5 0 else f.passCe }
  else s

def execFenScrubVisit (d line : Nat) (err : LineErr) (raced : Bool) (s : State) : Host.Outcome State Fault Refusal :=
  .next (fenScrubVisit d line err raced s)

end Sys2Proof.Machine
end

