-- ==== Sys2Proof/Machine/Weir.lean ====
section
/-! DEFINITION. The Weir (R71 to R75), the steps of a stage's tiles (R278, R294) and WAKE messages (R402). -/

namespace Sys2Proof.Machine

/-! ### Blocks (R73) -/

/-- WEIR_GRANT: a stream asks for blocks, or its request that waits is looked at again. It has them where the pool covers
them; else a stream with a floor goes on with what it holds, and a floor-zero stream waits. -/
def weirGrant (t id n : Nat) (s : State) : State :=
  match s.hold? t id with
  | none => s
  | some h =>
    let n := if h.wanted = 0 then n else h.wanted
    if spilledOn s t id then s
    else if weirFits s t id h n then giveBlocks s t id n
    else if h.floor ≠ 0 then s
    else s.setHold t id fun h => { h with wanted := n }

def execWeirGrant (tile stream blocks : Nat) (s : State) : Host.Outcome State Fault Refusal := .next (weirGrant tile stream blocks s)

/-! ### Wait edges and the graph check (R74) -/

/-- The edges of a stream that waits on a tile: to every stream that holds blocks there beyond its floor, and is not being
spilled. -/
def waitEdges (s : State) (t id : Nat) : List Edge :=
  ((tileHolds s t).filter fun p => p.1 != id && decide (p.2.floor < p.2.held) && p.2.spilling == 0).map fun p => ⟨t, id, p.1⟩

/-- WEIR_EDGE: a tile reports the edges of a waiting stream that the dispatcher does not know yet. -/
def weirEdge (t id : Nat) (s : State) : State :=
  match s.hold? t id with
  | none => s
  | some h =>
    let new := if h.wanted = 0 then [] else (waitEdges s t id).filter fun e => !(s.fab.edges.contains e)
    if new = [] then s
    else bump { s with fab := { s.fab with edges := s.fab.edges ++ new } } (pgFab + 0x418) 1

def execWeirEdge (tile stream : Nat) (s : State) : Host.Outcome State Fault Refusal := .next (weirEdge tile stream s)

/-- Edges on which no cycle can lie are left out: those to a stream that waits on nobody. -/
def trimEdges : Nat → List Edge → List Edge
  | 0, es => es
  | n + 1, es => trimEdges n (es.filter fun e => es.any fun f => f.waiter == e.holder)

/-- Following wait edges from a stream until one comes again: the streams of a cycle. -/
def walkCycle (es : List Edge) : Nat → List Nat → Nat → List Nat
  | 0, _, _ => []
  | n + 1, path, id =>
    if path.contains id then path.takeWhile (· != id) ++ [id]
    else match es.find? (·.waiter == id) with
      | some e => walkCycle es n (id :: path) e.holder
      | none => []

/-- A cycle of the wait-for graph, if there is one. -/
def findCycle (es : List Edge) : List Nat :=
  match trimEdges es.length es with
  | [] => []
  | e :: l => walkCycle (e :: l) (l.length + 2) [] e.waiter

/-- The stream of a list whose OPEN_STREAM was accepted last, or first. -/
def youngest (s : State) (ids : List Nat) : Nat :=
  ids.foldl (fun a b => if ((s.stream? a).map (·.order)).getD 0 < ((s.stream? b).map (·.order)).getD 0 then b else a) (ids.headD 0)
def oldest (s : State) (ids : List Nat) : Nat :=
  ids.foldl (fun a b => if ((s.stream? b).map (·.order)).getD 0 < ((s.stream? a).map (·.order)).getD 0 then b else a) (ids.headD 0)

/-- A block of pool data as the fabric carries it: 16 KiB in flits of 64 bytes. -/
def blockFlits : Nat := 256

/-- The spill of a stream's blocks on one tile, for an older stream that waits; one that is being spilled already, or whose blocks
are all spilled, is left to it. -/
def spillTile (s : State) (t victim winner : Nat) : State :=
  match s.hold? t victim with
  | none => s
  | some h =>
    if h.spilling ≠ 0 ∨ h.held = 0 then s
    else
      let s := s.setHold t victim fun h => { h with
        spilling := h.held
        spilled := h.spilled + h.held
        winner := some winner }
      let s := (List.range h.held).foldl (fun s _ =>
        sendPacket s (.spill t victim) laneBulk (routeOf s (tileSpot t) (stackSpot (3 * (t / 13)))) blockFlits) s
      let s := bump s (pgTile t + 0x418) 1
      firstEvent s (pgTile t) 0x420 (victim % 1024 * 2 ^ 32 + winner % 1024 * 2 ^ 16 + h.held % 2048)

/-- A cycle is resolved: its youngest stream is spilled on every tile where an older stream of the cycle waits on it. -/
def resolveCycle (s : State) (cycle : List Nat) : State :=
  let v := youngest s cycle
  let mine (e : Edge) : Bool := e.holder == v && e.waiter != v && cycle.contains e.waiter
  let es := s.fab.edges.filter mine
  let tiles := es.foldl (fun l e => insertNew e.tile l) []
  let s := tiles.foldl (fun s t => spillTile s t v (oldest s ((es.filter (·.tile == t)).map (·.waiter)))) s
  let s := s.setStream v fun x => { x with
    spills := (x.spills + 1) % 2 ^ 32
    dirty := true }
  { s with fab := { s.fab with edges := s.fab.edges.filter fun e => !(e.holder == v && tiles.contains e.tile) } }

/-- Cycles are resolved one after another; each takes edges away. -/
def resolveAll : Nat → State → State
  | 0, s => s
  | n + 1, s => match findCycle s.fab.edges with
    | [] => s
    | c => resolveAll n (resolveCycle s c)

/-- WAIT_GRAPH_CHECK. -/
def execWaitGraphCheck (s : State) : Host.Outcome State Fault Refusal := .next (resolveAll s.fab.edges.length s)

/-- SPILL_BLOCK_WRITTEN: a block's write to Slough completes; the block is free for those that wait. -/
def spillBlockWritten (t id : Nat) (s : State) : State :=
  match s.hold? t id with
  | none => s
  | some h =>
    if h.spilling = 0 then s
    else
      let s := dropPacket s (.spill t id)
      releaseBlocks (s.setHold t id fun h => { h with
        spilling := h.spilling - 1
        written := if h.spilled = 0 then 0 else h.written + 1 }) t id 1

def execSpillBlockWritten (tile stream : Nat) (s : State) : Host.Outcome State Fault Refusal := .next (spillBlockWritten tile stream s)

/-- SLOUGH_RESTORE: the spilled blocks are read back once as many are free, and the area is UNWRITTEN again (R75, R76). -/
def sloughRestore (t id : Nat) (s : State) : State :=
  match s.hold? t id with
  | none => s
  | some h =>
    if h.spilled = 0 ∨ h.spilling ≠ 0 ∨ freeBlocks s t < h.spilled then s
    else bump (s.setHold t id fun h => { h with
      held := h.held + h.spilled
      spilled := 0
      written := 0
      winner := none }) (pgTile t + 0x438) 1

def execSloughRestore (tile stream : Nat) (s : State) : Host.Outcome State Fault Refusal := .next (sloughRestore tile stream s)

/-! ### CREDIT_RETURN (R66, R353) -/

/-- CREDIT_RETURN: of a tile's pool or commands, or of a lane of a hop. -/
def creditReturn (c : Credit) (held : Nat) (s : State) : State :=
  match c with
  | .tile t pool => tileReturn t (poolNum pool) held s
  | .culvert t k => culvertReturn t k held s
  | .lane hop lane => laneReturn s hop lane held

def execCreditReturn (credit : Credit) (held : Nat) (s : State) : Host.Outcome State Fault Refusal := .next (creditReturn credit held s)

/-! ### Steps of a stage's tiles (R278, R294) -/

/-- The MU time of a member's step of a resident stage (R258, R278): its rows against the columns of the shard it has. -/
def stepTime (s : State) (id stage : Nat) (u : StageRun) (m shard : Nat) : Nat :=
  let x := inCol u.ins 0
  let t := u.pages.length
  let held := (heldGroup s id (stageRec s id stage)).bind fun g => (g.weights.find? (·.1 == stage)).map (·.2.1)
  match held with
  | some w => if muPair x.type_ w.type_ then
      muTime x.type_ w.type_ ((tileRows t (prod (x.dims.take 3))).getD m 0) (shardCols (dimOf w 2) t shard) (dimOf x 3) else 0
  | none => 0

/-- RING_STEP: a member has done its MU work of step j of a rotation and has sent its shard. It starts step j + 1, for which the
member before it must have come to step j, whose shard it sends on then; after the last step nothing more has to arrive. -/
def ringStep (id idx stage m waited : Nat) (s : State) : State :=
  match s.stream? id, s.run? id idx stage with
  | some x, some u =>
    let t := u.pages.length
    let j := u.steps.getD m t
    let pred := u.steps.getD ((m + t - 1) % t) 0
    if u.finished || decide (t ≤ m) || decide (t ≤ j) || (decide (j + 1 < t) && decide (pred < j)) then s
    else
      let w := wDesc (((x.plan.map fun p => p.blocksOf stage)).getD [])
      let page := u.pages.getD m 0
      let s := s.setRun id idx stage fun r => { r with steps := setAt r.steps m (j + 1) }
      let shard := (m + t - j % t) % t
      let s := bump s (page + 0x5A0) (shardBytes w t shard)
      let busy := stepTime s id stage u m shard
      let s := if busy = 0 then s else bump s (page + 0x598) busy
      if waited = 0 then s else bump s (page + 0x5A8) waited
  | _, _ => s

def execRingStep (stream batch stage member waited : Nat) (s : State) : Host.Outcome State Fault Refusal :=
  .next (ringStep stream batch stage member waited s)

/-- PARTIAL_LIST_MERGE: the partial lists of a row meet on the tile of its first piece. -/
def partialListMerge (id idx stage row : Nat) (s : State) : State :=
  match s.stream? id, s.run? id idx stage with
  | some x, some u =>
    if u.merges.contains row && !u.finished then
      mergeRow (x.stage stage) u.pages u.ins row (s.setRun id idx stage fun r => { r with merges := r.merges.filter (· != row) })
    else s
  | _, _ => s

def execPartialListMerge (stream batch stage row : Nat) (s : State) : Host.Outcome State Fault Refusal :=
  .next (partialListMerge stream batch stage row s)

/-! ### WAKE (R87, R402) -/

/-- The page of a unit that a WAKE names. -/
def wakePage : WakeUnit → Nat
  | .tile t => pgTile t
  | .page cls inst => pageKey cls inst

/-- WAKE: a message on its way reaches its unit; a tile in NAP goes to DOZE, and a die in MIRE wakes. -/
def wakeArrives (u : WakeUnit) (s : State) : State :=
  let q := wakePage u
  if !(s.fab.wakes.contains q) then s
  else
    let s : State := { dropPacket s (.wake q) with fab := { (dropPacket s (.wake q)).fab with wakes := s.fab.wakes.filter (· != q) } }
    let s := match pageDie q with
      | some d => wakeDieBy s d 1
      | none => s
    if keyCls q = 8 ∧ (s.tile (keyInst q)).power = .nap then
      s.setTile (keyInst q) fun x => { x with power := .doze, since := s.tick }
    else s

def execWake (unit : WakeUnit) (s : State) : Host.Outcome State Fault Refusal := .next (wakeArrives unit s)

end Sys2Proof.Machine
end

