-- ==== Sys2Proof/Machine/Halt.lean ====
section
/-! DEFINITION. HALT, the Causeway's stop messages, the Sluice and the MC's HALT (R51, R358 to R367), and SLOT_RECLAIM
(R42). -/

namespace Sys2Proof.Machine

/-! ### Who holds work of a stream (R360) -/

/-- The unit of a page that a stage holds. -/
def unitOfPage (page : Nat) : Option StopUnit :=
  match keyCls page with
  | 8 => some (.tile (keyInst page))
  | 11 => some (.defl (keyInst page))
  | 12 => some (.pict (keyInst page))
  | 13 => some (.text (keyInst page))
  | 14 => some .shuf
  | _ => none

/-- Agents that hold work of a stream: its stages' units, engines with its windows or keys, and ports with its messages. A
die in MIRE holds none. -/
def unitsOfStream (s : State) (id : Nat) : List StopUnit :=
  let a := (s.assigns.filter (·.stream == id)).filterMap fun a => unitOfPage a.page
  let c := ((List.range 12).filter fun k => ((s.culv k).queue ++ (s.culv k).held).any (·.stream == id)).map StopUnit.culv
  let r := ((List.range 4).filter fun d => (s.reed d).keys.any fun k => k.stream == id).map StopUnit.reed
  let e := ((List.range 4).filter fun p => s.ext.qps.any fun q => q.port == p && q.msgs.any (·.stream == id)).map StopUnit.eth
  let n := if s.ext.nvme.any (·.stream == id) then [StopUnit.pcie] else []
  (a ++ c ++ r ++ e ++ n).foldl (fun l u => insertNew u l) []

/-- The messages of a HALT: every unit with the streams it works for. -/
def haltUnits (s : State) (ids : List Nat) : List (StopUnit × List Nat) :=
  let us := (ids.flatMap (unitsOfStream s)).foldl (fun l u => insertNew u l) []
  us.map fun u => (u, ids.filter fun id => (unitsOfStream s id).contains u)

/-! ### Accepting a HALT (R46, R51, R360 to R364) -/

/-- A stream halts: its batches that have not completed stop, what it has spilled is discarded (R75), its REARMs in a shadow
complete, and a DRAIN ends. -/
def haltStream (s : State) (id : Nat) : State :=
  let s := (setState s id .halted).setStream id fun x => { x with
    batches := x.batches.map fun b => if b.state = .done then b else { b with stopped := true }
    holds := x.holds.map fun h => { h with spilled := 0, written := 0 } }
  stopDrain (stopShadows s id) id

/-- Streams that a scope names: open ones, of a session or of all. -/
def scopeStreams (s : State) (scope slot stream : Nat) : List Nat :=
  let open_ := s.disp.streams.filter fun x => x.state != .closed
  let mine := open_.filter fun x => scope == 2 || (x.session == slot && (scope == 1 || x.id == stream))
  mine.map (·.id)

/-- The streams of a list that are not HALTED already. -/
def notHalted (s : State) (ids : List Nat) : List Nat :=
  ids.filter fun id => ((s.stream? id).map (·.state)) != some .halted

/-- The Sluice begins (R362): its count, the error class SLUICE, and its messages, whose number is not given. -/
def startSluice (s : State) : State :=
  let s : State := { s with fab := { s.fab with
    phase := .stopping
    sluices := s.fab.sluices + 1 } }
  let s := errorTrigger s 5
  match takeFreeBits s 48 with
  | (s, f) => s.setReg (pgFab + 0x410) (wd f)

/-- A HALT is accepted: messages leave for every agent that holds work of a stream newly halted, every stream in its scope is
HALTED, and their status blocks show it (R45). -/
def acceptHalt (s : State) (h : HaltOp) (slot : Nat) : State :=
  let all := scopeStreams s h.scope slot h.stream
  let new := notHalted s all
  let us := haltUnits s new
  let s := if h.scope = 2 ∧ s.fab.phase = .none then startSluice s else s
  let s := new.foldl haltStream s
  let s := us.foldl (fun s u => sendPacket s (.halt u.1) laneUrgent (routeOf s iodSpot (unitSpot u.1)) 1) s
  let s := if us = [] then s else bump s (pgFab + 0x410) us.length
  let s := match takeFreeBits s 32 with
    | (s, f) => if us = [] then s else s.setReg (pgFab + 0x420) (wd (Nat.max (s.rfld (pgFab + 0x420) 31 0) f))
  let op : HaltOp := { h with streams := new, stopping := all, toReceive := us, toAck := [], accepted := s.tick }
  keepStatuses (haltProgress { s with disp := { s.disp with halts := s.disp.halts ++ [op] } }) new

/-- Checks of a HALT record (R34, R46, R48). -/
def haltFails (s : State) (slot : Nat) (r : Rec) : List Fail :=
  let scope := r.n 24 1
  failIf (r.op != 0x30) stBadOpcode 0 ++ commonFails r slot false 25
  ++ (if scope = 0 then streamFails s r slot else noStreamFails r)
  ++ failIf (decide (2 < scope)) stBadField 24
  ++ failIf (scope == 2 && !(bitOf (((s.session slot).map (·.flags)).getD 0) 1)) stDenied 24
  ++ sessionFails s slot
  ++ failIf (scope == 0 && (s.open? r.stream).isNone) stWrongState 0xFF

/-- A HALT answered without effect; AUX reports its SCOPE all the same (R43). -/
def answerMailbox (s : State) (slot : Nat) (r : Rec) (status detail : Nat) : State :=
  pushTurn (nameScomp s slot) (.scomp slot) { idx := noRec, comp := some (r.comp status detail 0 (if r.op = 0x30 then r.n 24 1 else 0) 0) }

/-- A new HALT_SEQ value: the mailbox is read and its HALT accepted. While a Sluice is held a HALT has no effect. -/
def takeMailbox (s : State) (slot seq : Nat) : State :=
  match devRead s (mailboxAddr slot) 128 with
  | (s, .error _) =>
    pushTurn (nameScomp (ringFault s 0x03 (.ctl slot) false) slot) (.scomp slot)
      { idx := noRec, comp := some { status := stUncorrectable, stream := 0xFFFF, detail := 0xFF, seq := seq % 2 ^ 32 } }
  | (s, .ok b) =>
    let r : Rec := ⟨seq, b⟩
    match pickFail (haltFails s slot r) with
    | some f => answerMailbox (countReject s f.status) slot r f.status f.detail
    | none =>
      if s.fab.held then answerMailbox s slot r stDone 0
      else acceptHalt s
        { slot := some slot, tag := r.tag, signal := r.signal, seq := seq % 2 ^ 32, scope := r.n 24 1, stream := r.stream,
          streams := [], stopping := [], toReceive := [], toAck := [], accepted := s.tick } slot

/-- HALT: the dispatcher sees a slot's HALT_SEQ change. -/
def haltSlot (slot : Nat) (s : State) : State :=
  if 64 ≤ slot ∨ !s.trust.ready then s
  else match read64 s (haltSeqAddr slot) with
    | (s, .error _) => ringFault s 0x06 (.ctl slot) false
    | (s, .ok v) =>
      if v = (s.slot slot).haltSeq then s
      else takeMailbox (s.setSlot slot fun k => { k with haltSeq := v }) slot v

def execHalt (slot : Nat) (s : State) : Host.Outcome State Fault Refusal := .next (haltSlot slot s)

/-! ### HALT_MESSAGE and STOP_ACK (R358 to R360) -/

/-- Bytes that a port sends in 10 µs at its mode's rate. -/
def bytesIn10us (mode : Nat) : Nat := match mode with
  | 0 => 125000
  | 1 => 1000000
  | 2 => 500000
  | _ => 250000

/-- The transport of a port: a message in progress is finished if it can leave within 10 µs; otherwise its queue pair moves to
ERROR. Whether a longer message that had already begun can leave is not known. -/
def haltPort (s : State) (p : Nat) (ids : List Nat) : State :=
  let qs := s.ext.qps.filter fun q => q.port == p && q.state == .ready && q.msgs.any fun m => ids.contains m.stream
  qs.foldl (fun s q =>
    let n := ((q.msgs.filter fun m => ids.contains m.stream).map (·.data.length)).sum
    if (s.port p).up && decide (n ≤ bytesIn10us (s.port p).mode) then s
    else if (s.port p).up then
      match takeFree s with
      | (s, f) => if f % 2 = 0 then s else qpError s (q.index + 0x100) 0x05
    else qpError s (q.index + 0x100) 0x05) s

/-- An agent stops streams: no further request, and its queued windows or keys of them are dropped. -/
def stopAgent (s : State) (u : StopUnit) (ids : List Nat) : State :=
  match u with
  | .tile t => ids.foldl (fun s id => dropFetch s t id) s
  | .culv k => dropCommands s k fun w => ids.contains w.stream
  | .reed d => { s with reeds := modifyAt s.reeds d fun x => { x with keys := x.keys.filter fun k => !(ids.contains k.stream) } }
  | .eth p => haltPort s p ids
  | _ => s

/-- HALT_MESSAGE: a unit receives the HALTs on their way to it and stops; its STOP_ACK leaves. -/
def haltMessage (u : StopUnit) (s : State) : State :=
  let ids := (s.disp.halts.flatMap fun h => (h.toReceive.filter (·.1 == u)).flatMap (·.2)).foldl (fun l i => insertNew i l) []
  let n := (s.disp.halts.filter fun h => h.toReceive.any (·.1 == u)).length
  if n = 0 then s
  else
    let s := stopAgent (dropPackets s (· == .halt u)) u ids
    let s := sendPacket s (.ack u) laneUrgent (routeOf s (unitSpot u) iodSpot) 1
    let move (h : HaltOp) : HaltOp := { h with
      toReceive := h.toReceive.filter (·.1 != u)
      toAck := h.toAck ++ h.toReceive.filter (·.1 == u) }
    bump { s with disp := { s.disp with halts := s.disp.halts.map move } } (pgFab + 0x410) n

def execHaltMessage (unit : StopUnit) (s : State) : Host.Outcome State Fault Refusal := .next (haltMessage unit s)

/-- STOP_ACK: the dispatcher knows that a unit has stopped. -/
def stopAck (u : StopUnit) (s : State) : State :=
  let drop (h : HaltOp) : HaltOp := { h with toAck := h.toAck.filter (·.1 != u) }
  let s := dropPackets s (· == .ack u)
  haltProgress { s with disp := { s.disp with halts := s.disp.halts.map drop } }

def execStopAck (unit : StopUnit) (s : State) : Host.Outcome State Fault Refusal := .next (stopAck unit s)

/-! ### STREAM_STOP_DONE (R49, R360, R361) -/

/-- Every STOP_ACK for a stream has arrived, and every request it issued and every spill write has returned (R360, R361). -/
def streamStopped (s : State) (id : Nat) : Bool :=
  !(s.disp.halts.any fun h => (h.toReceive ++ h.toAck).any fun u => u.2.contains id)
  && s.disp.movers.all (fun m => !(m.out.any (·.stream == id))) && s.tables.culvs.all (fun c => !(c.back.any (·.stream == id)))
  && !(s.ext.nvme.any (·.stream == id))
  && (s.stream? id).all fun x => x.holds.all (·.spilling == 0)

/-- The STOPPED completion of one batch of a halted stream; one past its commit point keeps its flag, once its search updates
are done. -/
def stopBatch (id : Nat) (s : State) (b : Batch) : State :=
  match b.state with
  | .held | .queued => stopOne id s b
  | .committed => if b.searching = 0 then finishBatch s id b.idx stStopped 0xFF else s
  | .started => finishBatch s id b.idx stStopped 0xFF
  | .done => s

/-- STREAM_STOP_DONE: the STOPPED completions of a stream that was halted take their turns; what it held on tiles is free. A
RESET_STREAM or CLOSE_STREAM may have started since (R46, R50). -/
def streamStopDone (id : Nat) (s : State) : State :=
  match s.open? id with
  | none => s
  | some x =>
    if (x.state ≠ .halted ∧ !(x.batches.any (·.stopped))) ∨ !(streamStopped s id) then s
    else haltProgress (resetProgress (leaveTiles ((x.batches.filter (·.stopped)).foldl (stopBatch id) s) id) id)

def execStreamStopDone (stream : Nat) (s : State) : Host.Outcome State Fault Refusal := .next (streamStopDone stream s)

/-! ### The Sluice (R362, R363, R365) -/

/-- The Sluice ends: the HALTs accepted in it are answered, and rings are read again. -/
def endSluice (s : State) : State :=
  haltProgress { s with fab := { s.fab with
    phase := .none
    held := false
    holdAsked := false } }

/-- SLUICE_DRAINED: QUIET. The MC's HALT is answered; unless it asked for a hold, the Sluice ends. -/
def sluiceDrained (s : State) : State :=
  if s.fab.phase ≠ .draining ∨ !(lanesEmpty s) then s
  else if !s.fab.holdAsked then endSluice s
  else
    let mine (h : HaltOp) : Bool := h.slot.isNone && h.done s
    let s : State := { s with fab := { s.fab with
      phase := .quiet
      held := true } }
    (s.disp.halts.filter mine).foldl answerHalt
      { s with disp := { s.disp with halts := s.disp.halts.filter fun h => !(mine h) } }

def execSluiceDrained (s : State) : Host.Outcome State Fault Refusal := .next (sluiceDrained s)

/-! ### The MC's HALT (R364, R365, R367) -/

/-- A write of FAB.MC_HALT with GO that is taken. -/
def mcHalt (s : State) (v : Word) : State :=
  let scope := fld v 27 26
  let hold := scope == 2 && bit v 61
  let all := scopeStreams s scope (fld v 5 0) (fld v 25 16)
  let s : State := { s with fab := { s.fab with
    mcBusy := true
    mcDone := false
    mcStreams := (notHalted s all).length
    holdAsked := hold || s.fab.holdAsked } }
  acceptHalt s
    { slot := none, tag := 0, signal := false, seq := 0xFFFFFFFF, scope := scope, stream := fld v 25 16,
      streams := [], stopping := [], toReceive := [], toAck := [], accepted := s.tick } (fld v 5 0)

/-- A register write that only the MC may make; another agent's is ignored. -/
def mcOnly (s : State) (who : Agent) (k : Nat) (h : Instr) (go : State → State) : State :=
  regAccess s who k h fun s => answer (if who = .mc ∧ pageEn s (pageKey (keyCls k) (keyInst k)) then go s else s) .done

/-- MC_HALT_GO: ignored while a HALT of the MC is under way, and for the reserved scope. -/
def mcHaltGo (who : Agent) (v : Word) (s : State) : State :=
  if !(bit v 63) then s
  else mcOnly s who (pgFab + 0x430) (.mcHaltGo who v) fun s =>
    if s.fab.mcBusy ∨ fld v 27 26 = 3 ∨ !s.trust.ready then s else mcHalt s v

def execMcHaltGo (who : Agent) (value : Word) (s : State) : Host.Outcome State Fault Refusal := .next (mcHaltGo who value s)

/-- MC_HALT_RELEASE: a held Sluice ends. -/
def mcHaltRelease (who : Agent) (v : Word) (s : State) : State :=
  if !(bit v 62) then s
  else mcOnly s who (pgFab + 0x430) (.mcHaltRelease who v) fun s =>
    if !s.fab.held then s
    else
      let s := endSluice s
      { s with fab := { s.fab with mcBusy := !(s.fab.mcPosts.isEmpty) } }

def execMcHaltRelease (who : Agent) (value : Word) (s : State) : Host.Outcome State Fault Refusal := .next (mcHaltRelease who value s)

/-! ### SLOT_RECLAIM (R42) -/

/-- A stream of a reclaimed slot halts and closes; no completion is written, and its status block shows CLOSED (R42, R45). -/
def reclaimStream (s : State) (id : Nat) : State :=
  let s := haltStream s id
  let s := (((s.stream? id).map (·.batches)).getD []).foldl (fun s b => releaseBatch s id b.idx) s
  let s := (unitsOfStream s id).foldl (fun s u => stopAgent s u [id]) s
  let s := keepStatus ((unbindPlan s id).setStream id fun x => { x with state := .closed, dirty := true }) id
  { s with
    assigns := s.assigns.filter (·.stream != id)
    ext := { s.ext with
      nvme := s.ext.nvme.filter (·.stream != id)
      qps := s.ext.qps.map fun q => { q with msgs := q.msgs.filter (·.stream != id) } }
    disp := { s.disp with
      streams := s.disp.streams.filter (·.id != id)
      halts := s.disp.halts.map fun h => { h with streams := h.streams.filter (· != id), stopping := h.stopping.filter (· != id) } } }

/-- A claimed slot is freed: its streams, its session, any fault of its control ring, and OWNER. -/
def reclaim (s : State) (slot : Nat) : State :=
  let ids := (s.disp.streams.filter (·.session == slot)).map (·.id)
  let s := ids.foldl reclaimStream s
  let s : State := { s with
    still := { s.still with waiting := s.still.waiting.filter (·.1 != slot) }
    trust := { s.trust with quotes := s.trust.quotes.filter fun q => match q with
      | .record k .. => k != slot
      | .redfish .. => true }
    disp := { s.disp with halts := s.disp.halts.filter fun h => h.slot != some slot } }
  let left := s.fab.mcPosts.filter (· != slot)
  let s : State := if s.fab.mcPosts.contains slot then { s with fab := { s.fab with
      mcPosts := left
      mcDone := left.isEmpty
      mcBusy := !left.isEmpty || s.fab.holdAsked } } else s
  let s := s.setSlot slot fun k => { k with session := none }
  haltProgress (freeSlot (releaseTables s) slot)

/-- SLOT_RECLAIM: a write of DISP.SLOT_RECLAIM with GO that names a slot whose OWNER is not 0; a slot whose OWNER word cannot be
read is reclaimed too (log 76, DESIGN CHOICE). -/
def slotReclaim (who : Agent) (v : Word) (s : State) : State :=
  regAccess s who (pgDisp + 0x418) (.slotReclaim who v) fun s =>
    let k := fld v 5 0
    let s := answer s .done
    if !(bit v 63) || !(pageEn s pgDisp) then s
    else match read64 s (ownerAddr k) with
      | (s, .ok 0) => s
      | (s, _) => reclaim s k

def execSlotReclaim (who : Agent) (value : Word) (s : State) : Host.Outcome State Fault Refusal := .next (slotReclaim who value s)

end Sys2Proof.Machine
end

