-- ==== Sys2Proof/Machine/Fabric.lean ====
section
/-! DEFINITION. Die-to-die links (R356, R357, R368, R369). -/

namespace Sys2Proof.Machine

/-- The two ends of a link are powered: a compute die, and the next die or the I/O die. -/
def linkPowered (s : State) (l : Nat) : Bool :=
  s.power.vinGood && (s.die (l % 4)).power != .off && (4 ≤ l || (s.die ((l + 1) % 4)).power != .off)

/-- D2D_REPLAY: a flit that failed its check was corrected, or is replayed: a replay counts in RETRY_CNT, and both fill the
bucket (R499). -/
def d2dReplay (l : Nat) (corrected : Bool) (s : State) : State :=
  if 8 ≤ l ∨ !(linkUp s l) then s
  else if corrected then countCE s (pgD2d l)
  else countCE (bump s (pgD2d l + 0x418) 1) (pgD2d l)

def execD2dReplay (link : Nat) (corrected : Bool) (s : State) : Host.Outcome State Fault Refusal := .next (d2dReplay link corrected s)

/-- A link is down: a ring link's traffic passes the I/O die; die d of link 4 + d is cut off (and FAULT_N asserted). -/
def linkFails (s : State) (l : Nat) : State :=
  let s : State := { s with fab := { s.fab with linkDown := setAt s.fab.linkDown l true } }
  let s := errorTrigger s 4
  if l < 4 then s
  else { s with cutOff := insertNew (l - 4) s.cutOff }

/-- D2D_RETRAIN: 16 replays of a flit failed in a row, or a lane was repaired, and the link retrains; the lane that the
adapter blames and the round trip then measured are not given. -/
def d2dRetrain (l : Nat) (ok : Bool) (s : State) : State :=
  if 8 ≤ l ∨ !(linkPowered s l) ∨ !(linkUp s l) then s
  else
    let repair := s.fab.repairing.getD l false
    let f := takeFreeBits s 16
    let g := takeFreeBits f.1 10
    let s : State := { g.1 with fab := { s.fab with
      repairing := setAt s.fab.repairing l false
      retrains := modifyAt s.fab.retrains l fun n => (n + 1) % 2 ^ 16
      rtt := setAt s.fab.rtt l f.2
      blames := if repair ∨ g.2 = 0x3FF then s.fab.blames else
        (l, g.2, s.tick) :: s.fab.blames.filter fun e => decide (s.tick < e.2.2 + hourTicks) } }
    let s := if repair && ok then s else firstEvent s (pgD2d l) 0x438 ((if ok then 0 else 2 ^ 62) + g.2)
    if ok then s else linkFails s l

def execD2dRetrain (link : Nat) (ok : Bool) (s : State) : Host.Outcome State Fault Refusal := .next (d2dRetrain link ok s)

/-- The slot pool of a link: compute die d for ring link d, the I/O die for links 4 to 7 (R357). -/
def linkPool (l : Nat) : Nat := if l < 4 then l else 0x200

/-- LANE_REPAIR: the MC's write repairs a lane, and the link retrains; a write while BUSY is refused. -/
def laneRepair (who : Agent) (l : Nat) (v : Word) (s : State) : State :=
  if 8 ≤ l then s
  else regAccess s who (pgD2d l + 0x430) (.laneRepair who l v) fun s =>
    if !(pageEn s (pgD2d l)) then answer s .done
    else match repairWrite s who (linkPool l) 8 (fld v 9 0) v.toNat (s.rfld (pgD2d l + 0x430) 9 0) l (!(s.fab.repairing.getD l false))
        fun r => { r with d2dLanes := modifyAt r.d2dLanes l fun n => (n + 1) % 256 } with
      | (s, true) =>
        answer ({ s with fab := { s.fab with repairing := setAt s.fab.repairing l true } }.setReg (pgD2d l + 0x430) (wd (fld v 9 0))) .done
      | (s, false) => answer s .done

def execLaneRepair (who : Agent) (link : Nat) (value : Word) (s : State) : Host.Outcome State Fault Refusal :=
  .next (laneRepair who link value s)

end Sys2Proof.Machine
end

