-- ==== Sys2Proof/Machine/StillOps.lean ====
section
/-! DEFINITION. Stillwater snapshots (R379 to R389): triggers, the latching of windows, the merge window and the output
pulse; and the SNAPSHOT, ATTEST and QUOTE_SIGN rows. -/

namespace Sys2Proof.Machine

/-- STILL_TRIGGER: a write of STILL.TRIGGER.GO. -/
def stillTrigger (who : Agent) (v : Word) (s : State) : State :=
  regAccess s who (pgStill + 0x400) (.stillTrigger who v) fun s =>
    answer (if bit v 63 && pageEn s pgStill then recordTrigger s srcRegister else s) .done

def execStillTrigger (who : Agent) (value : Word) (s : State) : Host.Outcome State Fault Refusal := .next (stillTrigger who value s)

/-- STILL_IN_EDGE: a rising edge whose level stays high for two Moss ticks is accepted and counted; with IN_EN it triggers
(R386). -/
def stillInEdge (highTicks : Nat) (s : State) : State :=
  if highTicks < 2 ∨ !s.power.mossUp ∨ s.power.scanned then s
  else
    let s := bump s (pgStill + 0x440) 1
    if bit (s.reg (pgStill + 0x408)) 0 then recordTrigger s srcStillIn else s

def execStillInEdge (highTicks : Nat) (s : State) : Host.Outcome State Fault Refusal := .next (stillInEdge highTicks s)

/-- STILL_TIMER_EXPIRY: a period after the write of STILL.TIMER, or after the expiry before. -/
def stillTimerExpiry (s : State) : State :=
  let p := s.rfld (pgStill + 0x418) 31 0
  if !s.power.mossUp ∨ p = 0 ∨ s.tick < s.still.timerFrom + p then s
  else recordTrigger { s with still := { s.still with timerFrom := s.still.timerFrom + p } } srcTimer

def execStillTimerExpiry (s : State) : Host.Outcome State Fault Refusal := .next (stillTimerExpiry s)

/-- A block sleeps: a tile in NAP, or any block of a die in MIRE or waking from it (R384). -/
def blockAsleep (s : State) (page : Nat) : Bool :=
  (match pageDie page with
    | some d => (s.die d).power == .mire || ((s.die d).power == .waking && !(s.die d).abandoned)
    | none => false)
  || (keyCls page == 8 && (s.tile (keyInst page)).power == .nap)

/-- A value of PG_SNAP_CNT with LATCHED or MISSED counted: its fields are 32 bits each. -/
def countSnap (s : State) (page lo : Nat) : State := bumpField s (page + 0x70) lo 32 1

/-- A window of at most 96 entries written into a page. -/
def putWindow (s : State) (page : Nat) (ws : List Word) : State :=
  (ws.take 96).zipIdx.foldl (fun s p => s.setReg (page + 0x100 + 8 * p.2) p.1) s

/-- The latch of a page: its window, the snapshot's number, the count, PG_INT_RAW.SNAP, and HELD under KEEP. A block that
sleeps keeps the values it captured at sleep entry and is STALE. -/
def latchPage (s : State) (page : Nat) : State :=
  let asleep := blockAsleep s page
  let s := s.setRfld (page + 0x18) 63 63 (b2n asleep)
  let ws := if asleep then
      match s.still.asleep.find? (·.1 == page) with
      | some p => p.2.zipIdx.map fun q => if q.2 = 0 then putFld q.1 63 63 1 else q.1
      | none => captureWindow s page
    else captureWindow s page
  let s := putWindow s page ws
  let s := s.setReg (page + 0x68) (wd (s.rfld (pgStill + 0x420) 31 0))
  let s := raiseInt (countSnap s page 0) page 2
  if bit (s.reg (page + 0x60)) 1 then s.setRfld (page + 0x60) 2 2 1 else s

/-- Every SNAPSHOT record whose snapshot every block has latched completes with its number (R387). -/
def snapshotsDone (s : State) : State :=
  if s.still.toLatch ≠ [] then s
  else s.still.waiting.foldl (fun s w => endLate s w.1 w.2.1 stDone w.2.2 .nothing)
    { s with still := { s.still with waiting := [] } }

/-- SNAPSHOT_LATCH: a block meets the snapshot's trigger (R381). -/
def snapshotLatch (cls inst : Nat) (s : State) : State :=
  let page := pageKey cls inst
  if !(s.still.toLatch.contains page) then s
  else
    let s : State := { s with still := { s.still with toLatch := s.still.toLatch.filter (· != page) } }
    let ctl := s.reg (page + 0x60)
    let s := if !(pageOn s page) then s
      else if bit ctl 0 && !(bit ctl 2) then latchPage s page
      else countSnap s page 32
    snapshotsDone s

def execSnapshotLatch (cls inst : Nat) (s : State) : Host.Outcome State Fault Refusal := .next (snapshotLatch cls inst s)

/-- MERGE_WINDOW_CLOSE: 80 ns, two Moss ticks, after T. -/
def mergeWindowClose (s : State) : State :=
  if s.still.mergeOpen ∧ (s.reg (pgStill + 0x430)).toNat + 2 ≤ s.tick then
    { s with still := { s.still with mergeOpen := false } }
  else s

def execMergeWindowClose (s : State) : Host.Outcome State Fault Refusal := .next (mergeWindowClose s)

/-- STILL_OUT_PULSE_END: the pulse has been high for four Moss ticks. -/
def stillOutPulseEnd (s : State) : State :=
  match s.still.pulse with
  | some t => if t + 4 ≤ s.tick then { s with still := { s.still with pulse := none } } else s
  | none => s

def execStillOutPulseEnd (s : State) : Host.Outcome State Fault Refusal := .next (stillOutPulseEnd s)

/-! ### SNAPSHOT (R387) -/

def snapshotStart (slot : Nat) (s : State) : State :=
  startCtl s slot 0x40 (fun _ => 0)
    (pureChecks fun r s => commonFails r slot false 24 ++ noStreamFails r ++ sessionFails s slot)
    fun r s =>
      let s := recordTrigger s srcCalmet
      snapshotsDone { s with still := { s.still with
        waiting := s.still.waiting ++ [(slot, r.idx, s.rfld (pgStill + 0x420) 31 0)] } }

/-- SNAPSHOT. -/
def execSnapshot (slot : Nat) (s : State) : Host.Outcome State Fault Refusal := .next (snapshotStart slot s)

/-! ### ATTEST and QUOTE_SIGN (R426, R427) -/

/-- Registers in a mask, ascending. -/
def maskRegs (mask : Nat) : List Nat := (List.range 16).filter (bitOf mask)

def quoteLen (mask : Nat) : Nat := 1432 + 64 * (maskRegs mask).length

/-- An identity key exists (R425, R428): not in BLANK, and no longer once RETIRED is fused. -/
def hasIdentity (s : State) : Bool := s.trust.life != .blank && s.trust.life != .retired && s.fuses.life != .retired

/-- The checks of ATTEST; the length that was needed goes in COUNT with NO_SPACE. -/
def attestFails (s : State) (slot : Nat) (r : Rec) : List Fail :=
  let addr := r.n 56 8
  let len := r.n 64 4
  commonFails r slot false 70 ++ noStreamFails r ++ failIf (addr % 8 != 0) stBadField 56
  ++ failIf (r.n 68 2 == 0) stBadField 68
  ++ failIf (!(inR44 addr len)) stBounds 56 ++ failIf (!(hasIdentity s)) stDenied 0xFF ++ sessionFails s slot
  ++ failIf (decide (len < quoteLen (r.n 68 2))) stNoSpace 64

def attestStart (slot : Nat) (s : State) : State :=
  match frontCtl s slot 0x41 with
  | none => s
  | some r =>
    let s := takeCtl s slot r
    let s := match pickFail (attestFails s slot r) with
      | some f =>
        let need := if f.status = stNoSpace then quoteLen (r.n 68 2) else 0
        endCtl (countReject s f.status) slot r f.status f.detail need 0 .nothing
      | none => s.setTrust fun t => { t with
          quotes := t.quotes ++ [.record slot r.idx (r.n 56 8) (r.n 64 4) (r.n 68 2) (sliceB r.bytes 24 32)] }
    settle s (.ctl slot)

/-- ATTEST. -/
def execAttest (slot : Nat) (s : State) : Host.Outcome State Fault Refusal := .next (attestStart slot s)

/-- A quote over registers and a nonce as the part now stands (R426). -/
def quoteBytes (s : State) (mask : Nat) (nonce : List Byte) : List Byte :=
  let f := s.fuses
  let counts := (List.range 16).flatMap fun m => natLE 4 (if bitOf mask m then s.trust.measCnt.getD m 0 else 0)
  let body := natLE 4 0x544F5551 ++ natLE 2 1 ++ natLE 2 mask ++ natLE 1 (lifeNum s.trust.life) ++ natLE 1 f.svn
    ++ natLE 1 (ownerSlots f) ++ natLE 1 s.trust.debug ++ natLE 4 0 ++ deviceId s ++ sliceB nonce 0 32 ++ natLE 8 s.tick
    ++ counts ++ (maskRegs mask).flatMap fun m => s.trust.meas.getD m []
  body ++ sliceB (Config.deviceSignature f.seed (shake256_512 body)) 0 1280

/-- QUOTE_SIGN: the next queued quote is captured, signed and written. A write that meets a fault completes with its status. -/
def quoteSign (s : State) : State :=
  match s.trust.quotes with
  | [] => s
  | q :: rest =>
    if !s.power.vinGood then s
    else
      let s := s.setTrust fun t => { t with quotes := rest }
      match q with
      | .record slot idx addr _ mask nonce =>
        if !(hasIdentity s) then endLate s slot idx stDenied 0 .nothing
        else match devWrite (wakeForWrite s addr) addr (quoteBytes s mask nonce) with
          | (s, none) => endLate (bump s (pgSec + 0x4C8) 1) slot idx stDone (quoteLen mask) .nothing
          | (s, some e) => endLate (bump s (pgSec + 0x4C8) 1) slot idx e.status 0 .nothing
      | .redfish mask nonce =>
        if !(hasIdentity s) then { s with out := .mgmt 403 0 [] :: s.out }
        else bump { s with out := .mgmt 200 mask (quoteBytes s mask nonce) :: s.out } (pgSec + 0x4C8) 1

def execQuoteSign (s : State) : Host.Outcome State Fault Refusal := .next (quoteSign s)

end Sys2Proof.Machine
end

