-- ==== Sys2Proof/Machine/Sleep.lean ====
section
/-! DEFINITION. MIRE, the device states, STANDBY and the loss of supplies (R395 to R401, R487, R502, R512 to R525). -/

namespace Sys2Proof.Machine

/-! ### MIRE of a compute die (R395, R396, R398) -/

/-- A fetch engine has a request to a die's memory out, or waiting for a credit. -/
def reaches (m : Mover) (d : Nat) : Bool := (m.out ++ m.waiting).any fun r => dieOfMem r.addr == some d

/-- No work of a die is outstanding, and no repair or training of it is under way (R395). -/
def dieQuiet (s : State) (d : Nat) : Bool :=
  (List.range 52).all (fun t => let m := s.disp.movers.getD t {}; if t / 13 = d then moverIdle m else !(reaches m d))
  && (List.range 3).all (fun i => (s.culv (3 * d + i)).queue == [] && (s.culv (3 * d + i)).held == []
    && (s.culv (3 * d + i)).back == [] && (s.stack (3 * d + i)).trained)
  && (s.reed d).keys == [] && (s.reed d).updates == [] && (s.reed d).copying == none
  && [d, (d + 3) % 4, 4 + d].all fun l => !(s.fab.repairing.getD l false)

/-- The conditions of R395 that hold or do not at one instant. -/
def dieIdle (s : State) (d : Nat) : Bool :=
  bit (s.reg (pgPwr + 0x408)) 48
    && (List.range 13).all (fun p => (s.tile (13 * d + p)).power == .off || (s.tile (13 * d + p)).power == .nap)
    && s.assigns.all (fun a => pageDie a.page ≠ some d)
    && (s.fen d).copying.isNone && (diePages d).all (fun p => !awakeReq s p) && dieQuiet s d

/-- May a die enter MIRE: ACTIVE, and idle for the last DIE_IDLE_US (R395)? lastUse is the latest tick at which it was not. -/
def dieMayEnter (s : State) (d : Nat) : Bool :=
  (s.die d).power == .active && decide ((s.die d).lastUse + s.rfld (pgPwr + 0x408) 31 16 * 25 ≤ s.tick) && dieIdle s d

/-- DIE_MIRE_ENTRY: the conditions of R395 have held for DIE_IDLE_US, and entry begins. -/
def dieMireEntry (d : Nat) (s : State) : State :=
  if d < 4 ∧ dieMayEnter s d then
    s.setDie d fun x => { x with power := .entering, since := s.tick }
  else s

def execDieMireEntry (die : Nat) (s : State) : Host.Outcome State Fault Refusal := .next (dieMireEntry die s)

/-- An access held at a die's D2D adapter completes as it would have on the awake die (R373, R397). -/
def replayHeld (s : State) : Instr → State
  | .registerWrite who a v => writeRegister who a v s
  | .rcRead who a => readRegister who a s
  | .dieMark who k v => dieMark who k v s
  | .fenSpare who d v => fenSpare who d v s
  | .bankSpare who d v => bankSpare who d v s
  | .laneRepair who l v => laneRepair who l v s
  | .sketchClear who k v => sketchClear who k v s
  | .hummockHbmWrite who k v => hummockAccess who k false v s
  | .hummockFenWrite who k v => hummockAccess who k true v s
  | .granuleRead who a h v => granuleRead who a h v s
  | .granulePartialWrite who a b p h v => granuleWrite who a b p h v s
  | .fenLineRead who a e v => fenLineRead who a e v s
  | .fenLineWrite who a b p e v => fenLineWrite who a b p e v s
  | _ => s

/-- A link that retrains in a die's wake (R398): RETRAINS counts it, and the round trip is measured anew (log 94, DEDUCED). -/
def wakeRetrain (s : State) (l : Nat) : State :=
  if linkUp s l then
    let f := takeFreeBits s 16
    { f.1 with fab := { s.fab with
      retrains := modifyAt s.fab.retrains l fun n => (n + 1) % 2 ^ 16
      rtt := setAt s.fab.rtt l f.2 } }
  else s

/-- The end of a die's wake. A die that was in MIRE has retrained its links, leaves self-refresh and applies the decay steps it
missed. -/
def dieAwake (d : Nat) (s : State) : State :=
  let held := (s.die d).held
  let slept := (s.fen d).inSr
  let s := s.setDie d fun x => { x with
    power := .active
    since := s.tick
    lastUse := s.tick
    abandoned := false
    held := [] }
  let s := if slept then
      let s := [d, (d + 3) % 4, 4 + d].foldl wakeRetrain s
      (List.range 3).foldl (fun s i => missedDecay s (3 * d + i)) (s.setFen d fun f => { f with inSr := false })
    else s
  let s : State := { s with still := { s.still with asleep := s.still.asleep.filter fun p => pageDie p.1 != some d || keyCls p.1 == 8 } }
  held.foldl replayHeld s

/-- DIE_ACTIVE: 120 µs after its wake source; a die whose entry was abandoned is ACTIVE within 40 µs of it (R396). -/
def dieActive (d : Nat) (s : State) : State :=
  if d < 4 ∧ (s.die d).power = .waking ∧ ((s.die d).abandoned ∨ (s.die d).since + 3000 ≤ s.tick) then dieAwake d s else s

def execDieActive (die : Nat) (s : State) : Host.Outcome State Fault Refusal := .next (dieActive die s)

/-! ### Device states (R399, R401) -/

/-- Calmet work is in flight: a batch that has started and whose completion is not yet written. -/
def calmetBusy (s : State) : Bool := s.assigns != [] || s.disp.streams.any fun x => x.batches.any (·.inFlight)

/-- DEVICE_IDLE: the dispatcher cores wait with HCLK gated. -/
def deviceIdle (s : State) : State :=
  if s.power.vinGood ∧ s.power.dev = .active ∧ ¬ calmetBusy s
      ∧ s.power.lastWork + s.rfld (pgPwr + 0x408) 47 32 * 25 ≤ s.tick then
    { s with
      power := { s.power with dev := .idle }
      host := { s.host with wfi := s.host.wfi ||| coreMask ((dispCores s).filter (bitOf s.host.running)) } }
  else s

def execDeviceIdle (s : State) : Host.Outcome State Fault Refusal := .next (deviceIdle s)

/-- A DEFL, PICT, TEXT or SHUF unit is busy. -/
def prepBusy (s : State) : Bool := s.assigns.any fun a => decide (11 ≤ keyCls a.page ∧ keyCls a.page ≤ 14)

/-- DEVICE_MIRE: WAKE_N low holds the device out of MIRE (R487). -/
def deviceMire (s : State) : State :=
  if s.power.dev = .idle ∧ s.dies.all (·.power == .mire) ∧ bit (s.reg (pgPwr + 0x408)) 49 ∧ ¬ prepBusy s
      ∧ ¬ s.power.wakeHeld then
    { s with power := { s.power with dev := .mire } }
  else s

def execDeviceMire (s : State) : Host.Outcome State Fault Refusal := .next (deviceMire s)

/-- WAKE_N: low for at least two Moss ticks wakes every die from MIRE; the level then low holds the device out of MIRE until
a pulse too short to count, or none, is seen. Which source PWR.LAST_WAKE then shows is not given, and free. -/
def wakeN (low : Nat) (s : State) : State :=
  if low < 2 then { s with power := { s.power with wakeHeld := false } }
  else if s.power.scanned then s
  else
    let wake (s : State) (d : Nat) : State :=
      if (s.die d).power = .mire then
        let f := takeFreeBits s 2
        wakeDieBy f.1 d f.2
      else s
    let s := (List.range 4).foldl wake s
    { s with power := { s.power with
      wakeHeld := true
      dev := if s.power.dev = .mire then .idle else s.power.dev } }

def execWakeN (lowTicks : Nat) (s : State) : Host.Outcome State Fault Refusal := .next (wakeN lowTicks s)

/-! ### STANDBY (R401, R519) -/

/-- The parts of the registers, resets and leak timers that the Moss domain keeps. -/
def keepMoss {α : Type} (l : List (Nat × α)) : List (Nat × α) := l.filter fun p => pageMoss p.1

/-- The supply of the tally fuse array goes while a change is applied: whether its slot is programmed is free, and the AUDIT ring is
reconciled with it at the next boot (R445). Requests that wait are lost with it, and a repair counts as fused (log 90, DESIGN CHOICE). -/
def loseTally (s : State) : State :=
  let keep (s : State) : State := s.setTrust fun t => { t with
    tally := none
    repairJobs := []
    tallyQ := []
    reqSetting := 0
    reqResult := 0 }
  match s.trust.tally with
  | some j =>
    if j.setting = 0x10 then keep s
    else match takeFreeBits s 1 with
      | (s, 1) => keep { s with fuses := fuseValue (useSlot s.fuses j.setting) j.setting j.value j.keys }
      | (s, _) => keep s
  | none => keep s

/-- The MC and the security engine keep their Moss-domain parts: what runs, the journal, the fuses' requests and the log. -/
def standbyTrust (t : Trust) : Trust := { t with
  stage := if t.mcRunning then .mcFirmware else t.stage
  search := t.search.filter fun x => !x.firmware
  pcieImage := none
  dispHeader := []
  hostHeader := []
  hostBody := []
  fwLoaded := false
  configured := false
  ready := false
  coldTest := none
  quotes := [] }

/-- Stillwater keeps the Moss pages' part of a snapshot. -/
def standbyStill (x : Still) : Still := { x with
  toLatch := x.toLatch.filter pageMoss
  asleep := keepMoss x.asleep
  waiting := [] }

/-- STANDBY: conversion from VIN50 stops, PWROK is asserted, and everything outside the Moss domain is lost. The MC records the
cause and the last sample (R519): 0 under-voltage, 1 over-voltage, 2 PWR_EN, 3 THERMTRIP, 4 an MC request. -/
def enterStandby (s : State) (cause : Nat) : State :=
  let s := loseTally s
  let p := s.power.sample
  let t := standbyTrust s.trust
  { s with
    regs := keepMoss s.regs
    srst := s.srst.filter pageMoss
    leaks := keepMoss s.leaks
    mem := []
    gran := []
    fillWords := []
    fenLines := []
    sram := []
    hbms := State.reset.hbms
    fens := State.reset.fens
    tiles := State.reset.tiles
    dies := State.reset.dies
    assigns := []
    still := standbyStill s.still
    power := { s.power with
      vinGood := false
      offUntil := some (s.tick + 1250000)
      pg := none
      pwrok := false
      dev := .standby
      coolSamples := 0
      issueGate := 0
      hot := false }
    trust := { t with log := .standby cause p.volts p.current p.watts :: t.log }
    cutOff := []
    disp := {}
    tables := {}
    sets := []
    reeds := State.reset.reeds
    fab := {}
    host := {}
    ext := {} }

/-- STANDBY_REQUEST: the MC's write of PWR.DEV_CTL.STANDBY while a Sluice is held; a write at any other time is ignored. -/
def standbyRequest (who : Agent) (v : Word) (s : State) : State :=
  if !(bit v 63) then s
  else mcOnly s who (pgPwr + 0x450) (.standbyRequest who v) fun s => if s.fab.held then enterStandby s 4 else s

def execStandbyRequest (who : Agent) (value : Word) (s : State) : Host.Outcome State Fault Refusal :=
  .next (standbyRequest who value s)

def offCauseNum : OffCause → Nat
  | .underVoltage => 0
  | .overVoltage => 1
  | .pwrEn => 2

/-- VIN50_OUT_OF_RANGE: the part enters STANDBY at once, without a Sluice; while VIN50 is not in range, a qualification under
way fails and starts again (R512, R520). -/
def vinOut (c : OffCause) (s : State) : State :=
  if s.power.vinGood then enterStandby s (offCauseNum c)
  else { s with power := { s.power with qualFrom := s.tick } }

def execVin50OutOfRange (cause : OffCause) (s : State) : Host.Outcome State Fault Refusal := .next (vinOut cause s)

/-- THERMTRIP (R525): a sensor at its threshold latches it; the MC logs the sensor and its reading, and VIN50 leaves its
range. -/
def thermtripAt (sensor reading : Nat) (s : State) : State :=
  if sensor < 30 ∧ tripAt sensor ≤ reading ∧ s.power.vsbGood ∧ ¬ s.power.thermtrip then
    let s := s.setTrust fun t => { t with log := .thermtrip sensor reading :: t.log }
    let s : State := { s with power := { s.power with thermtrip := true } }
    if s.power.vinGood then enterStandby s 3 else s
  else s

def execThermtrip (sensor reading : Nat) (s : State) : Host.Outcome State Fault Refusal := .next (thermtripAt sensor reading s)

/-- VSB3V3_LOSS: the Moss domain is lost with everything else (R515); fuses, flash, the MC's list of tiles and its log stay. -/
def vsbLoss (s : State) : State :=
  if s.power.vsbGood then
    let s := loseTally s
    { State.reset with
      pending := s.pending
      freeCtr := s.freeCtr
      resp := s.resp
      out := s.out
      fuses := s.fuses
      banks := s.banks
      trust := { ({} : Trust) with testList := s.trust.testList, log := s.trust.log } }
  else s

def execVsb3v3Loss (s : State) : Host.Outcome State Fault Refusal := .next (vsbLoss s)

/-! ### Self-test in the field (R502) -/

/-- A die's bank entries restored from their shadows. -/
def restoreBanks (r : Reed) : Reed := { r with bank := r.shadow }

/-- A tile that failed: repaired from the spare at the next cold start, or out of service now (R503, R504). -/
def fieldTile (s : State) (t : Nat) : State :=
  let before := s.fuses.repair.entries.length
  let s := repairTile s t
  if s.fuses.repair.entries.length = before ∧ (s.tile t).enabled then quarantine s t else s

/-- FIELD_SELF_TEST: the MC tests one compute die while it holds a device Sluice. HBM and Fen contents are kept, tile SRAM is
lost, and resident groups of the die leave their tiles: each is loaded again at its stream's next RUN. -/
def fieldSelfTest (d : Nat) (failed : List Nat) (s : State) : State :=
  if d < 4 ∧ s.fab.held ∧ (s.die d).power ≠ .off then
    let failed := failed.filter fun t => t / 13 == d
    let s := s.setTrust fun t => { t with log := .selfTest d failed :: t.log }
    let kept (p : Nat × Option Byte) : Bool := match placeOf p.1 with
      | .tile t _ => t / 13 != d
      | _ => true
    let s : State := { s with sram := s.sram.filter kept }
    let s := (List.range 13).foldl (fun s p => releaseGroups s (13 * d + p)) s
    syncRepairRecord (failed.foldl fieldTile (s.setReed d restoreBanks))
  else s

def execFieldSelfTest (die : Nat) (failedTiles : List Nat) (s : State) : Host.Outcome State Fault Refusal :=
  .next (fieldSelfTest die failedTiles s)

end Sys2Proof.Machine
end

