-- ==== Sys2Proof/Machine/Ready.lean ====
section
/-! DEFINITION. The last stages of start-up, and the host cores (R416, R417, R419, R457 to R462, R499, R506). -/

namespace Sys2Proof.Machine

/-! ### CONFIGURE_AND_LOCK -/

/-- The CONFIG records in order, the first that passes R413 (R416): its header, or none where the slot counts as empty. -/
def configHeader : List (Nat × PeatRec) → State → State × Option (List Byte)
  | [], s => (s, none)
  | (b, r) :: t, s =>
    match r.unread with
    | some x => configHeader t (noteUnread s b 2 x)
    | none => match checkComp s r.body 0 4 with
      | none => (s, some (compHeader r.body 0))
      | some c => configHeader t (refuseComp s c 4 0 b)

/-- A value that CONFIG gives a register, by its address. -/
def configWrite (s : State) (w : Nat × Nat) : State :=
  match placeOf w.1 with
  | .regs k =>
    if keyCls k = 6 ∧ keyOff k = 0x488 then hummockWrite s (keyInst k) false (wd w.2)
    else if keyCls k = 6 ∧ keyOff k = 0x490 then hummockWrite s (keyInst k) true (wd w.2)
    else regWriteAt s k (wd w.2)
  | _ => s

/-- Depth and LEAK_MS of a block's bucket where CONFIG gives none (R499). -/
def bucketDefault : Nat → Option (Nat × Nat)
  | 5 => some (64, 100)
  | 7 => some (32, 100)
  | 8 => some (8, 1000)
  | 9 => some (32, 100)
  | 4 => some (16, 100)
  | 23 => some (256, 10)
  | 19 => some (4, 60000)
  | 21 => some (16, 100)
  | _ => none

/-- PG_BKT_CFG of a page: the default, and then the value CONFIG gives the page's address. -/
def configBucket (buckets : List (Nat × Nat)) (s : State) (page : Nat) : State :=
  match bucketDefault (keyCls page) with
  | none => s
  | some d =>
    let s := bucketConfig s page (wd (d.2 * 2 ^ 32 + d.1))
    match buckets.find? (·.1 == 0xF0000000000 + page) with
    | some b => bucketConfig s page (wd b.2)
    | none => s

/-- LOCK set on a page; the CULV pages stay unlocked unless CONFIG sets LOCK_CULV (R178, R419). -/
def lockPage (culv : Bool) (s : State) (page : Nat) : State :=
  if keyCls page = 6 ∧ ¬ culv then s else s.setRfld (page + 0x10) 63 63 1

/-- What an empty CONFIG slot applies: Belsajan's defaults (R416). -/
def emptyConfig : ConfigBody := ⟨[], false, [], 0, 0⟩

/-- The pages configured from CONFIG and locked. -/
def configurePages (c : ConfigBody) (s : State) : State :=
  let s := allPages.foldl (configBucket c.buckets) s
  let smbus := c.writes.any fun w => w.1 == 0xF0000000000 + pgMgmt + 0x408
  let s := if smbus then s else s.setRfld (pgMgmt + 0x408) 8 8 1
  let s := c.writes.foldl configWrite s
  let s : State := { s with
    power := { s.power with gpioDir := c.gpioOut % 2 ^ 16 }
    ext := { s.ext with pcieSplit := c.bifurcation } }
  allPages.foldl (lockPage c.lockCulv) s

/-- Every stack of a die that serves has ended its training (R417). -/
def allTrained (s : State) : Bool :=
  (List.range 12).all fun k => s.cutOff.contains (k / 3) || (s.stack k).trained

/-- CONFIGURE_AND_LOCK: the body of an accepted CONFIG component is an operand; an empty slot's is the defaults,
and so is that of a part in RETIRED, which loads no CONFIG (R418). -/
def configureAndLock (c : ConfigBody) (s : State) : State :=
  if s.trust.mcRunning ∧ s.power.vinGood ∧ s.power.pg.isSome ∧ ¬ s.trust.configured ∧ allTrained s then
    match configHeader (if s.trust.life = .retired then [] else slotRecords s 2) s with
    | (s, h) =>
      let s := configurePages (if h.isSome then c else emptyConfig) s
      let s := extendMeas s 4 (match h with
        | some h => Config.eventDigest 6 h
        | none => Config.eventDigest 7 []) 1
      let s := extendMeas s 5 (Config.eventDigest 8 (repairPayload s.fuses)) 1
      s.setTrust fun t => { t with
        configured := true
        stage := if t.stage = .recovery then .recovery else .configure }
  else s

def execConfigureAndLock (config : ConfigBody) (s : State) : Host.Outcome State Fault Refusal := .next (configureAndLock config s)

/-! ### READY (R417, R458, R460) -/

/-- The device description's bytes: a devicetree whose bytes the manual does not fix (log 9, DESIGN CHOICE). -/
def description (seed len : Nat) : List Byte := (List.range len).map (Config.freeByte 100 (natLE 8 seed))

/-- A core starts in machine mode at an address, with its mhartid in a0 and the address of the description in a1 (R460, R461). -/
def hartAt (core pc : Nat) : HartStart := { core := core, pc := pc, a0 := core, a1 := handOff }

/-- The hand-off: HOST copied to LOAD, the description written, staging zeroed, and the dispatcher cores and the boot hart
started. -/
def handOffHost (s : State) : State :=
  let h := s.trust.hostHeader
  let s := (devWrite s (fieldN h 24 8) s.trust.hostBody).1
  let seed := s.freeCtr
  let r := takeFreeBits s 20
  let s := (devWrite r.1 handOff (description seed (r.2 + 1))).1
  let s : State := { s with
    ext := { s.ext with staging := [] }
    host := { s.host with
      running := coreMask ((enabledCores s).take 5)
      started := [hartAt ((enabledCores s).getD 4 0) (fieldN h 32 8)] } }
  s.setTrust fun t => { t with
    ready := true
    stage := .ready }

/-- READY: both the pages are configured and the firmware is loaded. -/
def becomeReady (s : State) : State :=
  if s.trust.configured ∧ s.trust.fwLoaded ∧ s.power.vinGood ∧ ¬ s.trust.ready then handOffHost s else s

def execReady (s : State) : Host.Outcome State Fault Refusal := .next (becomeReady s)

/-! ### Host cores (R452, R461, R462) -/

/-- HART_START: starts an offered core that is not running at an address of the carve-out, or is refused (R461). -/
def hartStart (who : Agent) (v : Word) (s : State) : State :=
  regAccess s who (pgHost + 0x420) (.hartStart who v) fun s =>
    let core := fld v 61 56
    let addr := fld v 43 0
    if !(bit v 63) || !(pageEn s pgHost) then answer s .done
    else if (enabledCores s).contains core && !((dispCores s).contains core) && !(bitOf s.host.running core)
        && decide (carveBase s ≤ addr ∧ addr < 0x9900000000) && addr % 4 == 0 then
      answer { s with host := { s.host with
        running := s.host.running + 2 ^ core
        started := s.host.started ++ [hartAt core addr] } } .done
    else answer (firstEvent s pgHost 0x448 (2 * 2 ^ 48 + core * 2 ^ 32)) .done

def execHartStart (who : Agent) (value : Word) (s : State) : Host.Outcome State Fault Refusal := .next (hartStart who value s)

/-- The time CSR of every core, and the MTIMER's mtime, read DISP.TICK (R462). -/
def timeCsr (s : State) : Nat := s.tick

/-- An interrupt of a core is pending: a timer whose compare value the time has reached (R462), an APLIC source whose page asserts its
request, or an identity in an IMSIC file (R463). -/
def irqPending (s : State) (core : Nat) : CoreIrq → Bool
  | .mtimer _ => decide (s.host.mtimecmp.getD core 0 ≤ timeCsr s)
  | .stimer _ => decide (s.host.stimecmp.getD core 0 ≤ timeCsr s)
  | .aplic n => (aplicPage n).any (requests s)
  | .msi f i => s.host.msis.contains (core, f, i)

/-- The compare value that a core's software has set. -/
def setCompare (s : State) (core : Nat) : CoreIrq → State
  | .mtimer c => { s with host := { s.host with mtimecmp := setAt s.host.mtimecmp core (c % 2 ^ 64) } }
  | .stimer c => { s with host := { s.host with stimecmp := setAt s.host.stimecmp core (c % 2 ^ 64) } }
  | _ => s

/-- A core that runs takes an interrupt: it no longer waits, and an identity it takes is no longer pending. -/
def takeIrq (s : State) (core : Nat) (irq : CoreIrq) : State :=
  { s with host := { s.host with
    wfi := s.host.wfi - (s.host.wfi &&& 2 ^ core)
    msis := match irq with
      | .msi f i => s.host.msis.filter (· != (core, f, i))
      | _ => s.host.msis } }

/-- CORE_WAKE: a pending interrupt wakes a running core from WFI (R452); what the core's own code does, the compare values it sets
among it, is outside the rules (log 24, DEDUCED). -/
def coreWake (core : Nat) (irq : CoreIrq) (s : State) : State :=
  if core < 34 ∧ bitOf s.host.running core then
    let s := setCompare s core irq
    if irqPending s core irq then takeIrq s core irq else s
  else s

def execCoreWake (core : Nat) (irq : CoreIrq) (s : State) : Host.Outcome State Fault Refusal := .next (coreWake core irq s)

end Sys2Proof.Machine
end

