-- ==== Sys2Proof/Machine/Eth.lean ====
section
/-! DEFINITION. The Ethernet data ports: frames, queue pairs as responders and requesters, UDP datagrams, links and the spare
lane (R467 to R473, R488, R489). -/

namespace Sys2Proof.Machine

/-- A data port that is up on a part with VIN50. -/
def portUp (s : State) (p : Nat) : Bool := decide (p < 4) && s.power.vinGood && (s.port p).up

/-! ### FRAME_RECEIVE (R469, R470, R494) -/

/-- FRAME_RECEIVE: codewords corrected are counted; a frame that is uncorrectable, too long or fails a check is dropped and
counted; a QP1 packet goes to the ring named in GSI_RING. PAUSE frames act on timing alone. -/
def frameReceive (p : Nat) (f : Frame) (s : State) : State :=
  if !(portUp s p) then s
  else
    let s := bump s (pgEth p + 0x430) f.fecCorrected
    if f.fecUncorrectable then bump (bump s (pgEth p + 0x438) 1) (pgEth p + 0x440) 1
    else if decide (s.rfld (pgEth p + 0x400) 31 16 < f.len) || !f.fcsOk then bump s (pgEth p + 0x440) 1
    else if f.gsi then putOut s (.gsi p (s.reg (pgEth p + 0x428)).toNat f.data)
    else s

def execFrameReceive (port : Nat) (frame : Frame) (s : State) : Host.Outcome State Fault Refusal := .next (frameReceive port frame s)

/-! ### Requests at a responder (R471) -/

/-- NAK codes of the InfiniBand transport (log 42, PRESUMED). -/
def nakRnr : Nat := 0x20
def nakSequence : Nat := 0x60
def nakAccess : Nat := 0x62
def nakOperational : Nat := 0x63

/-- The packet kinds of responses: READ data, and an atomic's old value. -/
def pkRead : Nat := 0x10001
def pkAtomic : Nat := 0x10002

def Qp.num (q : Qp) : Nat := q.index + 0x100

/-- The READY queue pair that a request reaches; a request whose PSN is not the one expected is answered so. -/
def responder (s : State) (r : RdmaReq) (go : Qp → State → State) : State :=
  match s.qp? r.qp with
  | none => s
  | some q =>
    if q.state ≠ .ready ∨ q.port ≠ r.port ∨ !(portUp s r.port) then s
    else if !r.psnOk then putOut s (.nak r.port r.qp nakSequence)
    else go q s

/-- An error NAK, and the queue pair moves to ERROR with cause 0x04. -/
def nakError (s : State) (r : RdmaReq) (code : Nat) : State := qpError (putOut s (.nak r.port r.qp code)) r.qp 4

/-- R471's conditions: the key, the grant region and the kind's grant. -/
def granted (q : Qp) (r : RdmaReq) (kind n : Nat) : Bool :=
  r.rkey == fieldN q.ctx 56 4 && bitOf (Qp.flags q) kind
    && decide (fieldN q.ctx 40 8 ≤ r.addr ∧ r.addr + n ≤ fieldN q.ctx 40 8 + fieldN q.ctx 48 8)

/-- A request of n bytes has been executed: it is acknowledged. -/
def acked (s : State) (q : Qp) (n : Nat) : State :=
  let next := q.nextPsn q.recvPsn n
  putOut (s.setQp q.num fun q => { q with recvPsn := next }) (.ack q.port q.num)

/-- The data of a WRITE is placed. -/
def rdmaStore (s : State) (q : Qp) (r : RdmaReq) : State :=
  match devWrite (wakeForWrite s r.addr) r.addr r.data with
  | (s, none) => acked s q r.data.length
  | (s, some _) => nakError s r nakOperational

/-- RDMA_WRITE. -/
def rdmaWrite (r : RdmaReq) (s : State) : State :=
  responder s r fun q s => if granted q r 3 r.data.length then rdmaStore s q r else nakError s r nakAccess

def execRdmaWrite (req : RdmaReq) (s : State) : Host.Outcome State Fault Refusal := .next (rdmaWrite req s)

/-- The origin of a record on a queue pair: KIND 2, PORT and QPN (R477). -/
def qpOrigin (q : Qp) : List Byte := natLE 1 2 ++ natLE 1 q.port ++ List.replicate 6 0 ++ natLE 4 q.num ++ List.replicate 20 0

/-- A record reaches the RECEIVE stage that a queue pair is bound to, or finds none, or no space. -/
def deliverQp (s : State) (q : Qp) (data : List Byte) : State × Placed :=
  match boundTo s (0, 0, q.num) with
  | none => (s, .noSpace)
  | some b => arrive s b.1 b.2 (qpOrigin q) data true

/-- What a WRITE with immediate delivers to a bound stage: a record whose bytes the manual does not give (log 43, DESIGN CHOICE). -/
def immRecord (s : State) : State × List Byte :=
  let seed := s.freeCtr
  let f := takeFreeBits s 16
  (f.1, (List.range f.2).map (Config.freeByte 200 (natLE 8 seed)))

/-- RDMA_WRITE_WITH_IMMEDIATE. -/
def rdmaWriteImm (r : RdmaReq) (s : State) : State :=
  responder s r fun q s =>
    if !(granted q r 3 r.data.length) then nakError s r nakAccess
    else
      let f := immRecord s
      match deliverQp f.1 q f.2 with
      | (s, .noSpace) => putOut s (.nak r.port r.qp nakRnr)
      | (s, .taken) => rdmaStore s q r

def execRdmaWriteWithImmediate (req : RdmaReq) (s : State) : Host.Outcome State Fault Refusal := .next (rdmaWriteImm req s)

/-- RDMA_READ: poisoned or uncorrectable data is never sent (R496). -/
def rdmaRead (r : RdmaReq) (s : State) : State :=
  responder s r fun q s =>
    if !(granted q r 4 r.len) then nakError s r nakAccess
    else match devRead s r.addr r.len with
      | (s, .ok bs) =>
        let next := q.nextPsn q.recvPsn r.len
        putOut (s.setQp q.num fun q => { q with recvPsn := next }) (.packet q.port q.num pkRead bs)
      | (s, .error _) => nakError s r nakOperational

def execRdmaRead (req : RdmaReq) (s : State) : Host.Outcome State Fault Refusal := .next (rdmaRead req s)

/-- ROCE_SEND. -/
def roceSend (r : RdmaReq) (s : State) : State :=
  responder s r fun q s => match deliverQp s q r.data with
    | (s, .noSpace) => putOut s (.nak r.port r.qp nakRnr)
    | (s, .taken) => acked s q r.data.length

def execRoceSend (req : RdmaReq) (s : State) : Host.Outcome State Fault Refusal := .next (roceSend req s)

/-- A stack view, where no atomic is served (R454). -/
def inStackView (a : Nat) : Bool := decide (0x10000000000 ≤ a ∧ a < 0x10000000000 + 12 * 0x1000000000)

/-- A 64-bit atomic: the old value is answered. -/
def rdmaAtomic (r : RdmaReq) (f : Nat → Nat) (s : State) : State :=
  responder s r fun q s =>
    if !(granted q r 5 8) || r.addr % 8 != 0 || inStackView r.addr then nakError s r nakAccess
    else match read64 (wakeForWrite s r.addr) r.addr with
      | (s, .error _) => nakError s r nakOperational
      | (s, .ok old) => match write64 s r.addr (f old % 2 ^ 64) with
        | (s, some _) => nakError s r nakOperational
        | (s, none) =>
          let next := q.nextPsn q.recvPsn 8
          putOut (s.setQp q.num fun q => { q with recvPsn := next }) (.packet q.port q.num pkAtomic (natLE 8 old))

/-- ATOMIC_COMPARE_AND_SWAP and ATOMIC_FETCH_AND_ADD. -/
def execAtomicCompareAndSwap (req : RdmaReq) (compare swap : Nat) (s : State) : Host.Outcome State Fault Refusal :=
  .next (rdmaAtomic req (fun old => if old = compare then swap else old) s)

def execAtomicFetchAndAdd (req : RdmaReq) (addend : Nat) (s : State) : Host.Outcome State Fault Refusal :=
  .next (rdmaAtomic req (fun old => old + addend) s)

/-! ### Requesters (R472, R478) -/

/-- Every message not yet acknowledged leaves again, where the port is up. -/
def resend (s : State) (q : Qp) : State :=
  let s := bump s (pgEth q.port + 0x450) 1
  let s := s.setQp q.num fun q => { q with sentAt := s.tick }
  if (s.port q.port).up then q.msgs.foldl (fun s m => putOut s (.packet q.port q.num m.kind m.data)) s else s

/-- The READY queue pair of a port with a message that is not acknowledged. -/
def requester (s : State) (port n : Nat) : Option Qp :=
  (s.qp? n).filter fun q => q.state == .ready && q.port == port && q.msgs != []

/-- 4.096 µs × 2^TIMEOUT have passed since the latest message, acknowledgement or retransmission. -/
def ackDue (s : State) (q : Qp) : Bool := decide (5 * q.sentAt + 512 * 2 ^ fieldN q.ctx 63 1 ≤ 5 * s.tick)

/-- ACK_TIMEOUT: retransmission up to RETRY times, and then ERROR; one that is not due has no effect. -/
def ackTimeout (port n : Nat) (s : State) : State :=
  match requester s port n with
  | none => s
  | some q =>
    if !(ackDue s q) then s
    else if q.retries < fieldN q.ctx 61 1 then resend (s.setQp n fun q => { q with retries := q.retries + 1 }) q
    else qpError s n 2

def execAckTimeout (port qp : Nat) (s : State) : Host.Outcome State Fault Refusal := .next (ackTimeout port qp s)

/-- A receiver-not-ready NAK, by the codes of the InfiniBand transport (log 42, PRESUMED). -/
def isRnr (code : Nat) : Bool := decide (0x20 ≤ code ∧ code < 0x40)

/-- NAK_RECEIVED: RNR_RETRY 7 retries without limit. -/
def nakReceived (port n code : Nat) (s : State) : State :=
  match requester s port n with
  | none => s
  | some q =>
    if !(isRnr code) then qpError s n 3
    else if fieldN q.ctx 62 1 = 7 ∨ q.rnr < fieldN q.ctx 62 1 then resend (s.setQp n fun q => { q with rnr := q.rnr + 1 }) q
    else qpError s n 2

def execNakReceived (port qp code : Nat) (s : State) : Host.Outcome State Fault Refusal := .next (nakReceived port qp code s)

/-- An answer reaches a PEER_LOOKUP stage that waits for it, or comes late (R53, R54). -/
def peerAnswer (s : State) (m : QpMsg) (data : List Byte) : State :=
  match s.open? m.stream with
  | none => s
  | some x =>
    let waits : Bool := match s.run? m.stream m.batch m.stage with
      | some u => !u.finished && !(runExpired x s.tick u)
      | none => false
    if waits then s.setRun m.stream m.batch m.stage fun u => { u with answers := u.answers ++ [(fieldN m.data 0 2, data)] }
    else countLate s m.stream

/-- ACK_RECEIVED: the oldest message is acknowledged; a SEND's slot may promote its shadow, and a peer's answer is taken. -/
def ackReceived (port n : Nat) (data : List Byte) (s : State) : State :=
  match requester s port n with
  | none => s
  | some q =>
    let s := s.setQp n fun q => { q with
      msgs := q.msgs.drop 1
      sentAt := s.tick
      retries := 0
      rnr := 0 }
    match q.msgs with
    | [] => s
    | m :: _ =>
      if m.kind = pkPeer then peerAnswer s m data
      else match s.stream? m.stream with
        | some x => promote s x.id (stageSlot (x.stage m.stage))
        | none => s

def execAckReceived (port qp : Nat) (data : List Byte) (s : State) : Host.Outcome State Fault Refusal :=
  .next (ackReceived port qp data s)

/-! ### UDP (R473, R475) -/

/-- Is an address, as a 128-bit number with IPv4 mapped, one of the port's? -/
def ownAddress (s : State) (p dst : Nat) : Bool :=
  let v4 := s.rfld (pgEth p + 0x410) 31 0
  let v6 := (s.reg (pgEth p + 0x468)).toNat * 2 ^ 64 + (s.reg (pgEth p + 0x470)).toNat
  (v4 != 0 && dst == 0xFFFF * 2 ^ 32 + v4) || (v6 != 0 && dst == v6)

/-- The origin of a datagram: KIND 3, PORT, the source port and the source address (R477). -/
def udpOrigin (p srcIp srcPort : Nat) : List Byte :=
  natLE 1 3 ++ natLE 1 p ++ natLE 2 srcPort ++ List.replicate 12 0 ++ natBE 16 srcIp

/-- Bytes of the frame of a datagram, untagged and with its FCS: IPv4 where the destination is IPv4-mapped (log 93, DEDUCED). -/
def udpFrame (dstIp n : Nat) : Nat := 14 + (if dstIp / 2 ^ 32 = 0xFFFF then 20 else 40) + 8 + n + 4

/-- UDP_DATAGRAM. -/
def udpDatagram (p srcIp srcPort dstIp dstPort : Nat) (data : List Byte) (s : State) : State :=
  if !(portUp s p) then s
  else if s.rfld (pgEth p + 0x400) 31 16 < udpFrame dstIp data.length then bump s (pgEth p + 0x440) 1
  else if !(ownAddress s p dstIp) then bump s (pgEth p + 0x440) 1
  else if data = [] ∨ 9000 < data.length then bump s (pgEth p + 0x448) 1
  else match boundTo s (1, p, dstPort) with
    | none => bump s (pgEth p + 0x448) 1
    | some b => recordArrival b.1 b.2 (udpOrigin p srcIp srcPort) data true s

def execUdpDatagram (port srcIp srcPort dstIp dstPort : Nat) (data : List Byte) (s : State) : Host.Outcome State Fault Refusal :=
  .next (udpDatagram port srcIp srcPort dstIp dstPort data s)

/-! ### QP_CMD (R470, R488, R489) -/

/-- A context that R470's table allows, and whose STATE may be loaded. -/
def contextOk (b : List Byte) : Bool :=
  b.length == 128 && decide (fieldN b 0 1 ≤ 1) && decide (fieldN b 1 1 < 64) && decide (fieldN b 2 1 ≤ 3)
  && fieldN b 3 1 % 32 == 0 && decide (fieldN b 4 4 < 2 ^ 30) && decide (fieldN b 8 4 < 2 ^ 24) && decide (fieldN b 12 4 < 2 ^ 24)
  && (if bitOf (fieldN b 1 1) 1 then decide (fieldN b 38 2 < 4096) else fieldN b 38 2 == 0)
  && (fieldN b 48 8 == 0 || inRemote (fieldN b 40 8) (fieldN b 48 8))
  && decide (fieldN b 60 1 ≤ 2) && decide (fieldN b 61 1 ≤ 7) && decide (fieldN b 62 1 ≤ 7)
  && decide (1 ≤ fieldN b 63 1 ∧ fieldN b 63 1 ≤ 31) && zeroAt b 64 64

/-- Where context i lies by QP_TBL of instance 0; none past COUNT or outside Fen memory. -/
def contextAddr (s : State) (i : Nat) : Option Nat :=
  let t := s.reg (pgEth 0 + 0x418)
  let a := fld t 43 12 * 4096 + 128 * i
  if i < fld t 63 44 ∧ inFen a 128 then some a else none

/-- The device's own copy of a context. -/
def loadQp (s : State) (i addr : Nat) (b : List Byte) : State :=
  let q : Qp := { index := i, ctx := b, addr := addr, state := if fieldN b 0 1 = 1 then .ready else .reset,
                  sendPsn := fieldN b 8 4, recvPsn := fieldN b 12 4 }
  { s with ext := { s.ext with qps := s.ext.qps.filter (·.index != i) ++ [q] } }

def refuseLoad (s : State) (p i : Nat) : State := noteQp s p 1 i

/-- QP_LOAD: a write of QP_CMD with OP 1. -/
def qpLoad (who : Agent) (p : Nat) (v : Word) (s : State) : State :=
  if fld v 63 62 ≠ 1 then s
  else regAccess s who (pgEth p + 0x420) (.qpLoad who p v) fun s =>
    let i := fld v 13 0
    let s := answer s .done
    if !(pageEn s (pgEth p)) then s
    else match contextAddr s i with
      | none => refuseLoad s p i
      | some a => match devRead s a 128 with
        | (s, .error _) => refuseLoad s p i
        | (s, .ok b) =>
          if !(contextOk b) || ((s.qp? (i + 0x100)).map (·.state)) == some .ready then refuseLoad s p i
          else loadQp s i a b

def execQpLoad (who : Agent) (port : Nat) (value : Word) (s : State) : Host.Outcome State Fault Refusal := .next (qpLoad who port value s)

/-- QP_RESET: a write of QP_CMD with OP 2 tears the queue pair down at once. -/
def qpReset (who : Agent) (p : Nat) (v : Word) (s : State) : State :=
  if fld v 63 62 ≠ 2 then s
  else regAccess s who (pgEth p + 0x420) (.qpReset who p v) fun s =>
    let s := answer s .done
    if !(pageEn s (pgEth p)) then s else qpTear s (fld v 13 0 + 0x100) .reset

def execQpReset (who : Agent) (port : Nat) (value : Word) (s : State) : Host.Outcome State Fault Refusal := .next (qpReset who port value s)

/-! ### Links (R467, R468, R472, R483, R503) -/

/-- Gb/s of a mode by its code. -/
def modeRate : Nat → Nat
  | 0 => 100
  | 1 => 800
  | 2 => 400
  | _ => 200

/-- ETH_LINK_UP: a port that negotiates takes a mode not above PORT_CFG.MODE; another runs in that mode. -/
def ethLinkUp (p mode : Nat) (s : State) : State :=
  let cfg := s.reg (pgEth p + 0x400)
  let fits := if bit cfg 8 then decide (modeRate mode ≤ modeRate (fld cfg 1 0)) else mode == fld cfg 1 0
  if p < 4 ∧ mode < 4 ∧ s.power.vinGood ∧ ¬ (s.port p).up ∧ fits then
    s.setPort p fun x => { x with
      up := true
      mode := mode
      retryAt := none }
  else s

def execEthLinkUp (port mode : Nat) (s : State) : Host.Outcome State Fault Refusal := .next (ethLinkUp port mode s)

/-- ETH_LINK_DOWN: queue pairs stay; their messages wait. -/
def ethLinkDown (p : Nat) (s : State) : State :=
  s.setPort p fun x => { x with
    up := false
    mode := 0 }

def execEthLinkDown (port : Nat) (s : State) : Host.Outcome State Fault Refusal := .next (ethLinkDown port s)

/-- A retry that is due: none has been made since the link went down, or 1 s has passed since the latest. -/
def retryDue (s : State) (r : Option Nat) : Bool := match r with
  | none => true
  | some t => decide (t ≤ s.tick)

/-- AUTONEG_RETRY: negotiation found no common mode, and is tried again after 1 s; port 4 is the management port. -/
def autonegRetry (p : Nat) (s : State) : State :=
  if !s.power.vinGood then s
  else if p = 4 then
    if !s.ext.mgmtUp && retryDue s s.ext.mgmtRetry then
      { s with ext := { s.ext with mgmtRetry := some (s.tick + 25000000) } }
    else s
  else if p < 4 ∧ ¬ (s.port p).up ∧ bit (s.reg (pgEth p + 0x400)) 8 ∧ retryDue s (s.port p).retryAt then
    s.setPort p fun x => { x with retryAt := some (s.tick + 25000000) }
  else s

def execAutonegRetry (port : Nat) (s : State) : Host.Outcome State Fault Refusal := .next (autonegRetry port s)

/-- ETH_LANE_SPARE: a failed lane is steered to the port's spare, for a slot of the I/O die, and the port retrains. -/
def ethLaneSpare (p lane : Nat) (s : State) : State :=
  if p < 4 ∧ lane < 8 ∧ s.power.vinGood ∧ s.trust.mcRunning then
    match repairWrite s .mc 0x200 9 lane lane (s.port p).spare p ((s.port p).spare == 15) fun r => { r with ethSpare := setAt r.ethSpare p lane } with
    | (s, true) => s.setPort p fun x => { x with
        spare := lane
        up := false
        mode := 0 }
    | (s, false) => s
  else s

def execEthLaneSpare (port lane : Nat) (s : State) : Host.Outcome State Fault Refusal := .next (ethLaneSpare port lane s)

/-- MGMT_LINK_UP: mode 1 is 10GBASE-R and mode 2 is 25GBASE-R, which STRAP[3] excludes; FEC 0 is none, 1 Clause 74 and 2, of
25GBASE-R alone, Clause 108. -/
def mgmtLinkUp (mode fec : Nat) (s : State) : State :=
  if s.power.vinGood ∧ ¬ s.ext.mgmtUp ∧ (mode = 1 ∨ (mode = 2 ∧ ¬ bitOf s.trust.straps 3)) ∧ fec ≤ mode then
    { s with ext := { s.ext with
      mgmtUp := true
      mgmtSpeed := mode
      mgmtFec := fec
      mgmtRetry := none } }
  else s

def execMgmtLinkUp (mode fec : Nat) (s : State) : Host.Outcome State Fault Refusal := .next (mgmtLinkUp mode fec s)

/-- MGMT_LINK_DOWN. -/
def execMgmtLinkDown (s : State) : Host.Outcome State Fault Refusal :=
  .next { s with ext := { s.ext with
    mgmtUp := false
    mgmtSpeed := 0
    mgmtFec := 0 } }

end Sys2Proof.Machine
end

