-- ==== Sys2Proof/Machine/Pcie.lean ====
section
/-! DEFINITION. The PCIe port (R479 to R482, R490, R491): the endpoint's window, recovery mailbox and MSI-X table; root-port
accesses, inbound requests and NVMe queues (R476). -/

namespace Sys2Proof.Machine

/-- The endpoint's link is up. -/
def endpointUp (s : State) : Bool := s.power.vinGood && !s.ext.pcieRoot && bitOf s.ext.pcieUp 0

/-- UR_CNT: a request completed Unsupported Request, or a posted write dropped. -/
def unsupported (s : State) : State := answer (bump s (pgPcie + 0x430) 1) .unsupported

/-- What AER reports: correctable errors are counted, and an uncorrectable one recorded, in a layout not given (log 44). -/
def aerReport (e : LinkErrs) (s : State) : State :=
  let s := bump s (pgPcie + 0x438) e.ce
  if e.ue then match takeFreeBits s 63 with
    | (s, f) => firstEvent s pgPcie 0x440 f
  else s

/-! ### The memory window (R480, R481) -/

def stagingBytes : Nat := 64 * 2 ^ 20

/-- The device range of a window access: within the window, and one that remote paths may reach. -/
def windowAddr (s : State) (off n : Nat) : Option Nat :=
  let w := s.reg (pgPcie + 0x408)
  let a := fld w 43 30 * 2 ^ 30 + off
  if off + n ≤ fld w 63 44 * 2 ^ 30 ∧ inRemote a n then some a else none

def stagingRead (s : State) (off n : Nat) : List Byte := (List.range n).map fun i => cellsGet memDefault (off + i) s.ext.staging
def stagingWrite (s : State) (off : Nat) (bs : List Byte) : State :=
  { s with ext := { s.ext with staging := memPut s.ext.staging off bs } }

/-- A window read: poisoned or uncorrectable data completes with the EP bit set (R496). -/
def windowReadNow (off n : Nat) (s : State) : State :=
  if !s.trust.ready then
    if off + n ≤ stagingBytes then answer s (.data (stagingRead s off n)) else unsupported s
  else match windowAddr s off n with
    | none => unsupported s
    | some a => match devRead s a n with
      | (s, .ok bs) => answer s (.data bs)
      | (s, .error _) => answer s .poisonedCompletion

/-- PCIE_WINDOW_READ. -/
def windowRead (off n : Nat) (e : LinkErrs) (s : State) : State :=
  if endpointUp s then windowReadNow off n (aerReport e s) else s

def execPcieWindowRead (offset len : Nat) (errs : LinkErrs) (s : State) : Host.Outcome State Fault Refusal :=
  .next (windowRead offset len errs s)

/-- A posted window write. -/
def windowWriteNow (off : Nat) (bs : List Byte) (s : State) : State :=
  if !s.trust.ready then
    if off + bs.length ≤ stagingBytes then answer (stagingWrite s off bs) .done else unsupported s
  else match windowAddr s off bs.length with
    | none => unsupported s
    | some a => answer (devWrite (wakeForWrite s a) a bs).1 .done

/-- PCIE_WINDOW_WRITE. -/
def windowWrite (off : Nat) (bs : List Byte) (e : LinkErrs) (s : State) : State :=
  if endpointUp s then windowWriteNow off bs (aerReport e s) else s

def execPcieWindowWrite (offset : Nat) (data : List Byte) (errs : LinkErrs) (s : State) : Host.Outcome State Fault Refusal :=
  .next (windowWrite offset data errs s)

/-- An AtomicOp: of 64 bits, aligned, and to no stack view (R454, R480); the old value completes it. -/
def windowAtomic (size off : Nat) (f : Nat → Nat) (s : State) : State :=
  if !(endpointUp s) then s
  else if size ≠ 8 then unsupported s
  else match (if s.trust.ready then windowAddr s off 8 else none) with
    | none => unsupported s
    | some a =>
      if a % 8 != 0 || inStackView a then unsupported s
      else match read64 (wakeForWrite s a) a with
        | (s, .error _) => answer s .poisonedCompletion
        | (s, .ok old) => answer (write64 s a (f old % 2 ^ 64)).1 (.data (natLE 8 old))

/-- PCIE_ATOMIC_CAS and PCIE_ATOMIC_FETCH_ADD. -/
def execPcieAtomicCas (size offset compare swap : Nat) (s : State) : Host.Outcome State Fault Refusal :=
  .next (windowAtomic size offset (fun old => if old = compare then swap else old) s)

def execPcieAtomicFetchAdd (size offset addend : Nat) (s : State) : Host.Outcome State Fault Refusal :=
  .next (windowAtomic size offset (fun old => old + addend) s)

/-! ### The recovery mailbox (R481) -/

/-- The first check of R413 that a component of a BOOT image fails. -/
def imageFails (s : State) (img : List Byte) : Option Nat :=
  let o1 := roundUp (4096 + compLen (compHeader img 0)) 4096
  let o2 := roundUp (o1 + 4096 + compLen (compHeader img o1)) 4096
  match checkComp s img 0 1, checkComp s img o1 2, checkComp s img o2 3 with
  | some c, _, _ => some c
  | none, some c, _ => some c
  | none, none, c => c

/-- An image delivered by a source: the search that waits for it goes on. -/
def deliverImage (s : State) (src : Source) (img : List Byte) : State :=
  let s := s.setTrust fun t => match src with
    | .mctp => { t with mctpImage := some img }
    | .pcie => { t with pcieImage := some img }
    | .peat => t
  match s.trust.search with
  | some x =>
    if x.left.head? = some src then afterMc (runSearch x.firmware x.left (s.setTrust fun t => { t with search := none }))
    else if x.left = [] ∧ src = .mctp then afterMc (runSearch x.firmware [.mctp] (s.setTrust fun t => { t with search := none }))
    else s
  | none => s

/-- RECOVERY_MAILBOX_WRITE: the length at 0x08, and 1 at 0x00 has the image in staging checked; the result stands at 0x10. -/
def mailboxWrite (off v : Nat) (s : State) : State :=
  if !(endpointUp s) ∨ s.trust.ready ∨ !s.power.mossUp then s
  else if off = 8 then { s with ext := { s.ext with boxLen := v } }
  else if off = 0 ∧ v = 1 then
    let img := stagingRead s 0 (Nat.min s.ext.boxLen stagingBytes)
    let r := match imageFails s img with
      | none => 1
      | some c => 2 + c * 256
    let s : State := { s with ext := { s.ext with boxResult := r } }
    deliverImage (s.setTrust fun t => { t with recoveryResult := r }) .pcie img
  else s

def execRecoveryMailboxWrite (offset value : Nat) (s : State) : Host.Outcome State Fault Refusal := .next (mailboxWrite offset value s)

/-! ### MSI-X (R480) -/

/-- Vectors held pending that are no longer masked are sent. -/
def releasePending (s : State) : State :=
  let free (v : Nat) : Bool := !(bit (msixWord s (16 * v + 8)) 32)
  let go := s.ext.msixPending.filter free
  let s : State := { s with ext := { s.ext with msixPending := s.ext.msixPending.filter fun v => !(free v) } }
  go.foldl (fun s v => putOut s (.msix v)) s

/-- MSI_X_TABLE_WRITE: a word of the table, at its offset from BAR0 0x8000; the PBA takes no write (log 44, DEDUCED). -/
def msixWrite (off : Nat) (v : Word) (s : State) : State :=
  if !(endpointUp s) ∨ off % 8 ≠ 0 ∨ 16 * 2048 ≤ off then s
  else releasePending { s with ext := { s.ext with msix := s.ext.msix.filter (·.1 != off) ++ [(off, v)] } }

def execMsiXTableWrite (offset : Nat) (value : Word) (s : State) : Host.Outcome State Fault Refusal := .next (msixWrite offset value s)

/-! ### Root port: configuration and memory space (R482, R490, R491) -/

/-- A failed indirect access reads all ones and is recorded; the record's layout is not given. -/
def indirectFails (s : State) : State × Word :=
  match takeFreeBits s 63 with
  | (s, f) => (firstEvent s pgPcie 0x440 f, BitVec.allOnes 64)

/-- An access over the link: whether the device answers, and what a read gives, are its own. -/
def indirect (s : State) (up write : Bool) (kind addr : Nat) (v : Word) : State × Word :=
  if !up then indirectFails s
  else
    let s := putOut s (.pcie kind addr (if write then natLE 8 v.toNat else []))
    match takeFree s with
    | (s, 0) => indirectFails s
    | (s, _ + 1) => if write then (s, v) else match takeFreeBits s 64 with
      | (s, f) => (s, wd f)

/-- An access to a data register of the PCIE page; only a root port reaches the link. -/
def indirectAccess (who : Agent) (k : Nat) (h : Instr) (write up : Bool) (kind addr mask : Nat) (v : Word) (s : State) : State :=
  regAccess s who k h fun s =>
    if !(pageEn s pgPcie) then answer s (if write then .done else .word 0)
    else if !s.ext.pcieRoot then answer s (if write then .done else .word (s.reg k))
    else match indirect s up write kind addr v with
      | (s, w) => answer s (if write then .done else .word (w &&& wd mask))

/-- CFG_DATA_ACCESS: the dword at CFG_ADDR. -/
def cfgData (who : Agent) (write : Bool) (v : Word) (s : State) : State :=
  let a := s.reg (pgPcie + 0x410)
  indirectAccess who (pgPcie + 0x418) (.cfgDataAccess who write v) write (bitOf s.ext.pcieUp (fld a 29 28)) (if write then 0x11 else 0x10)
    (fld a 29 0) (2 ^ 32 - 1) v s

def execCfgDataAccess (who : Agent) (write : Bool) (value : Word) (s : State) : Host.Outcome State Fault Refusal :=
  .next (cfgData who write value s)

/-- MMIO_DATA_ACCESS: 64 bits at MMIO_ADDR. -/
def mmioData (who : Agent) (write : Bool) (v : Word) (s : State) : State :=
  indirectAccess who (pgPcie + 0x428) (.mmioDataAccess who write v) write (s.ext.pcieUp != 0) (if write then 0x13 else 0x12)
    (s.reg (pgPcie + 0x420)).toNat (2 ^ 64 - 1) v s

def execMmioDataAccess (who : Agent) (write : Bool) (value : Word) (s : State) : Host.Outcome State Fault Refusal :=
  .next (mmioData who write value s)

/-- The IMSIC file that an address names: none, or core and file; the manual gives no addresses of the files (log 45, DESIGN CHOICE). -/
def imsicAt (a : Nat) : Option (Nat × Nat) :=
  match Config.freeReal 910 a 0 with
  | 0 => none
  | n + 1 => some (n / 9 % 34, n % 9)

/-- A device's read or write reaches a place of R44, an MSI an IMSIC file; anything else completes Unsupported Request. -/
def inboundNow (write : Bool) (a : Nat) (bs : List Byte) (s : State) : State :=
  if inR44 a bs.length then
    if write then answer (devWrite (wakeForWrite s a) a bs).1 .done
    else match devRead s a bs.length with
      | (s, .ok d) => answer s (.data d)
      | (s, .error _) => answer s .poisonedCompletion
  else match (if write then imsicAt a else none) with
    | some f => answer (writeMsi s f.1 f.2 (fieldN bs 0 4)) .done
    | none => unsupported s

/-- INBOUND_DEVICE_REQUEST. -/
def inboundRequest (write : Bool) (a : Nat) (bs : List Byte) (e : LinkErrs) (s : State) : State :=
  if s.power.vinGood ∧ s.ext.pcieRoot ∧ s.ext.pcieUp ≠ 0 then inboundNow write a bs (aerReport e s) else s

def execInboundDeviceRequest (write : Bool) (addr : Nat) (data : List Byte) (errs : LinkErrs) (s : State) : Host.Outcome State Fault Refusal :=
  .next (inboundRequest write addr data errs s)

/-! ### NVMe queues (R476, R482, R491) -/

def nvmeKey (n : Nat) : Nat := pgPcie + 0x800 + 64 * n

/-- The extents of a queue pair's two queues: bases, and bytes by DEPTH_LOG2. -/
def queueExtents (s : State) (n : Nat) (q : Word) : List (Nat × Nat) :=
  let d := 2 ^ fld q 41 32
  [(fld (s.reg (nvmeKey n + 8)) 43 12 * 4096, 64 * d), (fld (s.reg (nvmeKey n + 16)) 43 12 * 4096, 16 * d)]

def meets (a b : Nat × Nat) : Bool := decide (a.1 < b.1 + b.2 ∧ b.1 < a.1 + a.2)

/-- Extents of the other enabled pairs. -/
def otherQueues (s : State) (n : Nat) : List (Nat × Nat) :=
  (List.range 16).flatMap fun m => if m ≠ n ∧ bit (s.reg (nvmeKey m)) 63 then queueExtents s m (s.reg (nvmeKey m)) else []

/-- May a queue pair be lent (R491)? -/
def queueOk (s : State) (n : Nat) (q : Word) : Bool :=
  let d := fld q 41 32
  decide (1 ≤ d ∧ d ≤ 12)
  && match queueExtents s n q with
    | [a, b] => inFen a.1 1 && inFen b.1 1 && !(meets a b) && (otherQueues s n).all fun e => !(meets a e || meets b e)
    | _ => false

/-- NVME_QUEUE_ENABLE: a write of NVME_Q n. A refused EN stays 0 and is recorded; EN cleared withdraws the pair. -/
def nvmeEnable (who : Agent) (n : Nat) (v : Word) (s : State) : State :=
  if 16 ≤ n then s
  else regAccess s who (nvmeKey n) (.nvmeQueueEnable who n v) fun s =>
    if !(pageEn s pgPcie) then answer s .done
    else
      let was := bit (s.reg (nvmeKey n)) 63
      let w := writtenReg s (nvmeKey n) v
      let s := answer s .done
      if bit w 63 && !was && !(queueOk s n w) then
        match takeFreeBits s 63 with
        | (s, f) => firstEvent (s.setReg (nvmeKey n) (putFld w 63 63 0)) pgPcie 0x440 f
      else
        let s := s.setReg (nvmeKey n) w
        if was && !(bit w 63) then nvmeTear s n else s

def execNvmeQueueEnable (who : Agent) (queue : Nat) (value : Word) (s : State) : Host.Outcome State Fault Refusal :=
  .next (nvmeEnable who queue value s)

/-- The origin of an NVMe record, which R477 does not give. -/
def nvmeOrigin (s : State) : State × List Byte :=
  ({ s with freeCtr := s.freeCtr + 4 }, (List.range 4).flatMap fun i => natLE 8 (Config.freeWord (s.freeCtr + i)).toNat)

/-- A completion of the read under way on a queue: its data joins the extent's record, which the last completion ends. -/
def nvmeArrives (s : State) (m : NvmeRead) (data : List Byte) : State :=
  let rest (s : State) : List NvmeRead := s.ext.nvme.filter (·.queue != m.queue)
  let s : State := { s with ext := { s.ext with
    nvme := if m.left ≤ 1 then rest s else rest s ++ [{ m with left := m.left - 1 }] } }
  match s.stream? m.stream with
  | none => s
  | some x =>
    let f := nvmeOrigin s
    let s := (arrive f.1 m.stream (stageSlot (x.stage m.stage)) f.2 data (decide (m.left ≤ 1))).1
    if m.left ≤ 1 then nvmeNext s m.stream m.batch m.stage else s

/-- NVME_COMPLETION: an error status completes the batch with CORRUPT. -/
def nvmeCompletion (q status : Nat) (data : List Byte) (s : State) : State :=
  match s.ext.nvme.find? (·.queue == q) with
  | none => s
  | some m =>
    if status = 0 then nvmeArrives s m data
    else
      let s : State := { s with ext := { s.ext with nvme := s.ext.nvme.filter (·.queue != q) } }
      let s := match s.stream? m.stream with
        | some x => s.setTSlot m.stream (stageSlot (x.stage m.stage)) fun t => { t with part := none }
        | none => s
      failRun s m.stream m.batch m.stage stCorrupt

def execNvmeCompletion (queue status : Nat) (data : List Byte) (s : State) : Host.Outcome State Fault Refusal :=
  .next (nvmeCompletion queue status data s)

/-! ### The link (R479) -/

/-- Ports of the PCIe link: one of x16, two of x8 or four of x4; an endpoint has one. -/
def pciePorts (s : State) : Nat :=
  if s.ext.pcieRoot && s.ext.pcieSplit == 1 then 2 else if s.ext.pcieRoot && s.ext.pcieSplit == 2 then 4 else 1

/-- PCIE_LINK_UP: rates 3 to 6 are 8 to 64 GT/s; a width trains down from the port's lanes. -/
def pcieLinkUp (port rate width : Nat) (s : State) : State :=
  if s.power.vinGood ∧ 3 ≤ rate ∧ rate ≤ 6 ∧ [1, 2, 4, 8, 16].contains width ∧ width * pciePorts s ≤ 16 ∧ port < pciePorts s
      ∧ ¬ bitOf s.ext.pcieUp port then
    { s with ext := { s.ext with
      pcieUp := s.ext.pcieUp + 2 ^ port
      pcieRate := if port = 0 then rate else s.ext.pcieRate
      pcieWidth := if port = 0 then width else s.ext.pcieWidth } }
  else s

def execPcieLinkUp (port rate width : Nat) (s : State) : Host.Outcome State Fault Refusal := .next (pcieLinkUp port rate width s)

/-- PCIE_LINK_DOWN: reads under way on queues of the port are lost with their partial records (R83). -/
def pcieLinkDown (port : Nat) (s : State) : State :=
  if bitOf s.ext.pcieUp port then
    let s : State := { s with ext := { s.ext with
      pcieUp := s.ext.pcieUp - 2 ^ port
      pcieRate := if port = 0 then 0 else s.ext.pcieRate
      pcieWidth := if port = 0 then 0 else s.ext.pcieWidth } }
    let mine := s.ext.nvme.filter fun m => fld (s.reg (nvmeKey m.queue)) 59 58 == port
    mine.foldl (fun s m => nvmeTear s m.queue) s
  else s

def execPcieLinkDown (port : Nat) (s : State) : Host.Outcome State Fault Refusal := .next (pcieLinkDown port s)

end Sys2Proof.Machine
end

