-- ==== Sys2Proof/Machine/Mgmt.lean ====
section
/-! DEFINITION. The management side: Redfish and PLDM requests, the PMBus subset, GPIO and debug instructions (R429, R484 to
R487). -/

namespace Sys2Proof.Machine

/-! ### Redfish (R364, R427, R484) -/

/-- The value that the Halt action writes to FAB.MC_HALT: its target holds SLOT in [5:0] and STREAM in [25:16]. -/
def haltValue (scope target : Nat) (hold : Bool) : Word :=
  wd (2 ^ 63 + b2n hold * 2 ^ 61 + scope % 4 * 2 ^ 26 + target % 2 ^ 26)

/-- FAB.MC_HALT written for a Redfish Halt action, which is then answered with HTTP 202. -/
def haltWritten (s : State) (v : Word) : State := mcHalt (redfish s 202 (fld v 27 26) []) v

/-- A Halt action that may run: 503 while VIN50 is absent. It waits for an MC HALT under way (log 92, DESIGN CHOICE); the
reserved scope, and a part that is not READY, have nothing to halt. -/
def haltAsked (v : Word) (s : State) : State :=
  if !s.power.vinGood then redfish s 503 0 []
  else if fld v 27 26 = 3 ∨ !s.trust.ready then redfish s 400 (fld v 27 26) []
  else if s.fab.mcBusy then { s with fab := { s.fab with mcAsked := s.fab.mcAsked ++ [v] } }
  else haltWritten s v

/-- REDFISH_HALT: HTTP 202 once FAB.MC_HALT has been written. -/
def redfishHalt (role : Role) (scope target : Nat) (hold : Bool) (s : State) : State :=
  if s.trust.mcRunning then asRole .operator role (haltAsked (haltValue scope target hold)) s else s

def execRedfishHalt (role : Role) (scope target : Nat) (hold : Bool) (s : State) : Host.Outcome State Fault Refusal :=
  .next (redfishHalt role scope target hold s)

/-- The Halt action that waits longest is written once no MC HALT is under way. -/
def haltNext (s : State) : State :=
  match s.fab.mcAsked with
  | [] => s
  | v :: rest =>
    if s.fab.mcBusy ∨ !s.trust.mcRunning ∨ !s.trust.ready then s
    else haltWritten { s with fab := { s.fab with mcAsked := rest } } v

/-- A quote joins the security engine's queue; the engine has power only with VIN50. -/
def quoteAsked (nonce : List Byte) (mask : Nat) (s : State) : State :=
  if !s.power.vinGood then redfish s 503 0 []
  else (redfish s 202 mask []).setTrust fun t => { t with quotes := t.quotes ++ [.redfish (mask % 2 ^ 16) nonce] }

/-- REDFISH_ATTESTATION. -/
def redfishAttestation (role : Role) (nonce : List Byte) (mask : Nat) (s : State) : State :=
  if s.trust.mcRunning then asRole .operator role (quoteAsked nonce mask) s else s

def execRedfishAttestation (role : Role) (nonce : List Byte) (mask : Nat) (s : State) : Host.Outcome State Fault Refusal :=
  .next (redfishAttestation role nonce mask s)

/-- UpdateService writes a BOOT, CONFIG or OWNER record. -/
def recordAsked (type_ : Nat) (payload : List Byte) (s : State) : State :=
  if !s.power.vinGood then redfish s 503 type_ []
  else match peatWrite s type_ payload .none with
    | (s, true) => redfish s 200 type_ []
    | (s, false) => redfish s 400 type_ []

/-- REDFISH_UPDATE. -/
def redfishUpdate (role : Role) (type_ : Nat) (payload : List Byte) (s : State) : State :=
  if s.trust.mcRunning && [1, 2, 5].contains type_ then asRole .administrator role (recordAsked type_ payload) s else s

def execRedfishUpdate (role : Role) (type_ : Nat) (payload : List Byte) (s : State) : Host.Outcome State Fault Refusal :=
  .next (redfishUpdate role type_ payload s)

/-- An output is driven over Redfish; a pin that CONFIG made no output is refused (R487). -/
def gpioAsked (pin : Nat) (level : Bool) (s : State) : State :=
  if !(bitOf s.power.gpioDir pin) then redfish s 400 pin []
  else
    let s := redfish s 200 pin []
    let v := s.power.gpioOut
    let off := if bitOf v pin then v - 2 ^ pin else v
    putOut { s with power := { s.power with gpioOut := off + b2n level * 2 ^ pin } } (.gpio pin level)

/-- GPIO_OUTPUT_DRIVE. -/
def gpioDrive (role : Role) (pin : Nat) (level : Bool) (s : State) : State :=
  if !s.trust.mcRunning ∨ 16 ≤ pin ∨ s.power.scanned then s else asRole .administrator role (gpioAsked pin level) s

def execGpioOutputDrive (role : Role) (pin : Nat) (level : Bool) (s : State) : Host.Outcome State Fault Refusal :=
  .next (gpioDrive role pin level s)

/-! ### PLDM (R411, R485) -/

/-- A boot search has use for an image delivered over MCTP: it waits for one, or the part is in recovery. -/
def wantsMctp (s : State) : Bool := match s.trust.search with
  | some x => x.left == [] || x.left.contains .mctp
  | none => false

/-- PLDM_FIRMWARE_UPDATE: component 0 is a BOOT package, which a boot search takes and which is otherwise written to the BOOT
slot; 1 is a CONFIG package; 2 is a tally request. -/
def pldmUpdate (component : Nat) (payload : List Byte) (s : State) : State :=
  if !s.power.mossUp then s
  else match component with
    | 0 =>
      if wantsMctp s then answer (deliverImage s .mctp payload) .done
      else if s.trust.mcRunning then let r := peatWrite s 1 payload .none
        answer r.1 (if r.2 then .done else .refused 0) else s
    | 1 => if s.trust.mcRunning then let r := peatWrite s 2 payload .none
        answer r.1 (if r.2 then .done else .refused 0) else s
    | 2 => tallyRequest .mctp payload false s
    | _ => s

def execPldmFirmwareUpdate (component : Nat) (payload : List Byte) (s : State) : Host.Outcome State Fault Refusal :=
  .next (pldmUpdate component payload s)

/-! ### PMBus (R486) -/

/-- The SMBus address is served: by the MC firmware, and after CONFIG where SMBUS_EN is 1 (R493). -/
def smbusServes (s : State) : Bool :=
  s.trust.mcRunning && (!s.trust.configured || bit (s.reg (pgMgmt + 0x408)) 8)

def pmbus (s : State) (w : Nat) : State := if smbusServes s then answer s (.word (wd w)) else s

/-- A quotient rounded to the nearest number; a tie goes up or down. -/
def roundTie (up : Bool) (n d : Nat) : Nat := if up then (2 * n + d) / (2 * d) else (2 * n + d - 1) / (2 * d)

/-- The mantissa of num/den at exponent e - 16. -/
def mantAt (up : Bool) (num den e : Nat) : Nat :=
  if e ≤ 16 then roundTie up (num * 2 ^ (16 - e)) den else roundTie up num (den * 2 ^ (e - 16))

/-- LINEAR11 of num/den: the smallest exponent whose rounded mantissa fits; the exponent in [15:11]. -/
def linear11 (up : Bool) (num den : Nat) : Nat :=
  let e := ((List.range 32).find? fun e => decide (mantAt up num den e ≤ 1023)).getD 31
  (e + 16) % 32 * 2 ^ 11 + mantAt up num den e % 2 ^ 11

/-- A reading in LINEAR11; which way a tie is rounded the manual does not say. -/
def reading (s : State) (num den : Nat) : State :=
  if linear11 true num den = linear11 false num den then pmbus s (linear11 true num den)
  else match takeFreeBits s 1 with
    | (s, f) => pmbus s (linear11 (f == 1) num den)

/-- STATUS_WORD: OFF is set while READY is clear, TEMPERATURE by R524; what sets VOUT, IOUT_POUT and INPUT is not given. -/
def statusWord (s : State) : State :=
  match takeFreeBits s 3 with
  | (s, f) => pmbus s (f * 2 ^ 13 + b2n (!s.trust.ready) * 2 ^ 6 + b2n s.power.hot * 2 ^ 2)

def execStatusWord (s : State) : Host.Outcome State Fault Refusal := .next (statusWord s)

/-- READ_VIN, in V from 10 mV units. -/
def execReadVin (s : State) : Host.Outcome State Fault Refusal := .next (reading s (fld (regShown s (pgPwr + 0x418)) 15 0) 100)

/-- READ_IIN, in A from 10 mA units. -/
def execReadIin (s : State) : Host.Outcome State Fault Refusal := .next (reading s (fld (regShown s (pgPwr + 0x418)) 31 16) 100)

/-- READ_TEMPERATURE_1: the hottest compute die. -/
def execReadTemperature1 (s : State) : Host.Outcome State Fault Refusal :=
  .next (reading s (s.power.sample.temps.foldl Nat.max 0) 1)

/-- READ_PIN, in W. -/
def execReadPin (s : State) : Host.Outcome State Fault Refusal := .next (reading s (fld (regShown s (pgPwr + 0x418)) 47 32) 1)

/-- PMBUS_REVISION. -/
def execPmbusRevision (s : State) : Host.Outcome State Fault Refusal := .next (pmbus s 0x33)

/-- UNSUPPORTED_PMBUS_COMMAND: any command outside the subset is answered with a NACK. -/
def unsupportedPmbus (command : Nat) (s : State) : State :=
  if [0x79, 0x88, 0x89, 0x8D, 0x97, 0x98].contains command then s else answer s .nack

def execUnsupportedPmbusCommand (command : Nat) (s : State) : Host.Outcome State Fault Refusal := .next (unsupportedPmbus command s)

/-! ### Debug instructions (R429) -/

/-- A debug read of memory. -/
def debugRead (s : State) (a n : Nat) : State :=
  match placeOf a with
  | .tile t _ =>
    if (s.tile t).power = .off then answer s .busError
    else match sramBytes s a n with
      | (s, bs) => answer s (.data bs)
  | _ => match devRead s a n with
    | (s, .ok bs) => answer s (.data bs)
    | (s, .error e) => memFailure s .mc true e

/-- JTAG_DEBUG_INSTRUCTION: refused unless debug is open. -/
def jtagDebug (op : DebugOp) (s : State) : State :=
  if !s.power.vinGood ∨ s.trust.debug = 0 then answer s (.refused 0)
  else match op with
    | .haltCore c =>
      if c < 34 ∧ bitOf s.host.running c ∧ ¬ bitOf s.host.halted c then
        answer { s with host := { s.host with halted := s.host.halted + 2 ^ c } } .done
      else answer s .done
    | .readMem a n => debugRead s a n
    | .readReg a => readRegister .mc a s

def execJtagDebugInstruction (op : DebugOp) (s : State) : Host.Outcome State Fault Refusal := .next (jtagDebug op s)

end Sys2Proof.Machine
end

