-- ==== Sys2Proof/Machine/Dispatch.lean ====
section
/-! DEFINITION. One arm for each command of the part, each a direct call of its meaning. -/

namespace Sys2Proof.Machine

/-- The effect of a command on everything but the queue. -/
def exec (i : Instr) (s : State) : Host.Outcome State Fault Refusal :=
  match i with
  | .slotClaim slot tag => Sys2Proof.Machine.execSlotClaim slot tag s
  | .watchObserve ring => Sys2Proof.Machine.execWatchObserve ring s
  | .openSession slot => Sys2Proof.Machine.execOpenSession slot s
  | .closeSession slot => Sys2Proof.Machine.execCloseSession slot s
  | .openStream slot => Sys2Proof.Machine.execOpenStream slot s
  | .bindPlan slot peers => Sys2Proof.Machine.execBindPlan slot peers s
  | .peerSessionClose session peer => Sys2Proof.Machine.execPeerSessionClose session peer s
  | .run slot => Sys2Proof.Machine.execRun slot s
  | .pause slot => Sys2Proof.Machine.execPause slot s
  | .resume slot => Sys2Proof.Machine.execResume slot s
  | .drain slot => Sys2Proof.Machine.execDrain slot s
  | .resetStream slot => Sys2Proof.Machine.execResetStream slot s
  | .closeStream slot => Sys2Proof.Machine.execCloseStream slot s
  | .submitBatch stream => Sys2Proof.Machine.execSubmitBatch stream s
  | .rearm stream => Sys2Proof.Machine.execRearm stream s
  | .shadowPromote stream slotIx => Sys2Proof.Machine.execShadowPromote stream slotIx s
  | .halt slot => Sys2Proof.Machine.execHalt slot s
  | .snapshot slot => Sys2Proof.Machine.execSnapshot slot s
  | .attest slot => Sys2Proof.Machine.execAttest slot s
  | .quoteSign => Sys2Proof.Machine.execQuoteSign s
  | .slotReclaim who value => Sys2Proof.Machine.execSlotReclaim who value s
  | .completionPost ring => Sys2Proof.Machine.execCompletionPost ring s
  | .deliveryRetry ring => Sys2Proof.Machine.execDeliveryRetry ring s
  | .batchStart stream staging => Sys2Proof.Machine.execBatchStart stream staging s
  | .stageIssue stream batch stage units => Sys2Proof.Machine.execStageIssue stream batch stage units s
  | .stageFinish stream batch stage fault => Sys2Proof.Machine.execStageFinish stream batch stage fault s
  | .commitPoint stream => Sys2Proof.Machine.execCommitPoint stream s
  | .deadlineExpiry stream batch => Sys2Proof.Machine.execDeadlineExpiry stream batch s
  | .stageTimeout stream batch stage => Sys2Proof.Machine.execStageTimeout stream batch stage s
  | .lateArrival stream batch stage => Sys2Proof.Machine.execLateArrival stream batch stage s
  | .recordArrival stream slotIx origin data last => Sys2Proof.Machine.execRecordArrival stream slotIx origin data last s
  | .stallTimerExpiry stream slotIx => Sys2Proof.Machine.execStallTimerExpiry stream slotIx s
  | .weirGrant tile stream blocks => Sys2Proof.Machine.execWeirGrant tile stream blocks s
  | .waitGraphCheck => Sys2Proof.Machine.execWaitGraphCheck s
  | .spillBlockWritten tile stream => Sys2Proof.Machine.execSpillBlockWritten tile stream s
  | .sloughRestore tile stream => Sys2Proof.Machine.execSloughRestore tile stream s
  | .mergeGroupIssue tile group => Sys2Proof.Machine.execMergeGroupIssue tile group s
  | .creditReturn credit held => Sys2Proof.Machine.execCreditReturn credit held s
  | .granuleRead who addr hits ev => Sys2Proof.Machine.execGranuleRead who addr hits ev s
  | .granuleFullWrite who addr data poison hits ev => Sys2Proof.Machine.execGranuleFullWrite who addr data poison hits ev s
  | .granulePartialWrite who addr data poison hits ev => Sys2Proof.Machine.execGranulePartialWrite who addr data poison hits ev s
  | .scrubVisit stack granule hits raced => Sys2Proof.Machine.execScrubVisit stack granule hits raced s
  | .scrubPassStart stack => Sys2Proof.Machine.execScrubPassStart stack s
  | .dieMark who stack value => Sys2Proof.Machine.execDieMark who stack value s
  | .hbmTrainingEnd stack result => Sys2Proof.Machine.execHbmTrainingEnd stack result s
  | .fenLineRead who addr err ev => Sys2Proof.Machine.execFenLineRead who addr err ev s
  | .fenLineWrite who addr data poison err ev => Sys2Proof.Machine.execFenLineWrite who addr data poison err ev s
  | .fenSweepEnd die ticks => Sys2Proof.Machine.execFenSweepEnd die ticks s
  | .fenSpare who die value => Sys2Proof.Machine.execFenSpare who die value s
  | .fenSpareCopyEnd die => Sys2Proof.Machine.execFenSpareCopyEnd die s
  | .fenScrubVisit die line err raced => Sys2Proof.Machine.execFenScrubVisit die line err raced s
  | .culvertWindow stack => Sys2Proof.Machine.execCulvertWindow stack s
  | .decayStep stack => Sys2Proof.Machine.execDecayStep stack s
  | .epochAdvance stack table => Sys2Proof.Machine.execEpochAdvance stack table s
  | .epoch die => Sys2Proof.Machine.execEpoch die s
  | .replicaSlotFree stack table => Sys2Proof.Machine.execReplicaSlotFree stack table s
  | .sketchClear who stack value => Sys2Proof.Machine.execSketchClear who stack value s
  | .hummockHbmWrite who stack value => Sys2Proof.Machine.execHummockHbmWrite who stack value s
  | .hummockFenWrite who stack value => Sys2Proof.Machine.execHummockFenWrite who stack value s
  | .switchReservation table => Sys2Proof.Machine.execSwitchReservation table s
  | .switchTargetReady table => Sys2Proof.Machine.execSwitchTargetReady table s
  | .versionDrain table => Sys2Proof.Machine.execVersionDrain table s
  | .searchKey die decay errs => Sys2Proof.Machine.execSearchKey die decay errs s
  | .updateVerifyDrain die => Sys2Proof.Machine.execUpdateVerifyDrain die s
  | .reedbedScrub die decay => Sys2Proof.Machine.execReedbedScrub die decay s
  | .bankSpare who die value => Sys2Proof.Machine.execBankSpare who die value s
  | .bankSpareFillEnd die => Sys2Proof.Machine.execBankSpareFillEnd die s
  | .ringStep stream batch stage member waited => Sys2Proof.Machine.execRingStep stream batch stage member waited s
  | .partialListMerge stream batch stage row => Sys2Proof.Machine.execPartialListMerge stream batch stage row s
  | .haltMessage unit => Sys2Proof.Machine.execHaltMessage unit s
  | .stopAck unit => Sys2Proof.Machine.execStopAck unit s
  | .streamStopDone stream => Sys2Proof.Machine.execStreamStopDone stream s
  | .sluiceDrained => Sys2Proof.Machine.execSluiceDrained s
  | .weirEdge tile stream => Sys2Proof.Machine.execWeirEdge tile stream s
  | .wake unit => Sys2Proof.Machine.execWake unit s
  | .mcHaltGo who value => Sys2Proof.Machine.execMcHaltGo who value s
  | .mcHaltRelease who value => Sys2Proof.Machine.execMcHaltRelease who value s
  | .d2dReplay link corrected => Sys2Proof.Machine.execD2dReplay link corrected s
  | .d2dRetrain link ok => Sys2Proof.Machine.execD2dRetrain link ok s
  | .laneRepair who link value => Sys2Proof.Machine.execLaneRepair who link value s
  | .registerWrite who addr value => Sys2Proof.Machine.execRegisterWrite who addr value s
  | .rcRead who addr => Sys2Proof.Machine.execRcRead who addr s
  | .busErrorAccess who addr size write atomic => Sys2Proof.Machine.execBusErrorAccess who addr size write atomic s
  | .pgLock who cls inst value => Sys2Proof.Machine.execPgLock who cls inst value s
  | .pgSoftReset who cls inst value => Sys2Proof.Machine.execPgSoftReset who cls inst value s
  | .pgSoftResetEnd cls inst => Sys2Proof.Machine.execPgSoftResetEnd cls inst s
  | .pgEnable who cls inst value => Sys2Proof.Machine.execPgEnable who cls inst value s
  | .pgPwrReq who cls inst value => Sys2Proof.Machine.execPgPwrReq who cls inst value s
  | .bucketLeak cls inst => Sys2Proof.Machine.execBucketLeak cls inst s
  | .bucketConfigWrite who cls inst value => Sys2Proof.Machine.execBucketConfigWrite who cls inst value s
  | .stillTrigger who value => Sys2Proof.Machine.execStillTrigger who value s
  | .stillInEdge highTicks => Sys2Proof.Machine.execStillInEdge highTicks s
  | .stillTimerExpiry => Sys2Proof.Machine.execStillTimerExpiry s
  | .snapshotLatch cls inst => Sys2Proof.Machine.execSnapshotLatch cls inst s
  | .mergeWindowClose => Sys2Proof.Machine.execMergeWindowClose s
  | .stillOutPulseEnd => Sys2Proof.Machine.execStillOutPulseEnd s
  | .refclkLoss => Sys2Proof.Machine.execRefclkLoss s
  | .refclkReturn => Sys2Proof.Machine.execRefclkReturn s
  | .powerSample sample => Sys2Proof.Machine.execPowerSample sample s
  | .tileDoze tile => Sys2Proof.Machine.execTileDoze tile s
  | .tileNap tile => Sys2Proof.Machine.execTileNap tile s
  | .tileWake tile => Sys2Proof.Machine.execTileWake tile s
  | .dieMireEntry die => Sys2Proof.Machine.execDieMireEntry die s
  | .dieMireEntered die => Sys2Proof.Machine.execDieMireEntered die s
  | .dieWake die source => Sys2Proof.Machine.execDieWake die source s
  | .dieActive die => Sys2Proof.Machine.execDieActive die s
  | .deviceIdle => Sys2Proof.Machine.execDeviceIdle s
  | .deviceMire => Sys2Proof.Machine.execDeviceMire s
  | .standbyRequest who value => Sys2Proof.Machine.execStandbyRequest who value s
  | .vsb3v3Good => Sys2Proof.Machine.execVsb3v3Good s
  | .mossResetRelease => Sys2Proof.Machine.execMossResetRelease s
  | .bootSourceTimeout => Sys2Proof.Machine.execBootSourceTimeout s
  | .vsb3v3Loss => Sys2Proof.Machine.execVsb3v3Loss s
  | .vin50PowerGood samples test => Sys2Proof.Machine.execVin50PowerGood samples test s
  | .firmwareLoad => Sys2Proof.Machine.execFirmwareLoad s
  | .configureAndLock config => Sys2Proof.Machine.execConfigureAndLock config s
  | .ready => Sys2Proof.Machine.execReady s
  | .vin50OutOfRange cause => Sys2Proof.Machine.execVin50OutOfRange cause s
  | .offTimeEnd => Sys2Proof.Machine.execOffTimeEnd s
  | .thermtrip sensor reading => Sys2Proof.Machine.execThermtrip sensor reading s
  | .thermtripClear hottest => Sys2Proof.Machine.execThermtripClear hottest s
  | .fieldSelfTest die failedTiles => Sys2Proof.Machine.execFieldSelfTest die failedTiles s
  | .measExtend who value => Sys2Proof.Machine.execMeasExtend who value s
  | .jtagUnlock signer pubkey token => Sys2Proof.Machine.execJtagUnlock signer pubkey token s
  | .tallyRequest path block auditFails => Sys2Proof.Machine.execTallyRequest path block auditFails s
  | .tallySlotVerify ok auditFails => Sys2Proof.Machine.execTallySlotVerify ok auditFails s
  | .tfWrite who addr value => Sys2Proof.Machine.execTfWrite who addr value s
  | .peatRecordWrite type_ payload event => Sys2Proof.Machine.execPeatRecordWrite type_ payload event s
  | .peatPatrol corrected unread => Sys2Proof.Machine.execPeatPatrol corrected unread s
  | .hartStart who value => Sys2Proof.Machine.execHartStart who value s
  | .coreWake core irq => Sys2Proof.Machine.execCoreWake core irq s
  | .frameReceive port frame => Sys2Proof.Machine.execFrameReceive port frame s
  | .rdmaWrite req => Sys2Proof.Machine.execRdmaWrite req s
  | .rdmaWriteWithImmediate req => Sys2Proof.Machine.execRdmaWriteWithImmediate req s
  | .rdmaRead req => Sys2Proof.Machine.execRdmaRead req s
  | .roceSend req => Sys2Proof.Machine.execRoceSend req s
  | .atomicCompareAndSwap req compare swap => Sys2Proof.Machine.execAtomicCompareAndSwap req compare swap s
  | .atomicFetchAndAdd req addend => Sys2Proof.Machine.execAtomicFetchAndAdd req addend s
  | .ackTimeout port qp => Sys2Proof.Machine.execAckTimeout port qp s
  | .nakReceived port qp code => Sys2Proof.Machine.execNakReceived port qp code s
  | .udpDatagram port srcIp srcPort dstIp dstPort data => Sys2Proof.Machine.execUdpDatagram port srcIp srcPort dstIp dstPort data s
  | .qpLoad who port value => Sys2Proof.Machine.execQpLoad who port value s
  | .qpReset who port value => Sys2Proof.Machine.execQpReset who port value s
  | .autonegRetry port => Sys2Proof.Machine.execAutonegRetry port s
  | .ethLaneSpare port lane => Sys2Proof.Machine.execEthLaneSpare port lane s
  | .nvmeCompletion queue status data => Sys2Proof.Machine.execNvmeCompletion queue status data s
  | .pcieWindowRead offset len errs => Sys2Proof.Machine.execPcieWindowRead offset len errs s
  | .pcieWindowWrite offset data errs => Sys2Proof.Machine.execPcieWindowWrite offset data errs s
  | .pcieAtomicCas size offset compare swap => Sys2Proof.Machine.execPcieAtomicCas size offset compare swap s
  | .pcieAtomicFetchAdd size offset addend => Sys2Proof.Machine.execPcieAtomicFetchAdd size offset addend s
  | .recoveryMailboxWrite offset value => Sys2Proof.Machine.execRecoveryMailboxWrite offset value s
  | .cfgDataAccess who write value => Sys2Proof.Machine.execCfgDataAccess who write value s
  | .mmioDataAccess who write value => Sys2Proof.Machine.execMmioDataAccess who write value s
  | .nvmeQueueEnable who queue value => Sys2Proof.Machine.execNvmeQueueEnable who queue value s
  | .redfishHalt role scope target hold => Sys2Proof.Machine.execRedfishHalt role scope target hold s
  | .redfishAttestation role nonce mask => Sys2Proof.Machine.execRedfishAttestation role nonce mask s
  | .redfishUpdate role type_ payload => Sys2Proof.Machine.execRedfishUpdate role type_ payload s
  | .pldmFirmwareUpdate component payload => Sys2Proof.Machine.execPldmFirmwareUpdate component payload s
  | .statusWord => Sys2Proof.Machine.execStatusWord s
  | .readVin => Sys2Proof.Machine.execReadVin s
  | .readIin => Sys2Proof.Machine.execReadIin s
  | .readTemperature1 => Sys2Proof.Machine.execReadTemperature1 s
  | .readPin => Sys2Proof.Machine.execReadPin s
  | .pmbusRevision => Sys2Proof.Machine.execPmbusRevision s
  | .wakeN lowTicks => Sys2Proof.Machine.execWakeN lowTicks s
  | .ethLinkUp port mode => Sys2Proof.Machine.execEthLinkUp port mode s
  | .ethLinkDown port => Sys2Proof.Machine.execEthLinkDown port s
  | .mgmtLinkUp mode fec => Sys2Proof.Machine.execMgmtLinkUp mode fec s
  | .mgmtLinkDown => Sys2Proof.Machine.execMgmtLinkDown s
  | .pcieLinkUp port rate width => Sys2Proof.Machine.execPcieLinkUp port rate width s
  | .pcieLinkDown port => Sys2Proof.Machine.execPcieLinkDown port s
  | .ackReceived port qp data => Sys2Proof.Machine.execAckReceived port qp data s
  | .pwrokRelease => Sys2Proof.Machine.execPwrokRelease s
  | .boundaryScanExtest => Sys2Proof.Machine.execBoundaryScanExtest s
  | .jtagDebugInstruction op => Sys2Proof.Machine.execJtagDebugInstruction op s
  | .msiXTableWrite offset value => Sys2Proof.Machine.execMsiXTableWrite offset value s
  | .inboundDeviceRequest write addr data errs => Sys2Proof.Machine.execInboundDeviceRequest write addr data errs s
  | .unsupportedPmbusCommand command => Sys2Proof.Machine.execUnsupportedPmbusCommand command s
  | .gpioOutputDrive role pin level => Sys2Proof.Machine.execGpioOutputDrive role pin level s

end Sys2Proof.Machine
end

