-- ==== Sys2Proof/Machine/Tick.lean ====
section
/-! DEFINITION. What one Moss tick does when no command waits (log 2, DESIGN CHOICE): the counts of the manual that run with time. Every
other effect of time is a command of the table, which its own meaning holds to its time. -/

namespace Sys2Proof.Machine

/-- The pass clock of a stack runs while its patrol scrub does (R104). -/
def tickStack (s : State) (k : Nat) : State :=
  if scrubRuns s k then s.setStack k fun t => { t with passClock := t.passClock + 1 } else s

/-- The copy of a Fen layer stands still while the Sluice drains or is quiet (R114, R362). -/
def tickCopy (s : State) (d : Nat) : State :=
  if (s.fen d).copying.isSome && (s.fab.phase == .draining || s.fab.phase == .quiet) then
    s.setFen d fun f => { f with copyStart := f.copyStart + 1 }
  else s

/-- Does a replica change of an engine wait for a live epoch to drain (R166)? -/
def epochWaits (s : State) (k : Nat) : Bool := (s.culv k).changes.any fun c => decide (4 ≤ (s.culv k).liveCount c.table)

/-- CULV.EPOCH_WAIT counts each tick of that waiting (R166). -/
def tickEpoch (s : State) (k : Nat) : State := if epochWaits s k then bump s (pgCulv k + 0x4D8) 1 else s

/-- CLK.THROTTLE_TICKS counts the ticks spent below TCLK_CAP. -/
def tickClock (s : State) : State :=
  if s.power.vinGood && decide (s.rfld (pgClk + 0x410) 15 0 < s.rfld (pgClk + 0x418) 15 0) then bump s (pgClk + 0x428) 1
  else s

/-- The idle time of a die starts again at the end of a tick in which it was not idle (R395). -/
def tickDie (s : State) (d : Nat) : State := if dieIdle s d then s else s.setDie d fun x => { x with lastUse := s.tick + 1 }

/-! ### Repairs that the MC makes (R498, R503, R507) -/

/-- What the MC does by itself is the answer to nobody's access. -/
def byItself (go : State → State) (s : State) : State := { go s with resp := s.resp }

/-- A repair on a die: the MC wakes one in MIRE through AWAKE first. -/
def onDie (s : State) (d : Nat) (go : State → State) : State :=
  match (s.die d).power with
  | .active => byItself go s
  | .mire => wakeDieBy s d 3
  | _ => s

/-- Is a logical layer of a die due to be spared: 1,024 corrected lines in one scrub pass, or 2 uncorrectable in a day? -/
def layerWorn (s : State) (d layer : Nat) : Bool :=
  let f := s.fen d
  let p := f.layers.getD layer 5
  decide (1024 ≤ f.passCe.getD p 0) || decide (2 ≤ (f.ueAt.filter fun e => e.1 == p && decide (s.tick < e.2 + dayTicks)).length)

/-- A worn Fen layer is spared, once for each cause. -/
def tickLayer (s : State) (d : Nat) : State :=
  if (s.fen d).copying.isSome ∨ !s.trust.mcRunning then s
  else match (List.range 4).find? (layerWorn s d) with
    | none => s
    | some l => onDie s d fun s =>
      let p := (s.fen d).layers.getD l 5
      fenSpare .mc d (wd l) (s.setFen d fun f => { f with passCe := setAt f.passCe p 0, ueAt := f.ueAt.filter (·.1 != p) })

/-- Has a Reedbed bank had 16 scrub rewrites in an hour? -/
def bankWorn (s : State) (d b : Nat) : Bool :=
  decide (16 ≤ ((s.reed d).rewrites.filter fun e => e.1 == b && decide (s.tick < e.2 + hourTicks)).length)

/-- Such a bank is spared. -/
def tickBank (s : State) (d : Nat) : State :=
  if (s.reed d).copying.isSome ∨ !s.trust.mcRunning then s
  else match (List.range 32).find? (bankWorn s d) with
    | none => s
    | some b => onDie s d fun s =>
      bankSpare .mc d (wd b) (s.setReed d fun x => { x with rewrites := x.rewrites.filter (·.1 != b) })

/-- A lane blamed for two failed replay sequences in an hour is repaired, where the link still carries traffic. -/
def tickLane (s : State) (l : Nat) : State :=
  let again (e : Nat × Nat × Nat) : Bool :=
    e.1 == l && decide (2 ≤ (s.fab.blames.filter fun x => x.1 == l && x.2.1 == e.2.1 && decide (s.tick < x.2.2 + hourTicks)).length)
  if s.fab.repairing.getD l false ∨ !(linkUp s l) ∨ !s.trust.mcRunning then s
  else match s.fab.blames.find? again with
    | none => s
    | some e => byItself (fun s =>
      laneRepair .mc l (wd e.2.1) { s with fab := { s.fab with blames := s.fab.blames.filter fun x => !(x.1 == l && x.2.1 == e.2.1) } }) s

/-- Have 4 uncorrectable SRAM words of a tile been counted within 1 s (R503)? -/
def tileWorn (s : State) (t : Nat) : Bool :=
  decide (4 ≤ ((s.tile t).ueTicks.filter fun k => decide (s.tick < k + 25000000)).length)

/-- Such a tile is quarantined. -/
def tickTile (s : State) (t : Nat) : State := if tileWorn s t then quarantine s t else s

/-- What runs with time by itself: the pass clocks, a copy held up, EPOCH_WAIT, the tiles' engines, the dies' idle times and
THROTTLE_TICKS. -/
def tickTime (s : State) : State :=
  let s := (List.range 12).foldl tickStack s
  let s := (List.range 4).foldl tickCopy s
  let s := (List.range 12).foldl tickEpoch s
  let s := (List.range 52).foldl tickMover s
  let s := (List.range 4).foldl tickDie s
  tickClock s

/-- What the MC and the dispatcher do once it is due: marks, quarantines, repairs, and a HALT that waited for another's end. -/
def tickMc (s : State) : State :=
  let s := (List.range 12).foldl tickMark s
  let s := (List.range 52).foldl tickTile s
  let s := (List.range 4).foldl tickLayer s
  let s := (List.range 4).foldl tickBank s
  let s := (List.range 8).foldl tickLane s
  haltNext s

/-- Is none of that due? -/
def mcIdle (s : State) : Bool :=
  (List.range 12).all (fun k => (s.stack k).markDue.isEmpty)
    && (List.range 52).all (fun t => !(tileWorn s t))
    && (List.range 4).all (fun d => (List.range 4).all fun l => !(layerWorn s d l))
    && (List.range 4).all (fun d => (List.range 32).all fun b => !(bankWorn s d b))
    && s.fab.blames.isEmpty && s.fab.mcAsked.isEmpty

/-- One Moss tick. Without VSB3V3 nothing is powered and nothing changes (R390). -/
def mossTick (s : State) : State :=
  if s.power.vsbGood then
    let s := tickMc (tickTime s)
    { s with
      tick := s.tick + 1
      power := { s.power with issueGate := s.power.issueGate - 1 } }
  else s

end Sys2Proof.Machine
end

