-- ==== Sys2Proof/Safety.lean ====
section
/-! DEFINITION. The terms claims use: the canonical form of every store, the sizes of the part's arrays, the reading of one
byte, and what an unused part of the state is. -/

namespace Sys2Proof.Machine

/-- Memory, registers, the fill map and its words, Fen lines, tile SRAM and leak timers are in canonical form, so that equal
contents are equal data. -/
def State.storesOk (s : State) : Bool :=
  Memory.wf s.mem && cellsWf regReset s.regs && cellsWf granDefault s.gran && cellsWf fenLineDefault s.fenLines
    && cellsWf wordDefault s.fillWords && cellsWf (fun _ => none) s.sram && cellsWf (fun _ => 0) s.leaks

/-- The part has as many stacks, dies, tiles, slots, ports and banks as the manual gives it. -/
def State.sizesOk (s : State) : Bool :=
  decide (s.hbms.length = 12) && decide (s.fens.length = 4) && decide (s.tiles.length = 52) && decide (s.dies.length = 4)
    && decide (s.reeds.length = 4) && decide (s.tables.culvs.length = 12) && decide (s.tables.hummock.length = 4)
    && decide (s.disp.slots.length = 64) && decide (s.disp.movers.length = 52) && decide (s.ext.ports.length = 4)
    && decide (s.banks.length = 2) && decide (s.fab.linkUp.length = 8) && decide (s.fab.linkDown.length = 8)
    && decide (s.fuses.repairDie.length = 4) && decide (s.fuses.repairHbm.length = 12) && decide (s.trust.meas.length = 16) && decide (s.trust.measCnt.length = 16)

/-- The invariant that statements about single commands assume. -/
def State.sound (s : State) : Bool := s.storesOk && s.sizesOk

/-- No line of the host cores' cache is dirty: memory holds what the cores have stored, and a read writes nothing back (R455, R456). -/
def State.clean (s : State) : Bool := s.host.cache.all fun x => x.dirty == []

/-- One byte of HBM or Fen memory as it is stored, by its stack-view or Fen address. -/
def State.byteAt (s : State) (a : Nat) : Byte := memGet s.mem a

/-- No slot of a tally setting or a repair pool that a state has used is unused in another (R442): the counts of used slots
do not fall. -/
def Fuses.noneReturned (f g : Fuses) : Prop :=
  f.lifeUsed ≤ g.lifeUsed ∧ f.svnUsed ≤ g.svnUsed ∧ f.revokes ≤ g.revokes ∧ f.floorUsed ≤ g.floorUsed
    ∧ f.overrideUsed ≤ g.overrideUsed ∧ f.repairIod ≤ g.repairIod
    ∧ (∀ d, f.repairDie.getD d 0 ≤ g.repairDie.getD d 0) ∧ (∀ k, f.repairHbm.getD k 0 ≤ g.repairHbm.getD k 0)

/-- What a trigger does (R380, R383, R386): with the merge window open it joins the open snapshot, whose number stays and
whose sources gain it; otherwise it starts the next snapshot, whose number skips 0, at the present tick, and drives STILL_OUT
unless STILL_IN is not forwarded. -/
def Triggered (s t : State) (src : Nat) : Prop :=
  (s.still.mergeOpen = true →
    t.rfld (pgStill + 0x420) 31 0 = s.rfld (pgStill + 0x420) 31 0
    ∧ t.reg (pgStill + 0x428) = s.reg (pgStill + 0x428) ||| BitVec.ofNat 64 src ∧ t.still.toLatch = s.still.toLatch)
  ∧ (s.still.mergeOpen = false →
    t.rfld (pgStill + 0x420) 31 0 = (if s.rfld (pgStill + 0x420) 31 0 = 0xFFFFFFFF then 1 else s.rfld (pgStill + 0x420) 31 0 + 1)
    ∧ t.reg (pgStill + 0x428) = BitVec.ofNat 64 src ∧ t.reg (pgStill + 0x430) = BitVec.ofNat 64 s.tick
    ∧ t.still.pulse = (if src = srcStillIn ∧ s.rfld (pgStill + 0x408) 1 1 = 0 then s.still.pulse else some s.tick)
    ∧ (∀ p, p ∈ t.still.toLatch ↔ p ∈ allPages ∧ pageOn s p = true ∧ pageEn s p = true))
  ∧ t.still.mergeOpen = true ∧ t.mem = s.mem ∧ t.gran = s.gran ∧ t.fenLines = s.fenLines ∧ t.disp = s.disp ∧ t.fuses = s.fuses

/-- A completion of a control record waits for its turn in the slot's SCOMP_RING. -/
def Completes (t : State) (slot : Nat) (r : Rec) (status count : Nat) : Prop :=
  ∃ o, t.ringOut (.scomp slot) = some o ∧ ∃ u ∈ o.turns, u.idx = r.idx ∧ ∃ c, u.comp = some c ∧ c.status = status
    ∧ c.tag = r.tag ∧ c.opcode = r.op ∧ c.stream = r.stream ∧ c.count = count

/-- A completion of a control record with COUNT and AUX waits for its turn in the slot's SCOMP_RING. -/
def CompletesWith (t : State) (slot : Nat) (r : Rec) (status count aux : Nat) : Prop :=
  ∃ o, t.ringOut (.scomp slot) = some o ∧ ∃ u ∈ o.turns, u.idx = r.idx ∧ ∃ c, u.comp = some c ∧ c.status = status
    ∧ c.tag = r.tag ∧ c.opcode = r.op ∧ c.stream = r.stream ∧ c.count = count ∧ c.aux = aux

/-- A completion of a batch or a stream ring's record waits for its turn in the stream's completion ring. -/
def Answered (t : State) (stream idx status : Nat) : Prop :=
  ∃ o, t.ringOut (.comp stream) = some o ∧ ∃ u ∈ o.turns, u.idx = idx ∧ ∃ c, u.comp = some c ∧ c.status = status ∧ c.stream = stream

/-- The turn of a ring index is open: it waits for its completion, and no descriptor of a REARM owns it. -/
def TurnWaits (x : Stream) (idx : Nat) : Prop :=
  (∃ u ∈ x.cring.turns, u.idx = idx ∧ u.comp = none)
    ∧ ∀ q ∈ x.slots, ∀ d ∈ q.old ++ q.active.toList ++ q.shadow.toList, d.idx ≠ idx

/-- The state of a stream (R46). -/
def State.streamState (s : State) (id : Nat) : SState := ((s.open? id).map (·.state)).getD .closed

/-- Streams other than one are as they were. -/
def OthersKept (s t : State) (id : Nat) : Prop := ∀ j, j ≠ id → t.stream? j = s.stream? j

/-- Streams other than one are as they were, but for the blocks that they hold and wait for on tiles (R73, R74). -/
def OthersButBlocks (s t : State) (id : Nat) : Prop :=
  ∀ j, j ≠ id → (t.stream? j).map (fun x => { x with holds := [] }) = (s.stream? j).map (fun x => { x with holds := [] })

end Sys2Proof.Machine
end

