-- ==== Sys2Proof/WellFormed.lean ====
section
/-! DEFINITION. Which commands name things the part has: every slot, stream, tile, stack, die, link, port, page and core
an operand names exists, every address lies in the device address map, and bytes fit what carries them. A command with an
operand out of range is no command of the part. -/

namespace Sys2Proof

/-- 64 session slots (R25). -/
def okSlot (n : Nat) : Bool := decide (n < 64)
/-- 1,024 streams (R46). -/
def okStream (n : Nat) : Bool := decide (n < 1024)
/-- 64 stages of a plan (R59). -/
def okStage (n : Nat) : Bool := decide (n < 64)
/-- 16 transfer slots of a stream (R77). -/
def okTSlot (n : Nat) : Bool := decide (n < 16)
/-- 52 tiles: 13 positions on each of 4 dies (the parts of chapter 1). -/
def okTile (n : Nat) : Bool := decide (n < 52)
/-- 12 HBM stacks (R90). -/
def okStack (n : Nat) : Bool := decide (n < 12)
/-- 4 compute dies (R90). -/
def okDie (n : Nat) : Bool := decide (n < 4)
/-- 8 D2D links (R350). -/
def okLink (n : Nat) : Bool := decide (n < 8)
/-- 4 data ports (R467). -/
def okPort (n : Nat) : Bool := decide (n < 4)
/-- The data ports and the management port (R468, R483). -/
def okAnyPort (n : Nat) : Bool := decide (n < 5)
/-- 34 physical host cores (R452). -/
def okCore (n : Nat) : Bool := decide (n < 34)
/-- 16-bit table and rule-set numbers (R124, R224). -/
def okTable (n : Nat) : Bool := decide (n < 65536)
/-- A device address has 44 bits (R90). -/
def okAddr (a : Nat) : Bool := decide (a < 2 ^ 44)
/-- A value of 64 bits. -/
def ok64 (v : Nat) : Bool := decide (v < 2 ^ 64)
/-- A value of 32 bits. -/
def ok32 (v : Nat) : Bool := decide (v < 2 ^ 32)
/-- 24-bit queue pair numbers (R470). -/
def okQp (n : Nat) : Bool := decide (n < 2 ^ 24)
/-- A write carries at least one byte and at most so many. -/
def okData (n : Nat) (bs : List Byte) : Bool := decide (0 < bs.length) && decide (bs.length ≤ n)
/-- The pages of each class (R370). -/
def okPage (cls inst : Nat) : Bool :=
  decide (inst < match cls with
    | 5 | 6 => 12
    | 7 | 9 => 4
    | 8 => 52
    | 11 => 16
    | 12 | 13 | 23 => 8
    | 15 => 4
    | 1 | 2 | 3 | 4 | 10 | 14 | 16 | 17 | 18 | 19 | 20 | 21 | 22 => 1
    | _ => 0)
/-- A wrong symbol lies in one of ten slices of 32 codes and differs in one to eight bits (R94). -/
def okErr (e : SymErr) : Bool := decide (e.m < 10) && decide (e.t < 32) && decide (0 < e.x) && decide (e.x < 256)
/-- What has struck a stack: symbols of its granules and bits of its fill-map words (R94, R103). -/
def okHits (h : HbmHits) : Bool :=
  h.syms.all (fun e => decide (e.1 < 213909504) && okErr e.2) && h.words.all fun w => decide (w.1 < 213909504 / 32)
/-- Hops of the fabric: four directions of each of 80 routers, and both of each of 8 D2D links; five lanes each (R350, R353). -/
def okCredit : Credit → Bool
  | .tile t _ => okTile t
  | .culvert t k => okTile t && okStack k
  | .lane h l => decide (h < 336) && decide (l < 5)
/-- A source of an interrupt that the interrupt map gives (R463, R464). -/
def okIrq : CoreIrq → Bool
  | .mtimer c | .stimer c => ok64 c
  | .aplic n => decide (n < 256)
  | .msi f i => decide (f < 9) && decide (i < 2048)
def okRing : RingRef → Bool
  | .ctl slot => okSlot slot
  | .stream id => okStream id
def okComp : CompRef → Bool
  | .scomp slot => okSlot slot
  | .comp id => okStream id
def okUnit : StopUnit → Bool
  | .tile t => okTile t
  | .culv s => okStack s
  | .reed d => okDie d
  | .defl n => decide (n < 16)
  | .pict n | .text n => decide (n < 8)
  | .eth p => okPort p
  | .shuf | .pcie | .disp => true
def okReq (r : RdmaReq) : Bool := okPort r.port && okQp r.qp && ok32 r.rkey && ok64 r.addr && ok32 r.len && ok32 r.imm

/-- The checks of a command's operands. -/
def Instr.wf : Instr → Bool
  | .slotClaim slot tag => okSlot slot && ok64 tag && decide (tag ≠ 0)
  | .watchObserve r => okRing r
  | .openSession slot | .closeSession slot | .openStream slot | .bindPlan slot _ | .run slot | .pause slot | .resume slot
  | .drain slot | .resetStream slot | .closeStream slot | .halt slot | .snapshot slot | .attest slot => okSlot slot
  | .peerSessionClose session _ => okSlot session
  | .submitBatch id | .rearm id | .commitPoint id | .streamStopDone id => okStream id
  | .shadowPromote id k | .stallTimerExpiry id k => okStream id && okTSlot k
  | .quoteSign => true
  | .slotReclaim _ _ => true
  | .completionPost r | .deliveryRetry r => okComp r
  | .batchStart id _ => okStream id
  | .stageIssue id _ i _ | .stageFinish id _ i _ | .stageTimeout id _ i | .lateArrival id _ i
  | .ringStep id _ i _ _ | .partialListMerge id _ i _ => okStream id && okStage i
  | .deadlineExpiry id _ => okStream id
  | .recordArrival id k origin _ _ => okStream id && okTSlot k && decide (origin.length ≤ 32)
  | .weirGrant t id _ | .spillBlockWritten t id | .sloughRestore t id | .weirEdge t id => okTile t && okStream id
  | .waitGraphCheck => true
  | .creditReturn c _ => okCredit c
  | .mergeGroupIssue t _ | .tileDoze t | .tileNap t | .tileWake t => okTile t
  | .granuleRead _ a hits _ => okAddr a && okHits hits
  | .granuleFullWrite _ a data _ hits _ => okAddr a && decide (a % 256 = 0) && decide (data.length = 256) && okHits hits
  | .granulePartialWrite _ a data _ hits _ => okAddr a && okData 255 data && decide (a % 256 + data.length ≤ 256) && okHits hits
  | .scrubVisit k g hits _ => okStack k && decide (g < 213909504) && okHits hits
  | .scrubPassStart k | .culvertWindow k | .decayStep k => okStack k
  | .dieMark _ k _ | .sketchClear _ k _ | .hummockHbmWrite _ k _ | .hummockFenWrite _ k _ => okStack k
  | .hbmTrainingEnd k r => okStack k && decide (r.failedDie.getD 0 < 16)
  | .fenLineRead _ a _ _ => okAddr a
  | .fenLineWrite _ a data _ _ _ => okAddr a && okData 64 data && decide (a % 64 + data.length ≤ 64)
  | .fenSweepEnd d _ | .fenSpareCopyEnd d | .epoch d | .updateVerifyDrain d | .bankSpareFillEnd d | .dieMireEntry d
  | .dieMireEntered d | .dieActive d => okDie d
  | .fenSpare _ d _ | .bankSpare _ d _ => okDie d
  | .fenScrubVisit d line _ _ => okDie d && decide (line < 2 ^ 27)
  | .searchKey d _ _ | .reedbedScrub d _ => okDie d
  | .epochAdvance k t | .replicaSlotFree k t => okStack k && okTable t
  | .switchReservation t | .switchTargetReady t | .versionDrain t => okTable t
  | .haltMessage u | .stopAck u => okUnit u
  | .sluiceDrained => true
  | .wake (.tile t) => okTile t
  | .wake (.page c i) => okPage c i
  | .mcHaltGo _ _ | .mcHaltRelease _ _ => true
  | .d2dReplay l _ | .d2dRetrain l _ => okLink l
  | .laneRepair _ l _ => okLink l
  | .registerWrite _ a _ | .rcRead _ a | .tfWrite _ a _ => okAddr a
  | .busErrorAccess _ a size _ _ => okAddr a && decide (0 < size) && decide (size ≤ 8)
  | .pgLock _ c i _ | .pgSoftReset _ c i _ | .pgEnable _ c i _ | .pgPwrReq _ c i _ | .bucketConfigWrite _ c i _ => okPage c i
  | .pgSoftResetEnd c i | .bucketLeak c i | .snapshotLatch c i => okPage c i
  | .stillTrigger _ _ | .stillInEdge _ | .stillTimerExpiry | .mergeWindowClose | .stillOutPulseEnd => true
  | .refclkLoss | .refclkReturn => true
  | .powerSample p => decide (p.temps.length = 4) && decide (p.hbmTemps.length = 12)
  | .dieWake d source => okDie d && decide (source < 16)
  | .deviceIdle | .deviceMire | .vsb3v3Good | .mossResetRelease | .bootSourceTimeout | .vsb3v3Loss | .firmwareLoad | .ready
  | .offTimeEnd | .pwrokRelease | .boundaryScanExtest | .mgmtLinkDown => true
  | .standbyRequest _ _ => true
  | .vin50PowerGood _ _ => true
  | .configureAndLock _ => true
  | .vin50OutOfRange _ => true
  | .thermtrip sensor _ => decide (sensor < 30)
  | .thermtripClear _ => true
  | .fieldSelfTest d ts => okDie d && ts.all okTile
  | .measExtend _ _ => true
  | .jtagUnlock _ _ _ => true
  | .tallyRequest _ _ _ => true
  | .tallySlotVerify _ _ => true
  | .peatRecordWrite t _ _ => decide (t < 256)
  | .peatPatrol _ _ => true
  | .hartStart _ _ => true
  | .coreWake c irq => okCore c && okIrq irq
  | .frameReceive p _ => okPort p
  | .rdmaWrite r | .rdmaWriteWithImmediate r | .rdmaRead r | .roceSend r => okReq r
  | .atomicCompareAndSwap r c x => okReq r && ok64 c && ok64 x
  | .atomicFetchAndAdd r n => okReq r && ok64 n
  | .ackTimeout p q => okPort p && okQp q
  | .nakReceived p q code => okPort p && okQp q && decide (code < 256)
  | .udpDatagram p a b c d _ => okPort p && decide (a < 2 ^ 128) && decide (b < 65536) && decide (c < 2 ^ 128) && decide (d < 65536)
  | .qpLoad _ p _ | .qpReset _ p _ => okPort p
  | .autonegRetry p => okAnyPort p
  | .ethLaneSpare p lane => okPort p && decide (lane < 8)
  | .nvmeCompletion q status _ => decide (q < 16) && decide (status < 2 ^ 15)
  | .pcieWindowRead o len _ => ok64 o && decide (0 < len) && decide (len ≤ 4096)
  | .pcieWindowWrite o data _ => ok64 o && okData 4096 data
  | .pcieAtomicCas n o c x => [4, 8, 16].contains n && ok64 o && decide (c < 2 ^ 128) && decide (x < 2 ^ 128)
  | .pcieAtomicFetchAdd n o x => [4, 8].contains n && ok64 o && ok64 x
  | .recoveryMailboxWrite o v => ok64 o && ok64 v
  | .cfgDataAccess _ _ _ | .mmioDataAccess _ _ _ => true
  | .nvmeQueueEnable _ q _ => decide (q < 16)
  | .redfishHalt _ scope _ _ => decide (scope < 3)
  | .redfishAttestation _ nonce mask => decide (nonce.length = 64) && decide (mask < 65536)
  | .redfishUpdate _ t _ => decide (t < 256)
  | .pldmFirmwareUpdate c _ => decide (c < 65536)
  | .statusWord | .readVin | .readIin | .readTemperature1 | .readPin | .pmbusRevision => true
  | .wakeN _ => true
  | .ethLinkUp p _ => okPort p
  | .ethLinkDown p => okPort p
  | .mgmtLinkUp _ _ => true
  | .pcieLinkUp p _ _ => okPort p
  | .pcieLinkDown p => okPort p
  | .ackReceived p q _ => okPort p && okQp q
  | .jtagDebugInstruction _ => true
  | .msiXTableWrite o _ => decide (o < 65536)
  | .inboundDeviceRequest _ a _ _ => ok64 a
  | .unsupportedPmbusCommand c => decide (c < 256)
  | .gpioOutputDrive _ pin _ => decide (pin < 16)

end Sys2Proof
end

