-- ==== Sys2Proof/Certificates/Slice0/Obligations.lean ====
section
/-! DEFINITION. The statements for the provers: what the commands of each family do, what they leave as it was, and what every
step keeps. A statement about a command assumes no more than State.sound (an invariant stated here) and the condition under
which the manual lets the command act. -/

open Sys2Proof Sys2Proof.Machine

/-! ### The machine as a whole -/

/-- A step with a command in front of the queue is that command's effect on the state with the queue's rest. -/
def Obligations.StepRunsFrontCommand : Prop :=
  ∀ (c : Instr) (rest : List Instr) (s : State),
    step { s with pending := c :: rest } = exec c { s with pending := rest }

/-- A step on an empty queue is one Moss tick. Without VSB3V3 it changes nothing. With VSB3V3 good, and nothing due that the MC
makes by itself and no tile's engine at work, DISP.TICK advances by 1 and memory, the fill map, the dispatcher, the fuses, what
was sent, and every register stand as they were, but for CLK.THROTTLE_TICKS and CULV.EPOCH_WAIT. The use of an empty queue is
the model's choice (log 2, DESIGN CHOICE). -/
def Obligations.IdleStepIsOneMossTick : Prop :=
  (∀ s : State, s.pending = [] → s.power.vsbGood = false → step s = .next s)
  ∧ (∀ s : State, s.sound = true → s.pending = [] → s.power.vsbGood = true → mcIdle s = true →
      (∀ t, t < 52 → s.mover t = {}) →
      ∃ t, step s = .next t ∧ t.tick = s.tick + 1 ∧ t.pending = [] ∧ t.mem = s.mem ∧ t.gran = s.gran
        ∧ t.fillWords = s.fillWords ∧ t.fenLines = s.fenLines ∧ t.sram = s.sram ∧ t.disp = s.disp ∧ t.fuses = s.fuses
        ∧ t.trust = s.trust ∧ t.out = s.out ∧ t.resp = s.resp
        ∧ (∀ k, k ≠ pgClk + 0x428 → (∀ i, k ≠ pgCulv i + 0x4D8) → t.reg k = s.reg k))

/-- In State.reset every register of register space holds its reset value, nothing waits, no byte of memory is listed, and
every store and array is sound. -/
def Obligations.ResetRegistersAndStores : Prop :=
  State.reset.sound = true ∧ State.reset.clean = true ∧ State.reset.pending = [] ∧ (∀ k, State.reset.reg k = regReset k)
    ∧ (∀ a, State.reset.byteAt a = 0) ∧ State.reset.power.vsbGood = false ∧ State.reset.power.vinGood = false

/-- Every step of every command keeps the canonical form of device memory, and of every sparse store (memory, registers, the fill map
and its words, Fen lines, tile SRAM and leak timers). -/
def Obligations.StepKeepsStores : Prop :=
  (∀ s t : State, Memory.wf s.mem = true → step s = .next t → Memory.wf t.mem = true)
  ∧ (∀ s t : State, s.storesOk = true → step s = .next t → t.storesOk = true)

/-- Every step keeps the sizes of the part's arrays. -/
def Obligations.StepKeepsSizes : Prop :=
  ∀ s t : State, s.sizesOk = true → step s = .next t → t.sizesOk = true

/-- No step gives back a used slot of a tally setting or of a repair pool.
No step takes a part back to an earlier lifecycle state: it stays or moves to one that R428 lets follow. -/
def Obligations.FusesAndLifecycleMoveForward : Prop :=
  (∀ s t : State, step s = .next t → s.fuses.noneReturned t.fuses)
  ∧ (∀ s t : State, step s = .next t →
       t.fuses.life = s.fuses.life ∨ ∃ v, lifeNext s.fuses.life v = some t.fuses.life)

/-- Any number of wrong symbols in one slice of a granule are corrected: from the data, the check slices that the encoder gives
it and those wrong symbols, what the decoder gives is the data written. -/
def Obligations.SedgeCorrectsOneSlice : Prop :=
  ∀ (errs : List SymErr) (g m : Nat) (data : List Byte), m < 10 → data.length = 256 → (∀ e ∈ errs, e.m = m ∧ e.t < 32) →
    match decodeGran none g (syndromes data (sedgeCheck data) errs) with
    | .clean => withErrs data errs = data
    | .corrected p fix => p = m ∧ withErrs data (errs ++ fix) = data
    | .uncorrectable => False

/-! ### Register space -/

/-- A plain register write is answered, gives the register what its fields' access codes take of the value, and touches no
other register, no memory and no state of the dispatcher. A bit of no writable field keeps its value, a writable RW or
unlocked RWL field that accepts the value takes it, and a W1C field keeps the bits not written with 1. A word written to the SRAM
of an enabled tile that has power is what a read of it then gives; that this row reaches a tile's window is the model's choice
(log 79, DESIGN CHOICE). -/
def Obligations.RegisterWriteByAccessCodes : Prop :=
  (∀ (who : Agent) (addr k : Nat) (v : Word) (s : State) (r : RegRow), s.sound = true → placeOf addr = .regs k →
    regGate s who k = .through → (keyOff k < 0x400 ∨ pageEn s (pageKey (keyCls k) (keyInst k)) = true) →
    regRow? (keyCls k) (keyOff k) = some r → r.own = false → lentQueue s k = false →
    ∃ t, exec (.registerWrite who addr v) s = .next t ∧ t.resp = .done ∧ t.reg k = writtenReg s k v
      ∧ (∀ j, j ≠ k → t.reg j = s.reg j) ∧ t.mem = s.mem ∧ t.gran = s.gran ∧ t.fenLines = s.fenLines ∧ t.disp = s.disp
      ∧ t.fuses = s.fuses ∧ t.trust = s.trust)
  ∧ (∀ (s : State) (k n : Nat) (v : Word), n < 64 →
    (∀ f ∈ fieldsAt (keyCls k) (keyOff k), n < f.lo ∨ f.hi < n) →
    (∀ f ∈ fieldsAt (keyCls k) (keyOff k), f.lo ≤ f.hi ∧ f.hi < 64) →
    bit (writtenReg s k v) n = bit (s.reg k) n)
  ∧ (∀ (who : Agent) (t o addr : Nat) (v : Word) (s : State), s.sound = true → placeOf addr = .tile t o → who ≠ .unit →
    (s.tile t).enabled = true → (s.tile t).power ≠ .off → (s.die (t / 13)).power = .active → addr % 8 = 0 →
    ∃ u w, exec (.registerWrite who addr v) s = .next u ∧ u.resp = .done ∧ u.regs = s.regs ∧ u.mem = s.mem
      ∧ exec (.rcRead who addr) u = .next w ∧ w.resp = .word v ∧ w.regs = s.regs ∧ w.sram = u.sram)

/-- A read of a read-to-clear register of a block in service returns its value and leaves it zero; a read of any other
register returns its value and changes no register. -/
def Obligations.RegisterReadsAndReadToClear : Prop :=
  ∀ (who : Agent) (addr k : Nat) (s : State) (r : RegRow), s.sound = true → placeOf addr = .regs k →
    regGate s who k = .through → regRow? (keyCls k) (keyOff k) = some r →
    ∃ t, exec (.rcRead who addr) s = .next t ∧ t.resp = .word (regShown (wakeForAccess s k) k)
      ∧ ((r.rc = true ∧ pageEn s (pageKey (keyCls k) (keyInst k)) = true) → t.reg k = 0)
      ∧ ((r.rc = false ∨ pageEn s (pageKey (keyCls k) (keyInst k)) = false) → t.reg k = s.reg k)
      ∧ (∀ j, j ≠ k → t.reg j = s.reg j) ∧ t.mem = s.mem ∧ t.gran = s.gran ∧ t.fenLines = s.fenLines ∧ t.disp = s.disp

/-- An access of less than 64 bits to a register page returns a bus error and has no other effect, from any agent; so does an
access of 64 bits whose address is no multiple of 8, an atomic access of a host core, and every access to an address with
nothing behind it. -/
def Obligations.NarrowAccessIsBusError : Prop :=
  (∀ (who : Agent) (addr k size : Nat) (write atomic : Bool) (s : State), placeOf addr = .regs k →
    (size < 8 ∨ (size = 8 ∧ addr % 8 ≠ 0) ∨ (atomic = true ∧ who = .host)) →
    exec (.busErrorAccess who addr size write atomic) s = .next { s with resp := .busError })
  ∧ (∀ (who : Agent) (addr size : Nat) (write atomic : Bool) (s : State), placeOf addr = .unbacked →
    exec (.busErrorAccess who addr size write atomic) s = .next { s with resp := .busError })

/-- The four writes of PG_CTL on a page that is reached: LOCK is set for good, SRST of a block that is not busy starts a soft
reset, EN of an unlocked block that is not busy takes the written value, and PWR_REQ takes a written 0 or 1. Each leaves
memory and every register of other pages as it was, but for the wake records of PWR.
PG_CTL.EN does not change once LOCK is set, and a write of 0 to EN of a busy block is ignored.
The end of a soft reset: the page's registers return to their reset values where the page is not locked; EN, LOCK and
the snapshot window stay, and other pages, memory, fuses and the dispatcher are untouched. -/
def Obligations.PageControlAndSoftReset : Prop :=
  ((∀ (who : Agent) (cls inst : Nat) (v : Word) (s : State), s.sound = true → okPage cls inst = true →
      regGate s who (rk cls inst 0x10) = .through →
      let page := pageKey cls inst
      let frame (t : State) : Prop := t.resp = .done ∧ t.mem = s.mem ∧ t.gran = s.gran ∧ t.fenLines = s.fenLines ∧ t.disp = s.disp
        ∧ t.fuses = s.fuses ∧ (∀ j, j ≠ page + 0x10 → keyCls j ≠ 3 → t.reg j = s.reg j)
      (bit v 63 = true → ∃ t, exec (.pgLock who cls inst v) s = .next t ∧ pageLocked t page = true ∧ frame t)
      ∧ (bit v 1 = true → pageBusy s page = false →
          ∃ t, exec (.pgSoftReset who cls inst v) s = .next t ∧ page ∈ t.srst ∧ pageBusy t page = true ∧ frame t)
      ∧ (pageLocked s page = false → pageBusy s page = false →
          ∃ t, exec (.pgEnable who cls inst v) s = .next t ∧ pageEn t page = bit v 0 ∧ frame t)
      ∧ (fld v 5 4 ≤ 1 → ∃ t, exec (.pgPwrReq who cls inst v) s = .next t ∧ t.rfld (page + 0x10) 5 4 = fld v 5 4 ∧ frame t))
   ∧ (∀ (who : Agent) (cls inst : Nat) (v : Word) (s : State), s.sound = true → okPage cls inst = true →
        regGate s who (rk cls inst 0x10) = .through →
        (pageLocked s (pageKey cls inst) = true ∨ (pageBusy s (pageKey cls inst) = true ∧ bit v 0 = false)) →
        ∃ t, exec (.pgEnable who cls inst v) s = .next t ∧ pageEn t (pageKey cls inst) = pageEn s (pageKey cls inst)))
  ∧ (∀ (cls inst : Nat) (s : State), s.sound = true → okPage cls inst = true → pageKey cls inst ∈ s.srst →
       let page := pageKey cls inst
       ∃ t, exec (.pgSoftResetEnd cls inst) s = .next t ∧ page ∉ t.srst ∧ pageEn t page = pageEn s page
         ∧ pageLocked t page = pageLocked s page ∧ t.rfld (page + 0x10) 5 4 = 0
         ∧ (∀ off, 0x100 ≤ off → off < 0x400 → t.reg (page + off) = s.reg (page + off))
         ∧ (pageLocked s page = false → ∀ off, 0x400 ≤ off → off < 0x10000 → t.reg (page + off) = regReset (page + off))
         ∧ (∀ j, (j < page ∨ page + 0x10000 ≤ j) → t.reg j = s.reg j)
         ∧ t.mem = s.mem ∧ t.disp = s.disp ∧ t.fuses = s.fuses)

/-- A leak that is due lowers a level above 0 by 1 and moves the timer on by its period; a write of PG_BKT_CFG sets the level
to 0 and restarts the timer, and takes the fields that are in range. No other register changes, and no memory. -/
def Obligations.LeakyBucketLeaksAndRestarts : Prop :=
  (∀ (cls inst : Nat) (s : State), s.sound = true → okPage cls inst = true → hasBucket cls = true →
    leakFrom s (pageKey cls inst) + s.rfld (pageKey cls inst + 0x48) 47 32 * 25000 ≤ s.tick →
    let page := pageKey cls inst
    ∃ t, exec (.bucketLeak cls inst) s = .next t ∧ t.rfld (page + 0x50) 15 0 = s.rfld (page + 0x50) 15 0 - 1
      ∧ leakFrom t page = leakFrom s page + s.rfld (page + 0x48) 47 32 * 25000
      ∧ (∀ j, j ≠ page + 0x50 → t.reg j = s.reg j) ∧ t = { s with regs := t.regs, leaks := t.leaks })
  ∧ (∀ (who : Agent) (cls inst : Nat) (v : Word) (s : State), s.sound = true → okPage cls inst = true → hasBucket cls = true →
    regGate s who (rk cls inst 0x48) = .through →
    let page := pageKey cls inst
    ∃ t, exec (.bucketConfigWrite who cls inst v) s = .next t ∧ t.rfld (page + 0x50) 15 0 = 0 ∧ leakFrom t page = s.tick
      ∧ (1 ≤ fld v 15 0 → t.rfld (page + 0x48) 15 0 = fld v 15 0)
      ∧ (1 ≤ fld v 47 32 → fld v 47 32 ≤ 60000 → t.rfld (page + 0x48) 47 32 = fld v 47 32)
      ∧ (∀ j, j ≠ page + 0x50 → j ≠ page + 0x48 → t.reg j = s.reg j)
      ∧ t = { s with regs := t.regs, leaks := t.leaks, resp := .done })

/-! ### Stillwater -/

/-- A write of STILL.TRIGGER.GO, an accepted edge of STILL_IN while IN_EN is 1 and an expiry of the timer each trigger: they
join the open snapshot or start the next. Memory, the fill map, the dispatcher and the fuses stay.
Two Moss ticks after T the merge window closes, so that a later trigger starts a new snapshot; four ticks after it rose the
STILL_OUT pulse ends. Neither changes anything else. -/
def Obligations.SnapshotTriggersAndWindows : Prop :=
  (∀ s : State, s.sound = true → s.power.mossUp = true →
     (∀ (who : Agent) (v : Word), who ≠ .unit → bit v 63 = true → pageEn s pgStill = true →
       ∃ t, exec (.stillTrigger who v) s = .next t ∧ Triggered s t srcRegister ∧ t.resp = .done)
     ∧ (∀ high : Nat, 2 ≤ high → s.power.scanned = false → bit (s.reg (pgStill + 0x408)) 0 = true →
       ∃ t, exec (.stillInEdge high) s = .next t ∧ Triggered s t srcStillIn
         ∧ (s.rfld (pgStill + 0x440) 31 0 + 1 < 2 ^ 32 → t.rfld (pgStill + 0x440) 31 0 = s.rfld (pgStill + 0x440) 31 0 + 1))
     ∧ (s.rfld (pgStill + 0x418) 31 0 ≠ 0 → s.still.timerFrom + s.rfld (pgStill + 0x418) 31 0 ≤ s.tick →
       ∃ t, exec .stillTimerExpiry s = .next t ∧ Triggered s t srcTimer
         ∧ t.still.timerFrom = s.still.timerFrom + s.rfld (pgStill + 0x418) 31 0))
  ∧ ((∀ s : State, s.still.mergeOpen = true → (s.reg (pgStill + 0x430)).toNat + 2 ≤ s.tick →
       exec .mergeWindowClose s = .next { s with still := { s.still with mergeOpen := false } })
     ∧ (∀ (s : State) (from_ : Nat), s.still.pulse = some from_ → from_ + 4 ≤ s.tick →
       exec .stillOutPulseEnd s = .next { s with still := { s.still with pulse := none } }))

/-- A block with PG_SNAP_CTL.EN 1 and HELD 0 that is awake latches: PG_SNAP_SEQ takes the snapshot's number, LATCHED counts,
PG_INT_RAW.SNAP is set, and HELD with KEEP; a block with EN 0 or HELD 1 counts MISSED and keeps its window. While other
blocks have still to latch, or no SNAPSHOT record waits, memory and every other page's registers are untouched. -/
def Obligations.SnapshotLatchStampsOrMisses : Prop :=
  ∀ (cls inst : Nat) (s : State), s.sound = true → okPage cls inst = true → pageKey cls inst ∈ s.still.toLatch →
    pageOn s (pageKey cls inst) = true →
    ((∃ p ∈ s.still.toLatch, p ≠ pageKey cls inst) ∨ s.still.waiting = []) →
    let page := pageKey cls inst
    ∃ t, exec (.snapshotLatch cls inst) s = .next t ∧ page ∉ t.still.toLatch ∧ t.mem = s.mem ∧ t.disp = s.disp ∧ t.fuses = s.fuses
      ∧ (∀ j, (j < page ∨ page + 0x10000 ≤ j) → t.reg j = s.reg j)
      ∧ (bit (s.reg (page + 0x60)) 0 = true → bit (s.reg (page + 0x60)) 2 = false →
          t.reg (page + 0x68) = wd (s.rfld (pgStill + 0x420) 31 0) ∧ bit (t.reg (page + 0x20)) 2 = true
          ∧ (bit (s.reg (page + 0x60)) 1 = true → bit (t.reg (page + 0x60)) 2 = true)
          ∧ bit (t.reg (page + 0x18)) 63 = blockAsleep s page
          ∧ (s.rfld (page + 0x70) 31 0 + 1 < 2 ^ 32 → t.rfld (page + 0x70) 31 0 = s.rfld (page + 0x70) 31 0 + 1))
      ∧ ((bit (s.reg (page + 0x60)) 0 = false ∨ bit (s.reg (page + 0x60)) 2 = true) →
          (∀ off, 0x100 ≤ off → off < 0x400 → t.reg (page + off) = s.reg (page + off))
          ∧ t.reg (page + 0x68) = s.reg (page + 0x68)
          ∧ (s.rfld (page + 0x70) 63 32 + 1 < 2 ^ 32 → t.rfld (page + 0x70) 63 32 = s.rfld (page + 0x70) 63 32 + 1))

/-! ### Clocks, sleep and power -/

/-- Loss of REFCLK25 puts the Moss domain on the internal oscillator, sets REF_STAT.LOST and ON_INTERNAL, counts the loss and
asserts FAULT_N, and 1 ms of reference later the part is back on it with LOST still set. Work goes on: memory, dies, tiles and
the dispatcher are untouched.
A power sample steps TCLK: down by 200 MHz above FAST_W; else down by 50 MHz while the 1 ms average and the sample exceed
SUSTAIN_W or a compute die has reached THERM_C; up by 50 MHz at the hundredth cool sample in a row; never below 850 MHz by a
step, never above TCLK_CAP. Only registers of CLK and PWR and the power loop change. -/
def Obligations.ReferenceAndPowerSteps : Prop :=
  ((∀ s : State, s.sound = true → s.power.mossUp = true → s.power.onInternal = false →
     ∃ t, exec .refclkLoss s = .next t ∧ t.power.onInternal = true ∧ faultLow t = true
       ∧ bit (t.reg (pgClk + 0x400)) 63 = true ∧ bit (t.reg (pgClk + 0x400)) 62 = true
       ∧ t.rfld (pgClk + 0x400) 31 0 = (s.rfld (pgClk + 0x400) 31 0 + 1) % 2 ^ 32
       ∧ (∀ j, keyCls j ≠ 2 → t.reg j = s.reg j) ∧ t = { s with regs := t.regs, power := t.power })
   ∧ (∀ s : State, s.sound = true → s.power.onInternal = true → s.power.lossAt + 25000 ≤ s.tick →
     ∃ t, exec .refclkReturn s = .next t ∧ t.power = { s.power with onInternal := false }
       ∧ bit (t.reg (pgClk + 0x400)) 62 = false ∧ bit (t.reg (pgClk + 0x400)) 63 = bit (s.reg (pgClk + 0x400)) 63
       ∧ (∀ j, j ≠ pgClk + 0x400 → t.reg j = s.reg j) ∧ t = { s with regs := t.regs, power := t.power }))
  ∧ (∀ (p : PowerSample) (s : State), s.sound = true → s.power.vinGood = true →
       let ceil := s.reg (pgPwr + 0x410)
       let tclk := s.rfld (pgClk + 0x410) 15 0
       let cap := s.rfld (pgClk + 0x418) 15 0
       let warm := (fld ceil 15 0 < p.avg1 ∧ fld ceil 15 0 < p.watts) ∨ ∃ c ∈ p.temps, fld ceil 55 48 ≤ c
       let cool := p.avg1 + fld ceil 31 16 < fld ceil 15 0 ∧ ¬ ∃ c ∈ p.temps, fld ceil 55 48 ≤ c
       ∃ t, exec (.powerSample p) s = .next t ∧ t.power.sample = p
         ∧ (fld ceil 47 32 < p.watts → t.rfld (pgClk + 0x410) 15 0 = Nat.min (Nat.max 850 (tclk - 200)) cap)
         ∧ (p.watts ≤ fld ceil 47 32 → warm → t.rfld (pgClk + 0x410) 15 0 = Nat.min (Nat.max 850 (tclk - 50)) cap)
         ∧ (p.watts ≤ fld ceil 47 32 → ¬ warm → cool → 99 ≤ s.power.coolSamples → t.rfld (pgClk + 0x410) 15 0 = Nat.min (tclk + 50) cap)
         ∧ (p.watts ≤ fld ceil 47 32 → ¬ warm → (¬ cool ∨ s.power.coolSamples < 99) → t.rfld (pgClk + 0x410) 15 0 = Nat.min tclk cap)
         ∧ (∀ j, keyCls j ≠ 2 → keyCls j ≠ 3 → t.reg j = s.reg j) ∧ t = { s with regs := t.regs, power := t.power, freeCtr := t.freeCtr })

/-- A tile falls from RUN to DOZE when it has no stage and its engines hold nothing, from DOZE to NAP after NAP_IDLE_US unless PWR_REQ holds it, and wakes from
either to RUN. Each changes that tile alone, beside the window captured at NAP.
A WAKE message takes a sleeping tile in service to DOZE at most and changes no result: memory, the fill map, the fuses and
every batch stay as they were. -/
def Obligations.TilesSleepWakeAndPrewake : Prop :=
  (∀ (n : Nat) (s : State), s.sound = true → n < 52 →
     let others (t : State) : Prop := ∀ m, m ≠ n → t.tile m = s.tile m
     ((s.tile n).power = .run → (∀ a ∈ s.assigns, a.page ≠ pgTile n) → moverIdle (s.mover n) = true →
       ∃ t, exec (.tileDoze n) s = .next t ∧ t.tile n = { s.tile n with power := .doze, since := s.tick } ∧ others t
         ∧ t = { s with tiles := t.tiles })
     ∧ ((s.tile n).power = .doze → awakeReq s (pgTile n) = false → (s.tile n).since + s.rfld (pgPwr + 0x408) 15 0 * 25 ≤ s.tick →
       ∃ t, exec (.tileNap n) s = .next t ∧ t.tile n = { s.tile n with power := .nap, since := s.tick } ∧ others t
         ∧ (∃ w, (pgTile n, w) ∈ t.still.asleep ∧ w.length = snapRegs 8)
         ∧ t = { s with tiles := t.tiles, still := { s.still with asleep := t.still.asleep } })
     ∧ (((s.tile n).power = .doze ∨ (s.tile n).power = .nap) → (s.die (n / 13)).power = .active →
       ∃ t, exec (.tileWake n) s = .next t ∧ t.tile n = { s.tile n with power := .run, since := s.tick } ∧ others t
         ∧ t = { s with tiles := t.tiles }))
  ∧ (∀ (n : Nat) (s : State), s.sound = true → n < 52 → pgTile n ∈ s.fab.wakes → (s.tile n).power = .nap →
       (s.die (n / 13)).power = .active →
       ∃ t, exec (.wake (.tile n)) s = .next t ∧ (t.tile n).power = .doze ∧ t.mem = s.mem ∧ t.gran = s.gran ∧ t.fuses = s.fuses
         ∧ t.disp = s.disp ∧ t.assigns = s.assigns)

/-- A die that meets R395 begins to enter MIRE, is in MIRE 20 µs later with its memories in self-refresh and their contents
kept, and is ACTIVE 120 µs after its wake source, when the accesses held for it complete in order. A wake source abandons an
entry under way, and from MIRE it is recorded in PWR. -/
def Obligations.DieEntersAndLeavesMire : Prop :=
  ∀ (d : Nat) (s : State), s.sound = true → d < 4 →
    let others (t : State) : Prop := ∀ e, e ≠ d → t.die e = s.die e
    (dieMayEnter s d = true →
      ∃ t, exec (.dieMireEntry d) s = .next t ∧ t.die d = { s.die d with power := .entering, since := s.tick } ∧ others t
        ∧ t = { s with dies := t.dies })
    ∧ ((s.die d).power = .entering → (s.die d).since + 500 ≤ s.tick →
      ∃ t, exec (.dieMireEntered d) s = .next t ∧ (t.die d).power = .mire ∧ (t.fen d).inSr = true
        ∧ (t.fen d).srEntries = (s.fen d).srEntries + 1 ∧ others t ∧ t.mem = s.mem ∧ t.gran = s.gran ∧ t.fenLines = s.fenLines
        ∧ t.disp = s.disp ∧ (∀ j, keyCls j ≠ 3 → t.reg j = s.reg j))
    ∧ (∀ src, src < 4 → (s.die d).power = .mire →
      ∃ t, exec (.dieWake d src) s = .next t ∧ (t.die d).power = .waking ∧ (t.die d).abandoned = false ∧ others t
        ∧ t.reg (pgPwr + 0x448) = BitVec.ofNat 64 (d * 256 + src) ∧ t.mem = s.mem ∧ t.disp = s.disp)
    ∧ (∀ src, src < 4 → (s.die d).power = .entering →
      ∃ t, exec (.dieWake d src) s = .next t ∧ (t.die d).power = .waking ∧ (t.die d).abandoned = true ∧ others t
        ∧ t = { s with dies := t.dies })
    ∧ ((s.die d).power = .waking → ((s.die d).abandoned = true ∨ (s.die d).since + 3000 ≤ s.tick) →
      ∃ u t, exec (.dieActive d) s = .next t ∧ (u.die d).power = .active ∧ (u.die d).held = [] ∧ (u.fen d).inSr = false
        ∧ u.fuses = s.fuses ∧ u.disp = s.disp ∧ t = (s.die d).held.foldl replayHeld u)

/-- The device states: IDLE once no Calmet work has been in flight for DEV_IDLE_US, when the dispatcher cores wait, MIRE from IDLE while every die is in MIRE
and nothing holds it out, and out of MIRE when WAKE_N is low for two Moss ticks, which wakes every die in MIRE. No memory
changes. -/
def Obligations.DeviceStatesFollowWork : Prop :=
  (∀ s : State, s.power.vinGood = true → s.power.dev = .active → calmetBusy s = false →
    s.power.lastWork + s.rfld (pgPwr + 0x408) 47 32 * 25 ≤ s.tick →
    exec .deviceIdle s = .next { s with
      power := { s.power with dev := .idle }
      host := { s.host with wfi := s.host.wfi ||| coreMask ((dispCores s).filter (bitOf s.host.running)) } })
  ∧ (∀ s : State, s.power.dev = .idle → (∀ d ∈ s.dies, d.power = .mire) → bit (s.reg (pgPwr + 0x408)) 49 = true →
    prepBusy s = false → s.power.wakeHeld = false →
    exec .deviceMire s = .next { s with power := { s.power with dev := .mire } })
  ∧ (∀ (s : State) (low : Nat), s.sound = true → 2 ≤ low → s.power.scanned = false →
    ∃ t, exec (.wakeN low) s = .next t ∧ t.power.wakeHeld = true ∧ t.power.dev ≠ .mire ∧ (∀ d, d < 4 → (t.die d).power ≠ .mire)
      ∧ t.mem = s.mem ∧ t.gran = s.gran ∧ t.fenLines = s.fenLines ∧ t.disp = s.disp)

/-- What STANDBY leaves (R401, R519): nothing outside the Moss domain, with the flash banks and the Moss pages kept, and the
fuses too where no change of one was under way. -/
def Obligations.StandbyKeepsMossOnly : Prop :=
  let off (s t : State) : Prop := t.power.vinGood = false ∧ t.power.dev = .standby ∧ t.power.pwrok = false ∧ t.mem = [] ∧ t.gran = []
    ∧ t.fenLines = [] ∧ t.disp = {} ∧ t.trust.ready = false ∧ t.power.offUntil = some (s.tick + 1250000)
    ∧ (s.trust.tally = none → t.fuses = s.fuses) ∧ t.banks = s.banks ∧ (∀ j, pageMoss j = true → j ≠ pgPwr + 0x450 → t.reg j = s.reg j)
  (∀ (v : Word) (s : State), s.sound = true → s.power.mossUp = true → bit v 63 = true → pageEn s pgPwr = true → s.fab.held = true →
    ∃ t, exec (.standbyRequest .mc v) s = .next t ∧ off s t)
  ∧ (∀ (c : OffCause) (s : State), s.sound = true → s.power.vinGood = true → ∃ t, exec (.vin50OutOfRange c) s = .next t ∧ off s t)
  ∧ (∀ (n reading : Nat) (s : State), s.sound = true → n < 30 → tripAt n ≤ reading → s.power.vsbGood = true →
    s.power.thermtrip = false → s.power.vinGood = true →
    ∃ t, exec (.thermtrip n reading) s = .next t ∧ t.power.thermtrip = true ∧ off s t
      ∧ McEvent.thermtrip n reading ∈ t.trust.log)

/-- Supplies: VSB3V3 good starts DISP.TICK from 0; its loss loses all but flash, the MC's lists and the fuses (where no change of one was under way); the off time ends
50 ms after STANDBY; THERMTRIP clears only below 95 °C; PWROK is released at PG + 3 ms.
THERMTRIP stays latched while any sensor is at 95 °C or above.
The Moss domain leaves reset 1 ms after VSB3V3 became good: the ROM then runs the MC firmware, waits for a source, or is
in recovery; a source that is the last and has not delivered within 10 s leaves the part in recovery with FAULT_N low. -/
def Obligations.SupplyAndMossSequence : Prop :=
  ((∀ s : State, s.power.vsbGood = false →
     exec .vsb3v3Good s = .next { s with tick := 0, power := { s.power with vsbGood := true } })
   ∧ (∀ s : State, s.power.vsbGood = true → ∃ t, exec .vsb3v3Loss s = .next t ∧ t.power = {} ∧ t.mem = [] ∧ t.regs = [] ∧ t.tick = 0
       ∧ (s.trust.tally = none → t.fuses = s.fuses) ∧ t.banks = s.banks ∧ t.trust.testList = s.trust.testList ∧ t.trust.log = s.trust.log
       ∧ t.pending = s.pending)
   ∧ (∀ (s : State) (due : Nat), s.power.offUntil = some due → due ≤ s.tick →
     exec .offTimeEnd s = .next { s with power := { s.power with offUntil := none, qualFrom := s.tick } })
   ∧ (∀ (s : State) (hottest : Nat), s.power.thermtrip = true → hottest < 95 →
     exec (.thermtripClear hottest) s = .next { s with power := { s.power with thermtrip := false, qualFrom := s.tick } })
   ∧ (∀ (s : State) (pg : Nat), s.power.pg = some pg → s.power.vinGood = true → pg + 75000 ≤ s.tick →
     exec .pwrokRelease s = .next { s with power := { s.power with pwrok := true } }))
  ∧ (∀ (s : State) (hottest : Nat), 95 ≤ hottest → exec (.thermtripClear hottest) s = .next s)
  ∧ ((∀ s : State, s.power.vsbGood = true → s.power.mossUp = false → 25000 ≤ s.tick →
       ∃ t, exec .mossResetRelease s = .next t ∧ t.power.mossUp = true ∧ t.power.mossUpAt = s.tick ∧ t.power.qualFrom = s.tick
         ∧ t.trust.life = s.fuses.life ∧ t.mem = s.mem ∧ t.fuses = s.fuses ∧ t.banks = s.banks
         ∧ ((t.trust.mcRunning = true ∧ t.trust.stage = .mcFirmware) ∨ ∃ w, t.trust.search = some w ∧ w.firmware = false))
     ∧ (∀ (s : State) (fw : Bool) (src : Source) (from_ : Nat), s.power.mossUp = true → s.trust.search = some ⟨fw, [src], from_⟩ →
       from_ + 250000000 ≤ s.tick → s.trust.coldTest = none →
       ∃ t, exec .bootSourceTimeout s = .next t ∧ t.trust.stage = .recovery ∧ t.power.faultN = true ∧ faultLow t = true
         ∧ t.mem = s.mem ∧ t.fuses = s.fuses ∧ t.banks = s.banks ∧ t.regs = s.regs))

/-! ### Start-up and trust -/

/-- A qualification of 2 ms with no THERMTRIP and no off time gives VIN50 power-good: straps by majority of three samples, the
fused lifecycle state in force, and no firmware, configuration or READY yet.
After the sweep the MC firmware loads DISPATCHER and HOST together, or none of them and the search goes on; a part in RETIRED loads neither. -/
def Obligations.BringUpToFirmware : Prop :=
  (∀ (samples : List Nat) (x : SelfTest) (s : State), s.power.vsbGood = true → s.power.mossUp = true → s.power.vinGood = false →
     s.power.thermtrip = false → s.power.offUntil = none → s.power.qualFrom + 50000 ≤ s.tick →
     ∃ t, exec (.vin50PowerGood samples x) s = .next t ∧ t.power.vinGood = true ∧ t.power.dev = .active
       ∧ t.trust.straps = majority3 (samples.getD 0 0) (samples.getD 1 0) (samples.getD 2 0)
       ∧ t.trust.life = s.fuses.life ∧ t.trust.fwLoaded = false ∧ t.trust.configured = false ∧ t.trust.ready = false
       ∧ t.mem = s.mem ∧ t.disp = s.disp)
  ∧ (∀ s : State, s.trust.mcRunning = true → s.power.vinGood = true → s.power.pg.isSome = true → allSwept s = true →
       s.trust.fwLoaded = false → s.trust.search = none → s.trust.life ≠ .retired →
       ∃ t, exec .firmwareLoad s = .next t ∧ t.mem = s.mem ∧ t.fuses = s.fuses ∧ t.disp = s.disp ∧ t.banks = s.banks
         ∧ ((t.trust.fwLoaded = true ∧ t.trust.dispHeader.length = 4096 ∧ t.trust.hostHeader.length = 4096 ∧ t.trust.search = none)
           ∨ (t.trust.fwLoaded = false ∧ ∃ w, t.trust.search = some w ∧ w.firmware = true)))
  ∧ (∀ s : State, s.trust.life = .retired → exec .firmwareLoad s = .next s)

/-- Configuration leaves every page but the CULV pages locked, whatever CONFIG asks for, and extends M4 and M5 by one event
each; it touches no memory and no fuse.
READY comes with both the pages configured and the firmware loaded: the dispatcher cores and the boot hart run, the
recovery staging memory is zero, and BOOT_STAT.READY is set. -/
def Obligations.ConfigureLocksAndReady : Prop :=
  (∀ (c : ConfigBody) (s : State), s.sound = true → s.trust.mcRunning = true → s.power.vinGood = true → s.power.pg.isSome = true →
     s.trust.configured = false → allTrained s = true →
     ∃ t, exec (.configureAndLock c) s = .next t ∧ t.trust.configured = true
       ∧ (∀ page ∈ allPages, keyCls page ≠ 6 → pageLocked t page = true)
       ∧ t.trust.measCnt.getD 4 0 = s.trust.measCnt.getD 4 0 + 1 ∧ t.trust.measCnt.getD 5 0 = s.trust.measCnt.getD 5 0 + 1
       ∧ t.mem = s.mem ∧ t.gran = s.gran ∧ t.fenLines = s.fenLines ∧ t.fuses = s.fuses ∧ t.disp = s.disp)
  ∧ (∀ s : State, s.trust.configured = true → s.trust.fwLoaded = true → s.power.vinGood = true → s.trust.ready = false →
       ∃ t, exec .ready s = .next t ∧ t.trust.ready = true ∧ t.trust.stage = .ready ∧ t.ext.staging = []
         ∧ t.host.running = coreMask ((enabledCores s).take 5)
         ∧ t.host.started = [hartAt ((enabledCores s).getD 4 0) (fieldN s.trust.hostHeader 32 8)]
         ∧ t.fuses = s.fuses ∧ t.banks = s.banks ∧ t.disp = s.disp)

/-- Measurement registers 8 to 15 take a host's extend, and no other register does; a debug unlock that is accepted extends M0
and opens debug, and every attempt uses up its challenge. -/
def Obligations.ExtendsAndUnlocks : Prop :=
  (∀ (v : Word) (s : State), s.sound = true → s.power.vinGood = true → pageEn s pgSec = true →
    bit v 63 = true → 8 ≤ fld v 3 0 →
    ∃ t, exec (.measExtend .host v) s = .next t ∧ t.resp = .done
      ∧ t.trust.meas.getD (fld v 3 0) [] = shake256_512 (s.trust.meas.getD (fld v 3 0) []
          ++ (List.range 8).flatMap fun i => natLE 8 (s.reg (pgSec + 0x480 + 8 * i)).toNat)
      ∧ (∀ m, m ≠ fld v 3 0 → t.trust.meas.getD m [] = s.trust.meas.getD m [])
      ∧ t = { s with trust := t.trust, resp := .done })
  ∧ (∀ (who : Agent) (v : Word) (s : State), s.power.vinGood = true → who ≠ .unit → (who = .mc ∨ bit v 63 = false ∨ fld v 3 0 < 8) →
    exec (.measExtend who v) s = .next { s with resp := .done })
  ∧ (∀ (signer : Nat) (key token : List Byte) (s : State), s.power.vinGood = true →
    ∃ t, exec (.jtagUnlock signer key token) s = .next t ∧ t.trust.challenge = s.trust.challenge + 1
      ∧ t = { s with trust := t.trust, resp := t.resp }
      ∧ (t.resp = .done → t.trust.measCnt = modifyAt s.trust.measCnt 0 (· + 1)
          ∧ t.trust.debug = if s.trust.life = .owned then 3 else 2)
      ∧ (t.resp ≠ .done → t.trust.debug = s.trust.debug ∧ t.trust.meas = s.trust.meas ∧ t.resp = .refused 0))

/-! ### Tally settings and the Peat store -/

/-- A request that fails a check of R444 is refused with that check's code and changes no fuse; one that passes them all, while
no change is under way and its audit entry can be written, has its PENDING entry written and waits for its slot; while a change
is under way a request waits in order. Over Redfish it is served so for an Administrator alone. -/
def Obligations.TallyRequestCheckedInOrder : Prop :=
  ∀ (path : TallyPath) (b : List Byte) (fails : Bool) (s : State), s.trust.mcRunning = true →
    (∀ r, path = .redfish r → r = .administrator) →
    (s.trust.tally = none →
      (∀ c, tallyCheck s b = some c →
        ∃ t, exec (.tallyRequest path b fails) s = .next t ∧ t.resp = .refused c ∧ t.trust.reqResult = c ∧ t.fuses = s.fuses
          ∧ t.trust.tally = none ∧ t.banks = s.banks)
      ∧ (tallyCheck s b = none → fails = true →
        ∃ t, exec (.tallyRequest path b fails) s = .next t ∧ t.resp = .refused 0x0A ∧ t.fuses = s.fuses ∧ t.trust.tally = none)
      ∧ (tallyCheck s b = none → fails = false →
        ∃ t job, exec (.tallyRequest path b fails) s = .next t ∧ t.fuses = s.fuses ∧ t.trust.tally = some job
          ∧ job.setting = fieldN b 6 1 ∧ job.value = fieldN b 24 8 ∧ t.mem = s.mem))
    ∧ (s.trust.tally.isSome = true →
      ∃ t, exec (.tallyRequest path b fails) s = .next t ∧ t.trust.tallyQ = s.trust.tallyQ ++ [(path, b, fails)]
        ∧ t.fuses = s.fuses ∧ t.trust.tally = s.trust.tally)

/-- Verification of a programmed slot ends the change: the slot is used either way; a slot that verifies gives the setting its
value, and one that fails is spoiled with the value as it was. A repair that waits is verified next.
A write of a tally-fused field that is allowed uses one slot and gives the setting its value; a write by another agent than
the MC, of a value that is not allowed, or with no slot left is refused and leaves every fuse as it was. -/
def Obligations.FuseSlotsWrittenAndVerified : Prop :=
  (∀ (ok fails : Bool) (s : State) (j : TallyJob), s.trust.tally = some j → j.setting ≠ 0x10 → s.trust.tallyQ = [] →
     ∃ t, exec (.tallySlotVerify ok fails) s = .next t ∧ (s.trust.repairJobs = [] → t.trust.tally = none)
       ∧ (∀ k rest, s.trust.repairJobs = k :: rest → t.trust.tally = some k ∧ t.trust.repairJobs = rest)
       ∧ (ok = true → t.fuses = fuseValue (useSlot s.fuses j.setting) j.setting j.value j.keys ∧ t.trust.reqResult = 0)
       ∧ (ok = false → t.fuses = { useSlot s.fuses j.setting with spoiled := s.fuses.spoiled ++ [(j.setting, j.inst, j.slotIndex)] }
           ∧ t.trust.reqResult = 0x0B)
       ∧ t.mem = s.mem ∧ t.disp = s.disp)
  ∧ (∀ (v : Word) (s : State) (off setting : Nat), s.sound = true → s.power.vinGood = true → pageEn s pgTally = true →
       settingAt off = some setting →
       let addr := 0xF0000000000 + pgTally + off
       (∀ x, tfValue s setting v = some x → valueAllowed s setting x 0xFF = true → guardHolds s setting x = true →
         settingUsed s.fuses setting < settingSlots setting →
         ∃ t, exec (.tfWrite .mc addr v) s = .next t ∧ t.resp = .done ∧ t.mem = s.mem ∧ t.disp = s.disp
           ∧ t.fuses = { fuseValue (useSlot s.fuses setting) setting x [] with
               unaudited := s.fuses.unaudited ++ [(setting, 0, settingUsed s.fuses setting, x)] })
       ∧ (∃ t, exec (.tfWrite .host addr v) s = .next t ∧ t.resp = .done ∧ t.fuses = s.fuses ∧ t.mem = s.mem)
       ∧ (∀ x, tfValue s setting v = some x → settingSlots setting ≤ settingUsed s.fuses setting →
         ∃ t, exec (.tfWrite .mc addr v) s = .next t ∧ t.fuses = s.fuses ∧ t.mem = s.mem))

/-- A Peat record is written to the bank that does not hold the newest valid record, with the next SEQUENCE, and the other
bank is untouched, so that a write cut short leaves the record before it; patrol drops no record and changes none, but marks those it
cannot read and those whose DIGEST fails. -/
def Obligations.PeatWriteSparesTheOtherBank : Prop :=
  (∀ (type_ : Nat) (payload : List Byte) (ev : PeatEvent) (s : State), s.sound = true → s.power.mossUp = true →
    s.trust.mcRunning = true → 1 ≤ type_ → type_ ≤ 5 → 4096 + payload.length ≤ slotSize type_ →
    ∃ t, exec (.peatRecordWrite type_ payload ev) s = .next t ∧ t.bank (1 - writeBank s type_) = s.bank (1 - writeBank s type_)
      ∧ t.fuses = s.fuses ∧ t.mem = s.mem ∧ t.disp = s.disp
      ∧ (ev = .none → t.resp = .done ∧ (type_ ≠ 4 →
          (type_, ({ header := peatHeader type_ (nextSeq s type_) payload, payload := payload } : PeatRec)) ∈ (t.bank (writeBank s type_)).recs)))
  ∧ (∀ (corrected : List Nat) (unread : List (Nat × Nat)) (s : State), s.sound = true → s.trust.mcRunning = true →
    s.trust.patrolFrom + 86400 * 25000000 ≤ s.tick →
    ∃ t, exec (.peatPatrol corrected unread) s = .next t ∧ t.trust.patrolFrom = s.tick
      ∧ (∀ b n, b < 2 → (peatRec? t b n).map (fun r => (r.header, r.payload)) = (peatRec? s b n).map (fun r => (r.header, r.payload)))
      ∧ (∀ b n, b < 2 → ((t.bank b).audit.find? (·.1 == n)).map (fun q => (q.2.header, q.2.payload))
          = ((s.bank b).audit.find? (·.1 == n)).map (fun q => (q.2.header, q.2.payload)))
      ∧ t.mem = s.mem ∧ t.fuses = s.fuses)

/-- A pending HART_START of an offered core that is not running starts it at the address; any other is refused and starts
nothing. A pending interrupt wakes a running core; a timer's is pending once the time, DISP.TICK, has reached its compare value. -/
def Obligations.HostCoresStartAndWake : Prop :=
  (∀ (who : Agent) (v : Word) (s : State), who ≠ .unit → s.power.vinGood = true → pageEn s pgHost = true → bit v 63 = true →
    fld v 61 56 ∈ enabledCores s → fld v 61 56 ∉ dispCores s → bitOf s.host.running (fld v 61 56) = false →
    carveBase s ≤ fld v 43 0 → fld v 43 0 < 0x9900000000 → fld v 43 0 % 4 = 0 →
    exec (.hartStart who v) s = .next { s with
      host := { s.host with
        running := s.host.running + 2 ^ fld v 61 56
        started := s.host.started ++ [hartAt (fld v 61 56) (fld v 43 0)] }
      resp := .done })
  ∧ (∀ (who : Agent) (v : Word) (s : State), who ≠ .unit → s.power.vinGood = true → bitOf s.host.running (fld v 61 56) = true →
    ∃ t, exec (.hartStart who v) s = .next t ∧ t.host = s.host ∧ t.mem = s.mem)
  ∧ (∀ (core : Nat) (irq : CoreIrq) (s : State), core < 34 → bitOf s.host.running core = true →
    irqPending (setCompare s core irq) core irq = true →
    ∃ t, exec (.coreWake core irq) s = .next t ∧ bitOf t.host.wfi core = false ∧ t = { s with host := t.host })
  ∧ (∀ (core c : Nat) (s : State), core < 34 → bitOf s.host.running core = true → s.host.mtimecmp.length = 34 → c < 2 ^ 64 →
    ∃ t, exec (.coreWake core (.mtimer c)) s = .next t ∧ (timeCsr s < c → t.host.wfi = s.host.wfi)
      ∧ (c ≤ timeCsr s → bitOf t.host.wfi core = false))

/-! ### HBM -/

/-- A read of a granule, after what has struck the stack has taken its place, past the host caches or of a sector they do not hold
(R96, R97, R99, R103): zeros where nothing is written; the stored bytes where every code is clean; the bytes with the slice set right
where the decode corrects; no data where the granule is poisoned, where the decode fails, which poisons it, or where its fill-map word
fails, which poisons all 32 granules of the word. No byte of memory changes, and no other granule. -/
def Obligations.GranuleReadFollowsFillMap : Prop :=
  ∀ (who : Agent) (addr k o : Nat) (hits : HbmHits) (ev : CacheEvent) (s : State), s.sound = true → s.clean = true →
    placeOf addr = .hbm k o → (s.die (k / 3)).power = .active → stackServes s k = true →
    let gk := granKey k (o / 256)
    (throughCache who addr = false ∨ s.sector gk = { ix := gk }) →
    let u := strike s k hits
    let gr := u.granule gk
    let data := memBytes s.mem (hbmKey k (256 * (o / 256))) 256
    let found := decodeGran (s.stack k).marked (o / 256) (syndromes data gr.check gr.errs)
    let none_ (r : Resp) : Resp := if who = .host then .loadFault else r
    (u.fillBits (gk / 32) = .good →
      ∃ t, exec (.granuleRead who addr hits ev) s = .next t
        ∧ (gr.fill = .unwritten → t.resp = .data (List.replicate 256 0) ∧ t.gran = u.gran)
        ∧ (gr.fill = .poisoned → t.resp = none_ .poisoned ∧ t.gran = u.gran)
        ∧ (gr.fill = .written → found = .clean → t.resp = .data (withErrs data gr.errs) ∧ t.gran = u.gran)
        ∧ (gr.fill = .written → ∀ m fix, found = .corrected m fix → t.resp = .data (withErrs data (gr.errs ++ fix)) ∧ t.gran = u.gran)
        ∧ (gr.fill = .written → found = .uncorrectable → t.resp = none_ .uncorrectable ∧ (t.granule gk).fill = .poisoned)
        ∧ (∀ j, j ≠ gk → t.granule j = u.granule j)
        ∧ t.mem = s.mem ∧ t.fenLines = s.fenLines ∧ t.disp = s.disp ∧ t.fuses = s.fuses)
    ∧ (u.fillBits (gk / 32) = .two →
      ∃ t, exec (.granuleRead who addr hits ev) s = .next t ∧ t.resp = none_ .uncorrectable
        ∧ (∀ i, i < 32 → (t.granule (32 * (gk / 32) + i)).fill = .poisoned)
        ∧ t.mem = s.mem ∧ t.fenLines = s.fenLines ∧ t.disp = s.disp ∧ t.fuses = s.fuses)

/-- A write of a whole granule past the host caches (R99) leaves it WRITTEN with no wrong symbol and every byte as given, or POISONED
when its data carries poison; a partial write does the same for its bytes and leaves zeros beside them where nothing was written,
keeps the granule's other bytes where it was written, and is refused where it is poisoned. No byte outside changes. -/
def Obligations.GranuleWritesFillAndMerge : Prop :=
  ∀ (who : Agent) (addr k o : Nat) (data : List Byte) (ev : CacheEvent) (s : State), s.sound = true → s.clean = true →
    placeOf addr = .hbm k o → (s.die (k / 3)).power = .active → stackServes s k = true → throughCache who addr = false →
    let gk := granKey k (o / 256)
    s.fillBits (gk / 32) = .good →
    let a := hbmKey k o
    let base := hbmKey k (256 * (o / 256))
    let rest (t : State) : Prop := t.resp = .done ∧ t.disp = s.disp ∧ t.fuses = s.fuses ∧ t.fenLines = s.fenLines
      ∧ ∀ j, j ≠ gk → t.granule j = s.granule j
    let partly : Prop := 0 < data.length ∧ addr % 256 + data.length ≤ 256 ∧ data.length < 256
    (addr % 256 = 0 → data.length = 256 →
      (∃ t, exec (.granuleFullWrite who addr data false {} ev) s = .next t ∧ rest t
        ∧ t.granule gk = { fill := .written, check := sedgeCheck data }
        ∧ (∀ i (h : i < data.length), t.byteAt (a + i) = data[i]) ∧ ∀ j, (j < a ∨ a + 256 ≤ j) → t.byteAt j = s.byteAt j)
      ∧ (∃ t, exec (.granuleFullWrite who addr data true {} ev) s = .next t ∧ rest t
        ∧ t.granule gk = { fill := .poisoned } ∧ t.mem = s.mem))
    ∧ (partly → (s.granule gk).fill = .unwritten →
      ∃ t, exec (.granulePartialWrite who addr data false {} ev) s = .next t ∧ rest t
        ∧ t.granule gk = { fill := .written, check := sedgeCheck (overlay (List.replicate 256 0) (o % 256) data) }
        ∧ (∀ i (h : i < data.length), t.byteAt (a + i) = data[i])
        ∧ (∀ j, base ≤ j → j < base + 256 → (j < a ∨ a + data.length ≤ j) → t.byteAt j = 0)
        ∧ ∀ j, (j < base ∨ base + 256 ≤ j) → t.byteAt j = s.byteAt j)
    ∧ (partly → s.granule gk = { fill := .written, check := sedgeCheck (memBytes s.mem base 256) } →
      ∃ t, exec (.granulePartialWrite who addr data false {} ev) s = .next t ∧ rest t
        ∧ t.granule gk = { fill := .written, check := sedgeCheck (overlay (memBytes s.mem base 256) (o % 256) data) }
        ∧ (∀ i (h : i < data.length), t.byteAt (a + i) = data[i])
        ∧ ∀ j, (j < a ∨ a + data.length ≤ j) → t.byteAt j = s.byteAt j)
    ∧ (partly → (s.granule gk).fill = .poisoned →
      ∃ t, exec (.granulePartialWrite who addr data false {} ev) s = .next t ∧ t.mem = s.mem ∧ t.gran = s.gran ∧ t.resp = .poisoned)

/-- A scrub visit of the next due granule moves the position on, or ends the pass after the last; it changes no byte of a
granule that is not WRITTEN, rewrites one that it corrects, and POISONS one that it finds uncorrectable. A new pass starts at
granule 0 with DIE_CE zero and PERIOD_H in effect.
The MC's marking of a core die of a stack with no marked die and a slot left uses one slot of the stack and marks the die;
another agent's write marks none. Training leaves the stack at the highest passing bin not above the cap of CONFIG, or absent. -/
def Obligations.PatrolMarkingAndTraining : Prop :=
  ((∀ (k g : Nat) (hits : HbmHits) (raced : Bool) (s : State), s.sound = true → k < 12 → scrubRuns s k = true →
     (s.stack k).passEnded = false → (s.stack k).position ≤ g → g < granules → scrubDue (s.stack k) g = true →
     noneWritten s k (s.stack k).position g = true →
     let u := strike s k hits
     let gk := granKey k g
     let gr := u.granule gk
     let data := memBytes s.mem (hbmKey k (256 * g)) 256
     let found := decodeGran (s.stack k).marked g (syndromes data gr.check gr.errs)
     u.fillWords = [] →
     ∃ t, exec (.scrubVisit k g hits raced) s = .next t
       ∧ (g + 1 < granules → (t.stack k).position = g + 1 ∧ (t.stack k).passEnded = false)
       ∧ (g + 1 = granules → (t.stack k).position = 0 ∧ (t.stack k).passEnded = true)
       ∧ (gr.fill ≠ .written → t.mem = s.mem ∧ t.gran = u.gran)
       ∧ (gr.fill = .written → found = .uncorrectable → (t.granule gk).fill = .poisoned ∧ t.mem = s.mem)
       ∧ (gr.fill = .written → gr.errs ≠ [] → raced = false → ∀ m fix, found = .corrected m fix →
           memBytes t.mem (hbmKey k (256 * g)) 256 = withErrs data (gr.errs ++ fix)
           ∧ t.granule gk = { fill := .written, check := sedgeCheck (withErrs data (gr.errs ++ fix)) })
       ∧ (∀ m, m ≠ k → t.stack m = s.stack m) ∧ (∀ j, j ≠ gk → t.granule j = u.granule j)
       ∧ (∀ a, (a < hbmKey k (256 * g) ∨ hbmKey k (256 * g) + 256 ≤ a) → t.byteAt a = s.byteAt a)
       ∧ t.disp = s.disp ∧ t.fuses = s.fuses)
   ∧ (∀ (k : Nat) (s : State), s.sound = true → k < 12 → scrubRuns s k = true →
     (s.stack k).period * 3600 * 25000000 ≤ (s.stack k).passClock →
     ((s.stack k).passEnded = true ∨ noneWritten s k (s.stack k).position granules = true) → s.fillWords = [] →
     ∃ t, exec (.scrubPassStart k) s = .next t ∧ (t.stack k).position = 0 ∧ (t.stack k).passClock = 0
       ∧ (t.stack k).passEnded = false ∧ (t.stack k).dieCe = List.replicate 16 0
       ∧ (t.stack k).period = s.rfld (pgHbmc k + 0x410) 7 0 ∧ (∀ m, m ≠ k → t.stack m = s.stack m) ∧ t = { s with hbms := t.hbms }))
  ∧ ((∀ (k : Nat) (v : Word) (s : State), s.sound = true → k < 12 → regGate s .mc (rk 5 k 0x440) = .through → pageEn s (pgHbmc k) = true →
       (s.stack k).marked = none → poolUsed s.fuses (0x100 + k) < 32 →
       ∃ t, exec (.dieMark .mc k v) s = .next t ∧ (t.stack k).marked = some (fld v 3 0) ∧ t.resp = .done
         ∧ poolUsed t.fuses (0x100 + k) = poolUsed s.fuses (0x100 + k) + 1 ∧ (∀ m, m ≠ k → t.stack m = s.stack m)
         ∧ t.mem = s.mem ∧ t.gran = s.gran ∧ t.disp = s.disp)
     ∧ (∀ (k : Nat) (v : Word) (s : State), s.sound = true → k < 12 → regGate s .host (rk 5 k 0x440) = .through →
       ∃ t, exec (.dieMark .host k v) s = .next t ∧ t.hbms = s.hbms ∧ t.fuses = s.fuses ∧ t.mem = s.mem)
     ∧ (∀ (k : Nat) (r : TrainResult) (s : State), s.sound = true → k < 12 → s.power.vinGood = true → s.trust.mcRunning = true →
       (s.stack k).trained = false → (s.die (k / 3)).power ≠ .off →
       ∃ t, exec (.hbmTrainingEnd k r) s = .next t ∧ (t.stack k).trained = true ∧ (t.stack k).absent = r.bin.isNone
         ∧ (∀ b, r.bin = some b → r.cap ≤ 2 → (t.stack k).bin = Nat.min b r.cap) ∧ (t.stack k).position = 0
         ∧ (∀ m, m ≠ k → t.stack m = s.stack m) ∧ t.mem = s.mem ∧ t.gran = s.gran ∧ t.disp = s.disp))

/-! ### Fen memory -/

/-- A Fen line read, by a device agent or by a host core whose caches do not hold the sector, returns its 64 bytes where at most one
symbol is bad, and a line with two bad symbols has no data and is poisoned. A device agent's write of a whole line clears poison;
part of a poisoned line is not applied; no other byte or line changes.
The cold sweep leaves every byte of a die's Fen memory zero and every line good, and no other memory changed; sparing a
layer uses a slot of the die and starts the copy, and the copy's end puts the spare in the layer's place; scrub visits the
lines in order, rewrites what it corrects and poisons what it cannot. -/
def Obligations.FenLinesSweepAndScrub : Prop :=
  (∀ (who : Agent) (addr d o : Nat) (ev : CacheEvent) (s : State), s.sound = true → s.clean = true → placeOf addr = .fen d o →
     (s.die d).power = .active → fenServes s d = true →
     let lk := fenKey d 0 / 64 + o / 64
     let ix := fenKey d o / 256
     let base := fenKey d (64 * (o / 64))
     let rest (t : State) : Prop := t.disp = s.disp ∧ t.fuses = s.fuses ∧ t.gran = s.gran ∧ ∀ j, j ≠ lk → t.fenLine j = s.fenLine j
     ((who ≠ .host ∨ s.sector ix = { ix := ix }) → ∀ err,
       (s.fenLine lk = .good → err ≠ .twoSymbols →
         ∃ t, exec (.fenLineRead who addr err ev) s = .next t ∧ t.resp = .data (memBytes s.mem base 64) ∧ t.mem = s.mem ∧ rest t)
       ∧ (s.fenLine lk = .twoBad → ∃ t, exec (.fenLineRead who addr err ev) s = .next t ∧ t.fenLine lk = .poisoned ∧ t.mem = s.mem
           ∧ t.resp = (if who = .host then .loadFault else .uncorrectable) ∧ rest t))
     ∧ (who ≠ .host → ∀ data : List Byte, addr % 64 = 0 → data.length = 64 →
       ∃ t, exec (.fenLineWrite who addr data false .clean ev) s = .next t ∧ t.fenLine lk = .good ∧ t.resp = .done ∧ rest t
         ∧ (∀ i (h : i < data.length), t.byteAt (base + i) = data[i]) ∧ ∀ j, (j < base ∨ base + 64 ≤ j) → t.byteAt j = s.byteAt j)
     ∧ (who ≠ .host → ∀ data : List Byte, 0 < data.length → addr % 64 + data.length ≤ 64 → s.fenLine lk = .good →
       ∃ t, exec (.fenLineWrite who addr data false .clean ev) s = .next t ∧ t.fenLine lk = .good ∧ t.resp = .done ∧ rest t
         ∧ (∀ i (h : i < data.length), t.byteAt (fenKey d o + i) = data[i])
         ∧ ∀ j, (j < fenKey d o ∨ fenKey d o + data.length ≤ j) → t.byteAt j = s.byteAt j)
     ∧ (who ≠ .host → ∀ data : List Byte, 0 < data.length → data.length < 64 → addr % 64 + data.length ≤ 64 → s.fenLine lk = .poisoned →
       ∃ t, exec (.fenLineWrite who addr data false .clean ev) s = .next t ∧ t.mem = s.mem ∧ t.fenLine lk = .poisoned ∧ t.resp = .poisoned))
  ∧ ((∀ (d ticks : Nat) (s : State), s.sound = true → d < 4 → s.power.vinGood = true → s.trust.mcRunning = true →
       (s.die d).power ≠ .off → (s.fen d).sweepDone = false → ticks ≤ 25000 →
       ∃ t, exec (.fenSweepEnd d ticks) s = .next t ∧ (t.fen d).sweepDone = true
         ∧ (∀ a, fenKey d 0 ≤ a → a < fenKey (d + 1) 0 → t.byteAt a = 0)
         ∧ (∀ l, fenKey d 0 / 64 ≤ l → l < fenKey (d + 1) 0 / 64 → t.fenLine l = .good)
         ∧ (∀ a, (a < fenKey d 0 ∨ fenKey (d + 1) 0 ≤ a) → t.byteAt a = s.byteAt a)
         ∧ t = { s with fens := t.fens, mem := t.mem, fenLines := t.fenLines })
     ∧ (∀ (d : Nat) (v : Word) (s : State), s.sound = true → d < 4 → regGate s .mc (rk 7 d 0x408) = .through → pageEn s (pgFen d) = true →
       fld v 2 0 < 4 → (s.fen d).spare ≠ 7 → (s.fen d).copying = none → poolUsed s.fuses d < 64 →
       ∃ t, exec (.fenSpare .mc d v) s = .next t ∧ (t.fen d).copying = some (fld v 2 0) ∧ (t.fen d).copyStart = s.tick
         ∧ poolUsed t.fuses d = poolUsed s.fuses d + 1 ∧ t.mem = s.mem ∧ t.fenLines = s.fenLines ∧ t.disp = s.disp)
     ∧ (∀ (d layer : Nat) (s : State), s.sound = true → d < 4 → (s.fen d).copying = some layer →
       copiedMib (s.tick - (s.fen d).copyStart) = 2048 → s.fab.phase ≠ .draining → s.fab.phase ≠ .quiet →
       ∃ t, exec (.fenSpareCopyEnd d) s = .next t ∧ (t.fen d).copying = none ∧ (t.fen d).spare = 7
         ∧ (t.fen d).layers = setAt (s.fen d).layers layer (s.fen d).spare ∧ t.mem = s.mem
         ∧ t = { s with fens := t.fens, fenLines := t.fenLines })
     ∧ (∀ (d line : Nat) (err : LineErr) (raced : Bool) (s : State), s.sound = true → d < 4 → fenServes s d = true →
       (s.fen d).inSr = false → (s.fen d).scrubLine ≤ line → line < 2 ^ 27 →
       (∀ l, fenKey d 0 / 64 + (s.fen d).scrubLine ≤ l → l < fenKey d 0 / 64 + line → s.fenLine l = .good) →
       let lk := fenKey d 0 / 64 + line
       let u := fenStrike s d line err
       ∃ t, exec (.fenScrubVisit d line err raced) s = .next t ∧ (t.fen d).scrubLine = (line + 1) % 2 ^ 27 ∧ t.mem = s.mem
         ∧ (u.fenLine lk = .twoBad → t.fenLine lk = .poisoned)
         ∧ (u.fenLine lk = .oneBad → raced = false → t.fenLine lk = .good)
         ∧ (∀ l, l ≠ lk → t.fenLine l = s.fenLine l)))

/-- A host core's accesses go through its caches (R454 to R456): a load of lines that the caches hold gives their bytes, whatever memory
holds; a store of a whole granule to a sector with room stays in the caches, dirty, and no memory changes. A device agent's read of
what a core has stored gives the stored bytes, written back first. -/
def Obligations.HostAccessesGoThroughCaches : Prop :=
  (∀ (addr k o : Nat) (s : State), s.sound = true → s.clean = true → placeOf addr = .hbm k o → cachedView addr = true →
     (s.die (k / 3)).power = .active → stackServes s k = true →
     let gk := granKey k (o / 256)
     (∀ l, l < 4 → l ∈ (s.sector gk).held) →
     ∃ t, exec (.granuleRead .host addr {} ⟨false, false⟩) s = .next t ∧ t.resp = .data (s.sector gk).data
       ∧ t.mem = s.mem ∧ t.gran = s.gran ∧ t.fuses = s.fuses)
  ∧ (∀ (addr k o : Nat) (data : List Byte) (s : State), s.sound = true → placeOf addr = .hbm k o → cachedView addr = true →
     (s.die (k / 3)).power = .active → stackServes s k = true → addr % 256 = 0 → data.length = 256 →
     let gk := granKey k (o / 256)
     (s.sector gk).data.length = 256 → (s.host.cache.map (·.held.length)).sum + 4 ≤ 786432 →
     ∃ t, exec (.granuleFullWrite .host addr data false {} ⟨false, false⟩) s = .next t ∧ t.resp = .done
       ∧ (t.sector gk).data = data ∧ (∀ l, l < 4 → l ∈ (t.sector gk).held ∧ l ∈ (t.sector gk).dirty)
       ∧ t.mem = s.mem ∧ t.gran = s.gran ∧ t.fenLines = s.fenLines ∧ t.disp = s.disp ∧ t.fuses = s.fuses)
  ∧ (∀ (addr k o : Nat) (ev : CacheEvent) (s : State), s.sound = true → placeOf addr = .hbm k o → (s.die (k / 3)).power = .active →
     stackServes s k = true →
     let gk := granKey k (o / 256)
     s.fillBits (gk / 32) = .good → (s.sector gk).held.length = 4 → (s.sector gk).data.length = 256 →
     (∀ l, l < 4 → l ∈ (s.sector gk).held ∧ l ∈ (s.sector gk).dirty) →
     ∃ t, exec (.granuleRead .unit addr {} ev) s = .next t ∧ t.resp = .data (s.sector gk).data
       ∧ memBytes t.mem (hbmKey k (256 * (o / 256))) 256 = (s.sector gk).data ∧ (t.granule gk).fill = .written)

/-! ### Sessions and control rings -/

/-- A client's compare-and-swap of a slot's OWNER reads back what was there and takes the slot exactly when that was 0; no byte
outside OWNER changes.
The level that answers a proposal is the highest implemented one between the raised minimum and the maximum; OPEN_SESSION
opens the slot's session at it and says so in COUNT, completes LEVEL with no session where there is none and BAD_FIELD where
the minimum exceeds the maximum, and reports the floor and 0x0202 in AUX each time. CLOSE_SESSION with no open stream closes
it. -/
def Obligations.SlotsAndSessionsOpenAndClose : Prop :=
  (∀ (slot tag : Nat) (s : State), s.sound = true → slot < 64 → tag ≠ 0 → tag < 2 ^ 64 → s.clean = true → (s.die 0).power = .active →
     fenServes s 0 = true → s.fenLine (ownerAddr slot / 64) = .good →
     ∃ t, exec (.slotClaim slot tag) s = .next t
       ∧ t.resp = .word (BitVec.ofNat 64 (leNat (memBytes s.mem (ownerAddr slot) 8)))
       ∧ (leNat (memBytes s.mem (ownerAddr slot) 8) = 0 → leNat (memBytes t.mem (ownerAddr slot) 8) = tag)
       ∧ (leNat (memBytes s.mem (ownerAddr slot) 8) ≠ 0 → t.mem = s.mem)
       ∧ (∀ a, (a < ownerAddr slot ∨ ownerAddr slot + 8 ≤ a) → t.byteAt a = s.byteAt a) ∧ t.disp = s.disp ∧ t.gran = s.gran)
  ∧ ((∀ (floor lo hi l : Nat), answerLevel floor lo hi = some l →
       l ∈ implementedLevels ∧ max lo floor ≤ l ∧ l ≤ hi ∧ ∀ m ∈ implementedLevels, max lo floor ≤ m → m ≤ hi → m ≤ l)
     ∧ (∀ (slot : Nat) (s : State) (r : Rec), s.sound = true → slot < 64 → frontCtl s slot 0x01 = some r →
       (s.slot slot).scomp.isSome = true → commonFails r slot false 40 = [] → noStreamFails r = [] → r.n 28 4 < 3 →
       s.session slot = none →
       let aux := s.fuses.floor * 65536 + 0x0202
       (r.n 24 2 ≤ r.n 26 2 → ∀ l, answerLevel s.fuses.floor (r.n 24 2) (r.n 26 2) = some l →
         ∃ t x, exec (.openSession slot) s = .next t ∧ t.session slot = some x ∧ x.level = l ∧ x.flags = r.n 28 4 ∧ x.quotaHbm = r.n 32 4
           ∧ x.quotaFen = r.n 36 4 ∧ CompletesWith t slot r stDone l aux ∧ t.mem = s.mem ∧ t.disp.streams = s.disp.streams
           ∧ ∀ k, k ≠ slot → t.slot k = s.slot k)
       ∧ (r.n 24 2 ≤ r.n 26 2 → answerLevel s.fuses.floor (r.n 24 2) (r.n 26 2) = none →
         ∃ t, exec (.openSession slot) s = .next t ∧ t.session slot = none ∧ CompletesWith t slot r stLevel 0 aux ∧ t.mem = s.mem)
       ∧ (r.n 26 2 < r.n 24 2 →
         ∃ t, exec (.openSession slot) s = .next t ∧ t.session slot = none ∧ CompletesWith t slot r stBadField 0 aux ∧ t.mem = s.mem))
     ∧ (∀ (slot : Nat) (s : State) (r : Rec), s.sound = true → slot < 64 → frontCtl s slot 0x02 = some r →
       (s.slot slot).scomp.isSome = true → commonFails r slot false 24 = [] → noStreamFails r = [] → (s.session slot).isSome = true →
       streamsOf s slot = [] →
       ∃ t, exec (.closeSession slot) s = .next t ∧ t.session slot = none ∧ Completes t slot r stDone 0 ∧ t.disp.streams = s.disp.streams))

/-- A new WATCH value on a control ring: every record published is read once, in order, HEAD and TAIL meet WATCH, and what was read
before is not read again; on a stream's ring TAIL meets WATCH, and HEAD goes no further.
A WATCH value more than the ring's entries past HEAD is an overrun: the ring is read no further. -/
def Obligations.WatchReadsOnceOrOverruns : Prop :=
  (∀ (slot : Nat) (s : State) (r : RingIn) (w : Nat), s.sound = true → slot < 64 → ringsRead s = true →
     (s.slot slot).ctlFault = false → (s.slot slot).ctl = some r → r.stopped = false → r.head ≤ r.tail →
     (read64 s (r.addr + 48)).2 = .ok w → r.tail < w → w - r.head ≤ 2 ^ r.log2 →
     ∃ t u, exec (.watchObserve (.ctl slot)) s = .next t ∧ (t.slot slot).ctl = some u ∧ u.head = w ∧ u.tail = w
       ∧ (∀ k, k ≠ slot → t.slot k = s.slot k) ∧ t.disp.streams = s.disp.streams ∧ t.fuses = s.fuses)
  ∧ (∀ (id : Nat) (s : State) (x : Stream) (w : Nat), s.sound = true → ringsRead s = true → s.open? id = some x → x.closing = false →
     x.ring.stopped = false → x.ring.head ≤ x.ring.tail → (read64 s (x.ring.addr + 48)).2 = .ok w → x.ring.tail < w →
     w - x.ring.head ≤ 2 ^ x.ring.log2 →
     ∃ t y, exec (.watchObserve (.stream id)) s = .next t ∧ t.open? id = some y ∧ y.ring.tail = w ∧ x.ring.head ≤ y.ring.head
       ∧ y.ring.head ≤ w ∧ y.state = x.state ∧ OthersKept s t id ∧ t.fuses = s.fuses)
  ∧ (∀ (slot : Nat) (s : State) (r : RingIn) (w : Nat), s.sound = true → s.clean = true → slot < 64 → ringsRead s = true →
       (s.slot slot).ctlFault = false → (s.slot slot).ctl = some r → r.stopped = false → r.tail < w →
       (read64 s (r.addr + 48)).2 = .ok w → 2 ^ r.log2 < w - r.head →
       ∃ t u, exec (.watchObserve (.ctl slot)) s = .next t ∧ (t.slot slot).ctl = some u ∧ u.stopped = true ∧ u.head = r.head
         ∧ u.recs = r.recs ∧ t.mem = s.mem)

/-- OPEN_STREAM of a closed stream that passes its checks leaves it IDLE with the record's rings, status block, policy, stall
timer and floor, and no other stream changed.
BIND_PLAN that passes its checks leaves the stream BOUND to the stages as read, with STAGE_COUNT in COUNT; one that fails a
check completes with that check's status and leaves the stream's state and plan as they were. -/
def Obligations.OpenStreamAndBind : Prop :=
  (∀ (slot : Nat) (s : State) (r : Rec), s.sound = true → s.clean = true → slot < 64 → frontCtl s slot 0x10 = some r →
     (s.slot slot).scomp.isSome = true → pickFail (openStreamChecks slot r (takeCtl s slot r)).2 = none →
     ∃ t x, exec (.openStream slot) s = .next t ∧ t.streamState r.stream = .idle ∧ t.stream? r.stream = some x ∧ x.session = slot
       ∧ x.ring.addr = r.n 24 8 ∧ x.cring.addr = r.n 32 8 ∧ x.statusAddr = r.n 40 8 ∧ x.policy = r.n 48 4
       ∧ x.floorBlocks = floorOf (r.n 48 4) (r.n 56 2) ∧ x.plan = none ∧ x.batches = []
       ∧ x.stallTicks = (if r.n 52 4 = 0 then 250000 else r.n 52 4) ∧ Completes t slot r stDone 0 ∧ OthersKept s t r.stream
       ∧ t.mem = s.mem ∧ t.fuses = s.fuses)
  ∧ (∀ (slot : Nat) (peers : List PeerAnswer) (s : State) (r : Rec),
       s.sound = true → s.clean = true → slot < 64 → frontCtl s slot 0x11 = some r → (s.slot slot).scomp.isSome = true →
       let found := bindChecks slot r (takeCtl s slot r)
       (∀ f, pickFail found.2.1 = some f →
         ∃ t, exec (.bindPlan slot peers) s = .next t ∧ t.stream? r.stream = s.stream? r.stream ∧ Completes t slot r f.status 0
           ∧ OthersKept s t r.stream ∧ t.tables = s.tables ∧ t.mem = s.mem)
       ∧ (∀ x d plan, pickFail found.2.1 = none → found.2.2 = some (d, plan) → s.open? r.stream = some x → x.id = r.stream →
           remotesOf plan d.blocks = [] →
         ∃ t y p, exec (.bindPlan slot peers) s = .next t ∧ t.streamState r.stream = .bound ∧ t.stream? r.stream = some y ∧ y.plan = some p
           ∧ p.stages = plan ∧ p.overlap = r.n 33 1 ∧ p.tilesMax = r.n 35 1 ∧ Completes t slot r stDone (r.n 32 1)))

/-- A stream command of R46 whose checks pass: RUN of a BOUND and RESUME of a PAUSED stream make it RUNNING with no batch held,
PAUSE of a RUNNING one makes it PAUSED with none queued, and DRAIN makes it BOUND at once with no batch outstanding and DRAINING
otherwise. No memory changes, and of another stream no more than the blocks it
is granted.
A stream command in a state that R46 does not allow it completes WRONG_STATE and changes no stream. -/
def Obligations.StreamCommandsByState : Prop :=
  (∀ (slot : Nat) (s : State) (r : Rec) (x : Stream), s.sound = true → slot < 64 → (s.slot slot).scomp.isSome = true →
     s.open? r.stream = some x → x.session = slot → x.closing = false → r.stream < 1024 → commonFails r slot false 24 = [] →
     (s.session slot).isSome = true →
     let kept (t : State) : Prop := OthersButBlocks s t r.stream ∧ t.mem = s.mem ∧ t.fuses = s.fuses
     (frontCtl s slot 0x12 = some r → x.state = .bound →
       ∃ t y, exec (.run slot) s = .next t ∧ t.open? r.stream = some y ∧ y.state = .running ∧ (∀ b ∈ y.batches, b.state ≠ .held)
         ∧ Completes t slot r stDone 0 ∧ kept t)
     ∧ (frontCtl s slot 0x13 = some r → x.state = .running →
       ∃ t y, exec (.pause slot) s = .next t ∧ t.open? r.stream = some y ∧ y.state = .paused ∧ (∀ b ∈ y.batches, b.state ≠ .queued)
         ∧ Completes t slot r stDone 0 ∧ kept t)
     ∧ (frontCtl s slot 0x14 = some r → x.state = .paused →
       ∃ t y, exec (.resume slot) s = .next t ∧ t.open? r.stream = some y ∧ y.state = .running ∧ (∀ b ∈ y.batches, b.state ≠ .held)
         ∧ Completes t slot r stDone 0 ∧ kept t)
     ∧ (frontCtl s slot 0x15 = some r → x.state = .running → x.batches = [] →
       ∃ t, exec (.drain slot) s = .next t ∧ t.streamState r.stream = .bound ∧ Completes t slot r stDone 0 ∧ kept t)
     ∧ (frontCtl s slot 0x15 = some r → x.state = .running → x.batches ≠ [] →
       ∃ t, exec (.drain slot) s = .next t ∧ t.streamState r.stream = .draining ∧ kept t))
  ∧ (∀ (slot : Nat) (s : State) (r : Rec) (x : Stream), s.sound = true → slot < 64 → (s.slot slot).scomp.isSome = true →
       s.open? r.stream = some x → x.session = slot → r.stream < 1024 → commonFails r slot false 24 = [] → (s.session slot).isSome = true →
       let refused (c : Instr) : Prop := ∃ t, exec c s = .next t ∧ t.disp.streams = s.disp.streams ∧ Completes t slot r stWrongState 0
         ∧ t.mem = s.mem
       (frontCtl s slot 0x12 = some r → x.state ≠ .bound → refused (.run slot))
       ∧ (frontCtl s slot 0x13 = some r → x.state ≠ .running → refused (.pause slot))
       ∧ (frontCtl s slot 0x14 = some r → x.state ≠ .paused → refused (.resume slot))
       ∧ (frontCtl s slot 0x15 = some r → x.state ≠ .running → refused (.drain slot))
       ∧ (frontCtl s slot 0x16 = some r → x.state ≠ .halted → x.state ≠ .faulted → refused (.resetStream slot))
       ∧ (frontCtl s slot 0x17 = some r → x.state = .running ∨ x.state = .paused ∨ x.state = .draining → refused (.closeStream slot)))

/-- RESET_STREAM leaves a HALTED or FAULTED stream IDLE with no plan and empty transfer slots, and completes once every STOPPED
completion is written; CLOSE_STREAM lets no further record be read, and closes a stream that owes no completion, and completes. -/
def Obligations.ResetAndCloseStream : Prop :=
  ∀ (slot : Nat) (s : State) (r : Rec) (x : Stream), s.sound = true → slot < 64 → (s.slot slot).scomp.isSome = true →
    s.stream? r.stream = some x → x.session = slot → r.stream < 1024 → commonFails r slot false 24 = [] →
    (s.session slot).isSome = true → x.closing = false → (∀ w ∈ x.resetWait, w.2.2 = false) →
    (∀ q ∈ (s.slot slot).inflight, q.idx ≠ r.idx) →
    (frontCtl s slot 0x16 = some r → (x.state = .halted ∨ x.state = .faulted) →
      ∃ t y, exec (.resetStream slot) s = .next t ∧ t.streamState r.stream = .idle ∧ t.stream? r.stream = some y ∧ y.plan = none
        ∧ y.slots = List.replicate 16 {} ∧ y.overrun = false ∧ t.fuses = s.fuses
        ∧ (x.batches = [] → x.cring.turns = [] → x.resetWait = [] → Completes t slot r stDone 0))
    ∧ (frontCtl s slot 0x17 = some r → (x.state = .idle ∨ x.state = .bound ∨ x.state = .halted ∨ x.state = .faulted) →
      ∃ t, exec (.closeStream slot) s = .next t ∧ (∀ y, t.stream? r.stream = some y → y.closing = true ∧ y.plan = none) ∧ t.fuses = s.fuses
        ∧ (x.batches = [] → x.cring.turns = [] → x.resetWait = [] → t.streamState r.stream = .closed ∧ Completes t slot r stDone 0))

/-! ### Completions, transfer slots and arrivals -/

/-- A completion that is delivered takes its turn out of the ring and raises WATCH by 1; a batch's is then no longer in flight,
and CLOSE_SESSION's frees its slot. A ring whose delivery failed waits for its retry, which delivers it once it is due. -/
def Obligations.CompletionsArePosted : Prop :=
  ∀ (r : CompRef) (s : State) (o : RingOut) (u : Turn) (rest : List Turn), s.sound = true → s.ringOut r = some o →
    o.turns = u :: rest →
    let posted (w t : State) : Prop :=
      (∃ q, t.ringOut r = some q ∧ q.watch = o.watch + 1 ∧ (rest.map (·.idx)) <+: (q.turns.map (·.idx)))
      ∧ (∀ id, r = .comp id → u.after = .batchEnd → ∀ y, t.stream? id = some y → ∀ b ∈ y.batches, b.idx ≠ u.idx)
      ∧ t.mem = w.mem ∧ t.gran = w.gran ∧ t.fuses = s.fuses
    (o.retry = none → (deliver s r).2 = some u → u.after ≠ .freeOwner →
      ∃ t, exec (.completionPost r) s = .next t ∧ posted (deliver s r).1 t)
    ∧ (∀ k, r = .scomp k → k < 64 → o.retry = none → (deliver s r).2 = some u → u.after = .freeOwner →
      ∃ t, exec (.completionPost r) s = .next t
        ∧ t.slot k = { lastWatch := (s.slot k).lastWatch, haltSeq := (s.slot k).haltSeq } ∧ t.fuses = s.fuses)
    ∧ (∀ q, o.retry = some q → exec (.completionPost r) s = .next s)
    ∧ (∀ q, o.retry = some q → q.now s o.addr = true → headsDue s (refOf r) = false → u.after ≠ .freeOwner →
      let again := s.setRingOut r fun o => { o with retry := none }
      (deliver again r).2 = some u →
      ∃ t, exec (.deliveryRetry r) s = .next t ∧ posted (deliver again r).1 t)

/-- REARM: its descriptor becomes active at once where no transfer is in flight, and waits in the shadow otherwise, where it
takes the place of one that waits there, whose REARM then completes. The end of the transfer makes the shadow active. -/
def Obligations.RearmActsOnItsSlot : Prop :=
  (∀ (id : Nat) (s : State) (x : Stream) (r : Rec), s.sound = true → s.clean = true → frontRec s id 0x21 = some (x, r) →
    s.stream? id = some x → x.slots.length = 16 → pickFail (rearmChecks (takeRec s id) x r).2 = none →
    let k := r.n 24 1
    let is (d : SlotDesc) : Prop := d.idx = r.idx ∧ d.gen = r.n 40 4 ∧ d.bytes = peek s (r.n 32 8) 64 ∧ d.tag = r.tag
    let done (p : State → TSlot → Prop) : Prop := ∃ t y, exec (.rearm id) s = .next t ∧ t.stream? id = some y ∧ p t (y.slot k)
      ∧ (∀ j, j ≠ k → y.slot j = x.slot j) ∧ OthersKept s t id ∧ t.mem = s.mem ∧ t.fuses = s.fuses
    ((x.slot k).shadow = none → slotBusy s x k = false → done fun _ q => ∃ d, q.active = some d ∧ is d)
    ∧ ((x.slot k).shadow = none → slotBusy s x k = true →
      done fun _ q => q.active = (x.slot k).active ∧ ∃ d, q.shadow = some d ∧ is d ∧ d.replaced = none)
    ∧ (∀ o, (x.slot k).shadow = some o → slotBusy s x k = true →
      done fun t q => q.active = (x.slot k).active ∧ (∃ d, q.shadow = some d ∧ is d ∧ d.replaced = some o.gen)
        ∧ (o.waits = true → (∃ u ∈ x.cring.turns, u.idx = o.idx ∧ u.comp = none) → Answered t id o.idx stDone))
    ∧ (∀ o, (x.slot k).shadow = some o → slotBusy s x k = false → done fun _ q => q.shadow = none ∧ ∃ d, q.active = some d ∧ is d))
  ∧ (∀ (id k : Nat) (s : State) (x : Stream) (d : SlotDesc), s.sound = true → s.stream? id = some x → x.slots.length = 16 → k < 16 →
    (x.slot k).shadow = some d →
    (slotBusy s x k = true → exec (.shadowPromote id k) s = .next s)
    ∧ (slotBusy s x k = false → ∃ t y e, exec (.shadowPromote id k) s = .next t ∧ t.stream? id = some y ∧ (y.slot k).shadow = none
      ∧ (y.slot k).active = some e ∧ e.bytes = d.bytes ∧ e.gen = d.gen ∧ e.idx = d.idx ∧ (∀ j, j ≠ k → y.slot j = x.slot j)
      ∧ OthersKept s t id ∧ t.mem = s.mem))

/-- A whole record of at most 65,536 bytes for which the landing buffer has room is held in its slot, in arrival order; one that
finds no room leaves a receiver-not-ready answer and nothing else. A partial record silent for STALL_TICKS counts one stall, and
an awaited arrival that comes after its expiry is counted as late; of memory only the stream's status block is written. -/
def Obligations.RecordsArriveStallAndComeLate : Prop :=
  (∀ (id k : Nat) (origin data : List Byte) (s : State) (x : Stream) (d : SlotDesc), s.sound = true → s.open? id = some x →
    s.stream? id = some x → x.slots.length = 16 → k < 16 → (x.slot k).part = none → (x.slot k).shadow = none →
    (x.slot k).active = some d → takesRecords x = true → data.length ≤ 65536 → fieldN origin 0 1 ≠ 3 →
    let room := placeAt (x.slot k) d + data.length ≤ landingBytes d
    (room → waitingRecv x s.tick k = none → ∃ t y a, exec (.recordArrival id k origin data true) s = .next t ∧ t.stream? id = some y
      ∧ (y.slot k).whole = (x.slot k).whole ++ [a] ∧ a.data = data ∧ a.origin = origin ∧ a.taker = none
      ∧ a.at_ = placeAt (x.slot k) d ∧ a.desc = d.idx ∧ (y.slot k).part = none ∧ OthersKept s t id ∧ t.fuses = s.fuses)
    ∧ (¬ room → ∃ t y, exec (.recordArrival id k origin data true) s = .next t ∧ t.stream? id = some y
      ∧ (y.slot k).whole = (x.slot k).whole ∧ t.out = .nak (fieldN origin 1 1) (fieldN origin 8 4) 0x20 :: s.out ∧ t.mem = s.mem
      ∧ OthersKept s t id))
  ∧ (∀ (id k : Nat) (s : State) (x : Stream), s.sound = true → s.open? id = some x → s.stream? id = some x → x.slots.length = 16 →
    k < 16 → (x.slot k).part.isSome = true → (x.slot k).stalled = false → (x.state = .running ∨ x.state = .draining) →
    (x.slot k).lastByte + x.stallTicks < s.tick →
    ∃ t y, exec (.stallTimerExpiry id k) s = .next t ∧ t.stream? id = some y ∧ y.stalls = (x.stalls + 1) % 2 ^ 32
      ∧ (y.slot k).stalled = true ∧ y.state = x.state ∧ OthersKept s t id ∧ t.mem = (keepStatus (stallCounted s id k) id).mem)
  ∧ (∀ (id idx i : Nat) (s : State) (x : Stream), s.sound = true → s.open? id = some x → s.stream? id = some x →
    s.batch? id idx = none → stOp (x.stage i) ≠ 0x0801 →
    ∃ t y, exec (.lateArrival id idx i) s = .next t ∧ t.stream? id = some y ∧ y.late = (x.late + 1) % 2 ^ 32 ∧ y.batches = x.batches
      ∧ OthersKept s t id ∧ t.mem = (keepStatus (lateCounted s id) id).mem)

/-! ### Batches -/

/-- SUBMIT_BATCH that passes its checks adds its batch, queued on a RUNNING stream and held on another, and writes nothing but
a status block that has changed; one that fails completes with the check's status and adds none. A queued batch that may start
and whose staging area fits starts at the present tick, with the versions of its tables pinned and every stage of the plan to
run; one whose staging area does not fit completes NO_SPACE. -/
def Obligations.BatchesAreAcceptedAndStart : Prop :=
  (∀ (id : Nat) (s : State) (x : Stream) (r : Rec), s.sound = true → s.clean = true →
    frontRec s id 0x20 = some (x, r) → s.stream? id = some x →
    let found := submitChecks x r (takeRec s id)
    let b := newBatch x r found.2.2.1 found.2.2.2
    (pickFail found.2.1 = none → ∃ t y, exec (.submitBatch id) s = .next t ∧ t.stream? id = some y
      ∧ y.batches = x.batches ++ [b] ∧ b.state = (if x.state = .running then .queued else .held) ∧ y.state = x.state ∧ OthersKept s t id
      ∧ t.mem = (keepStatus (acceptBatch found.1 id b) id).mem ∧ t.fuses = s.fuses)
    ∧ (∀ f, pickFail found.2.1 = some f → r.stream = id → (∃ u ∈ x.cring.turns, u.idx = r.idx ∧ u.comp = none) →
      ∃ t y, exec (.submitBatch id) s = .next t ∧ t.stream? id = some y ∧ y.batches = x.batches ∧ Answered t id r.idx f.status
        ∧ OthersKept s t id ∧ t.mem = s.mem))
  ∧ (∀ (id staging : Nat) (s : State) (x : Stream) (p : Plan) (b : Batch), s.sound = true → s.open? id = some x →
    s.stream? id = some x → x.plan = some p → x.batches.find? (·.state == .queued) = some b → mayStart x p b = true →
    (quotaFits s x.session staging 0 = true →
      ∃ t c, exec (.batchStart id staging) s = .next t ∧ t.batch? id b.idx = some c ∧ c.state = .started ∧ c.start = s.tick
        ∧ c.pins = pinsOf s p ∧ c.stagingBytes = staging ∧ c.runs.map (·.ix) = List.range p.stages.length
        ∧ t.power.lastWork = s.tick ∧ t.power.dev = .active ∧ OthersKept s t id ∧ t.mem = s.mem ∧ t.fuses = s.fuses)
    ∧ (quotaFits s x.session staging 0 = false → TurnWaits x b.idx → s.batch? id b.idx = some b →
      ∃ t, exec (.batchStart id staging) s = .next t ∧ Answered t id b.idx stNoSpace ∧ t.mem = s.mem))

/-- A stage that is next in its batch, ready and first in turn is issued on units that suit it, which it then holds; a stage
whose work is done finishes with its results and gives its units back. -/
def Obligations.StagesAreIssuedAndFinish : Prop :=
  (∀ (id idx i tau : Nat) (units : List Nat) (s : State) (x : Stream) (p : Plan) (b : Batch) (u : StageRun), s.sound = true →
    s.open? id = some x → s.stream? id = some x → s.batch? id idx = some b → x.plan = some p → b.runs.find? (·.ix == i) = some u →
    u.readyAt = some tau → b.stopped = false → u.issuedAt = none → u.finished = false → nextStage p b = some i →
    (b.state = .started ∨ b.state = .committed) → s.power.issueGate = 0 → cursorFree x p (p.stages.getD i []) = true →
    unitsOk s x p i units = true → servedFirst s x idx (p.stages.getD i []) tau = false →
    ∃ t v, exec (.stageIssue id idx i units) s = .next t ∧ t.run? id idx i = some v ∧ v.issuedAt = some s.tick
      ∧ v.pages = unitPages (p.stages.getD i []) units
      ∧ t.assigns = s.assigns ++ (unitPages (p.stages.getD i []) units).map (fun q => ⟨q, id, idx, i⟩)
      ∧ t.fuses = s.fuses)
  ∧ (∀ (id idx i : Nat) (s : State) (x : Stream) (p : Plan) (b : Batch) (u : StageRun) (outs : List (Option Col)), s.sound = true →
    s.open? id = some x → s.stream? id = some x → s.batch? id idx = some b → x.plan = some p → b.runs.find? (·.ix == i) = some u →
    b.state = .started → b.stopped = false → u.finished = false → u.issuedAt.isSome = true → u.failure = none →
    let s1 := { s with freeCtr := s.freeCtr + 1 }
    stageReady s1 x p b u = true → (opFinish (mkCtx s x p b i u.pages) p (planRecs p i) u s1).2 = .ok outs →
    lateSuits (mkCtx s x p b i u.pages) u.ins outs = none →
    ∃ t v, exec (.stageFinish id idx i .none) s = .next t ∧ t.run? id idx i = some v ∧ v.finished = true ∧ v.outs = outs
      ∧ (∀ a ∈ t.assigns, ¬ (a.stream = id ∧ a.batch = idx ∧ a.stage = i)))
  ∧ (∀ (id idx i : Nat) (e : Nat × Nat) (s : State) (x : Stream) (p : Plan) (b : Batch) (u : StageRun), s.sound = true →
    s.open? id = some x → s.stream? id = some x → s.batch? id idx = some b → x.plan = some p → b.runs.find? (·.ix == i) = some u →
    b.state = .started → b.stopped = false → u.finished = false → u.issuedAt.isSome = true → u.failure = some e →
    TurnWaits x idx →
    ∃ t, exec (.stageFinish id idx i .none) s = .next t ∧ Answered t id idx e.1 ∧ t.mem = s.mem)

/-- The commit point of the oldest started batch: results that fit are written and the batch completes DONE when nothing is left
to send; a result that does not fit its buffer ends it with NO_SPACE and nothing written. A batch past its deadline, and one
whose awaited arrival has not come by its TIMEOUT, complete with TIMEOUT. -/
def Obligations.BatchesCommitOrTimeOut : Prop :=
  (∀ (id : Nat) (s : State) (x : Stream) (p : Plan) (b : Batch), s.sound = true → s.open? id = some x → s.stream? id = some x →
    x.plan = some p → x.batches.find? (·.state == .started) = some b → s.batch? id b.idx = some b → mayCommit s x p b = true →
    TurnWaits x b.idx →
    let misfit (q : Nat × Nat × Nat × Col) : Bool := !(outFits (Desc.of (b.outDesc.getD q.2.2.1 [])) q.2.2.2)
    let w := (committedOuts p b).foldl (writeOut b) ((committedOuts p b).foldl (commitRequests x b) s, 0)
    ((committedOuts p b).find? misfit = none → w.2 = 0 → b.updates = [] → b.runs.all (·.finished) = true → b.failure = none →
      b.select = none → b.searching = 0 →
      ∃ t, exec (.commitPoint id) s = .next t ∧ Answered t id b.idx stDone ∧ t.mem = w.1.mem ∧ t.fuses = s.fuses)
    ∧ (∀ q, (committedOuts p b).find? misfit = some q →
      ∃ t, exec (.commitPoint id) s = .next t ∧ Answered t id b.idx stNoSpace ∧ t.mem = s.mem ∧ t.fuses = s.fuses))
  ∧ (∀ (id idx : Nat) (s : State) (x : Stream) (b : Batch), s.sound = true → s.open? id = some x → s.stream? id = some x →
    s.batch? id idx = some b → b.state = .started → b.stopped = false → TurnWaits x idx →
    (pastDeadline s b = true → ∃ t, exec (.deadlineExpiry id idx) s = .next t ∧ Answered t id idx stTimeout ∧ t.mem = s.mem)
    ∧ (∀ i u, b.runs.find? (·.ix == i) = some u → u.finished = false → runExpired x s.tick u = true → awaitedCame s x b u = false →
      ∃ t, exec (.stageTimeout id idx i) s = .next t ∧ Answered t id idx stTimeout ∧ t.mem = s.mem))

/-! ### HALT, the Sluice and the Causeway -/

/-- A HALT that passes its checks leaves every stream of its scope HALTED, wherever its messages stand, and writes the status
blocks of those that were not and nothing else; one that fails a check, or comes while a Sluice is held, leaves every stream and all of
memory as it was. A unit that receives a HALT moves to those that owe an answer and drops what it had queued
for the stopped streams; the last answer completes the HALT; and a HALTED stream with nothing more on its way has every batch
that HALT stopped done, but for one whose search updates are still being applied. -/
def Obligations.HaltsStopEveryStreamInScope : Prop :=
  (∀ (slot v : Nat) (b : List Byte) (s : State), s.sound = true → s.clean = true → slot < 64 → s.trust.ready = true →
    (read64 s (haltSeqAddr slot)).2 = .ok v → v ≠ (s.slot slot).haltSeq →
    let s1 := (read64 s (haltSeqAddr slot)).1.setSlot slot fun k => { k with haltSeq := v }
    (devRead s1 (mailboxAddr slot) 128).2 = .ok b →
    let ids := scopeStreams s (fieldN b 24 1) slot (fieldN b 4 2)
    (pickFail (haltFails s slot ⟨v, b⟩) = none → s.fab.held = false →
      ∃ t u, exec (.halt slot) s = .next t ∧ (∀ id ∈ ids, t.streamState id = .halted) ∧ (t.slot slot).haltSeq = v
        ∧ u.mem = s.mem ∧ t.mem = (keepStatuses u (notHalted s ids)).mem ∧ (∀ id, u.streamState id = t.streamState id)
        ∧ t.fuses = s.fuses)
    ∧ (pickFail (haltFails s slot ⟨v, b⟩) ≠ none ∨ s.fab.held = true →
      ∃ t, exec (.halt slot) s = .next t ∧ t.disp.streams = s.disp.streams ∧ (t.slot slot).haltSeq = v ∧ t.mem = s.mem))
  ∧ (∀ (u : StopUnit) (s : State), s.sound = true → (∃ h ∈ s.disp.halts, ∃ e ∈ h.toReceive, e.1 = u) →
    ∃ t, exec (.haltMessage u) s = .next t
      ∧ t.disp.halts = s.disp.halts.map (fun h => { h with
          toReceive := h.toReceive.filter (·.1 != u), toAck := h.toAck ++ h.toReceive.filter (·.1 == u) })
      ∧ t.fuses = s.fuses
      ∧ ∀ h ∈ s.disp.halts, ∀ e ∈ h.toReceive, e.1 = u → ∀ id ∈ e.2,
        (∀ k, u = .culv k → ∀ w ∈ (t.culv k).queue, w.stream ≠ id)
        ∧ (∀ d, u = .reed d → ∀ w ∈ (t.reed d).keys, w.stream ≠ id)
        ∧ (∀ k, u = .tile k → (∀ g ∈ (t.mover k).groups, g.stream ≠ id) ∧ ∀ w ∈ (t.mover k).waiting, w.stream ≠ id))
  ∧ (∀ (u : StopUnit) (s : State), s.sound = true →
    ∃ t, exec (.stopAck u) s = .next t ∧ (∀ h ∈ t.disp.halts, ∀ e ∈ h.toAck, e.1 ≠ u) ∧ t.disp.streams = s.disp.streams
      ∧ t.mem = s.mem ∧ t.fuses = s.fuses
      ∧ ∀ h ∈ s.disp.halts, ∀ k, h.slot = some k → (s.slot k).scomp.isSome = true → s.fab.phase = .none →
        HaltOp.done { h with toAck := h.toAck.filter (·.1 != u) } s = true →
        ∃ o, t.ringOut (.scomp k) = some o ∧ ∃ w ∈ o.turns, w.idx = noRec ∧ ∃ c, w.comp = some c ∧ c.status = stDone ∧ c.tag = h.tag
          ∧ c.count = h.streams.length)
  ∧ (∀ (id : Nat) (s : State) (x : Stream), s.sound = true → s.open? id = some x → s.stream? id = some x → x.state = .halted →
    streamStopped s id = true → x.resetWait = [] → (x.batches.map (·.idx)).Nodup →
    ∃ t y, exec (.streamStopDone id) s = .next t ∧ t.stream? id = some y ∧ y.state = .halted ∧ t.mem = s.mem
      ∧ ∀ b ∈ y.batches, b.stopped = true → b.state = .done ∨ (b.state = .committed ∧ b.searching ≠ 0))

/-- The Sluice that has drained ends, or is held where the MC asked for it; the MC's write starts its HALT, which no other agent
may, and its release ends a held Sluice. Of memory only the status blocks of streams newly halted are written. -/
def Obligations.SluiceDrainsAndMcHalts : Prop :=
  let kept (s t : State) : Prop := t.disp.streams = s.disp.streams ∧ t.mem = s.mem ∧ t.gran = s.gran ∧ t.fuses = s.fuses
  let k := pgFab + 0x430
  (∀ s : State, s.fab.phase = .draining → lanesEmpty s = true →
    (s.fab.holdAsked = false → ∃ t, exec .sluiceDrained s = .next t ∧ t.fab.phase = .none ∧ t.fab.held = false ∧ kept s t)
    ∧ (s.fab.holdAsked = true → ∃ t, exec .sluiceDrained s = .next t ∧ t.fab.phase = .quiet ∧ t.fab.held = true ∧ kept s t))
  ∧ (∀ (v : Word) (s : State), s.sound = true → regGate s .mc k = .through → pageEn s pgFab = true → bit v 63 = true →
    s.fab.mcBusy = false → fld v 27 26 ≠ 3 → s.trust.ready = true →
    let ids := scopeStreams s (fld v 27 26) (fld v 5 0) (fld v 25 16)
    ∃ t u, exec (.mcHaltGo .mc v) s = .next t ∧ t.resp = .done ∧ (∀ id ∈ ids, t.streamState id = .halted)
      ∧ t.fab.mcStreams = (notHalted s ids).length ∧ u.mem = s.mem ∧ t.mem = (keepStatuses u (notHalted s ids)).mem
      ∧ ∀ id, u.streamState id = t.streamState id)
  ∧ (∀ (who : Agent) (v : Word) (s : State), who ≠ .mc → regGate s who k = .through → bit v 63 = true →
    exec (.mcHaltGo who v) s = .next { s with resp := .done })
  ∧ (∀ (v : Word) (s : State), s.sound = true → regGate s .mc k = .through → pageEn s pgFab = true → bit v 62 = true →
    s.fab.held = true →
    ∃ t, exec (.mcHaltRelease .mc v) s = .next t ∧ t.fab.phase = .none ∧ t.fab.held = false ∧ t.resp = .done ∧ kept s t)

/-- SLOT_RECLAIM of a claimed slot frees it: no session, no rings and no stream of it is left. A peer session that no bound plan
names any longer is closed. -/
def Obligations.SlotsAndPeersAreFreed : Prop :=
  (∀ (who : Agent) (v : Word) (s : State) (o : Nat), s.sound = true → regGate s who (pgDisp + 0x418) = .through →
    pageEn s pgDisp = true → bit v 63 = true → (read64 (answer s .done) (ownerAddr (fld v 5 0))).2 = .ok o → o ≠ 0 →
    ∃ t, exec (.slotReclaim who v) s = .next t
      ∧ t.slot (fld v 5 0) = { lastWatch := (s.slot (fld v 5 0)).lastWatch, haltSeq := (s.slot (fld v 5 0)).haltSeq }
      ∧ (∀ y ∈ t.disp.streams, y.session ≠ fld v 5 0) ∧ t.fuses = s.fuses)
  ∧ (∀ (session peer : Nat) (s : State), (∃ p ∈ s.disp.peers, p.session = session ∧ p.peer = peer) → peerNamed s peer = false →
    ∃ t, exec (.peerSessionClose session peer) s = .next t ∧ (∀ p ∈ t.disp.peers, ¬ (p.session = session ∧ p.peer = peer))
      ∧ t.disp.streams = s.disp.streams ∧ t.disp.slots = s.disp.slots ∧ t.mem = s.mem)

/-- SNAPSHOT triggers, or joins the snapshot under way, and waits for every block to latch it. ATTEST that passes its checks
queues its quote; one that does not completes with the check's status and the length needed. A signed quote is written and its
ATTEST completes with the quote's length, or with the status of a fault met in writing it. -/
def Obligations.SnapshotAndAttestRecords : Prop :=
  (∀ (slot : Nat) (s : State) (r : Rec), s.sound = true → slot < 64 → frontCtl s slot 0x40 = some r →
    (s.slot slot).scomp.isSome = true → commonFails r slot false 24 = [] → noStreamFails r = [] → (s.session slot).isSome = true →
    ∃ t, exec (.snapshot slot) s = .next t ∧ t.mem = s.mem ∧ t.disp.streams = s.disp.streams
      ∧ (s.still.mergeOpen = false → t.rfld (pgStill + 0x420) 31 0 =
            (if s.rfld (pgStill + 0x420) 31 0 = 0xFFFFFFFF then 1 else s.rfld (pgStill + 0x420) 31 0 + 1)
          ∧ t.reg (pgStill + 0x428) = BitVec.ofNat 64 srcCalmet ∧ t.reg (pgStill + 0x430) = BitVec.ofNat 64 s.tick)
      ∧ (t.still.toLatch ≠ [] → (slot, r.idx, t.rfld (pgStill + 0x420) 31 0) ∈ t.still.waiting)
      ∧ (t.still.toLatch = [] → s.still.waiting = [] → (∀ q ∈ (s.slot slot).inflight, q.idx ≠ r.idx) →
          Completes t slot r stDone (t.rfld (pgStill + 0x420) 31 0)))
  ∧ (∀ (slot : Nat) (s : State) (r : Rec), s.sound = true → slot < 64 → frontCtl s slot 0x41 = some r →
    (s.slot slot).scomp.isSome = true →
    (pickFail (attestFails (takeCtl s slot r) slot r) = none →
      ∃ t, exec (.attest slot) s = .next t ∧ t.mem = s.mem ∧ t.disp.streams = s.disp.streams
        ∧ t.trust.quotes = s.trust.quotes ++ [.record slot r.idx (r.n 56 8) (r.n 64 4) (r.n 68 2) (sliceB r.bytes 24 32)])
    ∧ (∀ f, pickFail (attestFails (takeCtl s slot r) slot r) = some f →
      ∃ t, exec (.attest slot) s = .next t ∧ t.mem = s.mem ∧ t.trust = s.trust
        ∧ Completes t slot r f.status (if f.status = stNoSpace then quoteLen (r.n 68 2) else 0)))
  ∧ (∀ (slot idx addr len mask : Nat) (nonce : List Byte) (rest : List QuoteReq) (r : Rec) (s : State), s.sound = true →
    slot < 64 → s.trust.quotes = .record slot idx addr len mask nonce :: rest → s.power.vinGood = true → hasIdentity s = true →
    (s.slot slot).scomp.isSome = true → inflightRec s slot idx = some r →
    let u := s.setTrust fun t => { t with quotes := rest }
    let w := devWrite (wakeForWrite u addr) addr (quoteBytes u mask nonce)
    ∃ t, exec .quoteSign s = .next t ∧ t.trust = u.trust ∧ t.mem = w.1.mem
      ∧ (w.2 = none → Completes t slot r stDone (quoteLen mask)) ∧ ∀ x, w.2 = some x → Completes t slot r x.status 0)

/-- A replayed flit counts in RETRY_CNT and as a correctable event; a retrain that succeeds leaves the links as they were, and
one that fails takes the link down and cuts off the die behind a link to the I/O die; an accepted lane repair starts a retrain.
The field self-test leaves HBM and Fen contents, and resident groups leave the tiles of the die it tested. -/
def Obligations.LinksAndFieldTest : Prop :=
  (∀ (l : Nat) (corrected : Bool) (s : State), s.sound = true → l < 8 → linkUp s l = true →
    ∃ t, exec (.d2dReplay l corrected) s = .next t
      ∧ t.rfld (pgD2d l + 0x38) 47 0 = min (2 ^ 48 - 1) (s.rfld (pgD2d l + 0x38) 47 0 + 1)
      ∧ (corrected = true → t.reg (pgD2d l + 0x418) = s.reg (pgD2d l + 0x418))
      ∧ (corrected = false → (s.reg (pgD2d l + 0x418)).toNat + 1 < 2 ^ 32 → t.rfld (pgD2d l + 0x418) 31 0 = s.rfld (pgD2d l + 0x418) 31 0 + 1)
      ∧ t.mem = s.mem ∧ t.disp = s.disp ∧ t.fab = s.fab)
  ∧ (∀ (l : Nat) (ok : Bool) (s : State), s.sound = true → l < 8 → linkPowered s l = true → linkUp s l = true →
    ∃ t, exec (.d2dRetrain l ok) s = .next t ∧ t.fab.retrains = modifyAt s.fab.retrains l (fun n => (n + 1) % 2 ^ 16)
      ∧ t.mem = s.mem ∧ t.disp = s.disp
      ∧ (ok = true → t.fab.linkDown = s.fab.linkDown ∧ t.cutOff = s.cutOff)
      ∧ (ok = false → linkUp t l = false ∧ (4 ≤ l → l - 4 ∈ t.cutOff) ∧ ∀ j, j ≠ l → linkUp t j = linkUp s j))
  ∧ (∀ (who : Agent) (l : Nat) (v : Word) (s : State), s.sound = true → l < 8 → s.fab.repairing.length = 8 →
    regGate s who (pgD2d l + 0x430) = .through → pageEn s (pgD2d l) = true →
    (who ≠ .mc → ∃ t, exec (.laneRepair who l v) s = .next t ∧ t.fab = s.fab ∧ t.fuses = s.fuses)
    ∧ (who = .mc → s.fab.repairing.getD l false = false → poolUsed s.fuses (linkPool l) < poolSize (linkPool l) →
      ∃ t, exec (.laneRepair who l v) s = .next t ∧ t.fab.repairing.getD l false = true ∧ t.reg (pgD2d l + 0x430) = wd (fld v 9 0)
        ∧ poolUsed t.fuses (linkPool l) = poolUsed s.fuses (linkPool l) + 1 ∧ t.mem = s.mem))
  ∧ (∀ (d : Nat) (failed : List Nat) (s : State), s.sound = true → d < 4 → s.fab.held = true → (s.die d).power ≠ .off →
    ∃ t, exec (.fieldSelfTest d failed) s = .next t ∧ McEvent.selfTest d (failed.filter fun k => k / 13 == d) ∈ t.trust.log
      ∧ (∀ g ∈ t.disp.residents, ∀ k ∈ g.tiles, k / 13 ≠ d) ∧ t.mem = s.mem ∧ t.gran = s.gran
      ∧ t.fenLines = s.fenLines)

/-! ### The Weir, fetch engines and the steps of a stage's tiles -/

/-- Blocks of a tile's pool: granted where the Weir can give them, which ends the waiting and its edges; a stream with a floor goes on
without them, and one with floor 0 waits, and reports the streams that hold blocks there beyond their floors. A spilled block's write
leaves one fewer to write, and the spilled blocks come back once as many are free. Memory is not touched. -/
def Obligations.WeirGrantsSpillsAndRestores : Prop :=
  ∀ (k id n : Nat) (s : State) (h : Hold), s.sound = true → s.hold? k id = some h →
    let ask := if h.wanted = 0 then n else h.wanted
    let fits := max h.floor (h.held + ask) = max h.floor h.held
      ∨ (max h.floor (h.held + ask) - max h.floor h.held ≤ freeBlocks s k ∧ winnerWaits s k id = false)
    let kept (t : State) : Prop := OthersButBlocks s t id ∧ t.mem = s.mem ∧ t.fuses = s.fuses
    (h.spilling = 0 → h.spilled = 0 → fits → ∃ t q, exec (.weirGrant k id n) s = .next t ∧ kept t
      ∧ t.hold? k id = some q ∧ q.held = h.held + ask ∧ q.wanted = 0 ∧ q.floor = h.floor
      ∧ t.fab.edges = s.fab.edges.filter fun e => !(e.tile == k && e.waiter == id))
    ∧ (h.spilling = 0 → h.spilled = 0 → ¬ fits → h.floor ≠ 0 → exec (.weirGrant k id n) s = .next s)
    ∧ (h.spilling = 0 → h.spilled = 0 → ¬ fits → h.floor = 0 →
      ∃ t, exec (.weirGrant k id n) s = .next t ∧ OthersKept s t id ∧ kept t ∧ t.hold? k id = some { h with wanted := ask })
    ∧ (h.wanted ≠ 0 → ∃ t, exec (.weirEdge k id) s = .next t ∧ t.disp = s.disp ∧ t.mem = s.mem
      ∧ (∀ e ∈ s.fab.edges, e ∈ t.fab.edges)
      ∧ (∀ p ∈ tileHolds s k, p.1 ≠ id → p.2.floor < p.2.held → p.2.spilling = 0 → (⟨k, id, p.1⟩ : Edge) ∈ t.fab.edges)
      ∧ ∀ e ∈ t.fab.edges, e ∈ s.fab.edges ∨ (e.tile = k ∧ e.waiter = id))
    ∧ (h.spilling ≠ 0 → ∃ t q, exec (.spillBlockWritten k id) s = .next t ∧ t.hold? k id = some q
      ∧ q.spilling = h.spilling - 1 ∧ q.spilled = h.spilled ∧ kept t)
    ∧ (h.spilled ≠ 0 → h.spilling = 0 → h.spilled ≤ freeBlocks s k → ∃ t q, exec (.sloughRestore k id) s = .next t
      ∧ OthersKept s t id ∧ kept t ∧ t.hold? k id = some q ∧ q.held = h.held + h.spilled ∧ q.spilled = 0 ∧ q.wanted = h.wanted)

/-- WAIT_GRAPH_CHECK leaves no cycle in the wait-for graph: it only takes edges away, none while there is no cycle; of the cycle
found first, those on which other streams of it wait for its youngest; and the blocks on which an edge goes are all being
spilled. -/
def Obligations.WaitCyclesAreResolved : Prop :=
  ∀ s : State, s.sound = true → (∀ e ∈ s.fab.edges, e.waiter ≠ e.holder) →
    (findCycle s.fab.edges = [] → exec .waitGraphCheck s = .next s)
    ∧ ∃ t, exec .waitGraphCheck s = .next t ∧ findCycle t.fab.edges = [] ∧ t.fab.edges.Sublist s.fab.edges ∧ t.mem = s.mem
      ∧ t.fuses = s.fuses ∧ (∀ id, t.streamState id = s.streamState id)
      ∧ (∀ e ∈ s.fab.edges, e.waiter ∈ findCycle s.fab.edges → e.holder = youngest s (findCycle s.fab.edges) →
        findCycle s.fab.edges ≠ [] → e ∉ t.fab.edges)
      ∧ ∀ e ∈ s.fab.edges, e ∉ t.fab.edges → ∀ h, s.hold? e.tile e.holder = some h → h.spilling = 0 → h.held ≠ 0 →
        ∃ q, t.hold? e.tile e.holder = some q ∧ q.spilling = h.held ∧ q.spilled = h.spilled + h.held

/-- A merge group that is due is issued as its requests, each of which takes a credit or waits for one; a returned credit of a
tile goes to the requests held for it, one of a tile's commands to an engine frees the response it stood for, and one of a lane of
a hop lets a flit go on. A member of a rotation that has what it needs moves on to the next step, and a merged row is no longer to
be merged. -/
def Obligations.FetchAndStepsOnTiles : Prop :=
  (∀ (k i : Nat) (s : State) (g : Group), s.sound = true → k < 52 → (s.mover k).groups[i]? = some g →
    (groupDue s (s.mover k) g = false → exec (.mergeGroupIssue k i) s = .next s)
    ∧ (groupDue s (s.mover k) g = true → ∃ t, exec (.mergeGroupIssue k i) s = .next t ∧ g ∉ (t.mover k).groups
      ∧ (t.mover k).out.length + (t.mover k).waiting.length
          = (s.mover k).out.length + (s.mover k).waiting.length + (requestsOf (g.len / 4096 + 2) g.start g.len).length
      ∧ (∀ j, j ≠ k → t.mover j = s.mover j) ∧ t.disp.streams = s.disp.streams ∧ t.mem = s.mem))
  ∧ (∀ (k held : Nat) (pool : CreditPool) (s : State), s.sound = true → k < 52 → (∃ e ∈ (s.mover k).out, e.pool = poolNum pool) →
    (∃ t, exec (.creditReturn (.tile k pool) held) s = .next t ∧ t.mem = s.mem ∧ t.fuses = s.fuses
      ∧ (∀ j, j ≠ k → t.mover j = s.mover j) ∧ ∀ id, t.streamState id = s.streamState id)
    ∧ ((s.mover k).feeds = [] → (s.mover k).waiting = [] → ∃ t, exec (.creditReturn (.tile k pool) held) s = .next t
      ∧ (t.mover k).out.length + 1 = (s.mover k).out.length ∧ (t.mover k).waiting = [] ∧ t.disp.streams = s.disp.streams)
    ∧ (∀ w l, (s.mover k).feeds = [] → (s.mover k).waiting = w :: l → w.pool = poolNum pool →
      ((s.mover k).out.filter (·.pool == w.pool)).length ≤ poolDepth w.pool → ∃ t, exec (.creditReturn (.tile k pool) held) s = .next t
        ∧ w ∈ (t.mover k).out ∧ t.disp.streams = s.disp.streams))
  ∧ (∀ (n k held : Nat) (s : State) (w : Window) (u : StageRun), s.sound = true → k < 12 →
    (s.culv k).back.find? (·.page == pgTile n) = some w → s.run? w.stream w.batch w.stage = some u →
    ∃ t v, exec (.creditReturn (.culvert n k) held) s = .next t ∧ (t.culv k).back = (s.culv k).back.eraseP (· == w)
      ∧ t.run? w.stream w.batch w.stage = some v ∧ v.windows = u.windows - 1 ∧ OthersKept s t w.stream ∧ t.mem = s.mem)
  ∧ (∀ (hop lane held : Nat) (s : State), s.sound = true →
    (∃ t, exec (.creditReturn (.lane hop lane) held) s = .next t ∧ t.disp = s.disp ∧ t.mem = s.mem ∧ t.fab.edges = s.fab.edges)
    ∧ (∀ ps next_ done, hop < 336 → lane < 5 → lane ≠ laneRsp → (∀ p ∈ s.fab.packets, p.route.Nodup) →
      leaveFirst s hop lane s.fab.packets = some (ps, next_, done) → enterFirst hop lane ps = none →
      ∃ t, exec (.creditReturn (.lane hop lane) held) s = .next t ∧ laneUsed t hop lane + 1 = laneUsed s hop lane))
  ∧ (∀ (id idx i m waited : Nat) (s : State) (u : StageRun), s.sound = true → s.run? id idx i = some u → u.finished = false →
    m < u.pages.length → u.steps.getD m u.pages.length < u.pages.length →
    (u.steps.getD m u.pages.length + 1 = u.pages.length
      ∨ u.steps.getD m u.pages.length ≤ u.steps.getD ((m + u.pages.length - 1) % u.pages.length) 0) →
    ∃ t v, exec (.ringStep id idx i m waited) s = .next t ∧ t.run? id idx i = some v
      ∧ v.steps = setAt u.steps m (u.steps.getD m u.pages.length + 1) ∧ OthersKept s t id ∧ t.mem = s.mem ∧ t.fuses = s.fuses)
  ∧ (∀ (id idx i row : Nat) (s : State) (u : StageRun), s.sound = true → s.run? id idx i = some u → u.finished = false →
    row ∈ u.merges → ∃ t v, exec (.partialListMerge id idx i row) s = .next t ∧ t.run? id idx i = some v
      ∧ v.merges = u.merges.filter (· != row) ∧ OthersKept s t id ∧ t.mem = s.mem ∧ t.fuses = s.fuses)

/-! ### Tables, hot rows and the Reedbed -/

/-- A decay step that is due halves every counter of its engine, and changes no hot row while a Sluice drains. An epoch advances
where fewer than four are live and sends its listing to the four dies; a die applies the oldest listing sent to it; drained
slots are freed; SKETCH_CTL.CLEAR empties the counters; a Hummock area takes a write only where R178 lets it. -/
def Obligations.HotRowsFollowEpochs : Prop :=
  (∀ (k : Nat) (s : State), s.sound = true → k < 12 → stackAsleep s k = false → (s.culv k).decayAt + 25000 ≤ s.tick →
    ∃ t, exec (.decayStep k) s = .next t ∧ (t.culv k).sketch = halveSketch (s.culv k).sketch
      ∧ (t.culv k).decayAt = (s.culv k).decayAt + 25000 ∧ (∀ j, j ≠ k → t.culv j = s.culv j) ∧ t.disp = s.disp
      ∧ (quiescing s = true → (t.culv k).hot = (s.culv k).hot ∧ t.mem = s.mem))
  ∧ (∀ (k table : Nat) (s : State) (c : HotChange), s.sound = true → k < 12 →
    (s.culv k).changes.find? (·.table == table) = some c →
    (4 ≤ (s.culv k).liveCount table → exec (.epochAdvance k table) s = .next s)
    ∧ ((s.culv k).liveCount table < 4 → ∃ t, exec (.epochAdvance k table) s = .next t
      ∧ (t.culv k).epochOf table = ((s.culv k).epochOf table + 1) % 65536
      ∧ (t.culv k).changes = (s.culv k).changes.eraseP (·.table == table)
      ∧ (∀ d, d < 4 → ∃ l, (d, l) ∈ t.tables.epochMsgs ∧ l.home = k ∧ l.table = table
        ∧ l.epoch = ((s.culv k).epochOf table + 1) % 65536)
      ∧ t.tables.epochMsgs.length = s.tables.epochMsgs.length + 4 ∧ t.mem = s.mem ∧ t.disp = s.disp))
  ∧ (∀ (die d : Nat) (l : Listing) (s : State), s.sound = true → die < 4 → s.tables.epochMsgs.find? (·.1 == die) = some (d, l) →
    ∃ t, exec (.epoch die) s = .next t ∧ listingOf t die l.home l.table = some l
      ∧ t.tables.epochMsgs = s.tables.epochMsgs.eraseP (·.1 == die) ∧ t.mem = s.mem ∧ t.disp = s.disp)
  ∧ (∀ (k table : Nat) (s : State) (l : Leaving), s.sound = true → k < 12 →
    (s.culv k).leaving.find? (fun l => l.table == table && l.version.isNone) = some l →
    (epochDrained s k table l.epoch = false → exec (.replicaSlotFree k table) s = .next s)
    ∧ (epochDrained s k table l.epoch = true →
      ∃ t, exec (.replicaSlotFree k table) s = .next t ∧ l ∉ (t.culv k).leaving ∧ t.disp = s.disp ∧ t.fuses = s.fuses))
  ∧ (∀ (who : Agent) (k : Nat) (v : Word) (s : State), s.sound = true → k < 12 → pageEn s (pgCulv k) = true →
    (regGate s who (pgCulv k + 0x4E0) = .through → bit v 63 = true →
      ∃ t, exec (.sketchClear who k v) s = .next t ∧ (t.culv k).sketch = [] ∧ (∀ j, j ≠ k → t.culv j = s.culv j)
        ∧ t = { s with tables := t.tables, resp := .done })
    ∧ (regGate s who (pgCulv k + 0x488) = .through →
      (hummockTakes s k false v = true → ∃ t, exec (.hummockHbmWrite who k v) s = .next t ∧ t.mem = s.mem ∧ t.tables = s.tables
        ∧ t.reg (pgCulv k + 0x488) = wd (fld v 47 32 * 2 ^ 32 + fld v 15 0))
      ∧ (hummockTakes s k false v = false → exec (.hummockHbmWrite who k v) s = .next { s with resp := .done }))
    ∧ (regGate s who (pgCulv k + 0x490) = .through →
      (hummockTakes s k true v = true → ∃ t, exec (.hummockFenWrite who k v) s = .next t ∧ t.mem = s.mem ∧ t.tables = s.tables
        ∧ t.reg (pgCulv k + 0x490) = wd (fld v 42 32 * 2 ^ 32 + fld v 12 0))
      ∧ (hummockTakes s k true v = false → exec (.hummockFenWrite who k v) s = .next { s with resp := .done })))

/-- An engine's next command leaves its queue and its response is on its way; it changes no memory where the engine makes no hot
row. A free reservation of a table goes to the first stage that waits; the stage that holds it may finish once the target base is
free; and a version whose last pin is gone and whose epochs have drained is no longer to be drained. -/
def Obligations.WindowsAndTableSwitches : Prop :=
  (∀ (k : Nat) (s : State) (w : Window), s.sound = true → k < 12 →
    nextWindow (s.culv k) (s.rfld (pgCulv k + 0x440) 3 0) = some w →
    ∃ t, exec (.culvertWindow k) s = .next t ∧ (t.culv k).back = (s.culv k).back ++ [w]
      ∧ (t.culv k).queue.length + (t.culv k).held.length + 1 = (s.culv k).queue.length + (s.culv k).held.length
      ∧ OthersKept s t w.stream ∧ t.fuses = s.fuses ∧ (s.clean = true → hotEn s k = false → t.mem = s.mem))
  ∧ (∀ (table : Nat) (s : State) (e : TableEnt) (w : Nat × Nat × Nat), s.sound = true → s.table? table = some e →
    firstWaiter (switchWaiters s table) = some w →
    (e.reserved = none → ∃ t, exec (.switchReservation table) s = .next t
      ∧ t.table? table = some { e with reserved := some (w.2.1, w.2.2) } ∧ t.disp = s.disp ∧ t.mem = s.mem)
    ∧ (e.reserved ≠ none → exec (.switchReservation table) s = .next s))
  ∧ (∀ (table : Nat) (s : State) (e : TableEnt) (w : Nat × Nat), s.sound = true → s.table? table = some e → e.reserved = some w →
    (targetFree s e w = false → exec (.switchTargetReady table) s = .next s)
    ∧ (targetFree s e w = true → ∃ t, exec (.switchTargetReady table) s = .next t ∧ t.tables = s.tables ∧ t.mem = s.mem
      ∧ ∀ b, t.batch? w.1 w.2 = some b → ∀ r ∈ b.runs, stOp (stageRec s w.1 r.ix) = 0x0203 → switchTable s w.1 r.ix = table →
        r.arrived = true))
  ∧ (∀ (table : Nat) (s : State) (e : TableEnt) (d : Drain), s.sound = true → s.table? table = some e →
    e.drains.find? (fun d => pinCount s table (· == d.version) none == 0) = some d →
    (∀ k, k < 12 → ∀ l ∈ (s.culv k).leaving, l.table = table → l.version = some d.version → epochDrained s k table l.epoch = true) →
    ∃ t f, exec (.versionDrain table) s = .next t ∧ t.table? table = some f ∧ f.drains = e.drains.filter (· != d)
      ∧ f.switch = e.switch ∧ t.disp = s.disp ∧ t.fuses = s.fuses)

/-- The key whose turn it is leaves the queue with its verdict: a miss where no entry matches it, and the result and index of the
one entry that does. A scrub pass makes every entry equal to its shadow, but for one being updated and one whose shadow cannot be
read; a spare that has been filled holds the shadow's entries; and an update that has been verified stands in the shadow. HBM and
Fen contents do not change. -/
def Obligations.ReedbedSearchesScrubsAndSpares : Prop :=
  (∀ (d : Nat) (decay : List RbDecay) (errs : List LineErr) (s : State) (k : RbKey) (run : StageRun),
    s.sound = true → d < 4 → (keyTurns (s.reed d)).head? = some k → (s.die d).power = .active →
    s.run? k.stream k.batch k.stage = some run →
    let r := stageRec s k.stream k.stage
    let key := keyUnits r (SetRec.of ((stageTabs s k.stream k.stage).getD 0 [])).width run.ins k.key
    let cs := candidates (s.reed d).bank (fieldN r 56 4) key
    ∃ t v, exec (.searchKey d decay errs) s = .next t ∧ (t.reed d).keys = (s.reed d).keys.filter (· != k)
      ∧ t.run? k.stream k.batch k.stage = some v ∧ k.key ∉ v.keys ∧ OthersKept s t k.stream ∧ t.mem = s.mem
      ∧ (decay = [] → cs = [] → v.verdicts = (k.key, [0, 0, 0]) :: run.verdicts)
      ∧ (∀ c, decay = [] → errs = [] → cs = [c] → (∀ p ∈ (s.reed d).bad, p.1 ≠ c.1) →
          keyMatches (entryAt (s.reed d).shadow c.1) key = true →
          v.verdicts = (k.key, [1, (entryAt (s.reed d).shadow c.1).result, c.1, c.1]) :: run.verdicts))
  ∧ (∀ (d : Nat) (decay : List RbDecay) (s : State), s.sound = true → d < 4 → (s.die d).power = .active →
    s.rfld (pgReed d + 0x478) 8 8 ≠ 0 → (s.reed d).scrubAt + s.rfld (pgReed d + 0x478) 7 0 * 25000 ≤ s.tick →
    ∃ t, exec (.reedbedScrub d decay) s = .next t ∧ (t.reed d).scrubAt = s.tick ∧ (t.reed d).shadow = (s.reed d).shadow
      ∧ t.mem = s.mem ∧ t.disp = s.disp
      ∧ ((s.reed d).updates = [] → ∀ j, (∀ p ∈ (s.reed d).bad, p.1 ≠ j) →
        (entryAt (t.reed d).bank j).full 4 = (entryAt (t.reed d).shadow j).full 4))
  ∧ (∀ (who : Agent) (d : Nat) (v : Word) (s : State), s.sound = true → d < 4 → regGate s who (pgReed d + 0x428) = .through →
    pageEn s (pgReed d) = true → (s.reed d).copying = none →
    (who ≠ .mc → ∃ t, exec (.bankSpare who d v) s = .next t ∧ t.reeds = s.reeds ∧ t.fuses = s.fuses ∧ t.mem = s.mem)
    ∧ (who = .mc → fld v 5 0 < 32 → s.fuses.repair.reedFree.getD d [] ≠ [] → poolUsed s.fuses d < poolSize d →
      ∃ t, exec (.bankSpare who d v) s = .next t ∧ poolUsed t.fuses d = poolUsed s.fuses d + 1
        ∧ (bankInSet s d (fld v 5 0) = true →
          (t.reed d).copying = some (fld v 5 0, (s.fuses.repair.reedMap.getD d []).getD (fld v 5 0) 0))
        ∧ (bankInSet s d (fld v 5 0) = false → t.reeds = s.reeds)
        ∧ t.reg (pgReed d + 0x428) = wd (fld v 5 0) ∧ t.mem = s.mem))
  ∧ (∀ (d b old : Nat) (s : State), s.sound = true → d < 4 → (s.reed d).copying = some (b, old) →
    (quiescing s = true → exec (.bankSpareFillEnd d) s = .next s)
    ∧ (quiescing s = false → (s.reed d).updates = [] → ∃ t, exec (.bankSpareFillEnd d) s = .next t ∧ (t.reed d).copying = none
      ∧ t = { s with reeds := t.reeds }
      ∧ ∀ j, entryAt (t.reed d).bank j = if bankOfIx j = b then entryAt (s.reed d).shadow j else entryAt (s.reed d).bank j))
  ∧ (∀ (d : Nat) (s : State) (u : RbUpdate) (rest : List RbUpdate) (e : RuleSet), s.sound = true → s.clean = true → d < 4 →
    (s.reed d).updates = u :: rest → (s.die d).power = .active → s.set? u.set_ = some e →
    let q := SetRec.of e.record
    let j := updateIx q u.bytes
    ∃ t, exec (.updateVerifyDrain d) s = .next t ∧ (t.reed d).updates = rest ∧ t.mem = s.mem
      ∧ entryAt (t.reed d).shadow j
          = if fieldN u.bytes 0 1 = 0 then updatedEntry q u.bytes else { entryAt (s.reed d).shadow j with valid := false })

/-! ### Ethernet -/

/-- Requests at a READY queue pair of a port that is up, with the expected PSN: one that is granted is executed and answered and
the next PSN follows, one that is not draws a NAK and puts the queue pair in ERROR; a SEND or immediate with no buffer is answered
receiver-not-ready. Frames that fail a check leave nothing, and a datagram to a bound port is a record of its stage. -/
def Obligations.EthernetRequestsAreServed : Prop :=
  (∀ (r : RdmaReq) (q : Qp) (s : State), s.sound = true → s.qp? r.qp = some q → q.state = .ready → q.port = r.port →
    portUp s r.port = true → r.psnOk = true →
    let answered (c : Instr) (m : State) (n : Nat) (o : Out) : Prop := ∃ t q', exec c s = .next t ∧ t.out = o :: m.out ∧ t.mem = m.mem
      ∧ t.qp? r.qp = some q' ∧ q'.state = .ready ∧ q'.recvPsn = q.nextPsn q.recvPsn n ∧ t.fuses = s.fuses
    let refused (c : Instr) (code : Nat) : Prop := ∃ t q', exec c s = .next t ∧ .nak r.port r.qp code ∈ t.out
      ∧ t.qp? r.qp = some q' ∧ q'.state = .error ∧ q'.msgs = [] ∧ t.fuses = s.fuses
    let notReady (c : Instr) (m : State) : Prop := ∃ t, exec c s = .next t ∧ t.out = .nak r.port r.qp 0x20 :: m.out
      ∧ t.mem = m.mem ∧ t.ext.qps = s.ext.qps
    let put := devWrite (wakeForWrite s r.addr) r.addr r.data
    let imm := deliverQp (immRecord s).1 q (immRecord s).2
    let got := read64 (wakeForWrite s r.addr) r.addr
    (granted q r 3 r.data.length = true → put.2 = none → answered (.rdmaWrite r) put.1 r.data.length (.ack q.port q.num))
    ∧ (granted q r 3 r.data.length = false → refused (.rdmaWrite r) 0x62 ∧ refused (.rdmaWriteWithImmediate r) 0x62)
    ∧ (granted q r 3 r.data.length = true → imm.2 = .taken → (devWrite (wakeForWrite imm.1 r.addr) r.addr r.data).2 = none →
      answered (.rdmaWriteWithImmediate r) (devWrite (wakeForWrite imm.1 r.addr) r.addr r.data).1 r.data.length (.ack q.port q.num))
    ∧ (granted q r 3 r.data.length = true → imm.2 = .noSpace → notReady (.rdmaWriteWithImmediate r) imm.1)
    ∧ (∀ bs, granted q r 4 r.len = true → (devRead s r.addr r.len).2 = .ok bs →
      answered (.rdmaRead r) (devRead s r.addr r.len).1 r.len (.packet q.port q.num pkRead bs))
    ∧ (granted q r 4 r.len = false → refused (.rdmaRead r) 0x62)
    ∧ ((deliverQp s q r.data).2 = .taken → answered (.roceSend r) (deliverQp s q r.data).1 r.data.length (.ack q.port q.num))
    ∧ ((deliverQp s q r.data).2 = .noSpace → notReady (.roceSend r) (deliverQp s q r.data).1)
    ∧ (∀ old c w, granted q r 5 8 = true → r.addr % 8 = 0 → inStackView r.addr = false → got.2 = .ok old →
      let done := write64 got.1 r.addr ((if old = c then w else old) % 2 ^ 64)
      done.2 = none → answered (.atomicCompareAndSwap r c w) done.1 8 (.packet q.port q.num pkAtomic (natLE 8 old)))
    ∧ (∀ old a, granted q r 5 8 = true → r.addr % 8 = 0 → inStackView r.addr = false → got.2 = .ok old →
      let done := write64 got.1 r.addr ((old + a) % 2 ^ 64)
      done.2 = none → answered (.atomicFetchAndAdd r a) done.1 8 (.packet q.port q.num pkAtomic (natLE 8 old)))
    ∧ (granted q r 5 8 = false → (∀ a, refused (.atomicFetchAndAdd r a) 0x62) ∧ ∀ c w, refused (.atomicCompareAndSwap r c w) 0x62))
  ∧ (∀ (p : Nat) (f : Frame) (s : State), s.sound = true → portUp s p = true →
    let good : Bool := !f.fecUncorrectable && decide (f.len ≤ s.rfld (pgEth p + 0x400) 31 16) && f.fcsOk
    ∃ t, exec (.frameReceive p f) s = .next t ∧ t.mem = s.mem ∧ t.disp = s.disp ∧ t.ext = s.ext
      ∧ t.out = if good && f.gsi then .gsi p (s.reg (pgEth p + 0x428)).toNat f.data :: s.out else s.out)
  ∧ (∀ (p srcIp srcPort dstIp dstPort : Nat) (data : List Byte) (s : State), s.sound = true → portUp s p = true →
    let whole := udpFrame dstIp data.length ≤ s.rfld (pgEth p + 0x400) 31 16 ∧ ownAddress s p dstIp = true
    (∀ b, whole → data ≠ [] → data.length ≤ 9000 → boundTo s (1, p, dstPort) = some b →
      exec (.udpDatagram p srcIp srcPort dstIp dstPort data) s = exec (.recordArrival b.1 b.2 (udpOrigin p srcIp srcPort) data true) s)
    ∧ (¬ whole ∨ data = [] ∨ 9000 < data.length ∨ boundTo s (1, p, dstPort) = none →
      ∃ t, exec (.udpDatagram p srcIp srcPort dstIp dstPort data) s = .next t ∧ t.mem = s.mem ∧ t.disp = s.disp ∧ t.out = s.out
        ∧ (¬ whole → t.reg (pgEth p + 0x448) = s.reg (pgEth p + 0x448))
        ∧ (whole → t.reg (pgEth p + 0x440) = s.reg (pgEth p + 0x440))))

/-- A requester's message is sent again up to its limits, once its timeout has passed, after which its queue pair is in ERROR; an
acknowledgement takes its oldest message away and clears both counts. QP_CMD loads a context that R470 allows into a queue pair that
is not READY, and resets a queue pair at once. -/
def Obligations.QueuePairsRetryAckAndLoad : Prop :=
  (∀ (p n : Nat) (q : Qp) (s : State), s.sound = true → requester s p n = some q →
    let failed (c : Instr) : Prop := ∃ t q', exec c s = .next t ∧ t.qp? n = some q' ∧ q'.state = .error ∧ q'.msgs = [] ∧ t.fuses = s.fuses
    (ackDue s q = false → exec (.ackTimeout p n) s = .next s)
    ∧ (ackDue s q = true → q.retries < fieldN q.ctx 61 1 → ∃ t, exec (.ackTimeout p n) s = .next t
      ∧ t.qp? n = some { q with retries := q.retries + 1, sentAt := s.tick } ∧ t.mem = s.mem ∧ t.disp = s.disp)
    ∧ (ackDue s q = true → fieldN q.ctx 61 1 ≤ q.retries → failed (.ackTimeout p n))
    ∧ (∀ code, isRnr code = true → (fieldN q.ctx 62 1 = 7 ∨ q.rnr < fieldN q.ctx 62 1) →
      ∃ t, exec (.nakReceived p n code) s = .next t ∧ t.qp? n = some { q with rnr := q.rnr + 1, sentAt := s.tick } ∧ t.mem = s.mem
        ∧ t.disp = s.disp)
    ∧ (∀ code, isRnr code = true → fieldN q.ctx 62 1 ≠ 7 → fieldN q.ctx 62 1 ≤ q.rnr → failed (.nakReceived p n code))
    ∧ (∀ code, isRnr code = false → failed (.nakReceived p n code))
    ∧ (∀ data, ∃ t, exec (.ackReceived p n data) s = .next t
      ∧ t.qp? n = some { q with msgs := q.msgs.drop 1, retries := 0, rnr := 0, sentAt := s.tick } ∧ t.mem = s.mem ∧ t.fuses = s.fuses))
  ∧ (∀ (who : Agent) (p : Nat) (v : Word) (s : State), s.sound = true → s.clean = true → p < 4 →
    regGate s who (pgEth p + 0x420) = .through → pageEn s (pgEth p) = true →
    let i := fld v 13 0
    (∀ a b, fld v 63 62 = 1 → contextAddr s i = some a → (devRead (answer s .done) a 128).2 = .ok b → contextOk b = true →
      (s.qp? (i + 0x100)).map (·.state) ≠ some .ready →
      ∃ t q, exec (.qpLoad who p v) s = .next t ∧ t.qp? (i + 0x100) = some q ∧ q.ctx = b ∧ q.addr = a
        ∧ q.state = (if fieldN b 0 1 = 1 then .ready else .reset) ∧ q.sendPsn = fieldN b 8 4 ∧ q.recvPsn = fieldN b 12 4
        ∧ (∀ j, j ≠ i + 0x100 → t.qp? j = s.qp? j) ∧ t.mem = s.mem ∧ t.disp = s.disp)
    ∧ (fld v 63 62 = 1 → (s.qp? (i + 0x100)).map (·.state) = some .ready →
      ∃ t, exec (.qpLoad who p v) s = .next t ∧ t.ext = s.ext ∧ t.mem = s.mem ∧ t.disp = s.disp)
    ∧ (∀ q, fld v 63 62 = 2 → s.qp? (i + 0x100) = some q →
      ∃ t q', exec (.qpReset who p v) s = .next t ∧ t.qp? (i + 0x100) = some q' ∧ q'.state = .reset ∧ q'.msgs = [] ∧ q'.ctx = q.ctx
        ∧ t.mem = s.mem ∧ t.fuses = s.fuses))

/-- Ports come up in a mode that PORT_CFG allows and go down; a failed negotiation is tried again after 1 s; an idle spare lane
takes a failed lane's place for one I/O-die slot, and the port retrains. The PCIe links come up one by one, no wider than the
bifurcation leaves them. Nothing but the links changes. -/
def Obligations.PortsAndLinksComeUpAndDown : Prop :=
  (∀ (p : Nat) (s : State), s.sound = true → p < 4 →
    let only (t : State) : Prop := t = { s with ext := { s.ext with ports := t.ext.ports } } ∧ ∀ j, j ≠ p → t.port j = s.port j
    (∀ mode, s.power.vinGood = true → (s.port p).up = false → mode < 4 →
      (if bit (s.reg (pgEth p + 0x400)) 8 then modeRate mode ≤ modeRate (fld (s.reg (pgEth p + 0x400)) 1 0)
        else mode = fld (s.reg (pgEth p + 0x400)) 1 0) →
      ∃ t, exec (.ethLinkUp p mode) s = .next t ∧ t.port p = { s.port p with up := true, mode := mode, retryAt := none } ∧ only t)
    ∧ (∃ t, exec (.ethLinkDown p) s = .next t ∧ t.port p = { s.port p with up := false, mode := 0 } ∧ only t)
    ∧ (s.power.vinGood = true → (s.port p).up = false → bit (s.reg (pgEth p + 0x400)) 8 = true → retryDue s (s.port p).retryAt = true →
      ∃ t, exec (.autonegRetry p) s = .next t ∧ t.port p = { s.port p with retryAt := some (s.tick + 25000000) } ∧ only t)
    ∧ (∀ lane, lane < 8 → s.power.vinGood = true → s.trust.mcRunning = true → (s.port p).spare = 15 → s.fuses.repairIod < 8 →
      ∃ t, exec (.ethLaneSpare p lane) s = .next t ∧ (t.port p).spare = lane ∧ (t.port p).up = false
        ∧ t.fuses.repairIod = s.fuses.repairIod + 1 ∧ (∀ j, j ≠ p → t.port j = s.port j) ∧ t.mem = s.mem ∧ t.disp = s.disp))
  ∧ (∀ s : State, s.power.vinGood = true → s.ext.mgmtUp = false → retryDue s s.ext.mgmtRetry = true →
    exec (.autonegRetry 4) s = .next { s with ext := { s.ext with mgmtRetry := some (s.tick + 25000000) } })
  ∧ (∀ (mode fec : Nat) (s : State), s.power.vinGood = true → s.ext.mgmtUp = false → fec ≤ mode →
    (mode = 1 ∨ (mode = 2 ∧ bitOf s.trust.straps 3 = false)) →
    exec (.mgmtLinkUp mode fec) s
      = .next { s with ext := { s.ext with mgmtUp := true, mgmtSpeed := mode, mgmtFec := fec, mgmtRetry := none } })
  ∧ (∀ s : State, exec .mgmtLinkDown s = .next { s with ext := { s.ext with mgmtUp := false, mgmtSpeed := 0, mgmtFec := 0 } })
  ∧ (∀ (p rate width : Nat) (s : State), s.power.vinGood = true → 3 ≤ rate → rate ≤ 6 → [1, 2, 4, 8, 16].contains width = true →
    p < pciePorts s → bitOf s.ext.pcieUp p = false →
    (width * pciePorts s ≤ 16 → ∃ t, exec (.pcieLinkUp p rate width) s = .next t ∧ bitOf t.ext.pcieUp p = true
      ∧ (∀ j, j ≠ p → bitOf t.ext.pcieUp j = bitOf s.ext.pcieUp j) ∧ (p = 0 → t.ext.pcieRate = rate ∧ t.ext.pcieWidth = width)
      ∧ t = { s with ext := t.ext })
    ∧ (16 < width * pciePorts s → exec (.pcieLinkUp p rate width) s = .next s))
  ∧ (∀ (p : Nat) (s : State), s.sound = true → bitOf s.ext.pcieUp p = true →
    ∃ t, exec (.pcieLinkDown p) s = .next t ∧ bitOf t.ext.pcieUp p = false
      ∧ (∀ j, j ≠ p → bitOf t.ext.pcieUp j = bitOf s.ext.pcieUp j)
      ∧ (∀ m ∈ t.ext.nvme, fld (s.reg (nvmeKey m.queue)) 59 58 ≠ p) ∧ t.mem = s.mem ∧ t.fuses = s.fuses)

/-! ### PCIe and the management side -/

/-- The window reaches the recovery staging memory before READY and the device range of HOST_WINDOW afterwards; what lies
outside is an unsupported request, as is an atomic of other than 64 bits, and data that cannot be read completes poisoned. The mailbox
keeps a length and checks an image; the MSI-X table takes a word and releases what its masks no longer hold. -/
def Obligations.EndpointWindowAndMailbox : Prop :=
  ∀ s : State, s.sound = true → s.clean = true → endpointUp s = true →
    let kept (t : State) : Prop := t.mem = s.mem ∧ t.disp = s.disp ∧ t.fuses = s.fuses
    (∀ off n e, let r := aerReport e s
      (s.trust.ready = false → off + n ≤ stagingBytes →
        exec (.pcieWindowRead off n e) s = .next { r with resp := .data (stagingRead s off n) } ∧ kept r)
      ∧ (s.trust.ready = true → windowAddr s off n = none →
        ∃ t, exec (.pcieWindowRead off n e) s = .next t ∧ t.resp = .unsupported ∧ kept t)
      ∧ (∀ a bs, s.trust.ready = true → windowAddr s off n = some a → (devRead r a n).2 = .ok bs →
        ∃ t, exec (.pcieWindowRead off n e) s = .next t ∧ t.resp = .data bs ∧ kept t)
      ∧ (∀ a x, s.trust.ready = true → windowAddr s off n = some a → (devRead r a n).2 = .error x →
        ∃ t, exec (.pcieWindowRead off n e) s = .next t ∧ t.resp = .poisonedCompletion ∧ kept t))
    ∧ (∀ off bs e, (s.trust.ready = false → off + bs.length ≤ stagingBytes → Memory.wf s.ext.staging = true →
        ∃ t, exec (.pcieWindowWrite off bs e) s = .next t ∧ t.resp = .done ∧ stagingRead t off bs.length = bs ∧ kept t)
      ∧ (∀ a, s.trust.ready = true → windowAddr s off bs.length = some a →
        ∃ t, exec (.pcieWindowWrite off bs e) s = .next t ∧ t.resp = .done
          ∧ t.mem = (devWrite (wakeForWrite (aerReport e s) a) a bs).1.mem ∧ t.disp = s.disp ∧ t.fuses = s.fuses)
      ∧ (s.trust.ready = true → windowAddr s off bs.length = none →
        ∃ t, exec (.pcieWindowWrite off bs e) s = .next t ∧ t.resp = .unsupported ∧ kept t))
    ∧ (∀ off a old, s.trust.ready = true → windowAddr s off 8 = some a → a % 8 = 0 → inStackView a = false →
      (read64 (wakeForWrite s a) a).2 = .ok old →
      let s1 := (read64 (wakeForWrite s a) a).1
      (∀ c w, ∃ t, exec (.pcieAtomicCas 8 off c w) s = .next t ∧ t.resp = .data (natLE 8 old)
        ∧ t.mem = (write64 s1 a ((if old = c then w else old) % 2 ^ 64)).1.mem ∧ t.disp = s.disp)
      ∧ (∀ x, ∃ t, exec (.pcieAtomicFetchAdd 8 off x) s = .next t ∧ t.resp = .data (natLE 8 old)
        ∧ t.mem = (write64 s1 a ((old + x) % 2 ^ 64)).1.mem ∧ t.disp = s.disp))
    ∧ (∀ size off, size ≠ 8 ∨ windowAddr s off 8 = none ∨ s.trust.ready = false →
      (∀ c w, ∃ t, exec (.pcieAtomicCas size off c w) s = .next t ∧ t.resp = .unsupported ∧ kept t)
      ∧ (∀ x, ∃ t, exec (.pcieAtomicFetchAdd size off x) s = .next t ∧ t.resp = .unsupported ∧ kept t))
    ∧ (∀ v, s.trust.ready = false → s.power.mossUp = true →
      exec (.recoveryMailboxWrite 8 v) s = .next { s with ext := { s.ext with boxLen := v } }
      ∧ ∃ t, exec (.recoveryMailboxWrite 0 1) s = .next t ∧ t.mem = s.mem ∧ t.disp = s.disp
        ∧ t.ext.boxResult = match imageFails s (stagingRead s 0 (Nat.min s.ext.boxLen stagingBytes)) with
          | none => 1
          | some c => 2 + c * 256)
    ∧ (∀ off v, off % 8 = 0 → off < 32768 → ∃ t, exec (.msiXTableWrite off v) s = .next t ∧ msixWord t off = v ∧ kept t
      ∧ (∀ j, j ≠ off → msixWord t j = msixWord s j) ∧ ∀ x ∈ t.ext.msixPending, bit (msixWord t (16 * x + 8)) 32 = true)

/-- A root port's accesses: with the link down a read gives all ones; with it up the request leaves; an endpoint's reach nothing.
A device's request is served within the places of R44. An NVMe pair is enabled only where R491 allows it, and withdrawing one ends
its read; a completion brings its read nearer its end, and an error status fails the stage that asked. -/
def Obligations.RootPortAndNvmeQueues : Prop :=
  (∀ (who : Agent) (v : Word) (s : State), s.sound = true → pageEn s pgPcie = true →
    let c := s.reg (pgPcie + 0x410)
    let m := s.reg (pgPcie + 0x420)
    (regGate s who (pgPcie + 0x418) = .through → s.ext.pcieRoot = false →
      exec (.cfgDataAccess who false v) s = .next { s with resp := .word (s.reg (pgPcie + 0x418)) }
      ∧ exec (.cfgDataAccess who true v) s = .next { s with resp := .done })
    ∧ (regGate s who (pgPcie + 0x418) = .through → s.ext.pcieRoot = true → bitOf s.ext.pcieUp (fld c 29 28) = false →
      ∃ t, exec (.cfgDataAccess who false v) s = .next t ∧ t.resp = .word 0xFFFFFFFF ∧ t.out = s.out ∧ t.mem = s.mem ∧ t.disp = s.disp)
    ∧ (regGate s who (pgPcie + 0x418) = .through → s.ext.pcieRoot = true → bitOf s.ext.pcieUp (fld c 29 28) = true →
      ∃ t, exec (.cfgDataAccess who true v) s = .next t ∧ t.resp = .done ∧ t.out = .pcie 0x11 (fld c 29 0) (natLE 8 v.toNat) :: s.out
        ∧ t.mem = s.mem ∧ t.disp = s.disp)
    ∧ (regGate s who (pgPcie + 0x428) = .through → s.ext.pcieRoot = true → s.ext.pcieUp = 0 →
      ∃ t, exec (.mmioDataAccess who false v) s = .next t ∧ t.resp = .word (BitVec.allOnes 64) ∧ t.out = s.out ∧ t.mem = s.mem)
    ∧ (regGate s who (pgPcie + 0x428) = .through → s.ext.pcieRoot = true → s.ext.pcieUp ≠ 0 →
      ∃ t, exec (.mmioDataAccess who true v) s = .next t ∧ t.resp = .done ∧ t.out = .pcie 0x13 m.toNat (natLE 8 v.toNat) :: s.out
        ∧ t.mem = s.mem ∧ t.disp = s.disp))
  ∧ (∀ (a : Nat) (bs : List Byte) (e : LinkErrs) (s : State), s.sound = true → s.clean = true → s.power.vinGood = true →
    s.ext.pcieRoot = true → s.ext.pcieUp ≠ 0 →
    let r := aerReport e s
    (inR44 a bs.length = true → ∃ t, exec (.inboundDeviceRequest true a bs e) s = .next t ∧ t.resp = .done
      ∧ t.mem = (devWrite (wakeForWrite r a) a bs).1.mem ∧ t.disp = s.disp)
    ∧ (∀ d, inR44 a bs.length = true → (devRead r a bs.length).2 = .ok d →
      ∃ t, exec (.inboundDeviceRequest false a bs e) s = .next t ∧ t.resp = .data d ∧ t.mem = s.mem ∧ t.disp = s.disp)
    ∧ (inR44 a bs.length = false →
      (∃ t, exec (.inboundDeviceRequest false a bs e) s = .next t ∧ t.resp = .unsupported ∧ t.mem = s.mem ∧ t.disp = s.disp)
      ∧ ∃ t, exec (.inboundDeviceRequest true a bs e) s = .next t ∧ t.mem = s.mem ∧ t.disp = s.disp))
  ∧ (∀ (who : Agent) (n : Nat) (v : Word) (s : State), s.sound = true → n < 16 → regGate s who (nvmeKey n) = .through →
    pageEn s pgPcie = true →
    let was := bit (s.reg (nvmeKey n)) 63
    let w := writtenReg s (nvmeKey n) v
    (was = false → bit w 63 = true → queueOk s n w = false → ∃ t, exec (.nvmeQueueEnable who n v) s = .next t
      ∧ bit (t.reg (nvmeKey n)) 63 = false ∧ t.mem = s.mem ∧ t.disp = s.disp ∧ t.ext = s.ext)
    ∧ ((was = true → bit w 63 = true) → (was = false → bit w 63 = true → queueOk s n w = true) →
      ∃ t, exec (.nvmeQueueEnable who n v) s = .next t ∧ t.reg (nvmeKey n) = w ∧ t.resp = .done ∧ t.mem = s.mem ∧ t.disp = s.disp
        ∧ t.ext = s.ext)
    ∧ (was = true → bit w 63 = false → ∃ t, exec (.nvmeQueueEnable who n v) s = .next t ∧ t.reg (nvmeKey n) = w
      ∧ (∀ m ∈ t.ext.nvme, m.queue ≠ n) ∧ t.mem = s.mem))
  ∧ (∀ (q status : Nat) (data : List Byte) (s : State) (m : NvmeRead), s.sound = true → s.ext.nvme.find? (·.queue == q) = some m →
    (status ≠ 0 → ∃ t, exec (.nvmeCompletion q status data) s = .next t ∧ (∀ y ∈ t.ext.nvme, y.queue ≠ q) ∧ t.mem = s.mem
      ∧ ∀ v, t.run? m.stream m.batch m.stage = some v → v.failure ≠ none)
    ∧ (status = 0 → 1 < m.left → ∃ t, exec (.nvmeCompletion q status data) s = .next t
      ∧ { m with left := m.left - 1 } ∈ t.ext.nvme ∧ t.fuses = s.fuses)
    ∧ (status = 0 → m.left ≤ 1 → (∀ u, s.run? m.stream m.batch m.stage = some u → u.asked = []) →
      ∃ t, exec (.nvmeCompletion q status data) s = .next t ∧ (∀ y ∈ t.ext.nvme, y.queue ≠ q) ∧ t.fuses = s.fuses))

/-- Requests over Redfish, PLDM and PMBus, and debug: a request needs its role, whose lack is answered 401 or 403; a HALT acts as the
MC's, an attestation queues a quote, an update writes a Peat record that fits its slot, a GPIO output takes its level and no other
changes; PMBus readings are numbers and its unknown commands are refused; debug needs a part that is open. -/
def Obligations.ManagementRequestsAreServed : Prop :=
  (∀ s : State, s.sound = true → s.clean = true → s.trust.mcRunning = true → s.power.vinGood = true →
    let turnedAway (role need : Role) (c : Instr) : Prop := roleRank role < roleRank need →
      ∃ t, exec c s = .next t ∧ t.out = .mgmt (if role = .none then 401 else 403) 0 [] :: s.out ∧ t.mem = s.mem ∧ t.disp = s.disp
        ∧ t.banks = s.banks ∧ t.fuses = s.fuses ∧ t.power = s.power ∧ t.trust = s.trust
    (∀ role scope target hold, let v := haltValue scope target hold
      turnedAway role .operator (.redfishHalt role scope target hold)
      ∧ (2 ≤ roleRank role → s.fab.mcBusy = false → fld v 27 26 ≠ 3 → s.trust.ready = true →
        let ids := scopeStreams s (fld v 27 26) (fld v 5 0) (fld v 25 16)
        ∃ t u, exec (.redfishHalt role scope target hold) s = .next t ∧ .mgmt 202 (fld v 27 26) [] ∈ t.out ∧ u.mem = s.mem
          ∧ t.mem = (keepStatuses u (notHalted s ids)).mem ∧ (∀ id, u.streamState id = t.streamState id)
          ∧ ∀ id ∈ ids, t.streamState id = .halted)
      ∧ (2 ≤ roleRank role → fld v 27 26 = 3 ∨ s.trust.ready = false → ∃ t, exec (.redfishHalt role scope target hold) s = .next t
        ∧ t.out = .mgmt 400 (fld v 27 26) [] :: s.out ∧ t.disp = s.disp ∧ t.mem = s.mem)
      ∧ (2 ≤ roleRank role → s.fab.mcBusy = true → fld v 27 26 ≠ 3 → s.trust.ready = true →
        exec (.redfishHalt role scope target hold) s = .next { s with fab := { s.fab with mcAsked := s.fab.mcAsked ++ [v] } }))
    ∧ (∀ role nonce mask, turnedAway role .operator (.redfishAttestation role nonce mask)
      ∧ (2 ≤ roleRank role → ∃ t, exec (.redfishAttestation role nonce mask) s = .next t ∧ t.out = .mgmt 202 mask [] :: s.out
        ∧ t.mem = s.mem ∧ t.trust.quotes = s.trust.quotes ++ [.redfish (mask % 2 ^ 16) nonce] ∧ t.disp = s.disp))
    ∧ (∀ role kind payload, kind ∈ [1, 2, 5] → turnedAway role .administrator (.redfishUpdate role kind payload)
      ∧ (role = .administrator → ∃ t, exec (.redfishUpdate role kind payload) s = .next t ∧ t.mem = s.mem ∧ t.disp = s.disp
        ∧ t.fuses = s.fuses
        ∧ (4096 + payload.length ≤ slotSize kind →
          t.out = .mgmt 200 kind [] :: s.out ∧ t.banks = (peatWrite s kind payload .none).1.banks)
        ∧ (slotSize kind < 4096 + payload.length → t.out = .mgmt 400 kind [] :: s.out ∧ t.banks = s.banks)))
    ∧ (∀ role pin level, pin < 16 → s.power.scanned = false → turnedAway role .administrator (.gpioOutputDrive role pin level)
      ∧ (role = .administrator → bitOf s.power.gpioDir pin = true → ∃ t, exec (.gpioOutputDrive role pin level) s = .next t
        ∧ bitOf t.power.gpioOut pin = level ∧ (∀ j, j ≠ pin → bitOf t.power.gpioOut j = bitOf s.power.gpioOut j)
        ∧ .gpio pin level ∈ t.out ∧ t.mem = s.mem ∧ t.disp = s.disp)
      ∧ (role = .administrator → bitOf s.power.gpioDir pin = false → ∃ t, exec (.gpioOutputDrive role pin level) s = .next t
        ∧ t.out = .mgmt 400 pin [] :: s.out ∧ t.power = s.power ∧ t.mem = s.mem)))
  ∧ (∀ (payload : List Byte) (s : State), s.sound = true → s.power.mossUp = true →
    exec (.pldmFirmwareUpdate 2 payload) s = exec (.tallyRequest .mctp payload false) s
    ∧ (wantsMctp s = true → ∃ t, exec (.pldmFirmwareUpdate 0 payload) s = .next t ∧ t.resp = .done ∧ t.mem = s.mem ∧ t.disp = s.disp)
    ∧ ∀ component slot, (component = 0 ∧ slot = 1 ∧ wantsMctp s = false) ∨ (component = 1 ∧ slot = 2) → s.trust.mcRunning = true →
      ∃ t, exec (.pldmFirmwareUpdate component payload) s = .next t
        ∧ t.resp = (if slotSize slot < 4096 + payload.length then .refused 0 else .done)
        ∧ t.banks = (peatWrite s slot payload .none).1.banks ∧ t.mem = s.mem ∧ t.fuses = s.fuses ∧ t.disp = s.disp)
  ∧ (∀ s : State, smbusServes s = true →
    let reads (c : Instr) (num den : Nat) : Prop := ∃ t up, exec c s = .next t ∧ t.resp = .word (wd (linear11 up num den))
      ∧ t = { s with freeCtr := t.freeCtr, resp := t.resp }
    reads .readVin (fld (regShown s (pgPwr + 0x418)) 15 0) 100 ∧ reads .readIin (fld (regShown s (pgPwr + 0x418)) 31 16) 100
    ∧ reads .readPin (fld (regShown s (pgPwr + 0x418)) 47 32) 1 ∧ reads .readTemperature1 (s.power.sample.temps.foldl Nat.max 0) 1
    ∧ exec .pmbusRevision s = .next { s with resp := .word 0x33 }
    ∧ ∃ t w, exec .statusWord s = .next t ∧ t.resp = .word w ∧ t = { s with freeCtr := t.freeCtr, resp := t.resp }
      ∧ fld w 6 6 = (if s.trust.ready then 0 else 1) ∧ fld w 2 2 = (if s.power.hot then 1 else 0) ∧ fld w 12 7 = 0 ∧ fld w 5 3 = 0
      ∧ fld w 1 0 = 0)
  ∧ (∀ (command : Nat) (s : State), command ∉ [0x79, 0x88, 0x89, 0x8D, 0x97, 0x98] →
    exec (.unsupportedPmbusCommand command) s = .next { s with resp := .nack })
  ∧ (∀ s : State, exec .boundaryScanExtest s = .next { s with power := { s.power with scanned := true } })
  ∧ (∀ (op : DebugOp) (s : State), s.power.vinGood = true →
    (s.trust.debug = 0 → exec (.jtagDebugInstruction op) s = .next { s with resp := .refused 0 })
    ∧ (∀ c, s.trust.debug ≠ 0 → op = .haltCore c → c < 34 → bitOf s.host.running c = true → bitOf s.host.halted c = false →
      ∃ t, exec (.jtagDebugInstruction op) s = .next t ∧ t.resp = .done ∧ bitOf t.host.halted c = true
        ∧ t = { s with host := { s.host with halted := t.host.halted }, resp := .done })
    ∧ (∀ a, s.trust.debug ≠ 0 → op = .readReg a → exec (.jtagDebugInstruction op) s = exec (.rcRead .mc a) s)
    ∧ (∀ a n t o, s.trust.debug ≠ 0 → op = .readMem a n → placeOf a = .tile t o → (s.tile t).power ≠ .off →
      exec (.jtagDebugInstruction op) s = .next { s with freeCtr := s.freeCtr + n, resp := .data (sramBytes s a n).2 })
    ∧ (∀ a n k o bs, s.trust.debug ≠ 0 → op = .readMem a n → s.clean = true → placeOf a = .hbm k o → (devRead s a n).2 = .ok bs →
      ∃ t, exec (.jtagDebugInstruction op) s = .next t ∧ t.resp = .data bs ∧ t.mem = s.mem ∧ t.disp = s.disp))
end

