-- ==== Sys2Proof/Laws/Cells.lean ====
section
/-! SUPPORT. The laws of sparse stores: a store written at a key reads there as written and elsewhere as before, and every
operation keeps the canonical form. -/

namespace Sys2Proof.Machine

variable {α : Type} [DecidableEq α] {d : Nat → α}

theorem cellsWfAbove_mono {l : List (Nat × α)} {b c : Nat} (hbc : c ≤ b) (h : cellsWfAbove d (some b) l = true) :
    cellsWfAbove d (some c) l = true := by
  cases l with
  | nil => rfl
  | cons p t =>
    obtain ⟨a, v⟩ := p
    simp only [cellsWfAbove, Bool.and_eq_true, decide_eq_true_eq] at h ⊢
    exact ⟨⟨by omega, h.1.2⟩, h.2⟩

theorem cellsWfAbove_none {l : List (Nat × α)} {b : Nat} (h : cellsWfAbove d (some b) l = true) :
    cellsWfAbove d none l = true := by
  cases l with
  | nil => rfl
  | cons p t =>
    obtain ⟨a, v⟩ := p
    simp only [cellsWfAbove, Bool.and_eq_true, decide_eq_true_eq] at h ⊢
    exact ⟨⟨trivial, h.1.2⟩, h.2⟩

/-- A key at or below the bound of a canonical store is not listed. -/
theorem cellsGet_below {l : List (Nat × α)} {b k : Nat} (h : cellsWfAbove d (some b) l = true) (hk : k ≤ b) :
    cellsGet d k l = d k := by
  cases l with
  | nil => rfl
  | cons p t =>
    obtain ⟨a, v⟩ := p
    simp only [cellsWfAbove, Bool.and_eq_true, decide_eq_true_eq] at h
    simp only [cellsGet]
    rw [if_neg (by omega), if_pos (by omega)]

theorem cellsSet_wfAbove {l : List (Nat × α)} {b k : Nat} {v : α} (h : cellsWfAbove d (some b) l = true) (hk : b < k) :
    cellsWfAbove d (some b) (cellsSet d k v l) = true := by
  induction l generalizing b with
  | nil =>
    simp only [cellsSet]
    split
    · rfl
    · simp [cellsWfAbove, hk, *]
  | cons p t ih =>
    obtain ⟨a, w⟩ := p
    simp only [cellsWfAbove, Bool.and_eq_true, decide_eq_true_eq] at h
    simp only [cellsSet]
    split
    · split
      · simp [cellsWfAbove, h]
      · simp [cellsWfAbove, h, hk, *]
    · split
      · subst k
        split
        · exact cellsWfAbove_mono (by omega) h.2
        · simp [cellsWfAbove, h, *]
      · simp only [cellsWfAbove, Bool.and_eq_true, decide_eq_true_eq]
        exact ⟨h.1, ih h.2 (by omega)⟩

/-- Every write of a store keeps its canonical form. -/
theorem cellsSet_wf {l : List (Nat × α)} {k : Nat} {v : α} (h : cellsWf d l = true) :
    cellsWf d (cellsSet d k v l) = true := by
  cases l with
  | nil =>
    simp only [cellsSet, cellsWf]
    split
    · rfl
    · simp [cellsWfAbove, *]
  | cons p t =>
    obtain ⟨a, w⟩ := p
    simp only [cellsWf, cellsWfAbove, Bool.and_eq_true, decide_eq_true_eq] at h
    simp only [cellsSet, cellsWf]
    split
    · split
      · simp [cellsWfAbove, h]
      · simp [cellsWfAbove, h, *]
    · split
      · subst k
        split
        · exact cellsWfAbove_none h.2
        · simp [cellsWfAbove, h, *]
      · simp only [cellsWfAbove, Bool.and_eq_true, decide_eq_true_eq]
        exact ⟨h.1, cellsSet_wfAbove h.2 (by omega)⟩

theorem cellsWf_nil : cellsWf d ([] : List (Nat × α)) = true := rfl

theorem cellsGet_set_self_above {l : List (Nat × α)} {k b : Nat} {v : α} (h : cellsWfAbove d (some b) l = true) :
    cellsGet d k (cellsSet d k v l) = v := by
  induction l generalizing b with
  | nil => simp only [cellsSet]; split <;> simp [cellsGet, *]
  | cons p t ih =>
    obtain ⟨a, w⟩ := p
    simp only [cellsWfAbove, Bool.and_eq_true, decide_eq_true_eq] at h
    simp only [cellsSet]
    split
    · split
      · simp only [cellsGet]
        rw [if_neg (by omega), if_pos ‹_›, ‹v = d k›]
      · simp [cellsGet]
    · split
      · subst k
        split
        · rw [cellsGet_below h.2 (Nat.le_refl _), ‹v = d _›]
        · simp [cellsGet]
      · simp only [cellsGet]
        rw [if_neg (fun e => ‹¬ k = a› e.symm), if_neg ‹_›]
        exact ih h.2

/-- A canonical store reads at the written key as written. -/
theorem cellsGet_set_self {l : List (Nat × α)} {k : Nat} {v : α} (h : cellsWf d l = true) :
    cellsGet d k (cellsSet d k v l) = v := by
  cases l with
  | nil => simp only [cellsSet]; split <;> simp [cellsGet, *]
  | cons p t =>
    obtain ⟨a, w⟩ := p
    simp only [cellsWf, cellsWfAbove, Bool.and_eq_true, decide_eq_true_eq] at h
    simp only [cellsSet]
    split
    · split
      · simp only [cellsGet]
        rw [if_neg (by omega), if_pos ‹_›, ‹v = d k›]
      · simp [cellsGet]
    · split
      · subst k
        split
        · rw [cellsGet_below h.2 (Nat.le_refl _), ‹v = d _›]
        · simp [cellsGet]
      · simp only [cellsGet]
        rw [if_neg (fun e => ‹¬ k = a› e.symm), if_neg ‹_›]
        exact cellsGet_set_self_above h.2

theorem cellsGet_set_other_above {l : List (Nat × α)} {k j b : Nat} {v : α} (h : cellsWfAbove d (some b) l = true)
    (hj : j ≠ k) : cellsGet d j (cellsSet d k v l) = cellsGet d j l := by
  induction l generalizing b with
  | nil =>
    simp only [cellsSet]
    split
    · rfl
    · simp only [cellsGet]; rw [if_neg (Ne.symm hj)]; split <;> rfl
  | cons p t ih =>
    obtain ⟨a, w⟩ := p
    simp only [cellsWfAbove, Bool.and_eq_true, decide_eq_true_eq] at h
    simp only [cellsSet]
    split
    · split
      · rfl
      · by_cases hjk : j < k
        · have : j < a := by omega
          simp only [cellsGet]
          rw [if_neg (by omega), if_pos hjk, if_neg (by omega), if_pos this]
        · conv_lhs => rw [cellsGet, if_neg (Ne.symm hj), if_neg hjk]
    · split
      · subst k
        split
        · by_cases hja : j < a
          · simp only [cellsGet]
            rw [if_neg (by omega), if_pos hja, cellsGet_below h.2 (by omega)]
          · conv_rhs => rw [cellsGet, if_neg (Ne.symm hj), if_neg hja]
        · simp only [cellsGet]
          rw [if_neg (Ne.symm hj)]
          simp [Ne.symm hj]
      · simp only [cellsGet]
        rw [ih h.2]

/-- A canonical store reads at every other key as before. -/
theorem cellsGet_set_other {l : List (Nat × α)} {k j : Nat} {v : α} (h : cellsWf d l = true) (hj : j ≠ k) :
    cellsGet d j (cellsSet d k v l) = cellsGet d j l := by
  cases l with
  | nil =>
    simp only [cellsSet]
    split
    · rfl
    · simp only [cellsGet]; rw [if_neg (Ne.symm hj)]; split <;> rfl
  | cons p t =>
    obtain ⟨a, w⟩ := p
    simp only [cellsWf, cellsWfAbove, Bool.and_eq_true, decide_eq_true_eq] at h
    simp only [cellsSet]
    split
    · split
      · rfl
      · by_cases hjk : j < k
        · have : j < a := by omega
          simp only [cellsGet]
          rw [if_neg (by omega), if_pos hjk, if_neg (by omega), if_pos this]
        · conv_lhs => rw [cellsGet, if_neg (Ne.symm hj), if_neg hjk]
    · split
      · subst k
        split
        · by_cases hja : j < a
          · simp only [cellsGet]
            rw [if_neg (by omega), if_pos hja, cellsGet_below h.2 (by omega)]
          · conv_rhs => rw [cellsGet, if_neg (Ne.symm hj), if_neg hja]
        · simp only [cellsGet]
          rw [if_neg (Ne.symm hj)]
          simp [Ne.symm hj]
      · simp only [cellsGet]
        rw [cellsGet_set_other_above h.2 hj]

theorem cellsWfAbove_filter {l : List (Nat × α)} {p : Nat × α → Bool} {b : Nat} (h : cellsWfAbove d (some b) l = true) :
    cellsWfAbove d (some b) (l.filter p) = true := by
  induction l generalizing b with
  | nil => rfl
  | cons q t ih =>
    obtain ⟨a, w⟩ := q
    simp only [cellsWfAbove, Bool.and_eq_true, decide_eq_true_eq] at h
    simp only [List.filter]
    split
    · simp only [cellsWfAbove, Bool.and_eq_true, decide_eq_true_eq]
      exact ⟨h.1, ih h.2⟩
    · exact cellsWfAbove_mono (by omega) (ih h.2)

/-- Entries taken out of a store leave its canonical form. -/
theorem cellsWf_filter {l : List (Nat × α)} {p : Nat × α → Bool} (h : cellsWf d l = true) :
    cellsWf d (l.filter p) = true := by
  cases l with
  | nil => rfl
  | cons q t =>
    obtain ⟨a, w⟩ := q
    simp only [cellsWf, cellsWfAbove, Bool.and_eq_true, decide_eq_true_eq] at h
    simp only [cellsWf, List.filter]
    split
    · simp only [cellsWfAbove, Bool.and_eq_true, decide_eq_true_eq]
      exact ⟨h.1, cellsWfAbove_filter h.2⟩
    · exact cellsWfAbove_none (cellsWfAbove_filter h.2)

/-! ### Device memory -/

theorem memSet_wf {m : List Host.Cell} {a : Nat} {b : Byte} (h : Memory.wf m = true) : Memory.wf (memSet m a b) = true :=
  cellsSet_wf h

theorem memPut_wf {m : List Host.Cell} {a : Nat} {bs : List Byte} (h : Memory.wf m = true) :
    Memory.wf (memPut m a bs) = true := by
  induction bs generalizing m a with
  | nil => exact h
  | cons b t ih => exact ih (memSet_wf h)

theorem memFilter_wf {m : List Host.Cell} {p : Host.Cell → Bool} (h : Memory.wf m = true) :
    Memory.wf (m.filter p) = true := cellsWf_filter h

theorem memGet_set_self {m : List Host.Cell} {a : Nat} {b : Byte} (h : Memory.wf m = true) : memGet (memSet m a b) a = b :=
  cellsGet_set_self h

theorem memGet_set_other {m : List Host.Cell} {a j : Nat} {b : Byte} (h : Memory.wf m = true) (hj : j ≠ a) :
    memGet (memSet m a b) j = memGet m j := cellsGet_set_other h hj

/-- A write of bytes changes no byte outside them. -/
theorem memGet_put_outside {m : List Host.Cell} {a j : Nat} {bs : List Byte} (h : Memory.wf m = true)
    (hj : j < a ∨ a + bs.length ≤ j) : memGet (memPut m a bs) j = memGet m j := by
  induction bs generalizing m a with
  | nil => rfl
  | cons b t ih =>
    simp only [List.length_cons] at hj
    simp only [memPut]
    rw [ih (memSet_wf h) (by omega), memGet_set_other h (by omega)]

/-- A byte written reads back. -/
theorem memGet_put_inside {m : List Host.Cell} {a i : Nat} {bs : List Byte} (h : Memory.wf m = true) (hi : i < bs.length) :
    memGet (memPut m a bs) (a + i) = bs[i] := by
  induction bs generalizing m a i with
  | nil => simp at hi
  | cons b t ih =>
    simp only [memPut]
    cases i with
    | zero => rw [memGet_put_outside (memSet_wf h) (by omega)]; exact memGet_set_self h
    | succ n =>
      have := ih (m := memSet m a b) (a := a + 1) (i := n) (memSet_wf h) (by simpa using hi)
      rw [show a + (n + 1) = a + 1 + n by omega, this]
      rfl

end Sys2Proof.Machine
end

