-- ==== Sys2Proof/Laws/State.lean ====
section
/-! SUPPORT. One lemma for each field of State under each named update: an update changes its own field alone. -/

namespace Sys2Proof.Machine

variable (s : State)

@[simp] theorem State.setReg_pending (k : Nat) (v : Word) : (s.setReg k v).pending = s.pending := rfl
@[simp] theorem State.setReg_tick (k : Nat) (v : Word) : (s.setReg k v).tick = s.tick := rfl
@[simp] theorem State.setReg_freeCtr (k : Nat) (v : Word) : (s.setReg k v).freeCtr = s.freeCtr := rfl
@[simp] theorem State.setReg_resp (k : Nat) (v : Word) : (s.setReg k v).resp = s.resp := rfl
@[simp] theorem State.setReg_out (k : Nat) (v : Word) : (s.setReg k v).out = s.out := rfl
@[simp] theorem State.setReg_srst (k : Nat) (v : Word) : (s.setReg k v).srst = s.srst := rfl
@[simp] theorem State.setReg_leaks (k : Nat) (v : Word) : (s.setReg k v).leaks = s.leaks := rfl
@[simp] theorem State.setReg_mem (k : Nat) (v : Word) : (s.setReg k v).mem = s.mem := rfl
@[simp] theorem State.setReg_gran (k : Nat) (v : Word) : (s.setReg k v).gran = s.gran := rfl
@[simp] theorem State.setReg_fillWords (k : Nat) (v : Word) : (s.setReg k v).fillWords = s.fillWords := rfl
@[simp] theorem State.setReg_fenLines (k : Nat) (v : Word) : (s.setReg k v).fenLines = s.fenLines := rfl
@[simp] theorem State.setReg_sram (k : Nat) (v : Word) : (s.setReg k v).sram = s.sram := rfl
@[simp] theorem State.setReg_hbms (k : Nat) (v : Word) : (s.setReg k v).hbms = s.hbms := rfl
@[simp] theorem State.setReg_fens (k : Nat) (v : Word) : (s.setReg k v).fens = s.fens := rfl
@[simp] theorem State.setReg_tiles (k : Nat) (v : Word) : (s.setReg k v).tiles = s.tiles := rfl
@[simp] theorem State.setReg_dies (k : Nat) (v : Word) : (s.setReg k v).dies = s.dies := rfl
@[simp] theorem State.setReg_assigns (k : Nat) (v : Word) : (s.setReg k v).assigns = s.assigns := rfl
@[simp] theorem State.setReg_still (k : Nat) (v : Word) : (s.setReg k v).still = s.still := rfl
@[simp] theorem State.setReg_power (k : Nat) (v : Word) : (s.setReg k v).power = s.power := rfl
@[simp] theorem State.setReg_fuses (k : Nat) (v : Word) : (s.setReg k v).fuses = s.fuses := rfl
@[simp] theorem State.setReg_banks (k : Nat) (v : Word) : (s.setReg k v).banks = s.banks := rfl
@[simp] theorem State.setReg_trust (k : Nat) (v : Word) : (s.setReg k v).trust = s.trust := rfl
@[simp] theorem State.setReg_cutOff (k : Nat) (v : Word) : (s.setReg k v).cutOff = s.cutOff := rfl
@[simp] theorem State.setReg_disp (k : Nat) (v : Word) : (s.setReg k v).disp = s.disp := rfl
@[simp] theorem State.setReg_tables (k : Nat) (v : Word) : (s.setReg k v).tables = s.tables := rfl
@[simp] theorem State.setReg_sets (k : Nat) (v : Word) : (s.setReg k v).sets = s.sets := rfl
@[simp] theorem State.setReg_reeds (k : Nat) (v : Word) : (s.setReg k v).reeds = s.reeds := rfl
@[simp] theorem State.setReg_fab (k : Nat) (v : Word) : (s.setReg k v).fab = s.fab := rfl
@[simp] theorem State.setReg_host (k : Nat) (v : Word) : (s.setReg k v).host = s.host := rfl
@[simp] theorem State.setReg_ext (k : Nat) (v : Word) : (s.setReg k v).ext = s.ext := rfl

@[simp] theorem State.setRfld_pending (k hi lo x : Nat) : (s.setRfld k hi lo x).pending = s.pending := rfl
@[simp] theorem State.setRfld_tick (k hi lo x : Nat) : (s.setRfld k hi lo x).tick = s.tick := rfl
@[simp] theorem State.setRfld_freeCtr (k hi lo x : Nat) : (s.setRfld k hi lo x).freeCtr = s.freeCtr := rfl
@[simp] theorem State.setRfld_resp (k hi lo x : Nat) : (s.setRfld k hi lo x).resp = s.resp := rfl
@[simp] theorem State.setRfld_out (k hi lo x : Nat) : (s.setRfld k hi lo x).out = s.out := rfl
@[simp] theorem State.setRfld_srst (k hi lo x : Nat) : (s.setRfld k hi lo x).srst = s.srst := rfl
@[simp] theorem State.setRfld_leaks (k hi lo x : Nat) : (s.setRfld k hi lo x).leaks = s.leaks := rfl
@[simp] theorem State.setRfld_mem (k hi lo x : Nat) : (s.setRfld k hi lo x).mem = s.mem := rfl
@[simp] theorem State.setRfld_gran (k hi lo x : Nat) : (s.setRfld k hi lo x).gran = s.gran := rfl
@[simp] theorem State.setRfld_fillWords (k hi lo x : Nat) : (s.setRfld k hi lo x).fillWords = s.fillWords := rfl
@[simp] theorem State.setRfld_fenLines (k hi lo x : Nat) : (s.setRfld k hi lo x).fenLines = s.fenLines := rfl
@[simp] theorem State.setRfld_sram (k hi lo x : Nat) : (s.setRfld k hi lo x).sram = s.sram := rfl
@[simp] theorem State.setRfld_hbms (k hi lo x : Nat) : (s.setRfld k hi lo x).hbms = s.hbms := rfl
@[simp] theorem State.setRfld_fens (k hi lo x : Nat) : (s.setRfld k hi lo x).fens = s.fens := rfl
@[simp] theorem State.setRfld_tiles (k hi lo x : Nat) : (s.setRfld k hi lo x).tiles = s.tiles := rfl
@[simp] theorem State.setRfld_dies (k hi lo x : Nat) : (s.setRfld k hi lo x).dies = s.dies := rfl
@[simp] theorem State.setRfld_assigns (k hi lo x : Nat) : (s.setRfld k hi lo x).assigns = s.assigns := rfl
@[simp] theorem State.setRfld_still (k hi lo x : Nat) : (s.setRfld k hi lo x).still = s.still := rfl
@[simp] theorem State.setRfld_power (k hi lo x : Nat) : (s.setRfld k hi lo x).power = s.power := rfl
@[simp] theorem State.setRfld_fuses (k hi lo x : Nat) : (s.setRfld k hi lo x).fuses = s.fuses := rfl
@[simp] theorem State.setRfld_banks (k hi lo x : Nat) : (s.setRfld k hi lo x).banks = s.banks := rfl
@[simp] theorem State.setRfld_trust (k hi lo x : Nat) : (s.setRfld k hi lo x).trust = s.trust := rfl
@[simp] theorem State.setRfld_cutOff (k hi lo x : Nat) : (s.setRfld k hi lo x).cutOff = s.cutOff := rfl
@[simp] theorem State.setRfld_disp (k hi lo x : Nat) : (s.setRfld k hi lo x).disp = s.disp := rfl
@[simp] theorem State.setRfld_tables (k hi lo x : Nat) : (s.setRfld k hi lo x).tables = s.tables := rfl
@[simp] theorem State.setRfld_sets (k hi lo x : Nat) : (s.setRfld k hi lo x).sets = s.sets := rfl
@[simp] theorem State.setRfld_reeds (k hi lo x : Nat) : (s.setRfld k hi lo x).reeds = s.reeds := rfl
@[simp] theorem State.setRfld_fab (k hi lo x : Nat) : (s.setRfld k hi lo x).fab = s.fab := rfl
@[simp] theorem State.setRfld_host (k hi lo x : Nat) : (s.setRfld k hi lo x).host = s.host := rfl
@[simp] theorem State.setRfld_ext (k hi lo x : Nat) : (s.setRfld k hi lo x).ext = s.ext := rfl

@[simp] theorem State.setStack_pending (k : Nat) (f : Stack → Stack) : (s.setStack k f).pending = s.pending := rfl
@[simp] theorem State.setStack_tick (k : Nat) (f : Stack → Stack) : (s.setStack k f).tick = s.tick := rfl
@[simp] theorem State.setStack_freeCtr (k : Nat) (f : Stack → Stack) : (s.setStack k f).freeCtr = s.freeCtr := rfl
@[simp] theorem State.setStack_resp (k : Nat) (f : Stack → Stack) : (s.setStack k f).resp = s.resp := rfl
@[simp] theorem State.setStack_out (k : Nat) (f : Stack → Stack) : (s.setStack k f).out = s.out := rfl
@[simp] theorem State.setStack_regs (k : Nat) (f : Stack → Stack) : (s.setStack k f).regs = s.regs := rfl
@[simp] theorem State.setStack_srst (k : Nat) (f : Stack → Stack) : (s.setStack k f).srst = s.srst := rfl
@[simp] theorem State.setStack_leaks (k : Nat) (f : Stack → Stack) : (s.setStack k f).leaks = s.leaks := rfl
@[simp] theorem State.setStack_mem (k : Nat) (f : Stack → Stack) : (s.setStack k f).mem = s.mem := rfl
@[simp] theorem State.setStack_gran (k : Nat) (f : Stack → Stack) : (s.setStack k f).gran = s.gran := rfl
@[simp] theorem State.setStack_fillWords (k : Nat) (f : Stack → Stack) : (s.setStack k f).fillWords = s.fillWords := rfl
@[simp] theorem State.setStack_fenLines (k : Nat) (f : Stack → Stack) : (s.setStack k f).fenLines = s.fenLines := rfl
@[simp] theorem State.setStack_sram (k : Nat) (f : Stack → Stack) : (s.setStack k f).sram = s.sram := rfl
@[simp] theorem State.setStack_fens (k : Nat) (f : Stack → Stack) : (s.setStack k f).fens = s.fens := rfl
@[simp] theorem State.setStack_tiles (k : Nat) (f : Stack → Stack) : (s.setStack k f).tiles = s.tiles := rfl
@[simp] theorem State.setStack_dies (k : Nat) (f : Stack → Stack) : (s.setStack k f).dies = s.dies := rfl
@[simp] theorem State.setStack_assigns (k : Nat) (f : Stack → Stack) : (s.setStack k f).assigns = s.assigns := rfl
@[simp] theorem State.setStack_still (k : Nat) (f : Stack → Stack) : (s.setStack k f).still = s.still := rfl
@[simp] theorem State.setStack_power (k : Nat) (f : Stack → Stack) : (s.setStack k f).power = s.power := rfl
@[simp] theorem State.setStack_fuses (k : Nat) (f : Stack → Stack) : (s.setStack k f).fuses = s.fuses := rfl
@[simp] theorem State.setStack_banks (k : Nat) (f : Stack → Stack) : (s.setStack k f).banks = s.banks := rfl
@[simp] theorem State.setStack_trust (k : Nat) (f : Stack → Stack) : (s.setStack k f).trust = s.trust := rfl
@[simp] theorem State.setStack_cutOff (k : Nat) (f : Stack → Stack) : (s.setStack k f).cutOff = s.cutOff := rfl
@[simp] theorem State.setStack_disp (k : Nat) (f : Stack → Stack) : (s.setStack k f).disp = s.disp := rfl
@[simp] theorem State.setStack_tables (k : Nat) (f : Stack → Stack) : (s.setStack k f).tables = s.tables := rfl
@[simp] theorem State.setStack_sets (k : Nat) (f : Stack → Stack) : (s.setStack k f).sets = s.sets := rfl
@[simp] theorem State.setStack_reeds (k : Nat) (f : Stack → Stack) : (s.setStack k f).reeds = s.reeds := rfl
@[simp] theorem State.setStack_fab (k : Nat) (f : Stack → Stack) : (s.setStack k f).fab = s.fab := rfl
@[simp] theorem State.setStack_host (k : Nat) (f : Stack → Stack) : (s.setStack k f).host = s.host := rfl
@[simp] theorem State.setStack_ext (k : Nat) (f : Stack → Stack) : (s.setStack k f).ext = s.ext := rfl

@[simp] theorem State.setFen_pending (d : Nat) (f : FenDie → FenDie) : (s.setFen d f).pending = s.pending := rfl
@[simp] theorem State.setFen_tick (d : Nat) (f : FenDie → FenDie) : (s.setFen d f).tick = s.tick := rfl
@[simp] theorem State.setFen_freeCtr (d : Nat) (f : FenDie → FenDie) : (s.setFen d f).freeCtr = s.freeCtr := rfl
@[simp] theorem State.setFen_resp (d : Nat) (f : FenDie → FenDie) : (s.setFen d f).resp = s.resp := rfl
@[simp] theorem State.setFen_out (d : Nat) (f : FenDie → FenDie) : (s.setFen d f).out = s.out := rfl
@[simp] theorem State.setFen_regs (d : Nat) (f : FenDie → FenDie) : (s.setFen d f).regs = s.regs := rfl
@[simp] theorem State.setFen_srst (d : Nat) (f : FenDie → FenDie) : (s.setFen d f).srst = s.srst := rfl
@[simp] theorem State.setFen_leaks (d : Nat) (f : FenDie → FenDie) : (s.setFen d f).leaks = s.leaks := rfl
@[simp] theorem State.setFen_mem (d : Nat) (f : FenDie → FenDie) : (s.setFen d f).mem = s.mem := rfl
@[simp] theorem State.setFen_gran (d : Nat) (f : FenDie → FenDie) : (s.setFen d f).gran = s.gran := rfl
@[simp] theorem State.setFen_fillWords (d : Nat) (f : FenDie → FenDie) : (s.setFen d f).fillWords = s.fillWords := rfl
@[simp] theorem State.setFen_fenLines (d : Nat) (f : FenDie → FenDie) : (s.setFen d f).fenLines = s.fenLines := rfl
@[simp] theorem State.setFen_sram (d : Nat) (f : FenDie → FenDie) : (s.setFen d f).sram = s.sram := rfl
@[simp] theorem State.setFen_hbms (d : Nat) (f : FenDie → FenDie) : (s.setFen d f).hbms = s.hbms := rfl
@[simp] theorem State.setFen_tiles (d : Nat) (f : FenDie → FenDie) : (s.setFen d f).tiles = s.tiles := rfl
@[simp] theorem State.setFen_dies (d : Nat) (f : FenDie → FenDie) : (s.setFen d f).dies = s.dies := rfl
@[simp] theorem State.setFen_assigns (d : Nat) (f : FenDie → FenDie) : (s.setFen d f).assigns = s.assigns := rfl
@[simp] theorem State.setFen_still (d : Nat) (f : FenDie → FenDie) : (s.setFen d f).still = s.still := rfl
@[simp] theorem State.setFen_power (d : Nat) (f : FenDie → FenDie) : (s.setFen d f).power = s.power := rfl
@[simp] theorem State.setFen_fuses (d : Nat) (f : FenDie → FenDie) : (s.setFen d f).fuses = s.fuses := rfl
@[simp] theorem State.setFen_banks (d : Nat) (f : FenDie → FenDie) : (s.setFen d f).banks = s.banks := rfl
@[simp] theorem State.setFen_trust (d : Nat) (f : FenDie → FenDie) : (s.setFen d f).trust = s.trust := rfl
@[simp] theorem State.setFen_cutOff (d : Nat) (f : FenDie → FenDie) : (s.setFen d f).cutOff = s.cutOff := rfl
@[simp] theorem State.setFen_disp (d : Nat) (f : FenDie → FenDie) : (s.setFen d f).disp = s.disp := rfl
@[simp] theorem State.setFen_tables (d : Nat) (f : FenDie → FenDie) : (s.setFen d f).tables = s.tables := rfl
@[simp] theorem State.setFen_sets (d : Nat) (f : FenDie → FenDie) : (s.setFen d f).sets = s.sets := rfl
@[simp] theorem State.setFen_reeds (d : Nat) (f : FenDie → FenDie) : (s.setFen d f).reeds = s.reeds := rfl
@[simp] theorem State.setFen_fab (d : Nat) (f : FenDie → FenDie) : (s.setFen d f).fab = s.fab := rfl
@[simp] theorem State.setFen_host (d : Nat) (f : FenDie → FenDie) : (s.setFen d f).host = s.host := rfl
@[simp] theorem State.setFen_ext (d : Nat) (f : FenDie → FenDie) : (s.setFen d f).ext = s.ext := rfl

@[simp] theorem State.setDie_pending (d : Nat) (f : DieState → DieState) : (s.setDie d f).pending = s.pending := rfl
@[simp] theorem State.setDie_tick (d : Nat) (f : DieState → DieState) : (s.setDie d f).tick = s.tick := rfl
@[simp] theorem State.setDie_freeCtr (d : Nat) (f : DieState → DieState) : (s.setDie d f).freeCtr = s.freeCtr := rfl
@[simp] theorem State.setDie_resp (d : Nat) (f : DieState → DieState) : (s.setDie d f).resp = s.resp := rfl
@[simp] theorem State.setDie_out (d : Nat) (f : DieState → DieState) : (s.setDie d f).out = s.out := rfl
@[simp] theorem State.setDie_regs (d : Nat) (f : DieState → DieState) : (s.setDie d f).regs = s.regs := rfl
@[simp] theorem State.setDie_srst (d : Nat) (f : DieState → DieState) : (s.setDie d f).srst = s.srst := rfl
@[simp] theorem State.setDie_leaks (d : Nat) (f : DieState → DieState) : (s.setDie d f).leaks = s.leaks := rfl
@[simp] theorem State.setDie_mem (d : Nat) (f : DieState → DieState) : (s.setDie d f).mem = s.mem := rfl
@[simp] theorem State.setDie_gran (d : Nat) (f : DieState → DieState) : (s.setDie d f).gran = s.gran := rfl
@[simp] theorem State.setDie_fillWords (d : Nat) (f : DieState → DieState) : (s.setDie d f).fillWords = s.fillWords := rfl
@[simp] theorem State.setDie_fenLines (d : Nat) (f : DieState → DieState) : (s.setDie d f).fenLines = s.fenLines := rfl
@[simp] theorem State.setDie_sram (d : Nat) (f : DieState → DieState) : (s.setDie d f).sram = s.sram := rfl
@[simp] theorem State.setDie_hbms (d : Nat) (f : DieState → DieState) : (s.setDie d f).hbms = s.hbms := rfl
@[simp] theorem State.setDie_fens (d : Nat) (f : DieState → DieState) : (s.setDie d f).fens = s.fens := rfl
@[simp] theorem State.setDie_tiles (d : Nat) (f : DieState → DieState) : (s.setDie d f).tiles = s.tiles := rfl
@[simp] theorem State.setDie_assigns (d : Nat) (f : DieState → DieState) : (s.setDie d f).assigns = s.assigns := rfl
@[simp] theorem State.setDie_still (d : Nat) (f : DieState → DieState) : (s.setDie d f).still = s.still := rfl
@[simp] theorem State.setDie_power (d : Nat) (f : DieState → DieState) : (s.setDie d f).power = s.power := rfl
@[simp] theorem State.setDie_fuses (d : Nat) (f : DieState → DieState) : (s.setDie d f).fuses = s.fuses := rfl
@[simp] theorem State.setDie_banks (d : Nat) (f : DieState → DieState) : (s.setDie d f).banks = s.banks := rfl
@[simp] theorem State.setDie_trust (d : Nat) (f : DieState → DieState) : (s.setDie d f).trust = s.trust := rfl
@[simp] theorem State.setDie_cutOff (d : Nat) (f : DieState → DieState) : (s.setDie d f).cutOff = s.cutOff := rfl
@[simp] theorem State.setDie_disp (d : Nat) (f : DieState → DieState) : (s.setDie d f).disp = s.disp := rfl
@[simp] theorem State.setDie_tables (d : Nat) (f : DieState → DieState) : (s.setDie d f).tables = s.tables := rfl
@[simp] theorem State.setDie_sets (d : Nat) (f : DieState → DieState) : (s.setDie d f).sets = s.sets := rfl
@[simp] theorem State.setDie_reeds (d : Nat) (f : DieState → DieState) : (s.setDie d f).reeds = s.reeds := rfl
@[simp] theorem State.setDie_fab (d : Nat) (f : DieState → DieState) : (s.setDie d f).fab = s.fab := rfl
@[simp] theorem State.setDie_host (d : Nat) (f : DieState → DieState) : (s.setDie d f).host = s.host := rfl
@[simp] theorem State.setDie_ext (d : Nat) (f : DieState → DieState) : (s.setDie d f).ext = s.ext := rfl

@[simp] theorem State.setTile_pending (t : Nat) (f : TileState → TileState) : (s.setTile t f).pending = s.pending := rfl
@[simp] theorem State.setTile_tick (t : Nat) (f : TileState → TileState) : (s.setTile t f).tick = s.tick := rfl
@[simp] theorem State.setTile_freeCtr (t : Nat) (f : TileState → TileState) : (s.setTile t f).freeCtr = s.freeCtr := rfl
@[simp] theorem State.setTile_resp (t : Nat) (f : TileState → TileState) : (s.setTile t f).resp = s.resp := rfl
@[simp] theorem State.setTile_out (t : Nat) (f : TileState → TileState) : (s.setTile t f).out = s.out := rfl
@[simp] theorem State.setTile_regs (t : Nat) (f : TileState → TileState) : (s.setTile t f).regs = s.regs := rfl
@[simp] theorem State.setTile_srst (t : Nat) (f : TileState → TileState) : (s.setTile t f).srst = s.srst := rfl
@[simp] theorem State.setTile_leaks (t : Nat) (f : TileState → TileState) : (s.setTile t f).leaks = s.leaks := rfl
@[simp] theorem State.setTile_mem (t : Nat) (f : TileState → TileState) : (s.setTile t f).mem = s.mem := rfl
@[simp] theorem State.setTile_gran (t : Nat) (f : TileState → TileState) : (s.setTile t f).gran = s.gran := rfl
@[simp] theorem State.setTile_fillWords (t : Nat) (f : TileState → TileState) : (s.setTile t f).fillWords = s.fillWords := rfl
@[simp] theorem State.setTile_fenLines (t : Nat) (f : TileState → TileState) : (s.setTile t f).fenLines = s.fenLines := rfl
@[simp] theorem State.setTile_sram (t : Nat) (f : TileState → TileState) : (s.setTile t f).sram = s.sram := rfl
@[simp] theorem State.setTile_hbms (t : Nat) (f : TileState → TileState) : (s.setTile t f).hbms = s.hbms := rfl
@[simp] theorem State.setTile_fens (t : Nat) (f : TileState → TileState) : (s.setTile t f).fens = s.fens := rfl
@[simp] theorem State.setTile_dies (t : Nat) (f : TileState → TileState) : (s.setTile t f).dies = s.dies := rfl
@[simp] theorem State.setTile_assigns (t : Nat) (f : TileState → TileState) : (s.setTile t f).assigns = s.assigns := rfl
@[simp] theorem State.setTile_still (t : Nat) (f : TileState → TileState) : (s.setTile t f).still = s.still := rfl
@[simp] theorem State.setTile_power (t : Nat) (f : TileState → TileState) : (s.setTile t f).power = s.power := rfl
@[simp] theorem State.setTile_fuses (t : Nat) (f : TileState → TileState) : (s.setTile t f).fuses = s.fuses := rfl
@[simp] theorem State.setTile_banks (t : Nat) (f : TileState → TileState) : (s.setTile t f).banks = s.banks := rfl
@[simp] theorem State.setTile_trust (t : Nat) (f : TileState → TileState) : (s.setTile t f).trust = s.trust := rfl
@[simp] theorem State.setTile_cutOff (t : Nat) (f : TileState → TileState) : (s.setTile t f).cutOff = s.cutOff := rfl
@[simp] theorem State.setTile_disp (t : Nat) (f : TileState → TileState) : (s.setTile t f).disp = s.disp := rfl
@[simp] theorem State.setTile_tables (t : Nat) (f : TileState → TileState) : (s.setTile t f).tables = s.tables := rfl
@[simp] theorem State.setTile_sets (t : Nat) (f : TileState → TileState) : (s.setTile t f).sets = s.sets := rfl
@[simp] theorem State.setTile_reeds (t : Nat) (f : TileState → TileState) : (s.setTile t f).reeds = s.reeds := rfl
@[simp] theorem State.setTile_fab (t : Nat) (f : TileState → TileState) : (s.setTile t f).fab = s.fab := rfl
@[simp] theorem State.setTile_host (t : Nat) (f : TileState → TileState) : (s.setTile t f).host = s.host := rfl
@[simp] theorem State.setTile_ext (t : Nat) (f : TileState → TileState) : (s.setTile t f).ext = s.ext := rfl

@[simp] theorem State.setGranule_pending (k : Nat) (g : Gran) : (s.setGranule k g).pending = s.pending := rfl
@[simp] theorem State.setGranule_tick (k : Nat) (g : Gran) : (s.setGranule k g).tick = s.tick := rfl
@[simp] theorem State.setGranule_freeCtr (k : Nat) (g : Gran) : (s.setGranule k g).freeCtr = s.freeCtr := rfl
@[simp] theorem State.setGranule_resp (k : Nat) (g : Gran) : (s.setGranule k g).resp = s.resp := rfl
@[simp] theorem State.setGranule_out (k : Nat) (g : Gran) : (s.setGranule k g).out = s.out := rfl
@[simp] theorem State.setGranule_regs (k : Nat) (g : Gran) : (s.setGranule k g).regs = s.regs := rfl
@[simp] theorem State.setGranule_srst (k : Nat) (g : Gran) : (s.setGranule k g).srst = s.srst := rfl
@[simp] theorem State.setGranule_leaks (k : Nat) (g : Gran) : (s.setGranule k g).leaks = s.leaks := rfl
@[simp] theorem State.setGranule_mem (k : Nat) (g : Gran) : (s.setGranule k g).mem = s.mem := rfl
@[simp] theorem State.setGranule_fillWords (k : Nat) (g : Gran) : (s.setGranule k g).fillWords = s.fillWords := rfl
@[simp] theorem State.setGranule_fenLines (k : Nat) (g : Gran) : (s.setGranule k g).fenLines = s.fenLines := rfl
@[simp] theorem State.setGranule_sram (k : Nat) (g : Gran) : (s.setGranule k g).sram = s.sram := rfl
@[simp] theorem State.setGranule_hbms (k : Nat) (g : Gran) : (s.setGranule k g).hbms = s.hbms := rfl
@[simp] theorem State.setGranule_fens (k : Nat) (g : Gran) : (s.setGranule k g).fens = s.fens := rfl
@[simp] theorem State.setGranule_tiles (k : Nat) (g : Gran) : (s.setGranule k g).tiles = s.tiles := rfl
@[simp] theorem State.setGranule_dies (k : Nat) (g : Gran) : (s.setGranule k g).dies = s.dies := rfl
@[simp] theorem State.setGranule_assigns (k : Nat) (g : Gran) : (s.setGranule k g).assigns = s.assigns := rfl
@[simp] theorem State.setGranule_still (k : Nat) (g : Gran) : (s.setGranule k g).still = s.still := rfl
@[simp] theorem State.setGranule_power (k : Nat) (g : Gran) : (s.setGranule k g).power = s.power := rfl
@[simp] theorem State.setGranule_fuses (k : Nat) (g : Gran) : (s.setGranule k g).fuses = s.fuses := rfl
@[simp] theorem State.setGranule_banks (k : Nat) (g : Gran) : (s.setGranule k g).banks = s.banks := rfl
@[simp] theorem State.setGranule_trust (k : Nat) (g : Gran) : (s.setGranule k g).trust = s.trust := rfl
@[simp] theorem State.setGranule_cutOff (k : Nat) (g : Gran) : (s.setGranule k g).cutOff = s.cutOff := rfl
@[simp] theorem State.setGranule_disp (k : Nat) (g : Gran) : (s.setGranule k g).disp = s.disp := rfl
@[simp] theorem State.setGranule_tables (k : Nat) (g : Gran) : (s.setGranule k g).tables = s.tables := rfl
@[simp] theorem State.setGranule_sets (k : Nat) (g : Gran) : (s.setGranule k g).sets = s.sets := rfl
@[simp] theorem State.setGranule_reeds (k : Nat) (g : Gran) : (s.setGranule k g).reeds = s.reeds := rfl
@[simp] theorem State.setGranule_fab (k : Nat) (g : Gran) : (s.setGranule k g).fab = s.fab := rfl
@[simp] theorem State.setGranule_host (k : Nat) (g : Gran) : (s.setGranule k g).host = s.host := rfl
@[simp] theorem State.setGranule_ext (k : Nat) (g : Gran) : (s.setGranule k g).ext = s.ext := rfl

@[simp] theorem State.setFenLine_pending (k : Nat) (l : FenLine) : (s.setFenLine k l).pending = s.pending := rfl
@[simp] theorem State.setFenLine_tick (k : Nat) (l : FenLine) : (s.setFenLine k l).tick = s.tick := rfl
@[simp] theorem State.setFenLine_freeCtr (k : Nat) (l : FenLine) : (s.setFenLine k l).freeCtr = s.freeCtr := rfl
@[simp] theorem State.setFenLine_resp (k : Nat) (l : FenLine) : (s.setFenLine k l).resp = s.resp := rfl
@[simp] theorem State.setFenLine_out (k : Nat) (l : FenLine) : (s.setFenLine k l).out = s.out := rfl
@[simp] theorem State.setFenLine_regs (k : Nat) (l : FenLine) : (s.setFenLine k l).regs = s.regs := rfl
@[simp] theorem State.setFenLine_srst (k : Nat) (l : FenLine) : (s.setFenLine k l).srst = s.srst := rfl
@[simp] theorem State.setFenLine_leaks (k : Nat) (l : FenLine) : (s.setFenLine k l).leaks = s.leaks := rfl
@[simp] theorem State.setFenLine_mem (k : Nat) (l : FenLine) : (s.setFenLine k l).mem = s.mem := rfl
@[simp] theorem State.setFenLine_gran (k : Nat) (l : FenLine) : (s.setFenLine k l).gran = s.gran := rfl
@[simp] theorem State.setFenLine_fillWords (k : Nat) (l : FenLine) : (s.setFenLine k l).fillWords = s.fillWords := rfl
@[simp] theorem State.setFenLine_sram (k : Nat) (l : FenLine) : (s.setFenLine k l).sram = s.sram := rfl
@[simp] theorem State.setFenLine_hbms (k : Nat) (l : FenLine) : (s.setFenLine k l).hbms = s.hbms := rfl
@[simp] theorem State.setFenLine_fens (k : Nat) (l : FenLine) : (s.setFenLine k l).fens = s.fens := rfl
@[simp] theorem State.setFenLine_tiles (k : Nat) (l : FenLine) : (s.setFenLine k l).tiles = s.tiles := rfl
@[simp] theorem State.setFenLine_dies (k : Nat) (l : FenLine) : (s.setFenLine k l).dies = s.dies := rfl
@[simp] theorem State.setFenLine_assigns (k : Nat) (l : FenLine) : (s.setFenLine k l).assigns = s.assigns := rfl
@[simp] theorem State.setFenLine_still (k : Nat) (l : FenLine) : (s.setFenLine k l).still = s.still := rfl
@[simp] theorem State.setFenLine_power (k : Nat) (l : FenLine) : (s.setFenLine k l).power = s.power := rfl
@[simp] theorem State.setFenLine_fuses (k : Nat) (l : FenLine) : (s.setFenLine k l).fuses = s.fuses := rfl
@[simp] theorem State.setFenLine_banks (k : Nat) (l : FenLine) : (s.setFenLine k l).banks = s.banks := rfl
@[simp] theorem State.setFenLine_trust (k : Nat) (l : FenLine) : (s.setFenLine k l).trust = s.trust := rfl
@[simp] theorem State.setFenLine_cutOff (k : Nat) (l : FenLine) : (s.setFenLine k l).cutOff = s.cutOff := rfl
@[simp] theorem State.setFenLine_disp (k : Nat) (l : FenLine) : (s.setFenLine k l).disp = s.disp := rfl
@[simp] theorem State.setFenLine_tables (k : Nat) (l : FenLine) : (s.setFenLine k l).tables = s.tables := rfl
@[simp] theorem State.setFenLine_sets (k : Nat) (l : FenLine) : (s.setFenLine k l).sets = s.sets := rfl
@[simp] theorem State.setFenLine_reeds (k : Nat) (l : FenLine) : (s.setFenLine k l).reeds = s.reeds := rfl
@[simp] theorem State.setFenLine_fab (k : Nat) (l : FenLine) : (s.setFenLine k l).fab = s.fab := rfl
@[simp] theorem State.setFenLine_host (k : Nat) (l : FenLine) : (s.setFenLine k l).host = s.host := rfl
@[simp] theorem State.setFenLine_ext (k : Nat) (l : FenLine) : (s.setFenLine k l).ext = s.ext := rfl

@[simp] theorem State.setFillBits_pending (w : Nat) (b : WordBits) : (s.setFillBits w b).pending = s.pending := rfl
@[simp] theorem State.setFillBits_tick (w : Nat) (b : WordBits) : (s.setFillBits w b).tick = s.tick := rfl
@[simp] theorem State.setFillBits_freeCtr (w : Nat) (b : WordBits) : (s.setFillBits w b).freeCtr = s.freeCtr := rfl
@[simp] theorem State.setFillBits_resp (w : Nat) (b : WordBits) : (s.setFillBits w b).resp = s.resp := rfl
@[simp] theorem State.setFillBits_out (w : Nat) (b : WordBits) : (s.setFillBits w b).out = s.out := rfl
@[simp] theorem State.setFillBits_regs (w : Nat) (b : WordBits) : (s.setFillBits w b).regs = s.regs := rfl
@[simp] theorem State.setFillBits_srst (w : Nat) (b : WordBits) : (s.setFillBits w b).srst = s.srst := rfl
@[simp] theorem State.setFillBits_leaks (w : Nat) (b : WordBits) : (s.setFillBits w b).leaks = s.leaks := rfl
@[simp] theorem State.setFillBits_mem (w : Nat) (b : WordBits) : (s.setFillBits w b).mem = s.mem := rfl
@[simp] theorem State.setFillBits_gran (w : Nat) (b : WordBits) : (s.setFillBits w b).gran = s.gran := rfl
@[simp] theorem State.setFillBits_fenLines (w : Nat) (b : WordBits) : (s.setFillBits w b).fenLines = s.fenLines := rfl
@[simp] theorem State.setFillBits_sram (w : Nat) (b : WordBits) : (s.setFillBits w b).sram = s.sram := rfl
@[simp] theorem State.setFillBits_hbms (w : Nat) (b : WordBits) : (s.setFillBits w b).hbms = s.hbms := rfl
@[simp] theorem State.setFillBits_fens (w : Nat) (b : WordBits) : (s.setFillBits w b).fens = s.fens := rfl
@[simp] theorem State.setFillBits_tiles (w : Nat) (b : WordBits) : (s.setFillBits w b).tiles = s.tiles := rfl
@[simp] theorem State.setFillBits_dies (w : Nat) (b : WordBits) : (s.setFillBits w b).dies = s.dies := rfl
@[simp] theorem State.setFillBits_assigns (w : Nat) (b : WordBits) : (s.setFillBits w b).assigns = s.assigns := rfl
@[simp] theorem State.setFillBits_still (w : Nat) (b : WordBits) : (s.setFillBits w b).still = s.still := rfl
@[simp] theorem State.setFillBits_power (w : Nat) (b : WordBits) : (s.setFillBits w b).power = s.power := rfl
@[simp] theorem State.setFillBits_fuses (w : Nat) (b : WordBits) : (s.setFillBits w b).fuses = s.fuses := rfl
@[simp] theorem State.setFillBits_banks (w : Nat) (b : WordBits) : (s.setFillBits w b).banks = s.banks := rfl
@[simp] theorem State.setFillBits_trust (w : Nat) (b : WordBits) : (s.setFillBits w b).trust = s.trust := rfl
@[simp] theorem State.setFillBits_cutOff (w : Nat) (b : WordBits) : (s.setFillBits w b).cutOff = s.cutOff := rfl
@[simp] theorem State.setFillBits_disp (w : Nat) (b : WordBits) : (s.setFillBits w b).disp = s.disp := rfl
@[simp] theorem State.setFillBits_tables (w : Nat) (b : WordBits) : (s.setFillBits w b).tables = s.tables := rfl
@[simp] theorem State.setFillBits_sets (w : Nat) (b : WordBits) : (s.setFillBits w b).sets = s.sets := rfl
@[simp] theorem State.setFillBits_reeds (w : Nat) (b : WordBits) : (s.setFillBits w b).reeds = s.reeds := rfl
@[simp] theorem State.setFillBits_fab (w : Nat) (b : WordBits) : (s.setFillBits w b).fab = s.fab := rfl
@[simp] theorem State.setFillBits_host (w : Nat) (b : WordBits) : (s.setFillBits w b).host = s.host := rfl
@[simp] theorem State.setFillBits_ext (w : Nat) (b : WordBits) : (s.setFillBits w b).ext = s.ext := rfl

@[simp] theorem State.putSector_pending (x : CacheSector) : (s.putSector x).pending = s.pending := rfl
@[simp] theorem State.putSector_tick (x : CacheSector) : (s.putSector x).tick = s.tick := rfl
@[simp] theorem State.putSector_freeCtr (x : CacheSector) : (s.putSector x).freeCtr = s.freeCtr := rfl
@[simp] theorem State.putSector_resp (x : CacheSector) : (s.putSector x).resp = s.resp := rfl
@[simp] theorem State.putSector_out (x : CacheSector) : (s.putSector x).out = s.out := rfl
@[simp] theorem State.putSector_regs (x : CacheSector) : (s.putSector x).regs = s.regs := rfl
@[simp] theorem State.putSector_srst (x : CacheSector) : (s.putSector x).srst = s.srst := rfl
@[simp] theorem State.putSector_leaks (x : CacheSector) : (s.putSector x).leaks = s.leaks := rfl
@[simp] theorem State.putSector_mem (x : CacheSector) : (s.putSector x).mem = s.mem := rfl
@[simp] theorem State.putSector_gran (x : CacheSector) : (s.putSector x).gran = s.gran := rfl
@[simp] theorem State.putSector_fillWords (x : CacheSector) : (s.putSector x).fillWords = s.fillWords := rfl
@[simp] theorem State.putSector_fenLines (x : CacheSector) : (s.putSector x).fenLines = s.fenLines := rfl
@[simp] theorem State.putSector_sram (x : CacheSector) : (s.putSector x).sram = s.sram := rfl
@[simp] theorem State.putSector_hbms (x : CacheSector) : (s.putSector x).hbms = s.hbms := rfl
@[simp] theorem State.putSector_fens (x : CacheSector) : (s.putSector x).fens = s.fens := rfl
@[simp] theorem State.putSector_tiles (x : CacheSector) : (s.putSector x).tiles = s.tiles := rfl
@[simp] theorem State.putSector_dies (x : CacheSector) : (s.putSector x).dies = s.dies := rfl
@[simp] theorem State.putSector_assigns (x : CacheSector) : (s.putSector x).assigns = s.assigns := rfl
@[simp] theorem State.putSector_still (x : CacheSector) : (s.putSector x).still = s.still := rfl
@[simp] theorem State.putSector_power (x : CacheSector) : (s.putSector x).power = s.power := rfl
@[simp] theorem State.putSector_fuses (x : CacheSector) : (s.putSector x).fuses = s.fuses := rfl
@[simp] theorem State.putSector_banks (x : CacheSector) : (s.putSector x).banks = s.banks := rfl
@[simp] theorem State.putSector_trust (x : CacheSector) : (s.putSector x).trust = s.trust := rfl
@[simp] theorem State.putSector_cutOff (x : CacheSector) : (s.putSector x).cutOff = s.cutOff := rfl
@[simp] theorem State.putSector_disp (x : CacheSector) : (s.putSector x).disp = s.disp := rfl
@[simp] theorem State.putSector_tables (x : CacheSector) : (s.putSector x).tables = s.tables := rfl
@[simp] theorem State.putSector_sets (x : CacheSector) : (s.putSector x).sets = s.sets := rfl
@[simp] theorem State.putSector_reeds (x : CacheSector) : (s.putSector x).reeds = s.reeds := rfl
@[simp] theorem State.putSector_fab (x : CacheSector) : (s.putSector x).fab = s.fab := rfl
@[simp] theorem State.putSector_ext (x : CacheSector) : (s.putSector x).ext = s.ext := rfl

@[simp] theorem State.setTrust_pending (f : Trust → Trust) : (s.setTrust f).pending = s.pending := rfl
@[simp] theorem State.setTrust_tick (f : Trust → Trust) : (s.setTrust f).tick = s.tick := rfl
@[simp] theorem State.setTrust_freeCtr (f : Trust → Trust) : (s.setTrust f).freeCtr = s.freeCtr := rfl
@[simp] theorem State.setTrust_resp (f : Trust → Trust) : (s.setTrust f).resp = s.resp := rfl
@[simp] theorem State.setTrust_out (f : Trust → Trust) : (s.setTrust f).out = s.out := rfl
@[simp] theorem State.setTrust_regs (f : Trust → Trust) : (s.setTrust f).regs = s.regs := rfl
@[simp] theorem State.setTrust_srst (f : Trust → Trust) : (s.setTrust f).srst = s.srst := rfl
@[simp] theorem State.setTrust_leaks (f : Trust → Trust) : (s.setTrust f).leaks = s.leaks := rfl
@[simp] theorem State.setTrust_mem (f : Trust → Trust) : (s.setTrust f).mem = s.mem := rfl
@[simp] theorem State.setTrust_gran (f : Trust → Trust) : (s.setTrust f).gran = s.gran := rfl
@[simp] theorem State.setTrust_fillWords (f : Trust → Trust) : (s.setTrust f).fillWords = s.fillWords := rfl
@[simp] theorem State.setTrust_fenLines (f : Trust → Trust) : (s.setTrust f).fenLines = s.fenLines := rfl
@[simp] theorem State.setTrust_sram (f : Trust → Trust) : (s.setTrust f).sram = s.sram := rfl
@[simp] theorem State.setTrust_hbms (f : Trust → Trust) : (s.setTrust f).hbms = s.hbms := rfl
@[simp] theorem State.setTrust_fens (f : Trust → Trust) : (s.setTrust f).fens = s.fens := rfl
@[simp] theorem State.setTrust_tiles (f : Trust → Trust) : (s.setTrust f).tiles = s.tiles := rfl
@[simp] theorem State.setTrust_dies (f : Trust → Trust) : (s.setTrust f).dies = s.dies := rfl
@[simp] theorem State.setTrust_assigns (f : Trust → Trust) : (s.setTrust f).assigns = s.assigns := rfl
@[simp] theorem State.setTrust_still (f : Trust → Trust) : (s.setTrust f).still = s.still := rfl
@[simp] theorem State.setTrust_power (f : Trust → Trust) : (s.setTrust f).power = s.power := rfl
@[simp] theorem State.setTrust_fuses (f : Trust → Trust) : (s.setTrust f).fuses = s.fuses := rfl
@[simp] theorem State.setTrust_banks (f : Trust → Trust) : (s.setTrust f).banks = s.banks := rfl
@[simp] theorem State.setTrust_cutOff (f : Trust → Trust) : (s.setTrust f).cutOff = s.cutOff := rfl
@[simp] theorem State.setTrust_disp (f : Trust → Trust) : (s.setTrust f).disp = s.disp := rfl
@[simp] theorem State.setTrust_tables (f : Trust → Trust) : (s.setTrust f).tables = s.tables := rfl
@[simp] theorem State.setTrust_sets (f : Trust → Trust) : (s.setTrust f).sets = s.sets := rfl
@[simp] theorem State.setTrust_reeds (f : Trust → Trust) : (s.setTrust f).reeds = s.reeds := rfl
@[simp] theorem State.setTrust_fab (f : Trust → Trust) : (s.setTrust f).fab = s.fab := rfl
@[simp] theorem State.setTrust_host (f : Trust → Trust) : (s.setTrust f).host = s.host := rfl
@[simp] theorem State.setTrust_ext (f : Trust → Trust) : (s.setTrust f).ext = s.ext := rfl

@[simp] theorem State.setCulv_pending (k : Nat) (f : Culv → Culv) : (s.setCulv k f).pending = s.pending := rfl
@[simp] theorem State.setCulv_tick (k : Nat) (f : Culv → Culv) : (s.setCulv k f).tick = s.tick := rfl
@[simp] theorem State.setCulv_freeCtr (k : Nat) (f : Culv → Culv) : (s.setCulv k f).freeCtr = s.freeCtr := rfl
@[simp] theorem State.setCulv_resp (k : Nat) (f : Culv → Culv) : (s.setCulv k f).resp = s.resp := rfl
@[simp] theorem State.setCulv_out (k : Nat) (f : Culv → Culv) : (s.setCulv k f).out = s.out := rfl
@[simp] theorem State.setCulv_regs (k : Nat) (f : Culv → Culv) : (s.setCulv k f).regs = s.regs := rfl
@[simp] theorem State.setCulv_srst (k : Nat) (f : Culv → Culv) : (s.setCulv k f).srst = s.srst := rfl
@[simp] theorem State.setCulv_leaks (k : Nat) (f : Culv → Culv) : (s.setCulv k f).leaks = s.leaks := rfl
@[simp] theorem State.setCulv_mem (k : Nat) (f : Culv → Culv) : (s.setCulv k f).mem = s.mem := rfl
@[simp] theorem State.setCulv_gran (k : Nat) (f : Culv → Culv) : (s.setCulv k f).gran = s.gran := rfl
@[simp] theorem State.setCulv_fillWords (k : Nat) (f : Culv → Culv) : (s.setCulv k f).fillWords = s.fillWords := rfl
@[simp] theorem State.setCulv_fenLines (k : Nat) (f : Culv → Culv) : (s.setCulv k f).fenLines = s.fenLines := rfl
@[simp] theorem State.setCulv_sram (k : Nat) (f : Culv → Culv) : (s.setCulv k f).sram = s.sram := rfl
@[simp] theorem State.setCulv_hbms (k : Nat) (f : Culv → Culv) : (s.setCulv k f).hbms = s.hbms := rfl
@[simp] theorem State.setCulv_fens (k : Nat) (f : Culv → Culv) : (s.setCulv k f).fens = s.fens := rfl
@[simp] theorem State.setCulv_tiles (k : Nat) (f : Culv → Culv) : (s.setCulv k f).tiles = s.tiles := rfl
@[simp] theorem State.setCulv_dies (k : Nat) (f : Culv → Culv) : (s.setCulv k f).dies = s.dies := rfl
@[simp] theorem State.setCulv_assigns (k : Nat) (f : Culv → Culv) : (s.setCulv k f).assigns = s.assigns := rfl
@[simp] theorem State.setCulv_still (k : Nat) (f : Culv → Culv) : (s.setCulv k f).still = s.still := rfl
@[simp] theorem State.setCulv_power (k : Nat) (f : Culv → Culv) : (s.setCulv k f).power = s.power := rfl
@[simp] theorem State.setCulv_fuses (k : Nat) (f : Culv → Culv) : (s.setCulv k f).fuses = s.fuses := rfl
@[simp] theorem State.setCulv_banks (k : Nat) (f : Culv → Culv) : (s.setCulv k f).banks = s.banks := rfl
@[simp] theorem State.setCulv_trust (k : Nat) (f : Culv → Culv) : (s.setCulv k f).trust = s.trust := rfl
@[simp] theorem State.setCulv_cutOff (k : Nat) (f : Culv → Culv) : (s.setCulv k f).cutOff = s.cutOff := rfl
@[simp] theorem State.setCulv_disp (k : Nat) (f : Culv → Culv) : (s.setCulv k f).disp = s.disp := rfl
@[simp] theorem State.setCulv_sets (k : Nat) (f : Culv → Culv) : (s.setCulv k f).sets = s.sets := rfl
@[simp] theorem State.setCulv_reeds (k : Nat) (f : Culv → Culv) : (s.setCulv k f).reeds = s.reeds := rfl
@[simp] theorem State.setCulv_fab (k : Nat) (f : Culv → Culv) : (s.setCulv k f).fab = s.fab := rfl
@[simp] theorem State.setCulv_host (k : Nat) (f : Culv → Culv) : (s.setCulv k f).host = s.host := rfl
@[simp] theorem State.setCulv_ext (k : Nat) (f : Culv → Culv) : (s.setCulv k f).ext = s.ext := rfl

@[simp] theorem State.setTable_pending (k : Nat) (f : TableEnt → TableEnt) : (s.setTable k f).pending = s.pending := rfl
@[simp] theorem State.setTable_tick (k : Nat) (f : TableEnt → TableEnt) : (s.setTable k f).tick = s.tick := rfl
@[simp] theorem State.setTable_freeCtr (k : Nat) (f : TableEnt → TableEnt) : (s.setTable k f).freeCtr = s.freeCtr := rfl
@[simp] theorem State.setTable_resp (k : Nat) (f : TableEnt → TableEnt) : (s.setTable k f).resp = s.resp := rfl
@[simp] theorem State.setTable_out (k : Nat) (f : TableEnt → TableEnt) : (s.setTable k f).out = s.out := rfl
@[simp] theorem State.setTable_regs (k : Nat) (f : TableEnt → TableEnt) : (s.setTable k f).regs = s.regs := rfl
@[simp] theorem State.setTable_srst (k : Nat) (f : TableEnt → TableEnt) : (s.setTable k f).srst = s.srst := rfl
@[simp] theorem State.setTable_leaks (k : Nat) (f : TableEnt → TableEnt) : (s.setTable k f).leaks = s.leaks := rfl
@[simp] theorem State.setTable_mem (k : Nat) (f : TableEnt → TableEnt) : (s.setTable k f).mem = s.mem := rfl
@[simp] theorem State.setTable_gran (k : Nat) (f : TableEnt → TableEnt) : (s.setTable k f).gran = s.gran := rfl
@[simp] theorem State.setTable_fillWords (k : Nat) (f : TableEnt → TableEnt) : (s.setTable k f).fillWords = s.fillWords := rfl
@[simp] theorem State.setTable_fenLines (k : Nat) (f : TableEnt → TableEnt) : (s.setTable k f).fenLines = s.fenLines := rfl
@[simp] theorem State.setTable_sram (k : Nat) (f : TableEnt → TableEnt) : (s.setTable k f).sram = s.sram := rfl
@[simp] theorem State.setTable_hbms (k : Nat) (f : TableEnt → TableEnt) : (s.setTable k f).hbms = s.hbms := rfl
@[simp] theorem State.setTable_fens (k : Nat) (f : TableEnt → TableEnt) : (s.setTable k f).fens = s.fens := rfl
@[simp] theorem State.setTable_tiles (k : Nat) (f : TableEnt → TableEnt) : (s.setTable k f).tiles = s.tiles := rfl
@[simp] theorem State.setTable_dies (k : Nat) (f : TableEnt → TableEnt) : (s.setTable k f).dies = s.dies := rfl
@[simp] theorem State.setTable_assigns (k : Nat) (f : TableEnt → TableEnt) : (s.setTable k f).assigns = s.assigns := rfl
@[simp] theorem State.setTable_still (k : Nat) (f : TableEnt → TableEnt) : (s.setTable k f).still = s.still := rfl
@[simp] theorem State.setTable_power (k : Nat) (f : TableEnt → TableEnt) : (s.setTable k f).power = s.power := rfl
@[simp] theorem State.setTable_fuses (k : Nat) (f : TableEnt → TableEnt) : (s.setTable k f).fuses = s.fuses := rfl
@[simp] theorem State.setTable_banks (k : Nat) (f : TableEnt → TableEnt) : (s.setTable k f).banks = s.banks := rfl
@[simp] theorem State.setTable_trust (k : Nat) (f : TableEnt → TableEnt) : (s.setTable k f).trust = s.trust := rfl
@[simp] theorem State.setTable_cutOff (k : Nat) (f : TableEnt → TableEnt) : (s.setTable k f).cutOff = s.cutOff := rfl
@[simp] theorem State.setTable_disp (k : Nat) (f : TableEnt → TableEnt) : (s.setTable k f).disp = s.disp := rfl
@[simp] theorem State.setTable_sets (k : Nat) (f : TableEnt → TableEnt) : (s.setTable k f).sets = s.sets := rfl
@[simp] theorem State.setTable_reeds (k : Nat) (f : TableEnt → TableEnt) : (s.setTable k f).reeds = s.reeds := rfl
@[simp] theorem State.setTable_fab (k : Nat) (f : TableEnt → TableEnt) : (s.setTable k f).fab = s.fab := rfl
@[simp] theorem State.setTable_host (k : Nat) (f : TableEnt → TableEnt) : (s.setTable k f).host = s.host := rfl
@[simp] theorem State.setTable_ext (k : Nat) (f : TableEnt → TableEnt) : (s.setTable k f).ext = s.ext := rfl

@[simp] theorem State.setReed_pending (d : Nat) (f : Reed → Reed) : (s.setReed d f).pending = s.pending := rfl
@[simp] theorem State.setReed_tick (d : Nat) (f : Reed → Reed) : (s.setReed d f).tick = s.tick := rfl
@[simp] theorem State.setReed_freeCtr (d : Nat) (f : Reed → Reed) : (s.setReed d f).freeCtr = s.freeCtr := rfl
@[simp] theorem State.setReed_resp (d : Nat) (f : Reed → Reed) : (s.setReed d f).resp = s.resp := rfl
@[simp] theorem State.setReed_out (d : Nat) (f : Reed → Reed) : (s.setReed d f).out = s.out := rfl
@[simp] theorem State.setReed_regs (d : Nat) (f : Reed → Reed) : (s.setReed d f).regs = s.regs := rfl
@[simp] theorem State.setReed_srst (d : Nat) (f : Reed → Reed) : (s.setReed d f).srst = s.srst := rfl
@[simp] theorem State.setReed_leaks (d : Nat) (f : Reed → Reed) : (s.setReed d f).leaks = s.leaks := rfl
@[simp] theorem State.setReed_mem (d : Nat) (f : Reed → Reed) : (s.setReed d f).mem = s.mem := rfl
@[simp] theorem State.setReed_gran (d : Nat) (f : Reed → Reed) : (s.setReed d f).gran = s.gran := rfl
@[simp] theorem State.setReed_fillWords (d : Nat) (f : Reed → Reed) : (s.setReed d f).fillWords = s.fillWords := rfl
@[simp] theorem State.setReed_fenLines (d : Nat) (f : Reed → Reed) : (s.setReed d f).fenLines = s.fenLines := rfl
@[simp] theorem State.setReed_sram (d : Nat) (f : Reed → Reed) : (s.setReed d f).sram = s.sram := rfl
@[simp] theorem State.setReed_hbms (d : Nat) (f : Reed → Reed) : (s.setReed d f).hbms = s.hbms := rfl
@[simp] theorem State.setReed_fens (d : Nat) (f : Reed → Reed) : (s.setReed d f).fens = s.fens := rfl
@[simp] theorem State.setReed_tiles (d : Nat) (f : Reed → Reed) : (s.setReed d f).tiles = s.tiles := rfl
@[simp] theorem State.setReed_dies (d : Nat) (f : Reed → Reed) : (s.setReed d f).dies = s.dies := rfl
@[simp] theorem State.setReed_assigns (d : Nat) (f : Reed → Reed) : (s.setReed d f).assigns = s.assigns := rfl
@[simp] theorem State.setReed_still (d : Nat) (f : Reed → Reed) : (s.setReed d f).still = s.still := rfl
@[simp] theorem State.setReed_power (d : Nat) (f : Reed → Reed) : (s.setReed d f).power = s.power := rfl
@[simp] theorem State.setReed_fuses (d : Nat) (f : Reed → Reed) : (s.setReed d f).fuses = s.fuses := rfl
@[simp] theorem State.setReed_banks (d : Nat) (f : Reed → Reed) : (s.setReed d f).banks = s.banks := rfl
@[simp] theorem State.setReed_trust (d : Nat) (f : Reed → Reed) : (s.setReed d f).trust = s.trust := rfl
@[simp] theorem State.setReed_cutOff (d : Nat) (f : Reed → Reed) : (s.setReed d f).cutOff = s.cutOff := rfl
@[simp] theorem State.setReed_disp (d : Nat) (f : Reed → Reed) : (s.setReed d f).disp = s.disp := rfl
@[simp] theorem State.setReed_tables (d : Nat) (f : Reed → Reed) : (s.setReed d f).tables = s.tables := rfl
@[simp] theorem State.setReed_sets (d : Nat) (f : Reed → Reed) : (s.setReed d f).sets = s.sets := rfl
@[simp] theorem State.setReed_fab (d : Nat) (f : Reed → Reed) : (s.setReed d f).fab = s.fab := rfl
@[simp] theorem State.setReed_host (d : Nat) (f : Reed → Reed) : (s.setReed d f).host = s.host := rfl
@[simp] theorem State.setReed_ext (d : Nat) (f : Reed → Reed) : (s.setReed d f).ext = s.ext := rfl

@[simp] theorem State.setSlot_pending (k : Nat) (f : SlotState → SlotState) : (s.setSlot k f).pending = s.pending := rfl
@[simp] theorem State.setSlot_tick (k : Nat) (f : SlotState → SlotState) : (s.setSlot k f).tick = s.tick := rfl
@[simp] theorem State.setSlot_freeCtr (k : Nat) (f : SlotState → SlotState) : (s.setSlot k f).freeCtr = s.freeCtr := rfl
@[simp] theorem State.setSlot_resp (k : Nat) (f : SlotState → SlotState) : (s.setSlot k f).resp = s.resp := rfl
@[simp] theorem State.setSlot_out (k : Nat) (f : SlotState → SlotState) : (s.setSlot k f).out = s.out := rfl
@[simp] theorem State.setSlot_regs (k : Nat) (f : SlotState → SlotState) : (s.setSlot k f).regs = s.regs := rfl
@[simp] theorem State.setSlot_srst (k : Nat) (f : SlotState → SlotState) : (s.setSlot k f).srst = s.srst := rfl
@[simp] theorem State.setSlot_leaks (k : Nat) (f : SlotState → SlotState) : (s.setSlot k f).leaks = s.leaks := rfl
@[simp] theorem State.setSlot_mem (k : Nat) (f : SlotState → SlotState) : (s.setSlot k f).mem = s.mem := rfl
@[simp] theorem State.setSlot_gran (k : Nat) (f : SlotState → SlotState) : (s.setSlot k f).gran = s.gran := rfl
@[simp] theorem State.setSlot_fillWords (k : Nat) (f : SlotState → SlotState) : (s.setSlot k f).fillWords = s.fillWords := rfl
@[simp] theorem State.setSlot_fenLines (k : Nat) (f : SlotState → SlotState) : (s.setSlot k f).fenLines = s.fenLines := rfl
@[simp] theorem State.setSlot_sram (k : Nat) (f : SlotState → SlotState) : (s.setSlot k f).sram = s.sram := rfl
@[simp] theorem State.setSlot_hbms (k : Nat) (f : SlotState → SlotState) : (s.setSlot k f).hbms = s.hbms := rfl
@[simp] theorem State.setSlot_fens (k : Nat) (f : SlotState → SlotState) : (s.setSlot k f).fens = s.fens := rfl
@[simp] theorem State.setSlot_tiles (k : Nat) (f : SlotState → SlotState) : (s.setSlot k f).tiles = s.tiles := rfl
@[simp] theorem State.setSlot_dies (k : Nat) (f : SlotState → SlotState) : (s.setSlot k f).dies = s.dies := rfl
@[simp] theorem State.setSlot_assigns (k : Nat) (f : SlotState → SlotState) : (s.setSlot k f).assigns = s.assigns := rfl
@[simp] theorem State.setSlot_still (k : Nat) (f : SlotState → SlotState) : (s.setSlot k f).still = s.still := rfl
@[simp] theorem State.setSlot_power (k : Nat) (f : SlotState → SlotState) : (s.setSlot k f).power = s.power := rfl
@[simp] theorem State.setSlot_fuses (k : Nat) (f : SlotState → SlotState) : (s.setSlot k f).fuses = s.fuses := rfl
@[simp] theorem State.setSlot_banks (k : Nat) (f : SlotState → SlotState) : (s.setSlot k f).banks = s.banks := rfl
@[simp] theorem State.setSlot_trust (k : Nat) (f : SlotState → SlotState) : (s.setSlot k f).trust = s.trust := rfl
@[simp] theorem State.setSlot_cutOff (k : Nat) (f : SlotState → SlotState) : (s.setSlot k f).cutOff = s.cutOff := rfl
@[simp] theorem State.setSlot_tables (k : Nat) (f : SlotState → SlotState) : (s.setSlot k f).tables = s.tables := rfl
@[simp] theorem State.setSlot_sets (k : Nat) (f : SlotState → SlotState) : (s.setSlot k f).sets = s.sets := rfl
@[simp] theorem State.setSlot_reeds (k : Nat) (f : SlotState → SlotState) : (s.setSlot k f).reeds = s.reeds := rfl
@[simp] theorem State.setSlot_fab (k : Nat) (f : SlotState → SlotState) : (s.setSlot k f).fab = s.fab := rfl
@[simp] theorem State.setSlot_host (k : Nat) (f : SlotState → SlotState) : (s.setSlot k f).host = s.host := rfl
@[simp] theorem State.setSlot_ext (k : Nat) (f : SlotState → SlotState) : (s.setSlot k f).ext = s.ext := rfl

@[simp] theorem State.setStream_pending (id : Nat) (f : Stream → Stream) : (s.setStream id f).pending = s.pending := rfl
@[simp] theorem State.setStream_tick (id : Nat) (f : Stream → Stream) : (s.setStream id f).tick = s.tick := rfl
@[simp] theorem State.setStream_freeCtr (id : Nat) (f : Stream → Stream) : (s.setStream id f).freeCtr = s.freeCtr := rfl
@[simp] theorem State.setStream_resp (id : Nat) (f : Stream → Stream) : (s.setStream id f).resp = s.resp := rfl
@[simp] theorem State.setStream_out (id : Nat) (f : Stream → Stream) : (s.setStream id f).out = s.out := rfl
@[simp] theorem State.setStream_regs (id : Nat) (f : Stream → Stream) : (s.setStream id f).regs = s.regs := rfl
@[simp] theorem State.setStream_srst (id : Nat) (f : Stream → Stream) : (s.setStream id f).srst = s.srst := rfl
@[simp] theorem State.setStream_leaks (id : Nat) (f : Stream → Stream) : (s.setStream id f).leaks = s.leaks := rfl
@[simp] theorem State.setStream_mem (id : Nat) (f : Stream → Stream) : (s.setStream id f).mem = s.mem := rfl
@[simp] theorem State.setStream_gran (id : Nat) (f : Stream → Stream) : (s.setStream id f).gran = s.gran := rfl
@[simp] theorem State.setStream_fillWords (id : Nat) (f : Stream → Stream) : (s.setStream id f).fillWords = s.fillWords := rfl
@[simp] theorem State.setStream_fenLines (id : Nat) (f : Stream → Stream) : (s.setStream id f).fenLines = s.fenLines := rfl
@[simp] theorem State.setStream_sram (id : Nat) (f : Stream → Stream) : (s.setStream id f).sram = s.sram := rfl
@[simp] theorem State.setStream_hbms (id : Nat) (f : Stream → Stream) : (s.setStream id f).hbms = s.hbms := rfl
@[simp] theorem State.setStream_fens (id : Nat) (f : Stream → Stream) : (s.setStream id f).fens = s.fens := rfl
@[simp] theorem State.setStream_tiles (id : Nat) (f : Stream → Stream) : (s.setStream id f).tiles = s.tiles := rfl
@[simp] theorem State.setStream_dies (id : Nat) (f : Stream → Stream) : (s.setStream id f).dies = s.dies := rfl
@[simp] theorem State.setStream_assigns (id : Nat) (f : Stream → Stream) : (s.setStream id f).assigns = s.assigns := rfl
@[simp] theorem State.setStream_still (id : Nat) (f : Stream → Stream) : (s.setStream id f).still = s.still := rfl
@[simp] theorem State.setStream_power (id : Nat) (f : Stream → Stream) : (s.setStream id f).power = s.power := rfl
@[simp] theorem State.setStream_fuses (id : Nat) (f : Stream → Stream) : (s.setStream id f).fuses = s.fuses := rfl
@[simp] theorem State.setStream_banks (id : Nat) (f : Stream → Stream) : (s.setStream id f).banks = s.banks := rfl
@[simp] theorem State.setStream_trust (id : Nat) (f : Stream → Stream) : (s.setStream id f).trust = s.trust := rfl
@[simp] theorem State.setStream_cutOff (id : Nat) (f : Stream → Stream) : (s.setStream id f).cutOff = s.cutOff := rfl
@[simp] theorem State.setStream_tables (id : Nat) (f : Stream → Stream) : (s.setStream id f).tables = s.tables := rfl
@[simp] theorem State.setStream_sets (id : Nat) (f : Stream → Stream) : (s.setStream id f).sets = s.sets := rfl
@[simp] theorem State.setStream_reeds (id : Nat) (f : Stream → Stream) : (s.setStream id f).reeds = s.reeds := rfl
@[simp] theorem State.setStream_fab (id : Nat) (f : Stream → Stream) : (s.setStream id f).fab = s.fab := rfl
@[simp] theorem State.setStream_host (id : Nat) (f : Stream → Stream) : (s.setStream id f).host = s.host := rfl
@[simp] theorem State.setStream_ext (id : Nat) (f : Stream → Stream) : (s.setStream id f).ext = s.ext := rfl

@[simp] theorem State.setBatch_pending (id n : Nat) (f : Batch → Batch) : (s.setBatch id n f).pending = s.pending := rfl
@[simp] theorem State.setBatch_tick (id n : Nat) (f : Batch → Batch) : (s.setBatch id n f).tick = s.tick := rfl
@[simp] theorem State.setBatch_freeCtr (id n : Nat) (f : Batch → Batch) : (s.setBatch id n f).freeCtr = s.freeCtr := rfl
@[simp] theorem State.setBatch_resp (id n : Nat) (f : Batch → Batch) : (s.setBatch id n f).resp = s.resp := rfl
@[simp] theorem State.setBatch_out (id n : Nat) (f : Batch → Batch) : (s.setBatch id n f).out = s.out := rfl
@[simp] theorem State.setBatch_regs (id n : Nat) (f : Batch → Batch) : (s.setBatch id n f).regs = s.regs := rfl
@[simp] theorem State.setBatch_srst (id n : Nat) (f : Batch → Batch) : (s.setBatch id n f).srst = s.srst := rfl
@[simp] theorem State.setBatch_leaks (id n : Nat) (f : Batch → Batch) : (s.setBatch id n f).leaks = s.leaks := rfl
@[simp] theorem State.setBatch_mem (id n : Nat) (f : Batch → Batch) : (s.setBatch id n f).mem = s.mem := rfl
@[simp] theorem State.setBatch_gran (id n : Nat) (f : Batch → Batch) : (s.setBatch id n f).gran = s.gran := rfl
@[simp] theorem State.setBatch_fillWords (id n : Nat) (f : Batch → Batch) : (s.setBatch id n f).fillWords = s.fillWords := rfl
@[simp] theorem State.setBatch_fenLines (id n : Nat) (f : Batch → Batch) : (s.setBatch id n f).fenLines = s.fenLines := rfl
@[simp] theorem State.setBatch_sram (id n : Nat) (f : Batch → Batch) : (s.setBatch id n f).sram = s.sram := rfl
@[simp] theorem State.setBatch_hbms (id n : Nat) (f : Batch → Batch) : (s.setBatch id n f).hbms = s.hbms := rfl
@[simp] theorem State.setBatch_fens (id n : Nat) (f : Batch → Batch) : (s.setBatch id n f).fens = s.fens := rfl
@[simp] theorem State.setBatch_tiles (id n : Nat) (f : Batch → Batch) : (s.setBatch id n f).tiles = s.tiles := rfl
@[simp] theorem State.setBatch_dies (id n : Nat) (f : Batch → Batch) : (s.setBatch id n f).dies = s.dies := rfl
@[simp] theorem State.setBatch_assigns (id n : Nat) (f : Batch → Batch) : (s.setBatch id n f).assigns = s.assigns := rfl
@[simp] theorem State.setBatch_still (id n : Nat) (f : Batch → Batch) : (s.setBatch id n f).still = s.still := rfl
@[simp] theorem State.setBatch_power (id n : Nat) (f : Batch → Batch) : (s.setBatch id n f).power = s.power := rfl
@[simp] theorem State.setBatch_fuses (id n : Nat) (f : Batch → Batch) : (s.setBatch id n f).fuses = s.fuses := rfl
@[simp] theorem State.setBatch_banks (id n : Nat) (f : Batch → Batch) : (s.setBatch id n f).banks = s.banks := rfl
@[simp] theorem State.setBatch_trust (id n : Nat) (f : Batch → Batch) : (s.setBatch id n f).trust = s.trust := rfl
@[simp] theorem State.setBatch_cutOff (id n : Nat) (f : Batch → Batch) : (s.setBatch id n f).cutOff = s.cutOff := rfl
@[simp] theorem State.setBatch_tables (id n : Nat) (f : Batch → Batch) : (s.setBatch id n f).tables = s.tables := rfl
@[simp] theorem State.setBatch_sets (id n : Nat) (f : Batch → Batch) : (s.setBatch id n f).sets = s.sets := rfl
@[simp] theorem State.setBatch_reeds (id n : Nat) (f : Batch → Batch) : (s.setBatch id n f).reeds = s.reeds := rfl
@[simp] theorem State.setBatch_fab (id n : Nat) (f : Batch → Batch) : (s.setBatch id n f).fab = s.fab := rfl
@[simp] theorem State.setBatch_host (id n : Nat) (f : Batch → Batch) : (s.setBatch id n f).host = s.host := rfl
@[simp] theorem State.setBatch_ext (id n : Nat) (f : Batch → Batch) : (s.setBatch id n f).ext = s.ext := rfl

@[simp] theorem State.setRun_pending (id n i : Nat) (f : StageRun → StageRun) : (s.setRun id n i f).pending = s.pending := rfl
@[simp] theorem State.setRun_tick (id n i : Nat) (f : StageRun → StageRun) : (s.setRun id n i f).tick = s.tick := rfl
@[simp] theorem State.setRun_freeCtr (id n i : Nat) (f : StageRun → StageRun) : (s.setRun id n i f).freeCtr = s.freeCtr := rfl
@[simp] theorem State.setRun_resp (id n i : Nat) (f : StageRun → StageRun) : (s.setRun id n i f).resp = s.resp := rfl
@[simp] theorem State.setRun_out (id n i : Nat) (f : StageRun → StageRun) : (s.setRun id n i f).out = s.out := rfl
@[simp] theorem State.setRun_regs (id n i : Nat) (f : StageRun → StageRun) : (s.setRun id n i f).regs = s.regs := rfl
@[simp] theorem State.setRun_srst (id n i : Nat) (f : StageRun → StageRun) : (s.setRun id n i f).srst = s.srst := rfl
@[simp] theorem State.setRun_leaks (id n i : Nat) (f : StageRun → StageRun) : (s.setRun id n i f).leaks = s.leaks := rfl
@[simp] theorem State.setRun_mem (id n i : Nat) (f : StageRun → StageRun) : (s.setRun id n i f).mem = s.mem := rfl
@[simp] theorem State.setRun_gran (id n i : Nat) (f : StageRun → StageRun) : (s.setRun id n i f).gran = s.gran := rfl
@[simp] theorem State.setRun_fillWords (id n i : Nat) (f : StageRun → StageRun) : (s.setRun id n i f).fillWords = s.fillWords := rfl
@[simp] theorem State.setRun_fenLines (id n i : Nat) (f : StageRun → StageRun) : (s.setRun id n i f).fenLines = s.fenLines := rfl
@[simp] theorem State.setRun_sram (id n i : Nat) (f : StageRun → StageRun) : (s.setRun id n i f).sram = s.sram := rfl
@[simp] theorem State.setRun_hbms (id n i : Nat) (f : StageRun → StageRun) : (s.setRun id n i f).hbms = s.hbms := rfl
@[simp] theorem State.setRun_fens (id n i : Nat) (f : StageRun → StageRun) : (s.setRun id n i f).fens = s.fens := rfl
@[simp] theorem State.setRun_tiles (id n i : Nat) (f : StageRun → StageRun) : (s.setRun id n i f).tiles = s.tiles := rfl
@[simp] theorem State.setRun_dies (id n i : Nat) (f : StageRun → StageRun) : (s.setRun id n i f).dies = s.dies := rfl
@[simp] theorem State.setRun_assigns (id n i : Nat) (f : StageRun → StageRun) : (s.setRun id n i f).assigns = s.assigns := rfl
@[simp] theorem State.setRun_still (id n i : Nat) (f : StageRun → StageRun) : (s.setRun id n i f).still = s.still := rfl
@[simp] theorem State.setRun_power (id n i : Nat) (f : StageRun → StageRun) : (s.setRun id n i f).power = s.power := rfl
@[simp] theorem State.setRun_fuses (id n i : Nat) (f : StageRun → StageRun) : (s.setRun id n i f).fuses = s.fuses := rfl
@[simp] theorem State.setRun_banks (id n i : Nat) (f : StageRun → StageRun) : (s.setRun id n i f).banks = s.banks := rfl
@[simp] theorem State.setRun_trust (id n i : Nat) (f : StageRun → StageRun) : (s.setRun id n i f).trust = s.trust := rfl
@[simp] theorem State.setRun_cutOff (id n i : Nat) (f : StageRun → StageRun) : (s.setRun id n i f).cutOff = s.cutOff := rfl
@[simp] theorem State.setRun_tables (id n i : Nat) (f : StageRun → StageRun) : (s.setRun id n i f).tables = s.tables := rfl
@[simp] theorem State.setRun_sets (id n i : Nat) (f : StageRun → StageRun) : (s.setRun id n i f).sets = s.sets := rfl
@[simp] theorem State.setRun_reeds (id n i : Nat) (f : StageRun → StageRun) : (s.setRun id n i f).reeds = s.reeds := rfl
@[simp] theorem State.setRun_fab (id n i : Nat) (f : StageRun → StageRun) : (s.setRun id n i f).fab = s.fab := rfl
@[simp] theorem State.setRun_host (id n i : Nat) (f : StageRun → StageRun) : (s.setRun id n i f).host = s.host := rfl
@[simp] theorem State.setRun_ext (id n i : Nat) (f : StageRun → StageRun) : (s.setRun id n i f).ext = s.ext := rfl

@[simp] theorem State.setTSlot_pending (id k : Nat) (f : TSlot → TSlot) : (s.setTSlot id k f).pending = s.pending := rfl
@[simp] theorem State.setTSlot_tick (id k : Nat) (f : TSlot → TSlot) : (s.setTSlot id k f).tick = s.tick := rfl
@[simp] theorem State.setTSlot_freeCtr (id k : Nat) (f : TSlot → TSlot) : (s.setTSlot id k f).freeCtr = s.freeCtr := rfl
@[simp] theorem State.setTSlot_resp (id k : Nat) (f : TSlot → TSlot) : (s.setTSlot id k f).resp = s.resp := rfl
@[simp] theorem State.setTSlot_out (id k : Nat) (f : TSlot → TSlot) : (s.setTSlot id k f).out = s.out := rfl
@[simp] theorem State.setTSlot_regs (id k : Nat) (f : TSlot → TSlot) : (s.setTSlot id k f).regs = s.regs := rfl
@[simp] theorem State.setTSlot_srst (id k : Nat) (f : TSlot → TSlot) : (s.setTSlot id k f).srst = s.srst := rfl
@[simp] theorem State.setTSlot_leaks (id k : Nat) (f : TSlot → TSlot) : (s.setTSlot id k f).leaks = s.leaks := rfl
@[simp] theorem State.setTSlot_mem (id k : Nat) (f : TSlot → TSlot) : (s.setTSlot id k f).mem = s.mem := rfl
@[simp] theorem State.setTSlot_gran (id k : Nat) (f : TSlot → TSlot) : (s.setTSlot id k f).gran = s.gran := rfl
@[simp] theorem State.setTSlot_fillWords (id k : Nat) (f : TSlot → TSlot) : (s.setTSlot id k f).fillWords = s.fillWords := rfl
@[simp] theorem State.setTSlot_fenLines (id k : Nat) (f : TSlot → TSlot) : (s.setTSlot id k f).fenLines = s.fenLines := rfl
@[simp] theorem State.setTSlot_sram (id k : Nat) (f : TSlot → TSlot) : (s.setTSlot id k f).sram = s.sram := rfl
@[simp] theorem State.setTSlot_hbms (id k : Nat) (f : TSlot → TSlot) : (s.setTSlot id k f).hbms = s.hbms := rfl
@[simp] theorem State.setTSlot_fens (id k : Nat) (f : TSlot → TSlot) : (s.setTSlot id k f).fens = s.fens := rfl
@[simp] theorem State.setTSlot_tiles (id k : Nat) (f : TSlot → TSlot) : (s.setTSlot id k f).tiles = s.tiles := rfl
@[simp] theorem State.setTSlot_dies (id k : Nat) (f : TSlot → TSlot) : (s.setTSlot id k f).dies = s.dies := rfl
@[simp] theorem State.setTSlot_assigns (id k : Nat) (f : TSlot → TSlot) : (s.setTSlot id k f).assigns = s.assigns := rfl
@[simp] theorem State.setTSlot_still (id k : Nat) (f : TSlot → TSlot) : (s.setTSlot id k f).still = s.still := rfl
@[simp] theorem State.setTSlot_power (id k : Nat) (f : TSlot → TSlot) : (s.setTSlot id k f).power = s.power := rfl
@[simp] theorem State.setTSlot_fuses (id k : Nat) (f : TSlot → TSlot) : (s.setTSlot id k f).fuses = s.fuses := rfl
@[simp] theorem State.setTSlot_banks (id k : Nat) (f : TSlot → TSlot) : (s.setTSlot id k f).banks = s.banks := rfl
@[simp] theorem State.setTSlot_trust (id k : Nat) (f : TSlot → TSlot) : (s.setTSlot id k f).trust = s.trust := rfl
@[simp] theorem State.setTSlot_cutOff (id k : Nat) (f : TSlot → TSlot) : (s.setTSlot id k f).cutOff = s.cutOff := rfl
@[simp] theorem State.setTSlot_tables (id k : Nat) (f : TSlot → TSlot) : (s.setTSlot id k f).tables = s.tables := rfl
@[simp] theorem State.setTSlot_sets (id k : Nat) (f : TSlot → TSlot) : (s.setTSlot id k f).sets = s.sets := rfl
@[simp] theorem State.setTSlot_reeds (id k : Nat) (f : TSlot → TSlot) : (s.setTSlot id k f).reeds = s.reeds := rfl
@[simp] theorem State.setTSlot_fab (id k : Nat) (f : TSlot → TSlot) : (s.setTSlot id k f).fab = s.fab := rfl
@[simp] theorem State.setTSlot_host (id k : Nat) (f : TSlot → TSlot) : (s.setTSlot id k f).host = s.host := rfl
@[simp] theorem State.setTSlot_ext (id k : Nat) (f : TSlot → TSlot) : (s.setTSlot id k f).ext = s.ext := rfl

@[simp] theorem State.setHold_pending (t id : Nat) (f : Hold → Hold) : (s.setHold t id f).pending = s.pending := rfl
@[simp] theorem State.setHold_tick (t id : Nat) (f : Hold → Hold) : (s.setHold t id f).tick = s.tick := rfl
@[simp] theorem State.setHold_freeCtr (t id : Nat) (f : Hold → Hold) : (s.setHold t id f).freeCtr = s.freeCtr := rfl
@[simp] theorem State.setHold_resp (t id : Nat) (f : Hold → Hold) : (s.setHold t id f).resp = s.resp := rfl
@[simp] theorem State.setHold_out (t id : Nat) (f : Hold → Hold) : (s.setHold t id f).out = s.out := rfl
@[simp] theorem State.setHold_regs (t id : Nat) (f : Hold → Hold) : (s.setHold t id f).regs = s.regs := rfl
@[simp] theorem State.setHold_srst (t id : Nat) (f : Hold → Hold) : (s.setHold t id f).srst = s.srst := rfl
@[simp] theorem State.setHold_leaks (t id : Nat) (f : Hold → Hold) : (s.setHold t id f).leaks = s.leaks := rfl
@[simp] theorem State.setHold_mem (t id : Nat) (f : Hold → Hold) : (s.setHold t id f).mem = s.mem := rfl
@[simp] theorem State.setHold_gran (t id : Nat) (f : Hold → Hold) : (s.setHold t id f).gran = s.gran := rfl
@[simp] theorem State.setHold_fillWords (t id : Nat) (f : Hold → Hold) : (s.setHold t id f).fillWords = s.fillWords := rfl
@[simp] theorem State.setHold_fenLines (t id : Nat) (f : Hold → Hold) : (s.setHold t id f).fenLines = s.fenLines := rfl
@[simp] theorem State.setHold_sram (t id : Nat) (f : Hold → Hold) : (s.setHold t id f).sram = s.sram := rfl
@[simp] theorem State.setHold_hbms (t id : Nat) (f : Hold → Hold) : (s.setHold t id f).hbms = s.hbms := rfl
@[simp] theorem State.setHold_fens (t id : Nat) (f : Hold → Hold) : (s.setHold t id f).fens = s.fens := rfl
@[simp] theorem State.setHold_tiles (t id : Nat) (f : Hold → Hold) : (s.setHold t id f).tiles = s.tiles := rfl
@[simp] theorem State.setHold_dies (t id : Nat) (f : Hold → Hold) : (s.setHold t id f).dies = s.dies := rfl
@[simp] theorem State.setHold_assigns (t id : Nat) (f : Hold → Hold) : (s.setHold t id f).assigns = s.assigns := rfl
@[simp] theorem State.setHold_still (t id : Nat) (f : Hold → Hold) : (s.setHold t id f).still = s.still := rfl
@[simp] theorem State.setHold_power (t id : Nat) (f : Hold → Hold) : (s.setHold t id f).power = s.power := rfl
@[simp] theorem State.setHold_fuses (t id : Nat) (f : Hold → Hold) : (s.setHold t id f).fuses = s.fuses := rfl
@[simp] theorem State.setHold_banks (t id : Nat) (f : Hold → Hold) : (s.setHold t id f).banks = s.banks := rfl
@[simp] theorem State.setHold_trust (t id : Nat) (f : Hold → Hold) : (s.setHold t id f).trust = s.trust := rfl
@[simp] theorem State.setHold_cutOff (t id : Nat) (f : Hold → Hold) : (s.setHold t id f).cutOff = s.cutOff := rfl
@[simp] theorem State.setHold_tables (t id : Nat) (f : Hold → Hold) : (s.setHold t id f).tables = s.tables := rfl
@[simp] theorem State.setHold_sets (t id : Nat) (f : Hold → Hold) : (s.setHold t id f).sets = s.sets := rfl
@[simp] theorem State.setHold_reeds (t id : Nat) (f : Hold → Hold) : (s.setHold t id f).reeds = s.reeds := rfl
@[simp] theorem State.setHold_fab (t id : Nat) (f : Hold → Hold) : (s.setHold t id f).fab = s.fab := rfl
@[simp] theorem State.setHold_host (t id : Nat) (f : Hold → Hold) : (s.setHold t id f).host = s.host := rfl
@[simp] theorem State.setHold_ext (t id : Nat) (f : Hold → Hold) : (s.setHold t id f).ext = s.ext := rfl

@[simp] theorem State.setMover_pending (t : Nat) (f : Mover → Mover) : (s.setMover t f).pending = s.pending := rfl
@[simp] theorem State.setMover_tick (t : Nat) (f : Mover → Mover) : (s.setMover t f).tick = s.tick := rfl
@[simp] theorem State.setMover_freeCtr (t : Nat) (f : Mover → Mover) : (s.setMover t f).freeCtr = s.freeCtr := rfl
@[simp] theorem State.setMover_resp (t : Nat) (f : Mover → Mover) : (s.setMover t f).resp = s.resp := rfl
@[simp] theorem State.setMover_out (t : Nat) (f : Mover → Mover) : (s.setMover t f).out = s.out := rfl
@[simp] theorem State.setMover_regs (t : Nat) (f : Mover → Mover) : (s.setMover t f).regs = s.regs := rfl
@[simp] theorem State.setMover_srst (t : Nat) (f : Mover → Mover) : (s.setMover t f).srst = s.srst := rfl
@[simp] theorem State.setMover_leaks (t : Nat) (f : Mover → Mover) : (s.setMover t f).leaks = s.leaks := rfl
@[simp] theorem State.setMover_mem (t : Nat) (f : Mover → Mover) : (s.setMover t f).mem = s.mem := rfl
@[simp] theorem State.setMover_gran (t : Nat) (f : Mover → Mover) : (s.setMover t f).gran = s.gran := rfl
@[simp] theorem State.setMover_fillWords (t : Nat) (f : Mover → Mover) : (s.setMover t f).fillWords = s.fillWords := rfl
@[simp] theorem State.setMover_fenLines (t : Nat) (f : Mover → Mover) : (s.setMover t f).fenLines = s.fenLines := rfl
@[simp] theorem State.setMover_sram (t : Nat) (f : Mover → Mover) : (s.setMover t f).sram = s.sram := rfl
@[simp] theorem State.setMover_hbms (t : Nat) (f : Mover → Mover) : (s.setMover t f).hbms = s.hbms := rfl
@[simp] theorem State.setMover_fens (t : Nat) (f : Mover → Mover) : (s.setMover t f).fens = s.fens := rfl
@[simp] theorem State.setMover_tiles (t : Nat) (f : Mover → Mover) : (s.setMover t f).tiles = s.tiles := rfl
@[simp] theorem State.setMover_dies (t : Nat) (f : Mover → Mover) : (s.setMover t f).dies = s.dies := rfl
@[simp] theorem State.setMover_assigns (t : Nat) (f : Mover → Mover) : (s.setMover t f).assigns = s.assigns := rfl
@[simp] theorem State.setMover_still (t : Nat) (f : Mover → Mover) : (s.setMover t f).still = s.still := rfl
@[simp] theorem State.setMover_power (t : Nat) (f : Mover → Mover) : (s.setMover t f).power = s.power := rfl
@[simp] theorem State.setMover_fuses (t : Nat) (f : Mover → Mover) : (s.setMover t f).fuses = s.fuses := rfl
@[simp] theorem State.setMover_banks (t : Nat) (f : Mover → Mover) : (s.setMover t f).banks = s.banks := rfl
@[simp] theorem State.setMover_trust (t : Nat) (f : Mover → Mover) : (s.setMover t f).trust = s.trust := rfl
@[simp] theorem State.setMover_cutOff (t : Nat) (f : Mover → Mover) : (s.setMover t f).cutOff = s.cutOff := rfl
@[simp] theorem State.setMover_tables (t : Nat) (f : Mover → Mover) : (s.setMover t f).tables = s.tables := rfl
@[simp] theorem State.setMover_sets (t : Nat) (f : Mover → Mover) : (s.setMover t f).sets = s.sets := rfl
@[simp] theorem State.setMover_reeds (t : Nat) (f : Mover → Mover) : (s.setMover t f).reeds = s.reeds := rfl
@[simp] theorem State.setMover_fab (t : Nat) (f : Mover → Mover) : (s.setMover t f).fab = s.fab := rfl
@[simp] theorem State.setMover_host (t : Nat) (f : Mover → Mover) : (s.setMover t f).host = s.host := rfl
@[simp] theorem State.setMover_ext (t : Nat) (f : Mover → Mover) : (s.setMover t f).ext = s.ext := rfl

@[simp] theorem State.setRingIn_pending (r : RingRef) (f : RingIn → RingIn) : (s.setRingIn r f).pending = s.pending := by cases r <;> rfl
@[simp] theorem State.setRingIn_tick (r : RingRef) (f : RingIn → RingIn) : (s.setRingIn r f).tick = s.tick := by cases r <;> rfl
@[simp] theorem State.setRingIn_freeCtr (r : RingRef) (f : RingIn → RingIn) : (s.setRingIn r f).freeCtr = s.freeCtr := by cases r <;> rfl
@[simp] theorem State.setRingIn_resp (r : RingRef) (f : RingIn → RingIn) : (s.setRingIn r f).resp = s.resp := by cases r <;> rfl
@[simp] theorem State.setRingIn_out (r : RingRef) (f : RingIn → RingIn) : (s.setRingIn r f).out = s.out := by cases r <;> rfl
@[simp] theorem State.setRingIn_regs (r : RingRef) (f : RingIn → RingIn) : (s.setRingIn r f).regs = s.regs := by cases r <;> rfl
@[simp] theorem State.setRingIn_srst (r : RingRef) (f : RingIn → RingIn) : (s.setRingIn r f).srst = s.srst := by cases r <;> rfl
@[simp] theorem State.setRingIn_leaks (r : RingRef) (f : RingIn → RingIn) : (s.setRingIn r f).leaks = s.leaks := by cases r <;> rfl
@[simp] theorem State.setRingIn_mem (r : RingRef) (f : RingIn → RingIn) : (s.setRingIn r f).mem = s.mem := by cases r <;> rfl
@[simp] theorem State.setRingIn_gran (r : RingRef) (f : RingIn → RingIn) : (s.setRingIn r f).gran = s.gran := by cases r <;> rfl
@[simp] theorem State.setRingIn_fillWords (r : RingRef) (f : RingIn → RingIn) : (s.setRingIn r f).fillWords = s.fillWords := by cases r <;> rfl
@[simp] theorem State.setRingIn_fenLines (r : RingRef) (f : RingIn → RingIn) : (s.setRingIn r f).fenLines = s.fenLines := by cases r <;> rfl
@[simp] theorem State.setRingIn_sram (r : RingRef) (f : RingIn → RingIn) : (s.setRingIn r f).sram = s.sram := by cases r <;> rfl
@[simp] theorem State.setRingIn_hbms (r : RingRef) (f : RingIn → RingIn) : (s.setRingIn r f).hbms = s.hbms := by cases r <;> rfl
@[simp] theorem State.setRingIn_fens (r : RingRef) (f : RingIn → RingIn) : (s.setRingIn r f).fens = s.fens := by cases r <;> rfl
@[simp] theorem State.setRingIn_tiles (r : RingRef) (f : RingIn → RingIn) : (s.setRingIn r f).tiles = s.tiles := by cases r <;> rfl
@[simp] theorem State.setRingIn_dies (r : RingRef) (f : RingIn → RingIn) : (s.setRingIn r f).dies = s.dies := by cases r <;> rfl
@[simp] theorem State.setRingIn_assigns (r : RingRef) (f : RingIn → RingIn) : (s.setRingIn r f).assigns = s.assigns := by cases r <;> rfl
@[simp] theorem State.setRingIn_still (r : RingRef) (f : RingIn → RingIn) : (s.setRingIn r f).still = s.still := by cases r <;> rfl
@[simp] theorem State.setRingIn_power (r : RingRef) (f : RingIn → RingIn) : (s.setRingIn r f).power = s.power := by cases r <;> rfl
@[simp] theorem State.setRingIn_fuses (r : RingRef) (f : RingIn → RingIn) : (s.setRingIn r f).fuses = s.fuses := by cases r <;> rfl
@[simp] theorem State.setRingIn_banks (r : RingRef) (f : RingIn → RingIn) : (s.setRingIn r f).banks = s.banks := by cases r <;> rfl
@[simp] theorem State.setRingIn_trust (r : RingRef) (f : RingIn → RingIn) : (s.setRingIn r f).trust = s.trust := by cases r <;> rfl
@[simp] theorem State.setRingIn_cutOff (r : RingRef) (f : RingIn → RingIn) : (s.setRingIn r f).cutOff = s.cutOff := by cases r <;> rfl
@[simp] theorem State.setRingIn_tables (r : RingRef) (f : RingIn → RingIn) : (s.setRingIn r f).tables = s.tables := by cases r <;> rfl
@[simp] theorem State.setRingIn_sets (r : RingRef) (f : RingIn → RingIn) : (s.setRingIn r f).sets = s.sets := by cases r <;> rfl
@[simp] theorem State.setRingIn_reeds (r : RingRef) (f : RingIn → RingIn) : (s.setRingIn r f).reeds = s.reeds := by cases r <;> rfl
@[simp] theorem State.setRingIn_fab (r : RingRef) (f : RingIn → RingIn) : (s.setRingIn r f).fab = s.fab := by cases r <;> rfl
@[simp] theorem State.setRingIn_host (r : RingRef) (f : RingIn → RingIn) : (s.setRingIn r f).host = s.host := by cases r <;> rfl
@[simp] theorem State.setRingIn_ext (r : RingRef) (f : RingIn → RingIn) : (s.setRingIn r f).ext = s.ext := by cases r <;> rfl

@[simp] theorem State.setRingOut_pending (r : CompRef) (f : RingOut → RingOut) : (s.setRingOut r f).pending = s.pending := by cases r <;> rfl
@[simp] theorem State.setRingOut_tick (r : CompRef) (f : RingOut → RingOut) : (s.setRingOut r f).tick = s.tick := by cases r <;> rfl
@[simp] theorem State.setRingOut_freeCtr (r : CompRef) (f : RingOut → RingOut) : (s.setRingOut r f).freeCtr = s.freeCtr := by cases r <;> rfl
@[simp] theorem State.setRingOut_resp (r : CompRef) (f : RingOut → RingOut) : (s.setRingOut r f).resp = s.resp := by cases r <;> rfl
@[simp] theorem State.setRingOut_out (r : CompRef) (f : RingOut → RingOut) : (s.setRingOut r f).out = s.out := by cases r <;> rfl
@[simp] theorem State.setRingOut_regs (r : CompRef) (f : RingOut → RingOut) : (s.setRingOut r f).regs = s.regs := by cases r <;> rfl
@[simp] theorem State.setRingOut_srst (r : CompRef) (f : RingOut → RingOut) : (s.setRingOut r f).srst = s.srst := by cases r <;> rfl
@[simp] theorem State.setRingOut_leaks (r : CompRef) (f : RingOut → RingOut) : (s.setRingOut r f).leaks = s.leaks := by cases r <;> rfl
@[simp] theorem State.setRingOut_mem (r : CompRef) (f : RingOut → RingOut) : (s.setRingOut r f).mem = s.mem := by cases r <;> rfl
@[simp] theorem State.setRingOut_gran (r : CompRef) (f : RingOut → RingOut) : (s.setRingOut r f).gran = s.gran := by cases r <;> rfl
@[simp] theorem State.setRingOut_fillWords (r : CompRef) (f : RingOut → RingOut) : (s.setRingOut r f).fillWords = s.fillWords := by cases r <;> rfl
@[simp] theorem State.setRingOut_fenLines (r : CompRef) (f : RingOut → RingOut) : (s.setRingOut r f).fenLines = s.fenLines := by cases r <;> rfl
@[simp] theorem State.setRingOut_sram (r : CompRef) (f : RingOut → RingOut) : (s.setRingOut r f).sram = s.sram := by cases r <;> rfl
@[simp] theorem State.setRingOut_hbms (r : CompRef) (f : RingOut → RingOut) : (s.setRingOut r f).hbms = s.hbms := by cases r <;> rfl
@[simp] theorem State.setRingOut_fens (r : CompRef) (f : RingOut → RingOut) : (s.setRingOut r f).fens = s.fens := by cases r <;> rfl
@[simp] theorem State.setRingOut_tiles (r : CompRef) (f : RingOut → RingOut) : (s.setRingOut r f).tiles = s.tiles := by cases r <;> rfl
@[simp] theorem State.setRingOut_dies (r : CompRef) (f : RingOut → RingOut) : (s.setRingOut r f).dies = s.dies := by cases r <;> rfl
@[simp] theorem State.setRingOut_assigns (r : CompRef) (f : RingOut → RingOut) : (s.setRingOut r f).assigns = s.assigns := by cases r <;> rfl
@[simp] theorem State.setRingOut_still (r : CompRef) (f : RingOut → RingOut) : (s.setRingOut r f).still = s.still := by cases r <;> rfl
@[simp] theorem State.setRingOut_power (r : CompRef) (f : RingOut → RingOut) : (s.setRingOut r f).power = s.power := by cases r <;> rfl
@[simp] theorem State.setRingOut_fuses (r : CompRef) (f : RingOut → RingOut) : (s.setRingOut r f).fuses = s.fuses := by cases r <;> rfl
@[simp] theorem State.setRingOut_banks (r : CompRef) (f : RingOut → RingOut) : (s.setRingOut r f).banks = s.banks := by cases r <;> rfl
@[simp] theorem State.setRingOut_trust (r : CompRef) (f : RingOut → RingOut) : (s.setRingOut r f).trust = s.trust := by cases r <;> rfl
@[simp] theorem State.setRingOut_cutOff (r : CompRef) (f : RingOut → RingOut) : (s.setRingOut r f).cutOff = s.cutOff := by cases r <;> rfl
@[simp] theorem State.setRingOut_tables (r : CompRef) (f : RingOut → RingOut) : (s.setRingOut r f).tables = s.tables := by cases r <;> rfl
@[simp] theorem State.setRingOut_sets (r : CompRef) (f : RingOut → RingOut) : (s.setRingOut r f).sets = s.sets := by cases r <;> rfl
@[simp] theorem State.setRingOut_reeds (r : CompRef) (f : RingOut → RingOut) : (s.setRingOut r f).reeds = s.reeds := by cases r <;> rfl
@[simp] theorem State.setRingOut_fab (r : CompRef) (f : RingOut → RingOut) : (s.setRingOut r f).fab = s.fab := by cases r <;> rfl
@[simp] theorem State.setRingOut_host (r : CompRef) (f : RingOut → RingOut) : (s.setRingOut r f).host = s.host := by cases r <;> rfl
@[simp] theorem State.setRingOut_ext (r : CompRef) (f : RingOut → RingOut) : (s.setRingOut r f).ext = s.ext := by cases r <;> rfl

@[simp] theorem State.setQp_pending (n : Nat) (f : Qp → Qp) : (s.setQp n f).pending = s.pending := rfl
@[simp] theorem State.setQp_tick (n : Nat) (f : Qp → Qp) : (s.setQp n f).tick = s.tick := rfl
@[simp] theorem State.setQp_freeCtr (n : Nat) (f : Qp → Qp) : (s.setQp n f).freeCtr = s.freeCtr := rfl
@[simp] theorem State.setQp_resp (n : Nat) (f : Qp → Qp) : (s.setQp n f).resp = s.resp := rfl
@[simp] theorem State.setQp_out (n : Nat) (f : Qp → Qp) : (s.setQp n f).out = s.out := rfl
@[simp] theorem State.setQp_regs (n : Nat) (f : Qp → Qp) : (s.setQp n f).regs = s.regs := rfl
@[simp] theorem State.setQp_srst (n : Nat) (f : Qp → Qp) : (s.setQp n f).srst = s.srst := rfl
@[simp] theorem State.setQp_leaks (n : Nat) (f : Qp → Qp) : (s.setQp n f).leaks = s.leaks := rfl
@[simp] theorem State.setQp_mem (n : Nat) (f : Qp → Qp) : (s.setQp n f).mem = s.mem := rfl
@[simp] theorem State.setQp_gran (n : Nat) (f : Qp → Qp) : (s.setQp n f).gran = s.gran := rfl
@[simp] theorem State.setQp_fillWords (n : Nat) (f : Qp → Qp) : (s.setQp n f).fillWords = s.fillWords := rfl
@[simp] theorem State.setQp_fenLines (n : Nat) (f : Qp → Qp) : (s.setQp n f).fenLines = s.fenLines := rfl
@[simp] theorem State.setQp_sram (n : Nat) (f : Qp → Qp) : (s.setQp n f).sram = s.sram := rfl
@[simp] theorem State.setQp_hbms (n : Nat) (f : Qp → Qp) : (s.setQp n f).hbms = s.hbms := rfl
@[simp] theorem State.setQp_fens (n : Nat) (f : Qp → Qp) : (s.setQp n f).fens = s.fens := rfl
@[simp] theorem State.setQp_tiles (n : Nat) (f : Qp → Qp) : (s.setQp n f).tiles = s.tiles := rfl
@[simp] theorem State.setQp_dies (n : Nat) (f : Qp → Qp) : (s.setQp n f).dies = s.dies := rfl
@[simp] theorem State.setQp_assigns (n : Nat) (f : Qp → Qp) : (s.setQp n f).assigns = s.assigns := rfl
@[simp] theorem State.setQp_still (n : Nat) (f : Qp → Qp) : (s.setQp n f).still = s.still := rfl
@[simp] theorem State.setQp_power (n : Nat) (f : Qp → Qp) : (s.setQp n f).power = s.power := rfl
@[simp] theorem State.setQp_fuses (n : Nat) (f : Qp → Qp) : (s.setQp n f).fuses = s.fuses := rfl
@[simp] theorem State.setQp_banks (n : Nat) (f : Qp → Qp) : (s.setQp n f).banks = s.banks := rfl
@[simp] theorem State.setQp_trust (n : Nat) (f : Qp → Qp) : (s.setQp n f).trust = s.trust := rfl
@[simp] theorem State.setQp_cutOff (n : Nat) (f : Qp → Qp) : (s.setQp n f).cutOff = s.cutOff := rfl
@[simp] theorem State.setQp_disp (n : Nat) (f : Qp → Qp) : (s.setQp n f).disp = s.disp := rfl
@[simp] theorem State.setQp_tables (n : Nat) (f : Qp → Qp) : (s.setQp n f).tables = s.tables := rfl
@[simp] theorem State.setQp_sets (n : Nat) (f : Qp → Qp) : (s.setQp n f).sets = s.sets := rfl
@[simp] theorem State.setQp_reeds (n : Nat) (f : Qp → Qp) : (s.setQp n f).reeds = s.reeds := rfl
@[simp] theorem State.setQp_fab (n : Nat) (f : Qp → Qp) : (s.setQp n f).fab = s.fab := rfl
@[simp] theorem State.setQp_host (n : Nat) (f : Qp → Qp) : (s.setQp n f).host = s.host := rfl

@[simp] theorem State.setPort_pending (p : Nat) (f : Port → Port) : (s.setPort p f).pending = s.pending := rfl
@[simp] theorem State.setPort_tick (p : Nat) (f : Port → Port) : (s.setPort p f).tick = s.tick := rfl
@[simp] theorem State.setPort_freeCtr (p : Nat) (f : Port → Port) : (s.setPort p f).freeCtr = s.freeCtr := rfl
@[simp] theorem State.setPort_resp (p : Nat) (f : Port → Port) : (s.setPort p f).resp = s.resp := rfl
@[simp] theorem State.setPort_out (p : Nat) (f : Port → Port) : (s.setPort p f).out = s.out := rfl
@[simp] theorem State.setPort_regs (p : Nat) (f : Port → Port) : (s.setPort p f).regs = s.regs := rfl
@[simp] theorem State.setPort_srst (p : Nat) (f : Port → Port) : (s.setPort p f).srst = s.srst := rfl
@[simp] theorem State.setPort_leaks (p : Nat) (f : Port → Port) : (s.setPort p f).leaks = s.leaks := rfl
@[simp] theorem State.setPort_mem (p : Nat) (f : Port → Port) : (s.setPort p f).mem = s.mem := rfl
@[simp] theorem State.setPort_gran (p : Nat) (f : Port → Port) : (s.setPort p f).gran = s.gran := rfl
@[simp] theorem State.setPort_fillWords (p : Nat) (f : Port → Port) : (s.setPort p f).fillWords = s.fillWords := rfl
@[simp] theorem State.setPort_fenLines (p : Nat) (f : Port → Port) : (s.setPort p f).fenLines = s.fenLines := rfl
@[simp] theorem State.setPort_sram (p : Nat) (f : Port → Port) : (s.setPort p f).sram = s.sram := rfl
@[simp] theorem State.setPort_hbms (p : Nat) (f : Port → Port) : (s.setPort p f).hbms = s.hbms := rfl
@[simp] theorem State.setPort_fens (p : Nat) (f : Port → Port) : (s.setPort p f).fens = s.fens := rfl
@[simp] theorem State.setPort_tiles (p : Nat) (f : Port → Port) : (s.setPort p f).tiles = s.tiles := rfl
@[simp] theorem State.setPort_dies (p : Nat) (f : Port → Port) : (s.setPort p f).dies = s.dies := rfl
@[simp] theorem State.setPort_assigns (p : Nat) (f : Port → Port) : (s.setPort p f).assigns = s.assigns := rfl
@[simp] theorem State.setPort_still (p : Nat) (f : Port → Port) : (s.setPort p f).still = s.still := rfl
@[simp] theorem State.setPort_power (p : Nat) (f : Port → Port) : (s.setPort p f).power = s.power := rfl
@[simp] theorem State.setPort_fuses (p : Nat) (f : Port → Port) : (s.setPort p f).fuses = s.fuses := rfl
@[simp] theorem State.setPort_banks (p : Nat) (f : Port → Port) : (s.setPort p f).banks = s.banks := rfl
@[simp] theorem State.setPort_trust (p : Nat) (f : Port → Port) : (s.setPort p f).trust = s.trust := rfl
@[simp] theorem State.setPort_cutOff (p : Nat) (f : Port → Port) : (s.setPort p f).cutOff = s.cutOff := rfl
@[simp] theorem State.setPort_disp (p : Nat) (f : Port → Port) : (s.setPort p f).disp = s.disp := rfl
@[simp] theorem State.setPort_tables (p : Nat) (f : Port → Port) : (s.setPort p f).tables = s.tables := rfl
@[simp] theorem State.setPort_sets (p : Nat) (f : Port → Port) : (s.setPort p f).sets = s.sets := rfl
@[simp] theorem State.setPort_reeds (p : Nat) (f : Port → Port) : (s.setPort p f).reeds = s.reeds := rfl
@[simp] theorem State.setPort_fab (p : Nat) (f : Port → Port) : (s.setPort p f).fab = s.fab := rfl
@[simp] theorem State.setPort_host (p : Nat) (f : Port → Port) : (s.setPort p f).host = s.host := rfl

@[simp] theorem setLeak_pending (page t : Nat) : (setLeak s page t).pending = s.pending := rfl
@[simp] theorem setLeak_tick (page t : Nat) : (setLeak s page t).tick = s.tick := rfl
@[simp] theorem setLeak_freeCtr (page t : Nat) : (setLeak s page t).freeCtr = s.freeCtr := rfl
@[simp] theorem setLeak_resp (page t : Nat) : (setLeak s page t).resp = s.resp := rfl
@[simp] theorem setLeak_out (page t : Nat) : (setLeak s page t).out = s.out := rfl
@[simp] theorem setLeak_regs (page t : Nat) : (setLeak s page t).regs = s.regs := rfl
@[simp] theorem setLeak_srst (page t : Nat) : (setLeak s page t).srst = s.srst := rfl
@[simp] theorem setLeak_mem (page t : Nat) : (setLeak s page t).mem = s.mem := rfl
@[simp] theorem setLeak_gran (page t : Nat) : (setLeak s page t).gran = s.gran := rfl
@[simp] theorem setLeak_fillWords (page t : Nat) : (setLeak s page t).fillWords = s.fillWords := rfl
@[simp] theorem setLeak_fenLines (page t : Nat) : (setLeak s page t).fenLines = s.fenLines := rfl
@[simp] theorem setLeak_sram (page t : Nat) : (setLeak s page t).sram = s.sram := rfl
@[simp] theorem setLeak_hbms (page t : Nat) : (setLeak s page t).hbms = s.hbms := rfl
@[simp] theorem setLeak_fens (page t : Nat) : (setLeak s page t).fens = s.fens := rfl
@[simp] theorem setLeak_tiles (page t : Nat) : (setLeak s page t).tiles = s.tiles := rfl
@[simp] theorem setLeak_dies (page t : Nat) : (setLeak s page t).dies = s.dies := rfl
@[simp] theorem setLeak_assigns (page t : Nat) : (setLeak s page t).assigns = s.assigns := rfl
@[simp] theorem setLeak_still (page t : Nat) : (setLeak s page t).still = s.still := rfl
@[simp] theorem setLeak_power (page t : Nat) : (setLeak s page t).power = s.power := rfl
@[simp] theorem setLeak_fuses (page t : Nat) : (setLeak s page t).fuses = s.fuses := rfl
@[simp] theorem setLeak_banks (page t : Nat) : (setLeak s page t).banks = s.banks := rfl
@[simp] theorem setLeak_trust (page t : Nat) : (setLeak s page t).trust = s.trust := rfl
@[simp] theorem setLeak_cutOff (page t : Nat) : (setLeak s page t).cutOff = s.cutOff := rfl
@[simp] theorem setLeak_disp (page t : Nat) : (setLeak s page t).disp = s.disp := rfl
@[simp] theorem setLeak_tables (page t : Nat) : (setLeak s page t).tables = s.tables := rfl
@[simp] theorem setLeak_sets (page t : Nat) : (setLeak s page t).sets = s.sets := rfl
@[simp] theorem setLeak_reeds (page t : Nat) : (setLeak s page t).reeds = s.reeds := rfl
@[simp] theorem setLeak_fab (page t : Nat) : (setLeak s page t).fab = s.fab := rfl
@[simp] theorem setLeak_host (page t : Nat) : (setLeak s page t).host = s.host := rfl
@[simp] theorem setLeak_ext (page t : Nat) : (setLeak s page t).ext = s.ext := rfl

@[simp] theorem answer_pending (r : Resp) : (answer s r).pending = s.pending := rfl
@[simp] theorem answer_tick (r : Resp) : (answer s r).tick = s.tick := rfl
@[simp] theorem answer_freeCtr (r : Resp) : (answer s r).freeCtr = s.freeCtr := rfl
@[simp] theorem answer_out (r : Resp) : (answer s r).out = s.out := rfl
@[simp] theorem answer_regs (r : Resp) : (answer s r).regs = s.regs := rfl
@[simp] theorem answer_srst (r : Resp) : (answer s r).srst = s.srst := rfl
@[simp] theorem answer_leaks (r : Resp) : (answer s r).leaks = s.leaks := rfl
@[simp] theorem answer_mem (r : Resp) : (answer s r).mem = s.mem := rfl
@[simp] theorem answer_gran (r : Resp) : (answer s r).gran = s.gran := rfl
@[simp] theorem answer_fillWords (r : Resp) : (answer s r).fillWords = s.fillWords := rfl
@[simp] theorem answer_fenLines (r : Resp) : (answer s r).fenLines = s.fenLines := rfl
@[simp] theorem answer_sram (r : Resp) : (answer s r).sram = s.sram := rfl
@[simp] theorem answer_hbms (r : Resp) : (answer s r).hbms = s.hbms := rfl
@[simp] theorem answer_fens (r : Resp) : (answer s r).fens = s.fens := rfl
@[simp] theorem answer_tiles (r : Resp) : (answer s r).tiles = s.tiles := rfl
@[simp] theorem answer_dies (r : Resp) : (answer s r).dies = s.dies := rfl
@[simp] theorem answer_assigns (r : Resp) : (answer s r).assigns = s.assigns := rfl
@[simp] theorem answer_still (r : Resp) : (answer s r).still = s.still := rfl
@[simp] theorem answer_power (r : Resp) : (answer s r).power = s.power := rfl
@[simp] theorem answer_fuses (r : Resp) : (answer s r).fuses = s.fuses := rfl
@[simp] theorem answer_banks (r : Resp) : (answer s r).banks = s.banks := rfl
@[simp] theorem answer_trust (r : Resp) : (answer s r).trust = s.trust := rfl
@[simp] theorem answer_cutOff (r : Resp) : (answer s r).cutOff = s.cutOff := rfl
@[simp] theorem answer_disp (r : Resp) : (answer s r).disp = s.disp := rfl
@[simp] theorem answer_tables (r : Resp) : (answer s r).tables = s.tables := rfl
@[simp] theorem answer_sets (r : Resp) : (answer s r).sets = s.sets := rfl
@[simp] theorem answer_reeds (r : Resp) : (answer s r).reeds = s.reeds := rfl
@[simp] theorem answer_fab (r : Resp) : (answer s r).fab = s.fab := rfl
@[simp] theorem answer_host (r : Resp) : (answer s r).host = s.host := rfl
@[simp] theorem answer_ext (r : Resp) : (answer s r).ext = s.ext := rfl

@[simp] theorem putOut_pending (o : Out) : (putOut s o).pending = s.pending := rfl
@[simp] theorem putOut_tick (o : Out) : (putOut s o).tick = s.tick := rfl
@[simp] theorem putOut_freeCtr (o : Out) : (putOut s o).freeCtr = s.freeCtr := rfl
@[simp] theorem putOut_resp (o : Out) : (putOut s o).resp = s.resp := rfl
@[simp] theorem putOut_regs (o : Out) : (putOut s o).regs = s.regs := rfl
@[simp] theorem putOut_srst (o : Out) : (putOut s o).srst = s.srst := rfl
@[simp] theorem putOut_leaks (o : Out) : (putOut s o).leaks = s.leaks := rfl
@[simp] theorem putOut_mem (o : Out) : (putOut s o).mem = s.mem := rfl
@[simp] theorem putOut_gran (o : Out) : (putOut s o).gran = s.gran := rfl
@[simp] theorem putOut_fillWords (o : Out) : (putOut s o).fillWords = s.fillWords := rfl
@[simp] theorem putOut_fenLines (o : Out) : (putOut s o).fenLines = s.fenLines := rfl
@[simp] theorem putOut_sram (o : Out) : (putOut s o).sram = s.sram := rfl
@[simp] theorem putOut_hbms (o : Out) : (putOut s o).hbms = s.hbms := rfl
@[simp] theorem putOut_fens (o : Out) : (putOut s o).fens = s.fens := rfl
@[simp] theorem putOut_tiles (o : Out) : (putOut s o).tiles = s.tiles := rfl
@[simp] theorem putOut_dies (o : Out) : (putOut s o).dies = s.dies := rfl
@[simp] theorem putOut_assigns (o : Out) : (putOut s o).assigns = s.assigns := rfl
@[simp] theorem putOut_still (o : Out) : (putOut s o).still = s.still := rfl
@[simp] theorem putOut_power (o : Out) : (putOut s o).power = s.power := rfl
@[simp] theorem putOut_fuses (o : Out) : (putOut s o).fuses = s.fuses := rfl
@[simp] theorem putOut_banks (o : Out) : (putOut s o).banks = s.banks := rfl
@[simp] theorem putOut_trust (o : Out) : (putOut s o).trust = s.trust := rfl
@[simp] theorem putOut_cutOff (o : Out) : (putOut s o).cutOff = s.cutOff := rfl
@[simp] theorem putOut_disp (o : Out) : (putOut s o).disp = s.disp := rfl
@[simp] theorem putOut_tables (o : Out) : (putOut s o).tables = s.tables := rfl
@[simp] theorem putOut_sets (o : Out) : (putOut s o).sets = s.sets := rfl
@[simp] theorem putOut_reeds (o : Out) : (putOut s o).reeds = s.reeds := rfl
@[simp] theorem putOut_fab (o : Out) : (putOut s o).fab = s.fab := rfl
@[simp] theorem putOut_host (o : Out) : (putOut s o).host = s.host := rfl
@[simp] theorem putOut_ext (o : Out) : (putOut s o).ext = s.ext := rfl

@[simp] theorem takeFree_pending : ((takeFree s).1).pending = s.pending := rfl
@[simp] theorem takeFree_tick : ((takeFree s).1).tick = s.tick := rfl
@[simp] theorem takeFree_resp : ((takeFree s).1).resp = s.resp := rfl
@[simp] theorem takeFree_out : ((takeFree s).1).out = s.out := rfl
@[simp] theorem takeFree_regs : ((takeFree s).1).regs = s.regs := rfl
@[simp] theorem takeFree_srst : ((takeFree s).1).srst = s.srst := rfl
@[simp] theorem takeFree_leaks : ((takeFree s).1).leaks = s.leaks := rfl
@[simp] theorem takeFree_mem : ((takeFree s).1).mem = s.mem := rfl
@[simp] theorem takeFree_gran : ((takeFree s).1).gran = s.gran := rfl
@[simp] theorem takeFree_fillWords : ((takeFree s).1).fillWords = s.fillWords := rfl
@[simp] theorem takeFree_fenLines : ((takeFree s).1).fenLines = s.fenLines := rfl
@[simp] theorem takeFree_sram : ((takeFree s).1).sram = s.sram := rfl
@[simp] theorem takeFree_hbms : ((takeFree s).1).hbms = s.hbms := rfl
@[simp] theorem takeFree_fens : ((takeFree s).1).fens = s.fens := rfl
@[simp] theorem takeFree_tiles : ((takeFree s).1).tiles = s.tiles := rfl
@[simp] theorem takeFree_dies : ((takeFree s).1).dies = s.dies := rfl
@[simp] theorem takeFree_assigns : ((takeFree s).1).assigns = s.assigns := rfl
@[simp] theorem takeFree_still : ((takeFree s).1).still = s.still := rfl
@[simp] theorem takeFree_power : ((takeFree s).1).power = s.power := rfl
@[simp] theorem takeFree_fuses : ((takeFree s).1).fuses = s.fuses := rfl
@[simp] theorem takeFree_banks : ((takeFree s).1).banks = s.banks := rfl
@[simp] theorem takeFree_trust : ((takeFree s).1).trust = s.trust := rfl
@[simp] theorem takeFree_cutOff : ((takeFree s).1).cutOff = s.cutOff := rfl
@[simp] theorem takeFree_disp : ((takeFree s).1).disp = s.disp := rfl
@[simp] theorem takeFree_tables : ((takeFree s).1).tables = s.tables := rfl
@[simp] theorem takeFree_sets : ((takeFree s).1).sets = s.sets := rfl
@[simp] theorem takeFree_reeds : ((takeFree s).1).reeds = s.reeds := rfl
@[simp] theorem takeFree_fab : ((takeFree s).1).fab = s.fab := rfl
@[simp] theorem takeFree_host : ((takeFree s).1).host = s.host := rfl
@[simp] theorem takeFree_ext : ((takeFree s).1).ext = s.ext := rfl

@[simp] theorem takeFreeBits_pending (w : Nat) : ((takeFreeBits s w).1).pending = s.pending := rfl
@[simp] theorem takeFreeBits_tick (w : Nat) : ((takeFreeBits s w).1).tick = s.tick := rfl
@[simp] theorem takeFreeBits_resp (w : Nat) : ((takeFreeBits s w).1).resp = s.resp := rfl
@[simp] theorem takeFreeBits_out (w : Nat) : ((takeFreeBits s w).1).out = s.out := rfl
@[simp] theorem takeFreeBits_regs (w : Nat) : ((takeFreeBits s w).1).regs = s.regs := rfl
@[simp] theorem takeFreeBits_srst (w : Nat) : ((takeFreeBits s w).1).srst = s.srst := rfl
@[simp] theorem takeFreeBits_leaks (w : Nat) : ((takeFreeBits s w).1).leaks = s.leaks := rfl
@[simp] theorem takeFreeBits_mem (w : Nat) : ((takeFreeBits s w).1).mem = s.mem := rfl
@[simp] theorem takeFreeBits_gran (w : Nat) : ((takeFreeBits s w).1).gran = s.gran := rfl
@[simp] theorem takeFreeBits_fillWords (w : Nat) : ((takeFreeBits s w).1).fillWords = s.fillWords := rfl
@[simp] theorem takeFreeBits_fenLines (w : Nat) : ((takeFreeBits s w).1).fenLines = s.fenLines := rfl
@[simp] theorem takeFreeBits_sram (w : Nat) : ((takeFreeBits s w).1).sram = s.sram := rfl
@[simp] theorem takeFreeBits_hbms (w : Nat) : ((takeFreeBits s w).1).hbms = s.hbms := rfl
@[simp] theorem takeFreeBits_fens (w : Nat) : ((takeFreeBits s w).1).fens = s.fens := rfl
@[simp] theorem takeFreeBits_tiles (w : Nat) : ((takeFreeBits s w).1).tiles = s.tiles := rfl
@[simp] theorem takeFreeBits_dies (w : Nat) : ((takeFreeBits s w).1).dies = s.dies := rfl
@[simp] theorem takeFreeBits_assigns (w : Nat) : ((takeFreeBits s w).1).assigns = s.assigns := rfl
@[simp] theorem takeFreeBits_still (w : Nat) : ((takeFreeBits s w).1).still = s.still := rfl
@[simp] theorem takeFreeBits_power (w : Nat) : ((takeFreeBits s w).1).power = s.power := rfl
@[simp] theorem takeFreeBits_fuses (w : Nat) : ((takeFreeBits s w).1).fuses = s.fuses := rfl
@[simp] theorem takeFreeBits_banks (w : Nat) : ((takeFreeBits s w).1).banks = s.banks := rfl
@[simp] theorem takeFreeBits_trust (w : Nat) : ((takeFreeBits s w).1).trust = s.trust := rfl
@[simp] theorem takeFreeBits_cutOff (w : Nat) : ((takeFreeBits s w).1).cutOff = s.cutOff := rfl
@[simp] theorem takeFreeBits_disp (w : Nat) : ((takeFreeBits s w).1).disp = s.disp := rfl
@[simp] theorem takeFreeBits_tables (w : Nat) : ((takeFreeBits s w).1).tables = s.tables := rfl
@[simp] theorem takeFreeBits_sets (w : Nat) : ((takeFreeBits s w).1).sets = s.sets := rfl
@[simp] theorem takeFreeBits_reeds (w : Nat) : ((takeFreeBits s w).1).reeds = s.reeds := rfl
@[simp] theorem takeFreeBits_fab (w : Nat) : ((takeFreeBits s w).1).fab = s.fab := rfl
@[simp] theorem takeFreeBits_host (w : Nat) : ((takeFreeBits s w).1).host = s.host := rfl
@[simp] theorem takeFreeBits_ext (w : Nat) : ((takeFreeBits s w).1).ext = s.ext := rfl

@[simp] theorem answer_resp (r : Resp) : (answer s r).resp = r := rfl
@[simp] theorem putOut_out (o : Out) : (putOut s o).out = o :: s.out := rfl
@[simp] theorem takeFree_freeCtr : (takeFree s).1.freeCtr = s.freeCtr + 1 := rfl

/-! ### Registers -/

theorem State.setReg_reg_self (k : Nat) (v : Word) (h : cellsWf regReset s.regs = true) : (s.setReg k v).reg k = v :=
  cellsGet_set_self h

theorem State.setReg_reg_other (k j : Nat) (v : Word) (h : cellsWf regReset s.regs = true) (hj : j ≠ k) :
    (s.setReg k v).reg j = s.reg j := cellsGet_set_other h hj

theorem State.setReg_wf (k : Nat) (v : Word) (h : cellsWf regReset s.regs = true) :
    cellsWf regReset (s.setReg k v).regs = true := cellsSet_wf h

theorem State.setGranule_wf (k : Nat) (g : Gran) (h : cellsWf granDefault s.gran = true) :
    cellsWf granDefault (s.setGranule k g).gran = true := cellsSet_wf h

theorem State.setFenLine_wf (k : Nat) (l : FenLine) (h : cellsWf fenLineDefault s.fenLines = true) :
    cellsWf fenLineDefault (s.setFenLine k l).fenLines = true := cellsSet_wf h

theorem State.setFillBits_wf (w : Nat) (b : WordBits) (h : cellsWf wordDefault s.fillWords = true) :
    cellsWf wordDefault (s.setFillBits w b).fillWords = true := cellsSet_wf h

end Sys2Proof.Machine
end

