-- ==== Sys2Proof/Laws/Access.lean ====
section
/-! SUPPORT. What an access to memory, a counted event or a trigger can change: registers, the fill map, Fen lines, the stacks'
own counts, the power of dies, the host cores' cache and the open snapshot; a write changes the bytes of memory besides, and a read
where a dirty line is written back first. Each keeps every store in canonical form and the size of every array. -/

namespace Sys2Proof.Machine

/-! ### Lists -/

theorem modifyAt_length {α : Type} (l : List α) (n : Nat) (f : α → α) : (modifyAt l n f).length = l.length := by
  induction l generalizing n with
  | nil => rfl
  | cons a t ih => cases n <;> simp [modifyAt, ih]

theorem setAt_length {α : Type} (l : List α) (n : Nat) (v : α) : (setAt l n v).length = l.length := by
  induction l generalizing n with
  | nil => rfl
  | cons a t ih => cases n <;> simp [setAt, ih]

/-! ### The frame of an access -/

/-- t follows from s by accesses: what an access never changes is as it was. -/
structure Access (s t : State) : Prop where
  pending : t.pending = s.pending
  tick : t.tick = s.tick
  resp : t.resp = s.resp
  out : t.out = s.out
  srst : t.srst = s.srst
  leaks : t.leaks = s.leaks
  sram : t.sram = s.sram
  tiles : t.tiles = s.tiles
  assigns : t.assigns = s.assigns
  fuses : t.fuses = s.fuses
  banks : t.banks = s.banks
  trust : t.trust = s.trust
  cutOff : t.cutOff = s.cutOff
  disp : t.disp = s.disp
  tables : t.tables = s.tables
  sets : t.sets = s.sets
  reeds : t.reeds = s.reeds
  fab : t.fab = s.fab
  host : t.host = { s.host with cache := t.host.cache }
  ext : t.ext = s.ext
  power : t.power = { s.power with dev := t.power.dev }
  stores : s.storesOk = true → t.storesOk = true
  sizes : s.sizesOk = true → t.sizesOk = true
  clean : s.clean = true → t.clean = true

/-- An access that writes no byte of memory, with no dirty line in the host cores' cache to write back. -/
structure Reads (s t : State) : Prop extends Access s t where
  mem : s.clean = true → t.mem = s.mem

theorem Access.refl (s : State) : Access s s := by constructor <;> first | rfl | exact id

theorem Access.trans {s t u : State} (h : Access s t) (g : Access t u) : Access s u where
  pending := g.pending.trans h.pending
  tick := g.tick.trans h.tick
  resp := g.resp.trans h.resp
  out := g.out.trans h.out
  srst := g.srst.trans h.srst
  leaks := g.leaks.trans h.leaks
  sram := g.sram.trans h.sram
  tiles := g.tiles.trans h.tiles
  assigns := g.assigns.trans h.assigns
  fuses := g.fuses.trans h.fuses
  banks := g.banks.trans h.banks
  trust := g.trust.trans h.trust
  cutOff := g.cutOff.trans h.cutOff
  disp := g.disp.trans h.disp
  tables := g.tables.trans h.tables
  sets := g.sets.trans h.sets
  reeds := g.reeds.trans h.reeds
  fab := g.fab.trans h.fab
  host := by rw [g.host, h.host]
  ext := g.ext.trans h.ext
  power := by rw [g.power, h.power]
  stores := g.stores ∘ h.stores
  sizes := g.sizes ∘ h.sizes
  clean := g.clean ∘ h.clean

theorem Reads.refl (s : State) : Reads s s := ⟨.refl s, fun _ => rfl⟩

theorem Reads.trans {s t u : State} (h : Reads s t) (g : Reads t u) : Reads s u :=
  ⟨h.toAccess.trans g.toAccess, fun hc => (g.mem (h.clean hc)).trans (h.mem hc)⟩

theorem Access.sound {s t : State} (h : Access s t) (g : s.sound = true) : t.sound = true := by
  simp only [State.sound, Bool.and_eq_true] at g ⊢
  exact ⟨h.stores g.1, h.sizes g.2⟩

/-! ### Registers and events -/

theorem setReg_reads (s : State) (k : Nat) (v : Word) : Reads s (s.setReg k v) := by
  refine ⟨?_, fun _ => rfl⟩
  constructor <;> try first | rfl | exact id
  intro h
  simp only [State.storesOk, Bool.and_eq_true] at h ⊢
  exact ⟨⟨⟨⟨⟨⟨h.1.1.1.1.1.1, State.setReg_wf s k v h.1.1.1.1.1.2⟩, h.1.1.1.1.2⟩, h.1.1.1.2⟩, h.1.1.2⟩, h.1.2⟩, h.2⟩

theorem setRfld_reads (s : State) (k hi lo x : Nat) : Reads s (s.setRfld k hi lo x) := setReg_reads s _ _

theorem takeFreeBits_reads (s : State) (w : Nat) : Reads s (takeFreeBits s w).1 := by
  refine ⟨?_, fun _ => rfl⟩
  constructor <;> first | rfl | exact id

theorem bumpField_reads (s : State) (k lo w n : Nat) : Reads s (bumpField s k lo w n) := by
  unfold bumpField takeFreeBits
  dsimp only
  split
  · exact setRfld_reads ..
  · exact (takeFreeBits_reads s w).trans (setRfld_reads ..)

theorem bump_reads (s : State) (k n : Nat) : Reads s (bump s k n) := by
  unfold bump
  split
  · exact bumpField_reads ..
  · exact .refl s

theorem bumpSat_reads (s : State) (k lo w n : Nat) : Reads s (bumpSat s k lo w n) := setRfld_reads ..

theorem raiseInt_reads (s : State) (page n : Nat) : Reads s (raiseInt s page n) := setRfld_reads ..

theorem still_reads (s : State) (x : Still) : Reads s { s with still := x } := by
  refine ⟨?_, fun _ => rfl⟩
  constructor <;> first | rfl | exact id

theorem recordTrigger_reads (s : State) (src : Nat) : Reads s (recordTrigger s src) := by
  unfold recordTrigger
  split
  · exact (setReg_reads ..).trans (bump_reads ..)
  · exact (((setReg_reads ..).trans (setReg_reads ..)).trans (setReg_reads ..)).trans (still_reads _ _)

theorem errorTrigger_reads (s : State) (c : Nat) : Reads s (errorTrigger s c) := by
  unfold errorTrigger
  split
  · exact recordTrigger_reads ..
  · exact .refl s

theorem countUE_reads (s : State) (page : Nat) : Reads s (countUE s page) :=
  ((bumpSat_reads ..).trans (raiseInt_reads ..)).trans (errorTrigger_reads ..)

theorem countCE_reads (s : State) (page : Nat) : Reads s (countCE s page) := by
  unfold countCE
  split
  · dsimp only
    split
    · exact (((bumpSat_reads ..).trans (bumpSat_reads ..)).trans (raiseInt_reads ..)).trans (errorTrigger_reads ..)
    · exact (bumpSat_reads ..).trans (bumpSat_reads ..)
  · exact .refl s

theorem firstEvent_reads (s : State) (page off v : Nat) : Reads s (firstEvent s page off v) := by
  unfold firstEvent
  split
  · exact .refl s
  · exact (setReg_reads ..).trans (raiseInt_reads ..)

/-! ### Stacks, dies, granules and lines -/

theorem setStack_reads (s : State) (k : Nat) (f : Stack → Stack) : Reads s (s.setStack k f) := by
  refine ⟨?_, fun _ => rfl⟩
  constructor <;> try first | rfl | exact id
  simp only [State.sizesOk, State.setStack, modifyAt_length]
  exact id

theorem setFen_reads (s : State) (d : Nat) (f : FenDie → FenDie) : Reads s (s.setFen d f) := by
  refine ⟨?_, fun _ => rfl⟩
  constructor <;> try first | rfl | exact id
  simp only [State.sizesOk, State.setFen, modifyAt_length]
  exact id

theorem setDie_reads (s : State) (d : Nat) (f : DieState → DieState) : Reads s (s.setDie d f) := by
  refine ⟨?_, fun _ => rfl⟩
  constructor <;> try first | rfl | exact id
  simp only [State.sizesOk, State.setDie, modifyAt_length]
  exact id

theorem dev_reads (s : State) (x : DevPower) : Reads s { s with power := { s.power with dev := x } } := by
  refine ⟨?_, fun _ => rfl⟩
  constructor <;> first | rfl | exact id

theorem setGranule_reads (s : State) (k : Nat) (g : Gran) : Reads s (s.setGranule k g) := by
  refine ⟨?_, fun _ => rfl⟩
  constructor <;> try first | rfl | exact id
  intro h
  simp only [State.storesOk, Bool.and_eq_true] at h ⊢
  exact ⟨⟨⟨⟨⟨h.1.1.1.1.1, State.setGranule_wf s k g h.1.1.1.1.2⟩, h.1.1.1.2⟩, h.1.1.2⟩, h.1.2⟩, h.2⟩

theorem setFenLine_reads (s : State) (k : Nat) (l : FenLine) : Reads s (s.setFenLine k l) := by
  refine ⟨?_, fun _ => rfl⟩
  constructor <;> try first | rfl | exact id
  intro h
  simp only [State.storesOk, Bool.and_eq_true] at h ⊢
  exact ⟨⟨⟨⟨h.1.1.1.1, State.setFenLine_wf s k l h.1.1.1.2⟩, h.1.1.2⟩, h.1.2⟩, h.2⟩

theorem setFillBits_reads (s : State) (w : Nat) (b : WordBits) : Reads s (s.setFillBits w b) := by
  refine ⟨?_, fun _ => rfl⟩
  constructor <;> try first | rfl | exact id
  intro h
  simp only [State.storesOk, Bool.and_eq_true] at h ⊢
  exact ⟨⟨⟨h.1.1.1, State.setFillBits_wf s w b h.1.1.2⟩, h.1.2⟩, h.2⟩

theorem memPut_access (s : State) (a : Nat) (bs : List Byte) : Access s { s with mem := memPut s.mem a bs } := by
  constructor <;> try first | rfl | exact id
  intro h
  simp only [State.storesOk, Bool.and_eq_true] at h ⊢
  exact ⟨⟨⟨⟨⟨⟨memPut_wf h.1.1.1.1.1.1, h.1.1.1.1.1.2⟩, h.1.1.1.1.2⟩, h.1.1.1.2⟩, h.1.1.2⟩, h.1.2⟩, h.2⟩

theorem wakeDieBy_reads (s : State) (d src : Nat) : Reads s (wakeDieBy s d src) := by
  unfold wakeDieBy
  split
  · dsimp only
    split
    · exact (((setDie_reads ..).trans (bump_reads ..)).trans (setReg_reads ..)).trans (dev_reads _ _)
    · exact ((setDie_reads ..).trans (bump_reads ..)).trans (setReg_reads ..)
  · exact setDie_reads ..
  · exact setDie_reads ..

theorem touchDie_reads (s : State) (d : Nat) : Reads s (touchDie s d) := wakeDieBy_reads ..

theorem chargeDie_reads (s : State) (k die : Nat) : Reads s (chargeDie s k die) := by
  unfold chargeDie
  exact setStack_reads ..

theorem granCE_reads (s : State) (k g m : Nat) (scrub : Bool) : Reads s (granCE s k g m scrub) := by
  unfold granCE
  exact ((countCE_reads ..).trans (chargeDie_reads ..)).trans (firstEvent_reads ..)

theorem granUE_reads (s : State) (k g : Nat) (scrub fillmap rmw : Bool) : Reads s (granUE s k g scrub fillmap rmw) := by
  unfold granUE
  exact (countUE_reads ..).trans (firstEvent_reads ..)

theorem foldl_reads {α : Type} (f : State → α → State) (hf : ∀ s a, Reads s (f s a)) (l : List α) (s : State) :
    Reads s (l.foldl f s) := by
  induction l generalizing s with
  | nil => exact .refl s
  | cons a t ih => exact (hf s a).trans (ih _)

/-- Checking a fill-map word changes no byte of memory. -/
theorem fillWord_reads (s : State) (k g : Nat) (scrub : Bool) : Reads s (fillWord s k g scrub).1 := by
  unfold fillWord
  dsimp only
  split
  · exact .refl s
  · exact (setFillBits_reads ..).trans (countCE_reads ..)
  · exact ((setFillBits_reads ..).trans (foldl_reads _ (fun s i => setGranule_reads ..) _ _)).trans (granUE_reads ..)

theorem strike_reads (s : State) (k : Nat) (h : HbmHits) : Reads s (strike s k h) := by
  unfold strike
  have hs : ∀ s p, Reads s (strikeSym k s p) := by
    intro s p
    unfold strikeSym
    dsimp only
    split
    · exact setGranule_reads ..
    · exact .refl s
  have hw : ∀ s p, Reads s (strikeWord k s p) := by
    intro s p
    unfold strikeWord
    dsimp only
    split
    · exact setFillBits_reads ..
    · exact .refl s
  have h0 := (foldl_reads _ hs h.syms s).trans (foldl_reads _ hw h.words _)
  have hb : ∀ (s : State) (n k : Nat), Reads s (if n = 0 then s else bump s k n) := by
    intro s n k
    split
    · exact .refl s
    · exact bump_reads ..
  exact (h0.trans (hb _ _ _)).trans (hb _ _ _)

/-- Reading a granule changes no byte of memory. -/
theorem granData_reads (s : State) (k g : Nat) (scrub rmw : Bool) : Reads s (granData s k g scrub rmw).1 := by
  unfold granData
  dsimp only
  split
  · exact .refl s
  · exact .refl s
  · split
    · exact .refl s
    · exact granCE_reads ..
    · exact (setGranule_reads ..).trans (granUE_reads ..)

theorem granRead_reads (s : State) (k g : Nat) : Reads s (granRead s k g).1 := by
  have h := fillWord_reads s k g false
  unfold granRead
  split <;> rename_i e <;> rw [e] at h
  · exact h
  · exact h.trans (granData_reads ..)

theorem granStore_access (s : State) (k g : Nat) (data : List Byte) (poison : Bool) : Access s (granStore s k g data poison) := by
  unfold granStore
  split
  · exact (setGranule_reads ..).toAccess
  · exact (setGranule_reads ..).toAccess.trans (memPut_access (s.setGranule _ _) _ _)

theorem granPatch_access (s : State) (k g b : Nat) (data : List Byte) (poison : Bool) :
    Access s (granPatch s k g b data poison).1 := by
  unfold granPatch
  split
  · exact (bump_reads ..).toAccess.trans (granStore_access ..)
  · exact .refl s
  · dsimp only
    have h := (bump_reads s (pgHbmc k + 0x470) 1).trans (granData_reads (bump s (pgHbmc k + 0x470) 1) k g false true)
    split <;> rename_i e <;> rw [e] at h
    · exact h.toAccess.trans (granStore_access ..)
    · exact h.toAccess

theorem granWrite_access (s : State) (k g b : Nat) (data : List Byte) (poison : Bool) : Access s (granWrite s k g b data poison).1 := by
  have h := (fillWord_reads s k g false).toAccess
  unfold granWrite
  dsimp only
  split
  · exact h.trans (granStore_access ..)
  · split
    · exact h
    · exact h.trans (granPatch_access ..)

theorem granDiscard_access (s : State) (k g : Nat) : Access s (granDiscard s k g) := by
  unfold granDiscard
  have h := (fillWord_reads s k g false).trans (bump_reads _ (pgHbmc k + 0x480) 1)
  generalize List.replicate 256 (0 : Byte) = zeros
  dsimp only
  generalize bump (fillWord s k g false).1 (pgHbmc k + 0x480) 1 = u at h ⊢
  exact (h.trans (setGranule_reads u _ {})).toAccess.trans (memPut_access (u.setGranule _ {}) _ zeros)

theorem fenStrike_reads (s : State) (d line : Nat) (e : LineErr) : Reads s (fenStrike s d line e) := by
  unfold fenStrike
  split <;> try split
  all_goals first | exact .refl s | exact setFenLine_reads ..

theorem fenCE_reads (s : State) (d line : Nat) : Reads s (fenCE s d line) := by
  unfold fenCE
  exact ((setFen_reads ..).trans (countCE_reads ..)).trans (bumpSat_reads ..)

theorem fenUE_reads (s : State) (d line : Nat) : Reads s (fenUE s d line) := by
  unfold fenUE noteLayer
  exact (((setFenLine_reads ..).trans (setFen_reads ..)).trans (countUE_reads ..)).trans (firstEvent_reads ..)

theorem fenCheck_reads (s : State) (d line : Nat) : Reads s (fenCheck s d line).1 := by
  unfold fenCheck
  split
  · exact .refl s
  · exact fenCE_reads ..
  · exact fenUE_reads ..
  · exact .refl s

theorem fenPatch_access (s : State) (d line b : Nat) (data : List Byte) (poison : Bool) :
    Access s (fenPatch s d line b data poison).1 := by
  unfold fenPatch
  dsimp only
  split
  · split
    · exact (setFenLine_reads ..).toAccess
    · exact (setFenLine_reads ..).toAccess.trans (memPut_access (s.setFenLine _ _) _ _)
  · have h := (bump_reads s (pgFen d + 0x430) 1).trans (fenCheck_reads (bump s (pgFen d + 0x430) 1) d line)
    split <;> rename_i e <;> rw [e] at h
    · exact h.toAccess
    · split
      · exact (h.trans (setFenLine_reads ..)).toAccess
      · exact (h.trans (setFenLine_reads ..)).toAccess.trans (memPut_access (State.setFenLine _ _ _) _ _)

/-! ### The host cores' cache -/

/-- A sector that gains no dirty line keeps the cache clean. -/
theorem putSector_reads (s : State) (x : CacheSector) (hx : s.clean = true → x.dirty = []) : Reads s (s.putSector x) := by
  refine ⟨?_, fun _ => rfl⟩
  constructor <;> try first | rfl | exact id
  intro h
  have hd := hx h
  simp only [State.clean, State.putSector, List.all_append, List.all_filter, Bool.and_eq_true] at h ⊢
  refine ⟨?_, ?_⟩
  · rw [List.all_eq_true] at h ⊢
    intro y hy
    simp [h y hy]
  · split
    · rfl
    · simp [hd]

theorem clean_sector {s : State} (h : s.clean = true) {x : CacheSector} (hx : x ∈ s.host.cache) : x.dirty = [] := by
  simpa using List.all_eq_true.1 h x hx

theorem cleanSector_access (s : State) (x : CacheSector) : Access s (cleanSector s x) := by
  unfold cleanSector
  have h := (putSector_reads s { x with dirty := [] } fun _ => rfl).toAccess
  dsimp only
  generalize s.putSector { x with dirty := [] } = u at h ⊢
  have hf : ∀ (f : State → Nat → State) (_ : ∀ s l, Access s (f s l)) (l : List Nat) (u : State), Access u (l.foldl f u) := by
    intro f hf l
    induction l with
    | nil => exact fun u => .refl u
    | cons a t ih => exact fun u => (hf u a).trans (ih _)
  split
  · exact h
  · split
    · split
      · exact h
      · split
        · exact h.trans (granWrite_access ..)
        · exact h.trans (hf _ (fun s l => granWrite_access ..) _ u)
    · split
      · exact h
      · exact h.trans (hf _ (fun s l => fenPatch_access ..) _ u)
    · exact h

/-- With nothing to write back, a sector that is cleaned changes no byte of memory. -/
theorem cleanSector_mem (s : State) (x : CacheSector) (hx : x.dirty = []) : (cleanSector s x).mem = s.mem := by
  simp [cleanSector, hx]

/-- What a snoop can do: a read of a clean cache writes nothing back. -/
theorem snoop_access (s : State) (a n : Nat) (write device : Bool) : Access s (snoop s a n write device) := by
  unfold snoop
  split
  · exact .refl s
  · rename_i o x e
    dsimp only
    split
    · exact .refl s
    · have h1 : Access s (if device = true then bump s (pgHost + 0x440) 1 else s) := by
        split
        · exact (bump_reads ..).toAccess
        · exact .refl s
      generalize (if device = true then bump s (pgHost + 0x440) 1 else s) = u at h1 ⊢
      have h2 : Access u (if (x.dirty.any fun l => (linesOf o n).contains l && !(write && covers o n l)) = true
          then cleanSector u x else u) := by
        split
        · exact cleanSector_access ..
        · exact .refl u
      generalize (if (x.dirty.any fun l => (linesOf o n).contains l && !(write && covers o n l)) = true
          then cleanSector u x else u) = v at h2 ⊢
      split
      · refine (h1.trans h2).trans (putSector_reads v _ fun hc => ?_).toAccess
        have hd : (v.sector x.ix).dirty = [] := by
          unfold State.sector
          cases hf : v.host.cache.find? (·.ix == x.ix) with
          | none => rfl
          | some y => exact clean_sector hc (List.mem_of_find?_eq_some hf)
        simp [hd]
      · exact h1.trans h2

theorem snoop_mem (s : State) (a n : Nat) (write device : Bool) (hc : s.clean = true) : (snoop s a n write device).mem = s.mem := by
  unfold snoop
  split
  · rfl
  · rename_i o x e
    have hx : x.dirty = [] := by
      obtain ⟨key, _, h⟩ := Option.bind_eq_some_iff.1 e
      obtain ⟨y, hy, hp⟩ := Option.map_eq_some_iff.1 h
      cases hp
      exact clean_sector hc (List.mem_of_find?_eq_some hy)
    dsimp only
    split
    · rfl
    · have hb : ∀ b : Bool, (if b = true then bump s (pgHost + 0x440) 1 else s).mem = s.mem := by
        intro b
        split
        · exact (bump_reads s (pgHost + 0x440) 1).mem hc
        · rfl
      cases write <;> simp [hx, hb, State.putSector]

theorem snoop_reads (s : State) (a n : Nat) (write device : Bool) : Reads s (snoop s a n write device) :=
  ⟨snoop_access .., snoop_mem s a n write device⟩

/-! ### Device memory -/

/-- A piece that is read changes no byte of memory, but for what a dirty line of a host core's cache writes back. -/
theorem readPiece_reads (s : State) (a w : Nat) : Reads s (readPiece s a w).1 := by
  unfold readPiece
  split
  · rename_i k o _
    dsimp only
    have h0 := (touchDie_reads s (k / 3)).trans (snoop_reads _ a w false true)
    generalize snoop (touchDie s (k / 3)) a w false true = u at h0 ⊢
    split
    · have h := h0.trans (granRead_reads u k (o / 256))
      split <;> rename_i e <;> rw [e] at h <;> exact h
    · exact h0
  · rename_i d o _
    dsimp only
    have h0 := (touchDie_reads s d).trans (snoop_reads _ a w false true)
    generalize snoop (touchDie s d) a w false true = u at h0 ⊢
    split
    · have h := h0.trans (fenCheck_reads u d (o / 64))
      split <;> rename_i e <;> rw [e] at h <;> exact h
    · exact h0
  · exact .refl s

theorem writePiece_access (s : State) (a : Nat) (data : List Byte) (poison : Bool) : Access s (writePiece s a data poison).1 := by
  unfold writePiece
  split
  · rename_i k o _
    dsimp only
    have h0 := ((touchDie_reads s (k / 3)).trans (snoop_reads _ a data.length true true)).toAccess
    generalize snoop (touchDie s (k / 3)) a data.length true true = u at h0 ⊢
    split
    · exact h0.trans (granWrite_access ..)
    · exact h0
  · rename_i d o _
    dsimp only
    have h0 := ((touchDie_reads s d).trans (snoop_reads _ a data.length true true)).toAccess
    generalize snoop (touchDie s d) a data.length true true = u at h0 ⊢
    split
    · exact h0.trans (fenPatch_access ..)
    · exact h0
  · exact .refl s

theorem discardPiece_access (s : State) (a w : Nat) : Access s (discardPiece s a w).1 := by
  unfold discardPiece
  generalize List.replicate w (0 : Byte) = zeros
  split
  · rename_i k o _
    dsimp only
    have h0 := ((touchDie_reads s (k / 3)).trans (snoop_reads _ a w true true)).toAccess
    generalize snoop (touchDie s (k / 3)) a w true true = u at h0 ⊢
    split
    · split
      · exact h0.trans (granDiscard_access ..)
      · exact h0.trans (granWrite_access ..)
    · exact h0
  · exact writePiece_access ..
  · exact .refl s

/-- A fold whose steps each keep a frame keeps it. -/
theorem foldl_frame {α β : Type} {R : State → State → Prop} (hr : ∀ s, R s s) (ht : ∀ {s t u}, R s t → R t u → R s u)
    (f : State × β → α → State × β) (hf : ∀ r a, R r.1 (f r a).1) (l : List α) (r : State × β) : R r.1 (l.foldl f r).1 := by
  induction l generalizing r with
  | nil => exact hr _
  | cons a t ih => exact ht (hf r a) (ih _)

/-- A read of device memory changes no byte of it, but for what a dirty line writes back. -/
theorem devRead_reads (s : State) (a n : Nat) : Reads s (devRead s a n).1 := by
  unfold devRead
  refine foldl_frame Reads.refl Reads.trans _ (fun r p => ?_) (piecesOf a n) (s, (.ok [] : Except MemErr (List Byte)))
  obtain ⟨t, e⟩ := r
  cases e with
  | error e => exact .refl t
  | ok bs =>
    have h := readPiece_reads t p.1 p.2
    dsimp only
    split <;> rename_i e <;> rw [e] at h <;> exact h

theorem devWriteP_access (s : State) (a : Nat) (data : List Byte) (poison : Bool) : Access s (devWriteP s a data poison).1 := by
  unfold devWriteP
  refine foldl_frame Access.refl Access.trans _ (fun r p => ?_) (piecesOf a data.length) (s, (none : Option MemErr))
  exact writePiece_access ..

theorem devWrite_access (s : State) (a : Nat) (data : List Byte) : Access s (devWrite s a data).1 := devWriteP_access ..

theorem devDiscard_access (s : State) (a n : Nat) : Access s (devDiscard s a n).1 := by
  unfold devDiscard
  refine foldl_frame Access.refl Access.trans _ (fun r p => ?_) (piecesOf a n) (s, (none : Option MemErr))
  exact discardPiece_access ..

theorem read64_reads (s : State) (a : Nat) : Reads s (read64 s a).1 := by
  have h := devRead_reads s a 8
  unfold read64
  split <;> rename_i e <;> rw [e] at h <;> exact h

theorem write64_access (s : State) (a v : Nat) : Access s (write64 s a v).1 := devWrite_access ..

end Sys2Proof.Machine
end

