-- ==== Sys2Proof/Laws/Hash.lean ====
section
/-! SUPPORT. Lengths of SHAKE256 digests. -/

namespace Sys2Proof.Machine

theorem keccakRound_length (a : List Nat) (rc : Nat) : (keccakRound a rc).length = 25 := by simp [keccakRound]

theorem keccakF_length (a : List Nat) : (keccakF a).length = 25 := by
  have h : keccakF a = keccakRound ((keccakRC.dropLast).foldl keccakRound a) (keccakRC.getLastD 0) := rfl
  rw [h, keccakRound_length]

theorem absorb_length (l : List (List Byte)) (a : List Nat) (h : a.length = 25) : (l.foldl absorbBlock a).length = 25 := by
  induction l generalizing a with
  | nil => exact h
  | cons b t ih => exact ih _ (by simp only [absorbBlock]; exact keccakF_length _)

theorem natLE_length (n v : Nat) : (natLE n v).length = n := by
  induction n generalizing v with
  | zero => rfl
  | succ n ih => simp [natLE, ih]

/-- A digest of at most 136 bytes has the length asked for. -/
theorem shake256_length (bs : List Byte) (n : Nat) (hn : n < 136) : (shake256 bs n).length = n := by
  have h0 : n / 136 = 0 := Nat.div_eq_of_lt hn
  have hl : ∀ l : List Nat, (l.flatMap (natLE 8)).length = 8 * l.length := by
    intro l
    induction l with
    | nil => rfl
    | cons a t ih => simp [List.flatMap_cons, natLE_length, ih]; omega
  have ha := absorb_length (chunksN 136 ((shakePad bs).length / 136) (shakePad bs)) (List.replicate 25 0) (by simp)
  simp only [shake256, h0, squeeze, List.length_take, List.length_append, hl, ha, List.length_nil]
  omega

end Sys2Proof.Machine
end

