-- ==== Sys2Proof/Laws/PerInstr.lean ====
section
/-! SUPPORT. A statement of every command: no word spells it, since the table of operations gives its row no bits. -/

namespace Sys2Proof.Laws.NoWord

open Sys2Proof

/-- No word spells the command, with whatever operands it carries. -/
def Statement (i : Instr) : Prop := ∀ nbits w : Nat, decodeTableWord nbits w ≠ some i

theorem slotClaim (slot : Nat) (tag : Nat) : Statement (.slotClaim slot tag) := fun _ _ h => nomatch h
theorem watchObserve (ring : RingRef) : Statement (.watchObserve ring) := fun _ _ h => nomatch h
theorem openSession (slot : Nat) : Statement (.openSession slot) := fun _ _ h => nomatch h
theorem closeSession (slot : Nat) : Statement (.closeSession slot) := fun _ _ h => nomatch h
theorem openStream (slot : Nat) : Statement (.openStream slot) := fun _ _ h => nomatch h
theorem bindPlan (slot : Nat) (peers : List PeerAnswer) : Statement (.bindPlan slot peers) := fun _ _ h => nomatch h
theorem peerSessionClose (session peer : Nat) : Statement (.peerSessionClose session peer) := fun _ _ h => nomatch h
theorem run (slot : Nat) : Statement (.run slot) := fun _ _ h => nomatch h
theorem pause (slot : Nat) : Statement (.pause slot) := fun _ _ h => nomatch h
theorem resume (slot : Nat) : Statement (.resume slot) := fun _ _ h => nomatch h
theorem drain (slot : Nat) : Statement (.drain slot) := fun _ _ h => nomatch h
theorem resetStream (slot : Nat) : Statement (.resetStream slot) := fun _ _ h => nomatch h
theorem closeStream (slot : Nat) : Statement (.closeStream slot) := fun _ _ h => nomatch h
theorem submitBatch (stream : Nat) : Statement (.submitBatch stream) := fun _ _ h => nomatch h
theorem rearm (stream : Nat) : Statement (.rearm stream) := fun _ _ h => nomatch h
theorem shadowPromote (stream slotIx : Nat) : Statement (.shadowPromote stream slotIx) := fun _ _ h => nomatch h
theorem halt (slot : Nat) : Statement (.halt slot) := fun _ _ h => nomatch h
theorem snapshot (slot : Nat) : Statement (.snapshot slot) := fun _ _ h => nomatch h
theorem attest (slot : Nat) : Statement (.attest slot) := fun _ _ h => nomatch h
theorem quoteSign : Statement (.quoteSign) := fun _ _ h => nomatch h
theorem slotReclaim (who : Agent) (value : Word) : Statement (.slotReclaim who value) := fun _ _ h => nomatch h
theorem completionPost (ring : CompRef) : Statement (.completionPost ring) := fun _ _ h => nomatch h
theorem deliveryRetry (ring : CompRef) : Statement (.deliveryRetry ring) := fun _ _ h => nomatch h
theorem batchStart (stream staging : Nat) : Statement (.batchStart stream staging) := fun _ _ h => nomatch h
theorem stageIssue (stream batch stage : Nat) (units : List Nat) : Statement (.stageIssue stream batch stage units) := fun _ _ h => nomatch h
theorem stageFinish (stream batch stage : Nat) (fault : StageFault) : Statement (.stageFinish stream batch stage fault) := fun _ _ h => nomatch h
theorem commitPoint (stream : Nat) : Statement (.commitPoint stream) := fun _ _ h => nomatch h
theorem deadlineExpiry (stream batch : Nat) : Statement (.deadlineExpiry stream batch) := fun _ _ h => nomatch h
theorem stageTimeout (stream batch stage : Nat) : Statement (.stageTimeout stream batch stage) := fun _ _ h => nomatch h
theorem lateArrival (stream batch stage : Nat) : Statement (.lateArrival stream batch stage) := fun _ _ h => nomatch h
theorem recordArrival (stream slotIx : Nat) (origin data : List Byte) (last : Bool) : Statement (.recordArrival stream slotIx origin data last) := fun _ _ h => nomatch h
theorem stallTimerExpiry (stream slotIx : Nat) : Statement (.stallTimerExpiry stream slotIx) := fun _ _ h => nomatch h
theorem weirGrant (tile stream blocks : Nat) : Statement (.weirGrant tile stream blocks) := fun _ _ h => nomatch h
theorem waitGraphCheck : Statement (.waitGraphCheck) := fun _ _ h => nomatch h
theorem spillBlockWritten (tile stream : Nat) : Statement (.spillBlockWritten tile stream) := fun _ _ h => nomatch h
theorem sloughRestore (tile stream : Nat) : Statement (.sloughRestore tile stream) := fun _ _ h => nomatch h
theorem mergeGroupIssue (tile group : Nat) : Statement (.mergeGroupIssue tile group) := fun _ _ h => nomatch h
theorem creditReturn (credit : Credit) (held : Nat) : Statement (.creditReturn credit held) := fun _ _ h => nomatch h
theorem granuleRead (who : Agent) (addr : Nat) (hits : HbmHits) (ev : CacheEvent) : Statement (.granuleRead who addr hits ev) := fun _ _ h => nomatch h
theorem granuleFullWrite (who : Agent) (addr : Nat) (data : List Byte) (poison : Bool) (hits : HbmHits) (ev : CacheEvent) : Statement (.granuleFullWrite who addr data poison hits ev) := fun _ _ h => nomatch h
theorem granulePartialWrite (who : Agent) (addr : Nat) (data : List Byte) (poison : Bool) (hits : HbmHits) (ev : CacheEvent) : Statement (.granulePartialWrite who addr data poison hits ev) := fun _ _ h => nomatch h
theorem scrubVisit (stack granule : Nat) (hits : HbmHits) (raced : Bool) : Statement (.scrubVisit stack granule hits raced) := fun _ _ h => nomatch h
theorem scrubPassStart (stack : Nat) : Statement (.scrubPassStart stack) := fun _ _ h => nomatch h
theorem dieMark (who : Agent) (stack : Nat) (value : Word) : Statement (.dieMark who stack value) := fun _ _ h => nomatch h
theorem hbmTrainingEnd (stack : Nat) (result : TrainResult) : Statement (.hbmTrainingEnd stack result) := fun _ _ h => nomatch h
theorem fenLineRead (who : Agent) (addr : Nat) (err : LineErr) (ev : CacheEvent) : Statement (.fenLineRead who addr err ev) := fun _ _ h => nomatch h
theorem fenLineWrite (who : Agent) (addr : Nat) (data : List Byte) (poison : Bool) (err : LineErr) (ev : CacheEvent) : Statement (.fenLineWrite who addr data poison err ev) := fun _ _ h => nomatch h
theorem fenSweepEnd (die ticks : Nat) : Statement (.fenSweepEnd die ticks) := fun _ _ h => nomatch h
theorem fenSpare (who : Agent) (die : Nat) (value : Word) : Statement (.fenSpare who die value) := fun _ _ h => nomatch h
theorem fenSpareCopyEnd (die : Nat) : Statement (.fenSpareCopyEnd die) := fun _ _ h => nomatch h
theorem fenScrubVisit (die line : Nat) (err : LineErr) (raced : Bool) : Statement (.fenScrubVisit die line err raced) := fun _ _ h => nomatch h
theorem culvertWindow (stack : Nat) : Statement (.culvertWindow stack) := fun _ _ h => nomatch h
theorem decayStep (stack : Nat) : Statement (.decayStep stack) := fun _ _ h => nomatch h
theorem epochAdvance (stack table : Nat) : Statement (.epochAdvance stack table) := fun _ _ h => nomatch h
theorem epoch (die : Nat) : Statement (.epoch die) := fun _ _ h => nomatch h
theorem replicaSlotFree (stack table : Nat) : Statement (.replicaSlotFree stack table) := fun _ _ h => nomatch h
theorem sketchClear (who : Agent) (stack : Nat) (value : Word) : Statement (.sketchClear who stack value) := fun _ _ h => nomatch h
theorem hummockHbmWrite (who : Agent) (stack : Nat) (value : Word) : Statement (.hummockHbmWrite who stack value) := fun _ _ h => nomatch h
theorem hummockFenWrite (who : Agent) (stack : Nat) (value : Word) : Statement (.hummockFenWrite who stack value) := fun _ _ h => nomatch h
theorem switchReservation (table : Nat) : Statement (.switchReservation table) := fun _ _ h => nomatch h
theorem switchTargetReady (table : Nat) : Statement (.switchTargetReady table) := fun _ _ h => nomatch h
theorem versionDrain (table : Nat) : Statement (.versionDrain table) := fun _ _ h => nomatch h
theorem searchKey (die : Nat) (decay : List RbDecay) (errs : List LineErr) : Statement (.searchKey die decay errs) := fun _ _ h => nomatch h
theorem updateVerifyDrain (die : Nat) : Statement (.updateVerifyDrain die) := fun _ _ h => nomatch h
theorem reedbedScrub (die : Nat) (decay : List RbDecay) : Statement (.reedbedScrub die decay) := fun _ _ h => nomatch h
theorem bankSpare (who : Agent) (die : Nat) (value : Word) : Statement (.bankSpare who die value) := fun _ _ h => nomatch h
theorem bankSpareFillEnd (die : Nat) : Statement (.bankSpareFillEnd die) := fun _ _ h => nomatch h
theorem ringStep (stream batch stage member waited : Nat) : Statement (.ringStep stream batch stage member waited) := fun _ _ h => nomatch h
theorem partialListMerge (stream batch stage row : Nat) : Statement (.partialListMerge stream batch stage row) := fun _ _ h => nomatch h
theorem haltMessage (unit : StopUnit) : Statement (.haltMessage unit) := fun _ _ h => nomatch h
theorem stopAck (unit : StopUnit) : Statement (.stopAck unit) := fun _ _ h => nomatch h
theorem streamStopDone (stream : Nat) : Statement (.streamStopDone stream) := fun _ _ h => nomatch h
theorem sluiceDrained : Statement (.sluiceDrained) := fun _ _ h => nomatch h
theorem weirEdge (tile stream : Nat) : Statement (.weirEdge tile stream) := fun _ _ h => nomatch h
theorem wake (unit : WakeUnit) : Statement (.wake unit) := fun _ _ h => nomatch h
theorem mcHaltGo (who : Agent) (value : Word) : Statement (.mcHaltGo who value) := fun _ _ h => nomatch h
theorem mcHaltRelease (who : Agent) (value : Word) : Statement (.mcHaltRelease who value) := fun _ _ h => nomatch h
theorem d2dReplay (link : Nat) (corrected : Bool) : Statement (.d2dReplay link corrected) := fun _ _ h => nomatch h
theorem d2dRetrain (link : Nat) (ok : Bool) : Statement (.d2dRetrain link ok) := fun _ _ h => nomatch h
theorem laneRepair (who : Agent) (link : Nat) (value : Word) : Statement (.laneRepair who link value) := fun _ _ h => nomatch h
theorem registerWrite (who : Agent) (addr : Nat) (value : Word) : Statement (.registerWrite who addr value) := fun _ _ h => nomatch h
theorem rcRead (who : Agent) (addr : Nat) : Statement (.rcRead who addr) := fun _ _ h => nomatch h
theorem busErrorAccess (who : Agent) (addr size : Nat) (write atomic : Bool) : Statement (.busErrorAccess who addr size write atomic) := fun _ _ h => nomatch h
theorem pgLock (who : Agent) (cls inst : Nat) (value : Word) : Statement (.pgLock who cls inst value) := fun _ _ h => nomatch h
theorem pgSoftReset (who : Agent) (cls inst : Nat) (value : Word) : Statement (.pgSoftReset who cls inst value) := fun _ _ h => nomatch h
theorem pgSoftResetEnd (cls inst : Nat) : Statement (.pgSoftResetEnd cls inst) := fun _ _ h => nomatch h
theorem pgEnable (who : Agent) (cls inst : Nat) (value : Word) : Statement (.pgEnable who cls inst value) := fun _ _ h => nomatch h
theorem pgPwrReq (who : Agent) (cls inst : Nat) (value : Word) : Statement (.pgPwrReq who cls inst value) := fun _ _ h => nomatch h
theorem bucketLeak (cls inst : Nat) : Statement (.bucketLeak cls inst) := fun _ _ h => nomatch h
theorem bucketConfigWrite (who : Agent) (cls inst : Nat) (value : Word) : Statement (.bucketConfigWrite who cls inst value) := fun _ _ h => nomatch h
theorem stillTrigger (who : Agent) (value : Word) : Statement (.stillTrigger who value) := fun _ _ h => nomatch h
theorem stillInEdge (highTicks : Nat) : Statement (.stillInEdge highTicks) := fun _ _ h => nomatch h
theorem stillTimerExpiry : Statement (.stillTimerExpiry) := fun _ _ h => nomatch h
theorem snapshotLatch (cls inst : Nat) : Statement (.snapshotLatch cls inst) := fun _ _ h => nomatch h
theorem mergeWindowClose : Statement (.mergeWindowClose) := fun _ _ h => nomatch h
theorem stillOutPulseEnd : Statement (.stillOutPulseEnd) := fun _ _ h => nomatch h
theorem refclkLoss : Statement (.refclkLoss) := fun _ _ h => nomatch h
theorem refclkReturn : Statement (.refclkReturn) := fun _ _ h => nomatch h
theorem powerSample (sample : PowerSample) : Statement (.powerSample sample) := fun _ _ h => nomatch h
theorem tileDoze (tile : Nat) : Statement (.tileDoze tile) := fun _ _ h => nomatch h
theorem tileNap (tile : Nat) : Statement (.tileNap tile) := fun _ _ h => nomatch h
theorem tileWake (tile : Nat) : Statement (.tileWake tile) := fun _ _ h => nomatch h
theorem dieMireEntry (die : Nat) : Statement (.dieMireEntry die) := fun _ _ h => nomatch h
theorem dieMireEntered (die : Nat) : Statement (.dieMireEntered die) := fun _ _ h => nomatch h
theorem dieWake (die source : Nat) : Statement (.dieWake die source) := fun _ _ h => nomatch h
theorem dieActive (die : Nat) : Statement (.dieActive die) := fun _ _ h => nomatch h
theorem deviceIdle : Statement (.deviceIdle) := fun _ _ h => nomatch h
theorem deviceMire : Statement (.deviceMire) := fun _ _ h => nomatch h
theorem standbyRequest (who : Agent) (value : Word) : Statement (.standbyRequest who value) := fun _ _ h => nomatch h
theorem vsb3v3Good : Statement (.vsb3v3Good) := fun _ _ h => nomatch h
theorem mossResetRelease : Statement (.mossResetRelease) := fun _ _ h => nomatch h
theorem bootSourceTimeout : Statement (.bootSourceTimeout) := fun _ _ h => nomatch h
theorem vsb3v3Loss : Statement (.vsb3v3Loss) := fun _ _ h => nomatch h
theorem vin50PowerGood (samples : List Nat) (test : SelfTest) : Statement (.vin50PowerGood samples test) := fun _ _ h => nomatch h
theorem firmwareLoad : Statement (.firmwareLoad) := fun _ _ h => nomatch h
theorem configureAndLock (config : ConfigBody) : Statement (.configureAndLock config) := fun _ _ h => nomatch h
theorem ready : Statement (.ready) := fun _ _ h => nomatch h
theorem vin50OutOfRange (cause : OffCause) : Statement (.vin50OutOfRange cause) := fun _ _ h => nomatch h
theorem offTimeEnd : Statement (.offTimeEnd) := fun _ _ h => nomatch h
theorem thermtrip (sensor reading : Nat) : Statement (.thermtrip sensor reading) := fun _ _ h => nomatch h
theorem thermtripClear (hottest : Nat) : Statement (.thermtripClear hottest) := fun _ _ h => nomatch h
theorem fieldSelfTest (die : Nat) (failedTiles : List Nat) : Statement (.fieldSelfTest die failedTiles) := fun _ _ h => nomatch h
theorem measExtend (who : Agent) (value : Word) : Statement (.measExtend who value) := fun _ _ h => nomatch h
theorem jtagUnlock (signer : Nat) (pubkey token : List Byte) : Statement (.jtagUnlock signer pubkey token) := fun _ _ h => nomatch h
theorem tallyRequest (path : TallyPath) (block : List Byte) (auditFails : Bool) : Statement (.tallyRequest path block auditFails) := fun _ _ h => nomatch h
theorem tallySlotVerify (ok auditFails : Bool) : Statement (.tallySlotVerify ok auditFails) := fun _ _ h => nomatch h
theorem tfWrite (who : Agent) (addr : Nat) (value : Word) : Statement (.tfWrite who addr value) := fun _ _ h => nomatch h
theorem peatRecordWrite (type_ : Nat) (payload : List Byte) (event : PeatEvent) : Statement (.peatRecordWrite type_ payload event) := fun _ _ h => nomatch h
theorem peatPatrol (corrected : List Nat) (unread : List (Nat × Nat)) : Statement (.peatPatrol corrected unread) := fun _ _ h => nomatch h
theorem hartStart (who : Agent) (value : Word) : Statement (.hartStart who value) := fun _ _ h => nomatch h
theorem coreWake (core : Nat) (irq : CoreIrq) : Statement (.coreWake core irq) := fun _ _ h => nomatch h
theorem frameReceive (port : Nat) (frame : Frame) : Statement (.frameReceive port frame) := fun _ _ h => nomatch h
theorem rdmaWrite (req : RdmaReq) : Statement (.rdmaWrite req) := fun _ _ h => nomatch h
theorem rdmaWriteWithImmediate (req : RdmaReq) : Statement (.rdmaWriteWithImmediate req) := fun _ _ h => nomatch h
theorem rdmaRead (req : RdmaReq) : Statement (.rdmaRead req) := fun _ _ h => nomatch h
theorem roceSend (req : RdmaReq) : Statement (.roceSend req) := fun _ _ h => nomatch h
theorem atomicCompareAndSwap (req : RdmaReq) (compare swap : Nat) : Statement (.atomicCompareAndSwap req compare swap) := fun _ _ h => nomatch h
theorem atomicFetchAndAdd (req : RdmaReq) (addend : Nat) : Statement (.atomicFetchAndAdd req addend) := fun _ _ h => nomatch h
theorem ackTimeout (port qp : Nat) : Statement (.ackTimeout port qp) := fun _ _ h => nomatch h
theorem nakReceived (port qp code : Nat) : Statement (.nakReceived port qp code) := fun _ _ h => nomatch h
theorem udpDatagram (port srcIp srcPort dstIp dstPort : Nat) (data : List Byte) : Statement (.udpDatagram port srcIp srcPort dstIp dstPort data) := fun _ _ h => nomatch h
theorem qpLoad (who : Agent) (port : Nat) (value : Word) : Statement (.qpLoad who port value) := fun _ _ h => nomatch h
theorem qpReset (who : Agent) (port : Nat) (value : Word) : Statement (.qpReset who port value) := fun _ _ h => nomatch h
theorem autonegRetry (port : Nat) : Statement (.autonegRetry port) := fun _ _ h => nomatch h
theorem ethLaneSpare (port lane : Nat) : Statement (.ethLaneSpare port lane) := fun _ _ h => nomatch h
theorem nvmeCompletion (queue status : Nat) (data : List Byte) : Statement (.nvmeCompletion queue status data) := fun _ _ h => nomatch h
theorem pcieWindowRead (offset len : Nat) (errs : LinkErrs) : Statement (.pcieWindowRead offset len errs) := fun _ _ h => nomatch h
theorem pcieWindowWrite (offset : Nat) (data : List Byte) (errs : LinkErrs) : Statement (.pcieWindowWrite offset data errs) := fun _ _ h => nomatch h
theorem pcieAtomicCas (size offset compare swap : Nat) : Statement (.pcieAtomicCas size offset compare swap) := fun _ _ h => nomatch h
theorem pcieAtomicFetchAdd (size offset addend : Nat) : Statement (.pcieAtomicFetchAdd size offset addend) := fun _ _ h => nomatch h
theorem recoveryMailboxWrite (offset value : Nat) : Statement (.recoveryMailboxWrite offset value) := fun _ _ h => nomatch h
theorem cfgDataAccess (who : Agent) (write : Bool) (value : Word) : Statement (.cfgDataAccess who write value) := fun _ _ h => nomatch h
theorem mmioDataAccess (who : Agent) (write : Bool) (value : Word) : Statement (.mmioDataAccess who write value) := fun _ _ h => nomatch h
theorem nvmeQueueEnable (who : Agent) (queue : Nat) (value : Word) : Statement (.nvmeQueueEnable who queue value) := fun _ _ h => nomatch h
theorem redfishHalt (role : Role) (scope target : Nat) (hold : Bool) : Statement (.redfishHalt role scope target hold) := fun _ _ h => nomatch h
theorem redfishAttestation (role : Role) (nonce : List Byte) (mask : Nat) : Statement (.redfishAttestation role nonce mask) := fun _ _ h => nomatch h
theorem redfishUpdate (role : Role) (type_ : Nat) (payload : List Byte) : Statement (.redfishUpdate role type_ payload) := fun _ _ h => nomatch h
theorem pldmFirmwareUpdate (component : Nat) (payload : List Byte) : Statement (.pldmFirmwareUpdate component payload) := fun _ _ h => nomatch h
theorem statusWord : Statement (.statusWord) := fun _ _ h => nomatch h
theorem readVin : Statement (.readVin) := fun _ _ h => nomatch h
theorem readIin : Statement (.readIin) := fun _ _ h => nomatch h
theorem readTemperature1 : Statement (.readTemperature1) := fun _ _ h => nomatch h
theorem readPin : Statement (.readPin) := fun _ _ h => nomatch h
theorem pmbusRevision : Statement (.pmbusRevision) := fun _ _ h => nomatch h
theorem wakeN (lowTicks : Nat) : Statement (.wakeN lowTicks) := fun _ _ h => nomatch h
theorem ethLinkUp (port mode : Nat) : Statement (.ethLinkUp port mode) := fun _ _ h => nomatch h
theorem ethLinkDown (port : Nat) : Statement (.ethLinkDown port) := fun _ _ h => nomatch h
theorem mgmtLinkUp (mode fec : Nat) : Statement (.mgmtLinkUp mode fec) := fun _ _ h => nomatch h
theorem mgmtLinkDown : Statement (.mgmtLinkDown) := fun _ _ h => nomatch h
theorem pcieLinkUp (port rate width : Nat) : Statement (.pcieLinkUp port rate width) := fun _ _ h => nomatch h
theorem pcieLinkDown (port : Nat) : Statement (.pcieLinkDown port) := fun _ _ h => nomatch h
theorem ackReceived (port qp : Nat) (data : List Byte) : Statement (.ackReceived port qp data) := fun _ _ h => nomatch h
theorem pwrokRelease : Statement (.pwrokRelease) := fun _ _ h => nomatch h
theorem boundaryScanExtest : Statement (.boundaryScanExtest) := fun _ _ h => nomatch h
theorem jtagDebugInstruction (op : DebugOp) : Statement (.jtagDebugInstruction op) := fun _ _ h => nomatch h
theorem msiXTableWrite (offset : Nat) (value : Word) : Statement (.msiXTableWrite offset value) := fun _ _ h => nomatch h
theorem inboundDeviceRequest (write : Bool) (addr : Nat) (data : List Byte) (errs : LinkErrs) : Statement (.inboundDeviceRequest write addr data errs) := fun _ _ h => nomatch h
theorem unsupportedPmbusCommand (command : Nat) : Statement (.unsupportedPmbusCommand command) := fun _ _ h => nomatch h
theorem gpioOutputDrive (role : Role) (pin : Nat) (level : Bool) : Statement (.gpioOutputDrive role pin level) := fun _ _ h => nomatch h

end Sys2Proof.Laws.NoWord
end

