-- ==== Sys2Proof/Laws/Records.lean ====
section
/-! SUPPORT. What becomes of bytes that arrive for a transfer slot: taken where the active descriptor has room, and met with
receiver-not-ready where there is none. -/

namespace Sys2Proof.Machine

/-- With no shadow descriptor there is nothing to promote. -/
theorem promote_no_shadow {s : State} {id k : Nat} {x : Stream} (hx : s.stream? id = some x) (hs : (x.slot k).shadow = none) :
    promote s id k = s := by
  simp [promote, hx, hs]

/-- The first bytes of a record that fits under the active descriptor are taken, whatever becomes of their store. -/
theorem arrive_taken {s : State} {id k : Nat} {x : Stream} {d : SlotDesc} (origin data : List Byte) (last : Bool)
    (hx : s.stream? id = some x) (ho : s.open? id = some x) (hs : (x.slot k).shadow = none) (hp : (x.slot k).part = none)
    (ha : (x.slot k).active = some d) (ht : takesRecords x = true) (hn : data.length ≤ 65536)
    (hr : placeAt (x.slot k) d + data.length ≤ landingBytes d) : (arrive s id k origin data last).2 = .taken := by
  have h1 : ¬ 65536 < data.length := by omega
  have h2 : ¬ landingBytes d < placeAt (x.slot k) d + data.length := by omega
  simp [arrive, hx, hp, promote_no_shadow hx hs, ho, ha, ht, h1, h2]

/-- With no active descriptor a record finds no space. -/
theorem arrive_noSpace {s : State} {id k : Nat} {x : Stream} (origin data : List Byte) (last : Bool)
    (hx : s.stream? id = some x) (ho : s.open? id = some x) (hs : (x.slot k).shadow = none)
    (ha : (x.slot k).active = none) : arrive s id k origin data last = (s, .noSpace) := by
  cases hp : (x.slot k).part <;> simp [arrive, hx, promote_no_shadow hx hs, ho, ha, hp]

end Sys2Proof.Machine
end

