-- ==== Sys2Proof/Tests/Slice0.lean ====
section
/-! SUPPORT. Tests: each check of WellFormed refuses an ill-formed term, no word spells a command, and for every statement with
hypotheses a state and operands that meet them together, with what one step makes of them. -/

namespace Sys2Proof.Tests

set_option Elab.async false

open Sys2Proof Sys2Proof.Machine

/-! ### Helpers -/

/-- The outcome is a next state of which a test holds. -/
def gives (o : Host.Outcome State Fault Refusal) (p : State → Bool) : Bool :=
  match o with
  | .next t => p t
  | _ => false

theorem pair_of {α β : Type} {x : α × β} {b : β} (h : x.2 = b) : x = (x.1, b) := by cases h; rfl

/-- A part in service: supplies good, every stack trained, every die ACTIVE, every tile in RUN, READY, every link up. -/
def base : State := { State.reset with
  tick := 10 ^ 12
  power := { vsbGood := true, mossUp := true, vinGood := true, pg := some 0, dev := .active }
  hbms := List.replicate 12 { trained := true }
  fens := List.replicate 4 { sweepDone := true }
  dies := List.replicate 4 { power := .active }
  tiles := List.replicate 52 { power := .run }
  trust := { mcRunning := true, ready := true, configured := true, fwLoaded := true, life := .owned, straps := 1 }
  fab := { linkUp := List.replicate 8 true } }
/-- Nothing befalls the system cache; AER reports nothing. -/
def quiet : CacheEvent := ⟨false, false⟩
def noErrs : LinkErrs := ⟨0, false⟩


/-- The part with a Sluice held. -/
def sHold : State := { base with fab := { base.fab with held := true } }
/-! ### Well-formed commands -/

/-- Each term names something the part has not. -/
def illFormed : List Instr :=
  [.slotClaim 64 1, .slotClaim 0 0, .slotClaim 0 (2 ^ 64), .openStream 64, .submitBatch 1024, .stageTimeout 0 0 64, .rearm 2000,
   .shadowPromote 0 16, .tileDoze 52, .scrubPassStart 12, .dieActive 4, .d2dRetrain 8 true, .ethLinkDown 4, .autonegRetry 5,
   .coreWake 34 (.mtimer 0), .coreWake 0 (.mtimer (2 ^ 64)), .coreWake 0 (.aplic 256), .coreWake 0 (.msi 9 0), .switchReservation 65536,
   .rcRead .host (2 ^ 44), .granuleRead .host 0 { syms := [(0, ⟨10, 0, 1⟩)] } quiet, .granuleRead .host 0 { syms := [(0, ⟨0, 32, 1⟩)] } quiet,
   .granuleRead .host 0 { syms := [(0, ⟨0, 0, 0⟩)] } quiet, .granuleRead .host 0 { syms := [(213909504, ⟨0, 0, 1⟩)] } quiet,
   .granuleRead .host 0 { words := [(6684672, false)] } quiet, .granuleFullWrite .host 0 [] false {} quiet,
   .granulePartialWrite .host 255 [0, 0] false {} quiet, .fenLineWrite .host 63 [0, 0] false .clean quiet, .pgLock .mc 5 12 0,
   .pgLock .mc 24 0 0, .stopAck (.defl 16), .haltMessage (.eth 4), .wake (.page 0 0), .fenScrubVisit 0 (2 ^ 27) .clean false,
   .powerSample ⟨0, 0, 0, 0, 0, [], [], 0⟩, .thermtrip 30 130, .busErrorAccess .host 0 0 false false, .busErrorAccess .host 0 9 false false,
   .creditReturn (.tile 52 .write) 0, .creditReturn (.culvert 0 12) 0, .creditReturn (.lane 336 0) 0, .creditReturn (.lane 0 5) 0,
   .ackTimeout 0 (2 ^ 24), .nakReceived 0 0 256, .atomicFetchAndAdd ⟨0, 0, true, 0, 0, 8, [], 0⟩ (2 ^ 64),
   .rdmaRead ⟨4, 0, true, 0, 0, 8, [], 0⟩, .udpDatagram 0 (2 ^ 32 * 2 ^ 96) 0 0 0 [], .pcieWindowRead 0 4097 noErrs,
   .pcieWindowWrite 0 [] noErrs, .pcieAtomicCas 2 0 0 0, .pcieAtomicFetchAdd 16 0 0, .msiXTableWrite 65536 0,
   .gpioOutputDrive .none 16 true, .nvmeCompletion 16 0 [], .redfishHalt .operator 3 0 false, .redfishAttestation .operator [] 0,
   .completionPost (.comp 1024), .watchObserve (.ctl 64), .hbmTrainingEnd 0 ⟨2, none, 0, [], some 16⟩, .ethLaneSpare 0 8, .dieWake 0 16]

theorem test_wellFormed_refuses : illFormed.all (fun c => !c.wf) = true := by decide +kernel
theorem test_wellFormed_admits : [Instr.slotClaim 63 1, .granuleRead .mc (2 ^ 44 - 1) { syms := [(213909503, ⟨9, 31, 255⟩)], words := [(6684671, true)] } quiet, .pgLock .host 5 11 0,
    .powerSample ⟨0, 0, 0, 0, 0, [1, 2, 3, 4], List.replicate 12 0, 0⟩, .coreWake 33 (.msi 8 2047), .tileDoze 51, .creditReturn (.lane 335 4) 0].all (·.wf) = true := by
  decide +kernel

/-- No row of the table has bits, so no word spells a command, and withFetchWord adds none. -/
theorem test_no_word (n w : Nat) : decodeTableWord n w = none ∧ base.withFetchWord n w = base := ⟨rfl, rfl⟩
theorem test_core : Sys2Proof.core.reset = State.reset := rfl

/-! ### Steps and ticks -/

theorem witness_IdleStepIsOneMossTick : base.sound = true ∧ base.pending = [] ∧ base.power.vsbGood = true ∧ mcIdle base = true
    ∧ (∀ t, t < 52 → base.mover t = {}) ∧ gives (step base) (fun t => t.tick == 10 ^ 12 + 1) = true := by decide +kernel
theorem witness_IdleStepIsOneMossTick_2 : State.reset.pending = [] ∧ State.reset.power.vsbGood = false
    ∧ gives (step State.reset) (fun t => t == State.reset) = true := by decide +kernel
theorem witness_step_next : gives (step base) (fun t => t.storesOk && t.sizesOk && Memory.wf t.mem
    && (t.fuses.life == base.fuses.life)) = true ∧ base.storesOk = true ∧ base.sizesOk = true ∧ Memory.wf base.mem = true := by
  decide +kernel
/-- Two wrong symbols of one slice, of data that is not all zeros. -/
def data256 : List Byte := (List.range 256).map fun i => BitVec.ofNat 8 (7 * i + i / 32)
theorem witness_SedgeCorrectsOneSlice : 9 < 10 ∧ data256.length = 256 ∧ (∀ e ∈ [(⟨9, 31, 255⟩ : SymErr), ⟨9, 0, 1⟩], e.m = 9 ∧ e.t < 32)
    ∧ decodeGran none 0 (syndromes data256 (sedgeCheck data256) [⟨9, 31, 255⟩, ⟨9, 0, 1⟩]) = .corrected 9 [⟨9, 0, 1⟩, ⟨9, 31, 255⟩] := by
  decide +kernel
/-- One wrong symbol in each of two slices of a code is not corrected (R96). -/
theorem test_sedge_two_slices :
    decodeGran none 0 (syndromes data256 (sedgeCheck data256) [⟨9, 31, 255⟩, ⟨2, 31, 1⟩]) = .uncorrectable := by decide +kernel
/-- The worked example of R94, for the interleaved address whose u, s and L it gives (log 95). -/
theorem test_worked_example_R94 : placeOf 0x12345567 = .hbm 9 0x1845567 ∧ granGroup 99413 = 388 ∧ granRow 99413 = 2 ∧ granC0 99413 = 4
    ∧ 0x1845567 = 256 * 99413 + 103 ∧ bytePlace 99413 103 = ⟨7, 1941, 679⟩ ∧ (posPlace 99413 4 0).die = 8 ∧ posPlace 99413 5 0 = ⟨9, 1941, 672⟩
    ∧ (posPlace 99413 5 31).byte = 703 := by decide +kernel

/-! ### Register space -/

/-- The address of a register by its key. -/
def ra (k : Nat) : Nat := 0xF0000000000 + k
/-- The word at 0x40 of tile 0's window. -/
def tileWord : Nat := 0x50000000040
/-- MARK_THRESH of stack 11. -/
def kPlain : Nat := pgHbmc 11 + 0x448
theorem witness_RegisterWriteByAccessCodes_1 : base.sound = true ∧ placeOf (ra kPlain) = .regs kPlain
    ∧ regGate base .mc kPlain = .through ∧ pageEn base (pageKey (keyCls kPlain) (keyInst kPlain)) = true
    ∧ (regRow? (keyCls kPlain) (keyOff kPlain)).map (·.own) = some false ∧ lentQueue base kPlain = false
    ∧ gives (exec (.registerWrite .mc (ra kPlain) 0x80000) base)
        (fun t => t.resp == .done && t.reg kPlain == writtenReg base kPlain 0x80000) = true := by decide +kernel
theorem witness_RegisterWriteByAccessCodes_2 : 63 < 64 ∧ (∀ f ∈ fieldsAt (keyCls kPlain) (keyOff kPlain), 63 < f.lo ∨ f.hi < 63)
    ∧ ∀ f ∈ fieldsAt (keyCls kPlain) (keyOff kPlain), f.lo ≤ f.hi ∧ f.hi < 64 := by decide +kernel
/-- RMW_CNT, a read-to-clear counter, with 5 in it. -/
def kRc : Nat := pgHbmc 0 + 0x470
def sRc : State := base.setReg kRc 5
theorem witness_RegisterReadsAndReadToClear : sRc.sound = true ∧ placeOf (ra kRc) = .regs kRc ∧ regGate sRc .host kRc = .through
    ∧ (regRow? (keyCls kRc) (keyOff kRc)).map (·.rc) = some true
    ∧ pageEn sRc (pageKey (keyCls kRc) (keyInst kRc)) = true
    ∧ gives (exec (.rcRead .host (ra kRc)) sRc) (fun t => t.resp == .word 5 && t.reg kRc == 0) = true := by decide +kernel
theorem witness_RegisterReadsAndReadToClear_2 : (regRow? (keyCls kPlain) (keyOff kPlain)).map (·.rc) = some false
    ∧ regGate base .host kPlain = .through := by decide +kernel
theorem witness_NarrowAccessIsBusError : placeOf (ra (kPlain + 4)) = .regs (kPlain + 4) ∧ ra (kPlain + 4) % 8 ≠ 0
    ∧ [(.host, 4, false), (.mc, 8, false), (.host, 8, true)].all (fun a : Agent × Nat × Bool =>
        gives (exec (.busErrorAccess a.1 (ra (kPlain + 4)) a.2.1 true a.2.2) base) (fun t => t == { base with resp := .busError })) = true := by
  decide +kernel
theorem witness_NarrowAccessIsBusError_2 : placeOf 0xE0000000000 = .unbacked
    ∧ gives (exec (.busErrorAccess .mc 0xE0000000000 8 false false) base) (fun t => t == { base with resp := .busError }) = true := by
  decide +kernel
/-- A word of tile 0's SRAM. -/
theorem witness_RegisterWriteByAccessCodes_3 : placeOf tileWord = .tile 0 64 ∧ tileWord % 8 = 0 ∧ (base.tile 0).enabled = true
    ∧ (base.tile 0).power = .run ∧ (base.die 0).power = .active
    ∧ gives (exec (.registerWrite .host tileWord 0x1122334455667788) base) (fun u => u.resp == .done
        && gives (exec (.rcRead .mc tileWord) u) (fun w => w.resp == .word 0x1122334455667788)) = true := by decide +kernel
/-- A page of stack 11: written, locked, busy with a soft reset. -/
def kPg : Nat := pageKey 5 11
def sBusy : State := { base with srst := [kPg] }
theorem witness_PageControlAndSoftReset_1 : base.sound = true ∧ okPage 5 11 = true ∧ regGate base .mc (rk 5 11 0x10) = .through
    ∧ bit 0x8000000000000000 63 = true ∧ bit 2 1 = true ∧ pageBusy base kPg = false ∧ pageLocked base kPg = false ∧ fld 0x10 5 4 ≤ 1
    ∧ gives (exec (.pgLock .mc 5 11 0x8000000000000000) base) (fun t => pageLocked t kPg) = true
    ∧ gives (exec (.pgSoftReset .mc 5 11 3) base) (fun t => t.srst == [kPg]) = true
    ∧ gives (exec (.pgEnable .mc 5 11 0) base) (fun t => !pageEn t kPg) = true
    ∧ gives (exec (.pgPwrReq .mc 5 11 0x11) base) (fun t => t.rfld (kPg + 0x10) 5 4 == 1) = true := by decide +kernel
theorem witness_PageControlAndSoftReset_2 : sBusy.sound = true ∧ regGate sBusy .mc (rk 5 11 0x10) = .through
    ∧ pageBusy sBusy kPg = true ∧ bit 0 0 = false ∧ gives (exec (.pgEnable .mc 5 11 0) sBusy) (fun t => pageEn t kPg) = true := by
  decide +kernel
theorem witness_PageControlAndSoftReset_3 : sBusy.sound = true ∧ okPage 5 11 = true ∧ pageKey 5 11 ∈ sBusy.srst
    ∧ pageLocked sBusy kPg = false
    ∧ gives (exec (.pgSoftResetEnd 5 11) sBusy) (fun t => t.srst == [] && t.reg kPlain == regReset kPlain) = true := by decide +kernel
/-- A level of 3 in the bucket of stack 0. -/
def sBkt : State := base.setRfld (pageKey 5 0 + 0x50) 15 0 3
theorem witness_LeakyBucketLeaksAndRestarts : sBkt.sound = true ∧ okPage 5 0 = true ∧ hasBucket 5 = true
    ∧ leakFrom sBkt (pageKey 5 0) + sBkt.rfld (pageKey 5 0 + 0x48) 47 32 * 25000 ≤ sBkt.tick
    ∧ regGate sBkt .mc (rk 5 0 0x48) = .through ∧ 1 ≤ fld 0xEA6000000010 15 0 ∧ fld 0xEA6000000010 47 32 = 60000
    ∧ gives (exec (.bucketLeak 5 0) sBkt) (fun t => t.rfld (pageKey 5 0 + 0x50) 15 0 == 2) = true
    ∧ gives (exec (.bucketConfigWrite .mc 5 0 0xEA6000000010) sBkt) (fun t => t.rfld (pageKey 5 0 + 0x48) 47 32 == 60000
        && t.rfld (pageKey 5 0 + 0x50) 15 0 == 0 && leakFrom t (pageKey 5 0) == t.tick) = true := by decide +kernel

/-! ### Stillwater, clocks and power -/

/-- IN_EN 1 and a period of 25000 ticks from tick 0. -/
def sStill : State := (base.setReg (pgStill + 0x408) 1).setReg (pgStill + 0x418) 25000
theorem witness_SnapshotTriggersAndWindows_1 : sStill.sound = true ∧ sStill.power.mossUp = true ∧ (Agent.host ≠ .unit)
    ∧ bit 0x8000000000000000 63 = true ∧ pageEn sStill pgStill = true ∧ 2 ≤ 2 ∧ sStill.power.scanned = false
    ∧ bit (sStill.reg (pgStill + 0x408)) 0 = true ∧ sStill.rfld (pgStill + 0x440) 31 0 + 1 < 2 ^ 32
    ∧ sStill.rfld (pgStill + 0x418) 31 0 ≠ 0 ∧ sStill.still.timerFrom + sStill.rfld (pgStill + 0x418) 31 0 ≤ sStill.tick
    ∧ gives (exec (.stillTrigger .host 0x8000000000000000) sStill) (fun t => t.rfld (pgStill + 0x420) 31 0 == 1
        && t.reg (pgStill + 0x428) == 1 && t.still.toLatch.length == 141 && t.still.mergeOpen) = true
    ∧ gives (exec (.stillInEdge 2) sStill) (fun t => t.reg (pgStill + 0x428) == 8 && t.still.pulse == none) = true
    ∧ gives (exec .stillTimerExpiry sStill) (fun t => t.reg (pgStill + 0x428) == 4 && t.still.timerFrom == 25000) = true := by
  decide +kernel
def sOpen : State := { base with still := { mergeOpen := true, pulse := some 100, toLatch := [pgStill, kPg] } }
theorem witness_SnapshotTriggersAndWindows_2 : sOpen.still.mergeOpen = true ∧ (sOpen.reg (pgStill + 0x430)).toNat + 2 ≤ sOpen.tick
    ∧ sOpen.still.pulse = some 100 ∧ 100 + 4 ≤ sOpen.tick
    ∧ gives (exec .mergeWindowClose sOpen) (fun t => !t.still.mergeOpen) = true
    ∧ gives (exec .stillOutPulseEnd sOpen) (fun t => t.still.pulse == none) = true := by decide +kernel
/-- EN and KEEP 1 on the page of FEN 3; then HELD. -/
def kFp : Nat := pageKey 7 3
def sOpen2 : State := { base with still := { mergeOpen := true, toLatch := [pgStill, kFp] } }
def sLatch : State := sOpen2.setReg (kFp + 0x60) 3
def sHeld : State := sOpen2.setReg (kFp + 0x60) 7
theorem witness_SnapshotLatchStampsOrMisses : sLatch.sound = true ∧ okPage 7 3 = true ∧ pageKey 7 3 ∈ sLatch.still.toLatch
    ∧ pageOn sLatch (pageKey 7 3) = true ∧ (∃ p ∈ sLatch.still.toLatch, p ≠ pageKey 7 3)
    ∧ bit (sLatch.reg (kFp + 0x60)) 0 = true ∧ bit (sLatch.reg (kFp + 0x60)) 2 = false ∧ bit (sLatch.reg (kFp + 0x60)) 1 = true
    ∧ sHeld.sound = true ∧ bit (sHeld.reg (kFp + 0x60)) 2 = true ∧ pageOn sHeld (pageKey 7 3) = true
    ∧ gives (exec (.snapshotLatch 7 3) sLatch) (fun t => bit (t.reg (kFp + 0x60)) 2 && t.rfld (kFp + 0x70) 31 0 == 1
        && t.rfld (kFp + 0x70) 63 32 == 0 && t.still.toLatch == [pgStill]) = true
    ∧ gives (exec (.snapshotLatch 7 3) sHeld) (fun t => t.rfld (kFp + 0x70) 31 0 == 0 && t.rfld (kFp + 0x70) 63 32 == 1) = true := by
  decide +kernel
def sLost : State := { base with power := { base.power with onInternal := true } }
theorem witness_ReferenceAndPowerSteps_1 : base.sound = true ∧ base.power.mossUp = true ∧ base.power.onInternal = false
    ∧ sLost.sound = true ∧ sLost.power.onInternal = true ∧ sLost.power.lossAt + 25000 ≤ sLost.tick
    ∧ gives (exec .refclkLoss base) (fun t => t.power.onInternal && faultLow t && bit (t.reg (pgClk + 0x400)) 63) = true
    ∧ gives (exec .refclkReturn sLost) (fun t => !t.power.onInternal && !bit (t.reg (pgClk + 0x400)) 62) = true := by decide +kernel
/-- Samples: above FAST_W, warm, cool for the hundredth time, and cool for the first. -/
def pSample (w avg temp : Nat) : PowerSample := ⟨5000, 1000, w, avg, avg, [temp, 40, 40, 40], List.replicate 12 40, 40⟩
def ceil : Word := base.reg (pgPwr + 0x410)
def sCool : State := { base.setRfld (pgClk + 0x410) 15 0 900 with power := { base.power with coolSamples := 99 } }
theorem witness_ReferenceAndPowerSteps_2 : base.sound = true ∧ base.power.vinGood = true
    ∧ fld ceil 47 32 < (pSample 60000 0 40).watts
    ∧ ((pSample 100 0 105).watts ≤ fld ceil 47 32 ∧ ∃ c ∈ (pSample 100 0 105).temps, fld ceil 55 48 ≤ c)
    ∧ (sCool.sound = true ∧ sCool.power.vinGood = true ∧ (pSample 100 0 40).avg1 + fld ceil 31 16 < fld ceil 15 0
      ∧ (¬ ∃ c ∈ (pSample 100 0 40).temps, fld ceil 55 48 ≤ c) ∧ 99 ≤ sCool.power.coolSamples ∧ base.power.coolSamples < 99)
    ∧ gives (exec (.powerSample (pSample 100 0 40)) sCool) (fun t => t.rfld (pgClk + 0x410) 15 0 == 950) = true
    ∧ gives (exec (.powerSample (pSample 60000 0 40)) sCool) (fun t => t.rfld (pgClk + 0x410) 15 0 == 850) = true
    ∧ gives (exec (.powerSample (pSample 100 0 105)) sCool) (fun t => t.rfld (pgClk + 0x410) 15 0 == 850) = true := by decide +kernel
def sDoze : State := { base with tiles := List.replicate 52 { power := .doze } }
def sNap : State := { base with tiles := List.replicate 52 { power := .nap }, fab := { wakes := [pgTile 51] } }
theorem witness_TilesSleepWakeAndPrewake : base.sound = true ∧ (base.tile 51).power = .run ∧ (∀ a ∈ base.assigns, a.page ≠ pgTile 51) ∧ moverIdle (base.mover 51) = true
    ∧ sDoze.sound = true ∧ (sDoze.tile 51).power = .doze ∧ awakeReq sDoze (pgTile 51) = false
    ∧ (sDoze.tile 51).since + sDoze.rfld (pgPwr + 0x408) 15 0 * 25 ≤ sDoze.tick ∧ (sDoze.die (51 / 13)).power = .active
    ∧ gives (exec (.tileDoze 51) base) (fun t => (t.tile 51).power == .doze && (t.tile 50).power == .run) = true
    ∧ gives (exec (.tileNap 51) sDoze) (fun t => (t.tile 51).power == .nap) = true
    ∧ gives (exec (.tileWake 51) sDoze) (fun t => (t.tile 51).power == .run && (t.tile 0).power == .doze) = true := by decide +kernel
theorem witness_TilesSleepWakeAndPrewake_2 : sNap.storesOk = true ∧ pgTile 51 ∈ sNap.fab.wakes ∧ (sNap.tile 51).power = .nap
    ∧ (sNap.die (51 / 13)).power = .active ∧ sNap.sound = true
    ∧ gives (exec (.wake (.tile 51)) sNap) (fun t => (t.tile 51).power == .doze) = true := by decide +kernel

/-! ### Dies, the device and supplies -/

/-- Every tile of the part in NAP since tick 0; die 3 in a state. -/
def sQuiet (p : DiePower) : State := { base with
  tiles := List.replicate 52 { power := .nap }
  dies := setAt base.dies 3 { power := p, since := 10 ^ 11 } }
theorem witness_DieEntersAndLeavesMire_1 : (sQuiet .active).sound = true ∧ 3 < 4 ∧ dieMayEnter (sQuiet .active) 3 = true
    ∧ dieQuiet (sQuiet .active) 3 = true
    ∧ gives (exec (.dieMireEntry 3) (sQuiet .active)) (fun t => (t.die 3).power == .entering && (t.die 3).since == t.tick) = true := by
  decide +kernel
theorem witness_DieEntersAndLeavesMire_2 : (sQuiet .entering).sound = true ∧ ((sQuiet .entering).die 3).power = .entering
    ∧ ((sQuiet .entering).die 3).since + 500 ≤ (sQuiet .entering).tick
    ∧ gives (exec (.dieMireEntered 3) (sQuiet .entering)) (fun t => (t.die 3).power == .mire && (t.fen 3).inSr) = true
    ∧ gives (exec (.dieWake 3 1) (sQuiet .entering)) (fun t => (t.die 3).power == .waking && (t.die 3).abandoned) = true := by
  decide +kernel
theorem witness_DieEntersAndLeavesMire_3 : (sQuiet .mire).sound = true ∧ 2 < 4 ∧ ((sQuiet .mire).die 3).power = .mire
    ∧ gives (exec (.dieWake 3 2) (sQuiet .mire)) (fun t => (t.die 3).power == .waking && t.reg (pgPwr + 0x448) == 0x302) = true := by
  decide +kernel
theorem witness_DieEntersAndLeavesMire_4 : (sQuiet .waking).sound = true ∧ ((sQuiet .waking).die 3).power = .waking
    ∧ ((sQuiet .waking).die 3).since + 3000 ≤ (sQuiet .waking).tick
    ∧ gives (exec (.dieActive 3) (sQuiet .waking)) (fun t => (t.die 3).power == .active) = true := by decide +kernel
def sIdle : State := { base with power := { base.power with dev := .idle }, dies := List.replicate 4 { power := .mire } }
theorem witness_DeviceStatesFollowWork : base.power.vinGood = true ∧ base.power.dev = .active ∧ calmetBusy base = false
    ∧ base.power.lastWork + base.rfld (pgPwr + 0x408) 47 32 * 25 ≤ base.tick
    ∧ sIdle.power.dev = .idle ∧ (∀ d ∈ sIdle.dies, d.power = .mire) ∧ bit (sIdle.reg (pgPwr + 0x408)) 49 = true
    ∧ prepBusy sIdle = false ∧ sIdle.power.wakeHeld = false ∧ sIdle.sound = true ∧ 2 ≤ 2 ∧ sIdle.power.scanned = false
    ∧ gives (exec .deviceIdle base) (fun t => t.power.dev == .idle) = true
    ∧ gives (exec .deviceMire sIdle) (fun t => t.power.dev == .mire) = true
    ∧ gives (exec (.wakeN 2) sIdle) (fun t => t.power.wakeHeld && t.dies.all (·.power == .waking)) = true := by decide +kernel
theorem witness_StandbyKeepsMossOnly : sHold.sound = true ∧ sHold.power.mossUp = true ∧ bit 0x8000000000000000 63 = true
    ∧ pageEn sHold pgPwr = true ∧ sHold.fab.held = true ∧ base.sound = true ∧ base.power.vinGood = true ∧ 16 < 30 ∧ tripAt 16 ≤ 110
    ∧ base.power.vsbGood = true ∧ base.power.thermtrip = false
    ∧ gives (exec (.standbyRequest .mc 0x8000000000000000) sHold) (fun t => t.power.dev == .standby && !t.trust.ready) = true
    ∧ gives (exec (.vin50OutOfRange .overVoltage) base) (fun t => t.power.offUntil == some (10 ^ 12 + 1250000)) = true
    ∧ gives (exec (.thermtrip 16 110) base) (fun t => t.power.thermtrip && t.power.dev == .standby) = true := by decide +kernel
/-- THERMTRIP latched in an off time; the Moss domain not yet up; a search whose last source is late. -/
def sTrip : State := { State.reset with tick := 10 ^ 9, power := { vsbGood := true, thermtrip := true, offUntil := some 5 } }
def sLate : State := { base with trust := { base.trust with search := some ⟨false, [.mctp], 0⟩ } }
theorem witness_SupplyAndMossSequence : State.reset.power.vsbGood = false ∧ base.power.vsbGood = true ∧ sTrip.power.offUntil = some 5
    ∧ 5 ≤ sTrip.tick ∧ sTrip.power.thermtrip = true ∧ 94 < 95 ∧ 95 ≤ 95 ∧ base.power.pg = some 0 ∧ base.power.vinGood = true
    ∧ 0 + 75000 ≤ base.tick ∧ sTrip.power.vsbGood = true ∧ sTrip.power.mossUp = false ∧ 25000 ≤ sTrip.tick
    ∧ sLate.power.mossUp = true ∧ sLate.trust.search = some ⟨false, [.mctp], 0⟩ ∧ 0 + 250000000 ≤ sLate.tick ∧ sLate.trust.coldTest = none
    ∧ gives (exec .vsb3v3Good State.reset) (fun t => t.power.vsbGood && t.tick == 0) = true
    ∧ gives (exec .vsb3v3Loss base) (fun t => !t.power.vsbGood && t.mem == [] && t.regs == []) = true
    ∧ gives (exec .offTimeEnd sTrip) (fun t => t.power.offUntil == none) = true
    ∧ gives (exec (.thermtripClear 94) sTrip) (fun t => !t.power.thermtrip) = true
    ∧ gives (exec (.thermtripClear 95) sTrip) (fun t => t.power.thermtrip) = true
    ∧ gives (exec .pwrokRelease base) (fun t => t.power.pwrok) = true
    ∧ gives (exec .bootSourceTimeout sLate) (fun t => t.trust.stage == .recovery && faultLow t) = true := by decide +kernel
theorem test_moss_reset_release : gives (exec .mossResetRelease sTrip) (fun t => t.power.mossUp && t.power.mossUpAt == 10 ^ 9) = true := by
  decide +kernel

/-! ### Start-up and trust -/

def sMoss : State := { State.reset with tick := 10 ^ 9, power := { vsbGood := true, mossUp := true } }
/-- Swept, trained, and neither loaded nor configured. -/
def sStart : State := { base with trust := { mcRunning := true } }
def sRetired : State := { base with trust := { mcRunning := true, life := .retired } }
theorem witness_BringUpToFirmware : sMoss.power.vsbGood = true ∧ sMoss.power.mossUp = true ∧ sMoss.power.vinGood = false
    ∧ sMoss.power.thermtrip = false ∧ sMoss.power.offUntil = none ∧ sMoss.power.qualFrom + 50000 ≤ sMoss.tick
    ∧ sStart.trust.mcRunning = true ∧ sStart.power.vinGood = true ∧ sStart.power.pg.isSome = true ∧ allSwept sStart = true
    ∧ sStart.trust.fwLoaded = false ∧ sStart.trust.search = none ∧ sStart.trust.life ≠ .retired ∧ sRetired.trust.life = .retired
    ∧ gives (exec .firmwareLoad sRetired) (fun t => t == sRetired) = true
    ∧ gives (exec (.vin50PowerGood [5, 7, 4] ⟨[], [], [], [], [], []⟩) sMoss) (fun t => t.power.vinGood && t.trust.straps == 5) = true
    ∧ gives (exec .firmwareLoad sStart) (fun t => !t.trust.fwLoaded && t.trust.search.isSome) = true := by decide +kernel
def sBoot : State := { base with trust := { base.trust with ready := false } }
theorem witness_ConfigureLocksAndReady : sStart.sound = true ∧ sStart.trust.mcRunning = true ∧ sStart.power.vinGood = true
    ∧ sStart.power.pg.isSome = true ∧ sStart.trust.configured = false ∧ allTrained sStart = true
    ∧ sBoot.trust.configured = true ∧ sBoot.trust.fwLoaded = true ∧ sBoot.power.vinGood = true ∧ sBoot.trust.ready = false := by decide +kernel
theorem test_configure_locks : gives (exec (.configureAndLock ⟨[], true, [], 0, 0⟩) sStart) (fun t => t.trust.configured
    && pageLocked t pgFab && !(pageLocked t (pgCulv 0))) = true := by decide +kernel
theorem witness_ExtendsAndUnlocks : base.sound = true ∧ base.power.vinGood = true ∧ pageEn base pgSec = true
    ∧ bit 0x800000000000000F 63 = true ∧ 8 ≤ fld 0x800000000000000F 3 0 ∧ (Agent.host ≠ .unit) ∧ fld 0x8000000000000007 3 0 < 8
    ∧ gives (exec (.measExtend .host 0x8000000000000007) base) (fun t => t.resp == .done && t.trust.meas == base.trust.meas) = true := by
  decide +kernel
theorem test_unlock_uses_challenge : gives (exec (.jtagUnlock 0 [] []) base) (fun t => t.trust.challenge == 1 && t.trust.debug == 0) = true := by
  decide +kernel

/-! ### Tally settings and the Peat store -/

/-- A PROVISIONED part whose Belsajan root is the digest of a key of zeros. -/
def zeroKey : List Byte := List.replicate 1793 0
def zeroDigest : List Byte := shake256_512 zeroKey
def tallyPart (x : List Byte) : State := { base with fuses := { base.fuses with life := .provisioned, rootDigest := x } }
def sTally : State := tallyPart zeroDigest
/-- A request to raise FLOOR to level 1.1, made out to a device. -/
def reqHead : List Byte := natLE 4 0x52594C54 ++ natLE 2 1 ++ [5, 255] ++ natLE 8 0 ++ natLE 8 0x100 ++ natLE 8 0x101
def reqTail : List Byte := List.replicate 4032 0
theorem witness_TallyRequestCheckedInOrder_1 : base.trust.mcRunning = true ∧ base.trust.tally = none ∧ tallyCheck base [] = some 1
    ∧ gives (exec (.tallyRequest .mc [] false) base) (fun t => t.resp == .refused 1 && t.trust.reqResult == 1) = true := by decide +kernel
theorem signer_root (f : Fuses) (x k : List Byte) (h : f.rootDigest = x) (hk : x = shake256_512 k) : signerKeyMatches f 255 k = true := by
  subst hk; simp [signerKeyMatches, h]
theorem hz0 : zeroDigest = shake256_512 zeroKey := by unfold zeroDigest; rfl
theorem hz1 (x : List Byte) : (tallyPart x).fuses.rootDigest = x := rfl
/-- With a signature that holds, a request to the device passes every check. -/
theorem witness_TallyRequestCheckedInOrder_2 (hs : ∀ k m g, Config.signatureHolds k m g = true) :
    sTally.trust.mcRunning = true ∧ sTally.trust.tally = none ∧ tallyCheck sTally (reqHead ++ (deviceId sTally ++ reqTail)) = none := by
  refine ⟨rfl, rfl, ?_⟩
  have hl : (deviceId sTally).length = 32 := shake256_length _ _ (by decide)
  generalize hd : deviceId sTally = d at hl ⊢
  have hh : reqHead.length = 32 := by decide
  have far (o n : Nat) : ((reqHead ++ (d ++ reqTail)).drop (64 + o)).take n = (reqTail.drop o).take n := by
    rw [show 64 + o = reqHead.length + (d.length + o) by omega, ← List.drop_drop, List.drop_left, ← List.drop_drop, List.drop_left]
  have near (o n : Nat) (h : o + n ≤ 32) : ((reqHead ++ (d ++ reqTail)).drop o).take n = (reqHead.drop o).take n := by
    rw [List.drop_append_of_le_length (by omega), List.take_append_of_le_length (by simp; omega)]
  have h1 : sliceB (reqHead ++ (d ++ reqTail)) 32 32 = d := by
    have : ((reqHead ++ (d ++ reqTail)).drop 32).take 32 = d := by
      rw [show 32 = reqHead.length from hh.symm, List.drop_left, hh, ← hl, List.take_left]
    simp [sliceB, this, hl]
  have h2 : sliceB (reqHead ++ (d ++ reqTail)) 320 1793 = zeroKey := by
    have := far 256 1793
    have ht : (reqTail.drop 256).take 1793 = zeroKey := by
      unfold reqTail zeroKey; rw [List.drop_replicate, List.take_replicate]; rfl
    rw [ht] at this
    have hz : zeroKey.length = 1793 := List.length_replicate
    have hs : sliceB (reqHead ++ (d ++ reqTail)) 320 1793 = zeroKey ++ List.replicate (1793 - zeroKey.length) 0 := by
      rw [← this]; rfl
    rw [hs, hz]; exact List.append_nil _
  have zt (o n : Nat) : ((reqTail.drop o).take n).all (· == 0) = true := by
    unfold reqTail; rw [List.drop_replicate, List.take_replicate, List.all_eq_true]
    intro x hx; rw [List.eq_of_mem_replicate hx]; rfl
  have z1 := zt 2049 191
  have z2 := zt 3520 512
  rw [← far 2049 191] at z1
  rw [← far 3520 512] at z2
  have f (o n : Nat) (h : o + n ≤ 32) : fieldN (reqHead ++ (d ++ reqTail)) o n = fieldN reqHead o n := by
    simp only [fieldN, near o n h]
  have hz : zeroAt (reqHead ++ (d ++ reqTail)) 10 6 = true := by
    simp only [zeroAt, near 10 6 (by decide)]; decide
  have hn : (reqHead ++ (d ++ reqTail)).length = 4096 := by
    rw [List.length_append, List.length_append, hh, hl, reqTail, List.length_replicate]
  have hk : signerKeyMatches sTally.fuses 255 zeroKey = true := signer_root _ _ zeroKey (hz1 zeroDigest) hz0
  simp only [tallyCheck, hn, hs, h1, h2, f 0 4 (by decide), f 4 2 (by decide), f 6 1 (by decide), f 7 1 (by decide), f 8 2 (by decide),
    f 16 8 (by decide), f 24 8 (by decide), hd]
  simp only [zeroAt] at hz ⊢
  simp only [hz, show 2113 = 64 + 2049 from rfl, show 3584 = 64 + 3520 from rfl, z1, z2,
    show fieldN reqHead 0 4 = 0x52594C54 by decide, show fieldN reqHead 4 2 = 1 by decide, show fieldN reqHead 6 1 = 5 by decide,
    show fieldN reqHead 7 1 = 255 by decide, show fieldN reqHead 8 2 = 0 by decide, show fieldN reqHead 16 8 = 0x100 by decide,
    show fieldN reqHead 24 8 = 0x101 by decide, hk, show tallySigner sTally 5 0x101 255 = true by decide +kernel,
    show valueAllowed sTally 5 0x101 255 = true by decide +kernel, show guardHolds sTally 5 0x101 = true by decide +kernel]
  simp [sTally, tallyPart, base, settingUsed, settingValue, settingSlots, State.reset]
def sJob : State := { base with trust := { base.trust with tally := some { path := .mc, setting := 5, value := 0x101, slotIndex := 0, signer := 0xFF, old := 0x100 } } }
theorem witness_TallyRequestCheckedInOrder_3 : sJob.trust.mcRunning = true ∧ sJob.trust.tally.isSome = true
    ∧ gives (exec (.tallyRequest .mctp [1] false) sJob) (fun t => t.trust.tallyQ == [(.mctp, [1], false)]) = true := by decide +kernel
theorem witness_FuseSlotsWrittenAndVerified_1 : sJob.trust.tally = some { path := .mc, setting := 5, value := 0x101, slotIndex := 0, signer := 0xFF, old := 0x100 } ∧ (5 ≠ 0x10)
    ∧ sJob.trust.tallyQ = []
    ∧ gives (exec (.tallySlotVerify true false) sJob) (fun t => t.fuses.floor == 0x101 && t.fuses.floorUsed == 1) = true
    ∧ gives (exec (.tallySlotVerify false false) sJob) (fun t => t.fuses.floor == 0x100 && t.fuses.floorUsed == 1
        && t.fuses.spoiled == [(5, 0, 0)]) = true := by decide +kernel
def sRepairs : State := { sJob with trust := { sJob.trust with repairJobs := [{ path := .mc, setting := 0x10, value := 3, slotIndex := 1, signer := 0xFE, old := 0, inst := 2, kind := 4, target := 3 }] } }
theorem witness_FuseSlotsWrittenAndVerified_3 : sRepairs.trust.tally.isSome = true ∧ sRepairs.trust.tallyQ = []
    ∧ gives (exec (.tallySlotVerify true false) sRepairs) (fun t => t.trust.tally.any (·.inst == 2) && t.trust.repairJobs == []) = true := by
  decide +kernel
def sSpent : State := { base with fuses := { base.fuses with floorUsed := 8 } }
theorem witness_FuseSlotsWrittenAndVerified_2 : base.sound = true ∧ base.power.vinGood = true ∧ pageEn base pgTally = true
    ∧ settingAt 0x418 = some 5 ∧ tfValue base 5 0x101 = some 0x101 ∧ valueAllowed base 5 0x101 0xFF = true
    ∧ guardHolds base 5 0x101 = true ∧ settingUsed base.fuses 5 < settingSlots 5
    ∧ sSpent.sound = true ∧ settingSlots 5 ≤ settingUsed sSpent.fuses 5
    ∧ gives (exec (.tfWrite .mc (0xF0000000000 + pgTally + 0x418) 0x101) base) (fun t => t.fuses.floor == 0x101 && t.resp == .done) = true
    ∧ gives (exec (.tfWrite .host (0xF0000000000 + pgTally + 0x418) 0x101) base) (fun t => t.fuses == base.fuses) = true
    ∧ gives (exec (.tfWrite .mc (0xF0000000000 + pgTally + 0x418) 0x101) sSpent) (fun t => t.fuses == sSpent.fuses) = true := by
  decide +kernel
theorem witness_PeatWriteSparesTheOtherBank : base.sound = true ∧ base.power.mossUp = true ∧ base.trust.mcRunning = true ∧ 1 ≤ 5 ∧ 5 ≤ 5
    ∧ 4096 + ([1, 2, 3] : List Byte).length ≤ slotSize 5 ∧ base.trust.patrolFrom + 86400 * 25000000 ≤ 10 ^ 13 := by decide +kernel
theorem test_peat_patrol : gives (exec (.peatPatrol [0] []) { base with tick := 10 ^ 13 })
    (fun t => t.trust.patrolFrom == 10 ^ 13 && t.banks == base.banks) = true := by decide +kernel
theorem test_peat_record_write : gives (exec (.peatRecordWrite 5 [1, 2, 3] .none) base)
    (fun t => t.resp == .done && (t.bank (writeBank base 5)).recs.map (·.1) == [5]
      && t.bank (1 - writeBank base 5) == base.bank (1 - writeBank base 5)) = true := by decide +kernel

/-! ### Host cores -/

def sWfi : State := { base with host := { running := 0x30, wfi := 0x20 } }
theorem witness_HostCoresStartAndWake : (Agent.host ≠ .unit) ∧ base.power.vinGood = true ∧ pageEn base pgHost = true
    ∧ bit 0x8400009899990000 63 = true ∧ fld 0x8400009899990000 61 56 ∈ enabledCores base
    ∧ fld 0x8400009899990000 61 56 ∉ dispCores base ∧ bitOf base.host.running (fld 0x8400009899990000 61 56) = false
    ∧ carveBase base ≤ fld 0x8400009899990000 43 0 ∧ fld 0x8400009899990000 43 0 < 0x9900000000 ∧ fld 0x8400009899990000 43 0 % 4 = 0
    ∧ bitOf sWfi.host.running (fld 0x8400009899990000 61 56) = true ∧ 5 < 34 ∧ bitOf sWfi.host.running 5 = true
    ∧ bitOf sWfi.host.wfi 5 = true
    ∧ gives (exec (.hartStart .host 0x8400009899990000) base) (fun t => t.host.running == 16
        && t.host.started == [hartAt 4 0x9899990000]) = true
    ∧ gives (exec (.hartStart .host 0x8400009899990000) sWfi) (fun t => t.host == sWfi.host) = true
    ∧ irqPending (setCompare sWfi 5 (.mtimer 7)) 5 (.mtimer 7) = true ∧ sWfi.host.mtimecmp.length = 34
    ∧ gives (exec (.coreWake 5 (.mtimer 7)) sWfi) (fun t => t.host.wfi == 0) = true
    ∧ gives (exec (.coreWake 5 (.mtimer (10 ^ 12 + 1))) sWfi) (fun t => t.host.wfi == 0x20 && t.host.mtimecmp.getD 5 0 == 10 ^ 12 + 1) = true := by
  decide +kernel

/-! ### HBM and Fen memory -/

/-- Granule 3 of stack 1 written with zeros, and with a wrong symbol; poisoned; and with symbols wrong in two slices. -/
def gAddr : Nat := hbmKey 1 768
def gData : List Byte := List.replicate 256 0
def sGran (g : Gran) : State := { base with gran := [(granKey 1 3, g)] }
def gWritten : Gran := { fill := .written, check := List.replicate 64 0 }
def gPoison : Gran := { fill := .poisoned }
/-- A wrong symbol of granule 3; wrong symbols in two slices of it; two wrong bits of its fill-map word. -/
def hit1 : HbmHits := { syms := [(3, ⟨2, 0, 1⟩)] }
def hit2 : HbmHits := { syms := [(3, ⟨2, 0, 1⟩), (3, ⟨3, 0, 1⟩)] }
def hitW : HbmHits := { words := [(0, true)] }
theorem witness_GranuleReadFollowsFillMap : base.sound = true ∧ base.clean = true ∧ placeOf gAddr = .hbm 1 768
    ∧ (base.die (1 / 3)).power = .active ∧ stackServes base 1 = true ∧ throughCache .mc gAddr = false
    ∧ base.sector (granKey 1 3) = { ix := granKey 1 3 } ∧ ((strike base 1 {}).granule (granKey 1 3)).fill = .unwritten
    ∧ (strike base 1 {}).fillBits (granKey 1 3 / 32) = .good ∧ (sGran gPoison).sound = true
    ∧ ((strike (sGran gPoison) 1 {}).granule (granKey 1 3)).fill = .poisoned
    ∧ gives (exec (.granuleRead .host gAddr {} quiet) base) (fun t => t.resp == .data (List.replicate 256 0)) = true := by
  decide +kernel
theorem witness_GranuleReadFollowsFillMap_2 : (sGran gWritten).sound = true ∧ (sGran gWritten).clean = true
    ∧ decodeGran none 3 (syndromes gData (sedgeCheck gData) []) = .clean
    ∧ decodeGran none 3 (syndromes gData (sedgeCheck gData) [⟨2, 0, 1⟩]) = .corrected 2 [⟨2, 0, 1⟩]
    ∧ decodeGran none 3 (syndromes gData (sedgeCheck gData) [⟨2, 0, 1⟩, ⟨3, 0, 1⟩]) = .uncorrectable
    ∧ (strike (sGran gWritten) 1 hitW).fillBits (granKey 1 3 / 32) = .two
    ∧ gives (exec (.granuleRead .host gAddr hit1 quiet) (sGran gWritten)) (fun t => t.resp == .data gData) = true := by
  decide +kernel
theorem test_granule_read_fails : gives (exec (.granuleRead .mc gAddr hit2 quiet) (sGran gWritten))
      (fun t => t.resp == .uncorrectable && (t.granule (granKey 1 3)).fill == .poisoned) = true
    ∧ gives (exec (.granuleRead .host gAddr hitW quiet) (sGran gWritten))
      (fun t => t.resp == .loadFault && (t.granule (granKey 1 31)).fill == .poisoned && (t.granule (granKey 1 32)).fill == .unwritten) = true := by
  decide +kernel
theorem test_granule_read_poison : gives (exec (.granuleRead .mc gAddr {} quiet) (sGran gPoison)) (fun t => t.resp == .poisoned)
    = true := by decide +kernel
theorem witness_GranuleWritesFillAndMerge : base.sound = true ∧ base.clean = true ∧ placeOf gAddr = .hbm 1 768 ∧ stackServes base 1 = true
    ∧ (base.die (1 / 3)).power = .active ∧ throughCache .mc gAddr = false ∧ base.fillBits (granKey 1 3 / 32) = .good
    ∧ gAddr % 256 = 0 ∧ gData.length = 256 ∧ 0 < ([1, 2] : List Byte).length ∧ (gAddr + 254) % 256 + ([1, 2] : List Byte).length ≤ 256
    ∧ placeOf (gAddr + 254) = .hbm 1 1022 ∧ (base.granule (granKey 1 (1022 / 256))).fill = .unwritten
    ∧ (sGran gPoison).granule (granKey 1 (1022 / 256)) = gPoison
    ∧ gives (exec (.granulePartialWrite .mc (gAddr + 254) [1, 2] false {} quiet) base)
        (fun t => t.byteAt (gAddr + 255) == 2 && t.byteAt (gAddr + 253) == 0 && (t.granule (granKey 1 3)).fill == .written) = true := by
  decide +kernel
theorem witness_GranuleWritesFillAndMerge_2 : (sGran gWritten).sound = true
    ∧ (sGran gWritten).granule (granKey 1 3) = { fill := .written, check := sedgeCheck (memBytes (sGran gWritten).mem (hbmKey 1 768) 256) }
    ∧ gives (exec (.granulePartialWrite .mc (gAddr + 254) [1, 2] false {} quiet) (sGran gWritten))
        (fun t => t.byteAt (gAddr + 255) == 2 && t.byteAt (gAddr + 253) == 0) = true := by decide +kernel
theorem test_granule_full_write : gives (exec (.granuleFullWrite .mc gAddr gData true {} quiet) base)
    (fun t => t.granule (granKey 1 3) == gPoison && t.mem == base.mem) = true := by decide +kernel
def sPass : State := { base with hbms := List.replicate 12 { trained := true, passClock := 10 ^ 13, passEnded := true } }
def sDue : State := { base with hbms := List.replicate 12 { trained := true, passClock := 10 ^ 13 } }
theorem witness_PatrolMarkingAndTraining_1 : sDue.sound = true ∧ 11 < 12 ∧ scrubRuns sDue 11 = true ∧ (sDue.stack 11).passEnded = false
    ∧ (sDue.stack 11).position ≤ granules - 1 ∧ granules - 1 < granules ∧ scrubDue (sDue.stack 11) (granules - 1) = true
    ∧ noneWritten sDue 11 (sDue.stack 11).position (granules - 1) = true
    ∧ gives (exec (.scrubVisit 11 (granules - 1) {} false) sDue) (fun t => (t.stack 11).passEnded && (t.stack 11).position == 0) = true
    ∧ gives (exec (.scrubVisit 11 5 {} false) sDue) (fun t => (t.stack 11).position == 6) = true := by decide +kernel
def sWrit : State := { sGran gWritten with hbms := sDue.hbms }
theorem witness_PatrolMarkingAndTraining_2 : sWrit.sound = true ∧ scrubRuns sWrit 1 = true ∧ scrubDue (sWrit.stack 1) 3 = true
    ∧ noneWritten sWrit 1 (sWrit.stack 1).position 3 = true ∧ (sWrit.granule (granKey 1 3)).fill = .written
    ∧ ((strike sWrit 1 hit2).granule (granKey 1 3)).errs = [⟨2, 0, 1⟩, ⟨3, 0, 1⟩] ∧ (strike sWrit 1 hit2).fillWords = []
    ∧ ((strike sWrit 1 hit1).granule (granKey 1 3)).errs ≠ []
    ∧ gives (exec (.scrubVisit 1 3 hit1 false) sWrit) (fun t => t.granule (granKey 1 3) == gWritten && t.mem == sWrit.mem) = true
    ∧ sPass.sound = true ∧ scrubRuns sPass 11 = true ∧ (sPass.stack 11).period * 3600 * 25000000 ≤ (sPass.stack 11).passClock
    ∧ (sPass.stack 11).passEnded = true
    ∧ gives (exec (.scrubVisit 1 3 hit2 false) sWrit) (fun t => (t.granule (granKey 1 3)).fill == .poisoned) = true
    ∧ gives (exec (.scrubPassStart 11) sPass) (fun t => !(t.stack 11).passEnded && (t.stack 11).passClock == 0) = true := by decide +kernel
def sCold : State := { base with hbms := List.replicate 12 {} }
theorem witness_PatrolMarkingAndTraining_3 : regGate base .mc (rk 5 11 0x440) = .through ∧ pageEn base (pgHbmc 11) = true
    ∧ (base.stack 11).marked = none ∧ poolUsed base.fuses (0x100 + 11) < 32 ∧ regGate base .host (rk 5 11 0x440) = .through
    ∧ sCold.sound = true ∧ sCold.power.vinGood = true ∧ sCold.trust.mcRunning = true ∧ (sCold.stack 11).trained = false
    ∧ (sCold.die (11 / 3)).power ≠ .off
    ∧ gives (exec (.dieMark .mc 11 15) base) (fun t => (t.stack 11).marked == some 15 && t.resp == .done) = true
    ∧ gives (exec (.dieMark .host 11 15) base) (fun t => (t.stack 11).marked == none) = true
    ∧ gives (exec (.hbmTrainingEnd 11 ⟨2, some 3, 0, [], none⟩) sCold) (fun t => (t.stack 11).bin == 2 && (t.stack 11).trained) = true
    ∧ gives (exec (.hbmTrainingEnd 11 ⟨2, none, 0, [], none⟩) sCold) (fun t => (t.stack 11).absent) = true := by decide +kernel
/-- Line 5 of die 2. -/
def fAddr : Nat := fenKey 2 320
def sLine (l : FenLine) : State := { base with mem := memPut [] (fenKey 2 320) [9, 8], fenLines := [(fenKey 2 320 / 64, l)] }
theorem witness_FenLinesSweepAndScrub_1 : base.sound = true ∧ placeOf fAddr = .fen 2 320 ∧ (base.die 2).power = .active
    ∧ fenServes base 2 = true ∧ base.sector (fenKey 2 320 / 256) = { ix := fenKey 2 320 / 256 } ∧ base.fenLine (fenKey 2 0 / 64 + 320 / 64) = .good ∧ (sLine .twoBad).sound = true
    ∧ (sLine .twoBad).fenLine (fenKey 2 0 / 64 + 320 / 64) = .twoBad ∧ (sLine .poisoned).sound = true
    ∧ (sLine .poisoned).fenLine (fenKey 2 0 / 64 + 320 / 64) = .poisoned ∧ fAddr % 64 = 0
    ∧ 0 < ([1, 2] : List Byte).length ∧ ([1, 2] : List Byte).length < 64 ∧ (fAddr + 62) % 64 + ([1, 2] : List Byte).length ≤ 64
    ∧ placeOf (fAddr + 62) = .fen 2 382
    ∧ gives (exec (.fenLineRead .host fAddr .oneSymbol quiet) base) (fun t => t.resp == .data (List.replicate 64 0)) = true
    ∧ gives (exec (.fenLineRead .host fAddr .clean quiet) (sLine .twoBad)) (fun t => t.fenLine (fAddr / 64) == .poisoned
        && t.resp == .loadFault) = true
    ∧ gives (exec (.fenLineWrite .mc (fAddr + 62) [1, 2] false .clean quiet) base) (fun t => t.byteAt (fAddr + 63) == 2) = true
    ∧ gives (exec (.fenLineWrite .mc (fAddr + 62) [1, 2] false .clean quiet) (sLine .poisoned)) (fun t => t.byteAt (fAddr + 63) == 0
        && t.resp == .poisoned) = true := by decide +kernel
def sSweep : State := { sLine .twoBad with fens := List.replicate 4 {} }
def sCopy : State := { base with fens := setAt base.fens 3 { sweepDone := true, copying := some 2 } }
theorem witness_FenLinesSweepAndScrub_2 : sSweep.sound = true ∧ sSweep.power.vinGood = true ∧ sSweep.trust.mcRunning = true
    ∧ (sSweep.die 2).power ≠ .off ∧ (sSweep.fen 2).sweepDone = false ∧ 25000 ≤ 25000
    ∧ base.sound = true ∧ regGate base .mc (rk 7 3 0x408) = .through ∧ pageEn base (pgFen 3) = true ∧ fld 2 2 0 < 4
    ∧ (base.fen 3).spare ≠ 7 ∧ (base.fen 3).copying = none ∧ poolUsed base.fuses 3 < 64
    ∧ sCopy.sound = true ∧ (sCopy.fen 3).copying = some 2 ∧ copiedMib (sCopy.tick - (sCopy.fen 3).copyStart) = 2048
    ∧ sCopy.fab.phase = .none
    ∧ gives (exec (.fenSweepEnd 2 25000) sSweep) (fun t => (t.fen 2).sweepDone && t.mem == [] && t.fenLines == []) = true
    ∧ gives (exec (.fenSpare .mc 3 2) base) (fun t => (t.fen 3).copying == some 2 && poolUsed t.fuses 3 == 1) = true
    ∧ gives (exec (.fenSpareCopyEnd 3) sCopy) (fun t => (t.fen 3).layers == [0, 1, 4, 3] && (t.fen 3).spare == 7) = true := by
  decide +kernel
theorem witness_FenLinesSweepAndScrub_3 : (sLine .oneBad).sound = true ∧ fenServes (sLine .oneBad) 2 = true
    ∧ ((sLine .oneBad).fen 2).inSr = false ∧ ((sLine .oneBad).fen 2).scrubLine ≤ 5 ∧ 5 < 2 ^ 27
    ∧ (sLine .oneBad).fenLine (fenKey 2 0 / 64 + 5) = .oneBad
    ∧ gives (exec (.fenScrubVisit 2 5 .clean false) (sLine .oneBad)) (fun t => (t.fen 2).scrubLine == 6
        && t.fenLine (fenKey 2 0 / 64 + 5) == .good) = true
    ∧ gives (exec (.fenScrubVisit 2 5 .clean false) (sLine .twoBad)) (fun t => t.fenLine (fenKey 2 0 / 64 + 5) == .poisoned) = true
    ∧ gives (exec (.fenScrubVisit 2 (2 ^ 27 - 1) .clean false) base) (fun t => (t.fen 2).scrubLine == 0) = true := by decide +kernel
/-- The lines before the one visited are good. -/
theorem witness_FenLinesSweepAndScrub_4 : ∀ l, fenKey 2 0 / 64 + ((sLine .oneBad).fen 2).scrubLine ≤ l → l < fenKey 2 0 / 64 + 5 →
    (sLine .oneBad).fenLine l = .good := by
  intro l _ h
  have : l ≠ fenKey 2 320 / 64 := by simp only [fenKey] at h ⊢; omega
  simp only [State.fenLine, sLine, cellsGet]
  split <;> simp_all [fenLineDefault]
/-- A sector of the host's cache with every line held; and every line dirty. -/
def cAddr : Nat := 0x400
def cData : List Byte := List.replicate 63 0 ++ 5 :: List.replicate 192 0
def cKey : Nat := granKey 0 4
def sHeldLines : State := { base with host := { cache := [{ ix := cKey, data := cData, held := [0, 1, 2, 3] }] } }
def sDirty : State := { base with host := { cache := [{ ix := cKey, data := cData, held := [0, 1, 2, 3], dirty := [0, 1, 2, 3] }] } }
theorem witness_HostAccessesGoThroughCaches : sHeldLines.sound = true ∧ sHeldLines.clean = true ∧ placeOf cAddr = .hbm 0 0x400
    ∧ cachedView cAddr = true ∧ (base.die (0 / 3)).power = .active ∧ stackServes base 0 = true
    ∧ (∀ l, l < 4 → l ∈ (sHeldLines.sector cKey).held) ∧ cAddr % 256 = 0 ∧ cData.length = 256 ∧ (sHeldLines.sector cKey).data.length = 256
    ∧ (sHeldLines.host.cache.map (·.held.length)).sum + 4 ≤ 786432 ∧ sDirty.sound = true ∧ sDirty.fillBits (cKey / 32) = .good
    ∧ (sDirty.sector cKey).held.length = 4 ∧ (sDirty.sector cKey).data.length = 256
    ∧ (∀ l, l < 4 → l ∈ (sDirty.sector cKey).held ∧ l ∈ (sDirty.sector cKey).dirty) := by decide +kernel
theorem test_host_caches : gives (exec (.granuleRead .host cAddr {} quiet) sHeldLines) (fun t => t.resp == .data cData && t.mem == []) = true
    ∧ gives (exec (.granuleFullWrite .host cAddr cData false {} quiet) base) (fun t => t.resp == .done && t.mem == []
        && (t.sector cKey).dirty.length == 4) = true := by decide +kernel
/-- A core's store to one line that a device agent reads. -/
def sLine0 : State := { base with host := { cache := [{ ix := cKey, data := cData, held := [0], dirty := [0] }] } }
theorem test_host_caches_2 : gives (exec (.granuleRead .unit cAddr {} quiet) sLine0) (fun t => t.byteAt (hbmKey 0 0x43F) == 5
    && t.byteAt (hbmKey 0 0x440) == 0 && (t.granule cKey).fill == .written) = true := by decide +kernel

/-! ### Sessions and control rings -/

/-- A command record of slot 63. -/
def mkRec (op stream : Nat) (params : List Byte) : List Byte :=
  let h := natLE 2 op ++ natLE 2 0 ++ natLE 2 stream ++ natLE 2 63 ++ natLE 8 0x77 ++ natLE 4 0 ++ natLE 4 0 ++ params
  h ++ List.replicate (128 - h.length) 0
def sess : Session := ⟨0x0202, 0, 1, 0, 0, 0, 0⟩
/-- Slot 63 with its rings read, a record in front, perhaps a session, and streams. -/
def sCtl (x : Option Session) (b : List Byte) (streams : List Stream) : State := { base with disp := { base.disp with
  slots := setAt base.disp.slots 63
    { ctl := some { addr := ctlAddr 63, base := fenKey 1 0, log2 := 6, head := 1, tail := 1, recs := [⟨0, b⟩] }
      scomp := some { addr := scompAddr 63, base := fenKey 1 0x10000, log2 := 6, route := 0 }
      session := x }
  streams := streams } }
/-- Does the slot's completion ring hold a completion of record 0 with a status and COUNT? -/
def completed (t : State) (st count : Nat) : Bool :=
  match t.ringOut (.scomp 63) with
  | some o => o.turns.any fun u => u.idx == 0 && match u.comp with
    | some c => c.status == st && c.count == count && c.tag == 0x77
    | none => false
  | none => false
def sOwned : State := { base with mem := memPut [] (ownerAddr 63) [5] }
theorem witness_SlotsAndSessionsOpenAndClose_1 : base.sound = true ∧ 63 < 64 ∧ (9 ≠ 0) ∧ 9 < 2 ^ 64 ∧ base.clean = true ∧ (base.die 0).power = .active
    ∧ fenServes base 0 = true ∧ base.fenLine (ownerAddr 63 / 64) = .good ∧ leNat (memBytes base.mem (ownerAddr 63) 8) = 0
    ∧ sOwned.sound = true ∧ leNat (memBytes sOwned.mem (ownerAddr 63) 8) ≠ 0
    ∧ answerLevel 0x0100 0x0101 0x0300 = some 0x0202
    ∧ gives (exec (.slotClaim 63 9) base) (fun t => t.resp == .word 0 && t.byteAt (ownerAddr 63) == 9) = true
    ∧ gives (exec (.slotClaim 63 9) sOwned) (fun t => t.resp == .word 5 && t.byteAt (ownerAddr 63) == 5) = true := by decide +kernel
def bOpen (lo hi : Nat) : List Byte := mkRec 0x01 0xFFFF (natLE 2 lo ++ natLE 2 hi ++ natLE 4 2 ++ natLE 4 10 ++ natLE 4 20)
def rOpen (lo hi : Nat) : Rec := ⟨0, bOpen lo hi⟩
theorem witness_SlotsAndSessionsOpenAndClose_2 : (sCtl none (bOpen 0x0100 0x0300) []).sound = true
    ∧ frontCtl (sCtl none (bOpen 0x0100 0x0300) []) 63 0x01 = some (rOpen 0x0100 0x0300)
    ∧ ((sCtl none (bOpen 0x0100 0x0300) []).slot 63).scomp.isSome = true
    ∧ commonFails (rOpen 0x0100 0x0300) 63 false 40 = [] ∧ noStreamFails (rOpen 0x0100 0x0300) = []
    ∧ (rOpen 0x0100 0x0300).n 24 2 ≤ (rOpen 0x0100 0x0300).n 26 2 ∧ (rOpen 0x0100 0x0300).n 28 4 < 3
    ∧ (sCtl none (bOpen 0x0100 0x0300) []).session 63 = none ∧ answerLevel base.fuses.floor 0x0100 0x0300 = some 0x0202
    ∧ frontCtl (sCtl none (bOpen 0x0300 0x0400) []) 63 0x01 = some (rOpen 0x0300 0x0400)
    ∧ answerLevel base.fuses.floor 0x0300 0x0400 = none
    ∧ frontCtl (sCtl none (bOpen 0x0301 0x0300) []) 63 0x01 = some (rOpen 0x0301 0x0300)
    ∧ commonFails (rOpen 0x0301 0x0300) 63 false 40 = [] ∧ (rOpen 0x0301 0x0300).n 26 2 < (rOpen 0x0301 0x0300).n 24 2
    ∧ gives (exec (.openSession 63) (sCtl none (bOpen 0x0100 0x0300) []))
        (fun t => completed t stDone 0x0202 && (t.session 63).map (·.quotaFen) == some 20) = true
    ∧ gives (exec (.openSession 63) (sCtl none (bOpen 0x0300 0x0400) [])) (fun t => completed t stLevel 0 && (t.session 63).isNone) = true
    ∧ gives (exec (.openSession 63) (sCtl none (bOpen 0x0301 0x0300) [])) (fun t => completed t stBadField 0 && (t.session 63).isNone)
        = true := by decide +kernel
def rNone (op : Nat) : Rec := ⟨0, mkRec op 0xFFFF []⟩
theorem witness_SlotsAndSessionsOpenAndClose_3 : (sCtl (some sess) (rNone 0x02).bytes []).sound = true
    ∧ frontCtl (sCtl (some sess) (rNone 0x02).bytes []) 63 0x02 = some (rNone 0x02) ∧ commonFails (rNone 0x02) 63 false 24 = []
    ∧ noStreamFails (rNone 0x02) = [] ∧ ((sCtl (some sess) (rNone 0x02).bytes []).session 63).isSome = true
    ∧ streamsOf (sCtl (some sess) (rNone 0x02).bytes []) 63 = []
    ∧ gives (exec (.closeSession 63) (sCtl (some sess) (rNone 0x02).bytes [])) (fun t => completed t stDone 0 && (t.session 63).isNone)
        = true := by decide +kernel
/-- WATCH of slot 63's control ring at 2, and far past its 64 entries, with HEAD and TAIL at 0. -/
def sWatch (w : Nat) : State := { base with
  mem := memPut [] (ctlAddr 63 + 48) (natLE 2 w)
  disp := { base.disp with
    slots := setAt base.disp.slots 63
      { ctl := some { addr := ctlAddr 63, base := fenKey 1 0, log2 := 6 }
        scomp := some { addr := scompAddr 63, base := fenKey 1 0x10000, log2 := 6, route := 0 }
        session := some sess } } }
/-! ### Streams -/

/-- An IDLE stream 1023 of slot 63. -/
def str (st : SState) : Stream :=
  { id := 1023, session := 63, state := st
    ring := { addr := fenKey 1 0x40000, base := fenKey 1 0x50000, log2 := 6 }
    cring := { addr := fenKey 1 0x60000, base := fenKey 1 0x70000, log2 := 6, route := 0 }
    statusAddr := fenKey 1 0x80000 }
/-- WATCH of stream 1023's command ring at 2, with HEAD and TAIL at 0. -/
def sWatchS : State := { sWatch 0 with
  mem := memPut [] (fenKey 1 0x40000 + 48) (natLE 2 2)
  disp := { (sWatch 0).disp with streams := [str .running] } }
theorem witness_WatchReadsOnceOrOverruns : (sWatch 64).sound = true ∧ ringsRead (sWatch 64) = true
    ∧ ((sWatch 64).slot 63).ctlFault = false
    ∧ ((sWatch 64).slot 63).ctl = some { addr := ctlAddr 63, base := fenKey 1 0, log2 := 6 }
    ∧ (read64 (sWatch 64) (ctlAddr 63 + 48)).2 = .ok 64 ∧ 0 < 64 ∧ 64 - 0 ≤ 2 ^ 6
    ∧ sWatchS.sound = true ∧ ringsRead sWatchS = true ∧ sWatchS.open? 1023 = some (str .running)
    ∧ (str .running).closing = false ∧ (str .running).ring.stopped = false ∧ (str .running).ring.head ≤ (str .running).ring.tail
    ∧ (read64 sWatchS ((str .running).ring.addr + 48)).2 = .ok 2
    ∧ (sWatch 65).sound = true ∧ (sWatch 65).clean = true ∧ (read64 (sWatch 65) (ctlAddr 63 + 48)).2 = .ok 65 ∧ 2 ^ 6 < 65 - 0
    ∧ gives (exec (.watchObserve (.ctl 63)) (sWatch 2)) (fun t => (t.slot 63).ctl.map (·.head) == some 2) = true
    ∧ gives (exec (.watchObserve (.stream 1023)) sWatchS) (fun t => (t.stream? 1023).map (·.ring.tail) == some 2) = true
    ∧ gives (exec (.watchObserve (.ctl 63)) (sWatch 65)) (fun t => (t.slot 63).ctl.map (fun r => (r.stopped, r.head)) == some (true, 0))
        = true := by decide +kernel

def rStr (op : Nat) : Rec := ⟨0, mkRec op 1023 []⟩
def sStr (op : Nat) (x : Stream) : State := sCtl (some sess) (rStr op).bytes [x]
/-- Headers of a command ring and of a completion ring with 64 entries. -/
def ringHead (base kind : Nat) : List Byte := natLE 8 base ++ natLE 1 6 ++ natLE 1 kind
def rOs : Rec := ⟨0, mkRec 0x10 1023 (natLE 8 (fenKey 1 0x40000) ++ natLE 8 (fenKey 1 0x60000) ++ natLE 8 (fenKey 1 0x80000))⟩
def sOs : State := { sCtl (some sess) rOs.bytes [] with
  mem := memPut (memPut [] (fenKey 1 0x40000) (ringHead (fenKey 1 0x50000) 0)) (fenKey 1 0x60000) (ringHead (fenKey 1 0x70000) 1) }
theorem witness_OpenStreamAndBind_1 : sOs.sound = true ∧ sOs.clean = true ∧ frontCtl sOs 63 0x10 = some rOs ∧ (sOs.slot 63).scomp.isSome = true
    ∧ pickFail (openStreamChecks 63 rOs (takeCtl sOs 63 rOs)).2 = none
    ∧ gives (exec (.openStream 63) sOs) (fun t => completed t stDone 0 && t.streamState 1023 == .idle
        && (t.stream? 1023).map (·.stallTicks) == some 250000) = true := by decide +kernel
/-- A plan of one DISCARD stage of no bytes, and one whose operator is not known. -/
def discardStage : List Byte := natLE 2 0x0204 ++ List.replicate 14 0 ++ List.replicate 24 0xFF ++ List.replicate 216 0
def badStage : List Byte := natLE 2 0x0999 ++ List.replicate 254 0
def rBind : Rec := ⟨0, mkRec 0x11 1023 (natLE 8 (fenKey 1 0x90000) ++ [1])⟩
def sBind (stage : List Byte) : State := { sCtl (some sess) rBind.bytes [str .idle] with mem := memPut [] (fenKey 1 0x90000) stage }
def tBind (stage : List Byte) : State := takeCtl (sBind stage) 63 rBind
theorem witness_OpenStreamAndBind_2 : (sBind discardStage).sound = true ∧ (sBind discardStage).clean = true ∧ frontCtl (sBind discardStage) 63 0x11 = some rBind
    ∧ ((sBind discardStage).slot 63).scomp.isSome = true ∧ pickFail (bindChecks 63 rBind (tBind discardStage)).2.1 = none
    ∧ (sBind discardStage).open? rBind.stream = some (str .idle) ∧ (str .idle).id = rBind.stream
    ∧ (bindChecks 63 rBind (tBind discardStage)).2.2.map (fun g => (g.2, remotesOf g.2 g.1.blocks)) = some ([discardStage], [])
    ∧ gives (exec (.bindPlan 63 []) (sBind discardStage)) (fun t => completed t stDone 1 && t.streamState 1023 == .bound) = true := by
  decide +kernel
theorem witness_OpenStreamAndBind_3 : (sBind badStage).sound = true ∧ (sBind badStage).clean = true ∧ frontCtl (sBind badStage) 63 0x11 = some rBind
    ∧ (pickFail (bindChecks 63 rBind (tBind badStage)).2.1).map (·.status) = some stBadOpcode
    ∧ gives (exec (.bindPlan 63 []) (sBind badStage)) (fun t => completed t stBadOpcode 0 && t.streamState 1023 == .idle) = true := by
  decide +kernel
/-- R174: a second TABLE_SWITCH stage is a BAD_FIELD of that stage. -/
theorem test_second_table_switch : orderFails [natLE 256 0x0203, natLE 256 0x0203] = [{ status := stBadField, stage := 2, off := 0 }] := by
  decide +kernel
/-- R48: a stage's unknown operator comes before the state of the stream. -/
theorem test_plan_checked_before_state : ((pickFail (bindChecks 63 rBind (takeCtl { sBind badStage with disp :=
    { (sBind badStage).disp with streams := [str .running] } } 63 rBind)).2.1).map (·.status)) = some stBadOpcode := by decide +kernel
def bat (st : BState) : Batch :=
  { idx := 2, tag := 5, signal := false, deadline := 0, rows := 1, inDesc := [], outDesc := [], inAddr := 0, outAddr := 0, state := st }
def strB (st : SState) (b : BState) : Stream := { str st with batches := [bat b] }
theorem witness_StreamCommandsByState_1 :
    (sStr 0x12 (strB .bound .held)).sound = true ∧ ((sStr 0x12 (strB .bound .held)).slot 63).scomp.isSome = true
    ∧ (sStr 0x12 (strB .bound .held)).open? (rStr 0x12).stream = some (strB .bound .held) ∧ (strB .bound .held).session = 63 ∧ (strB .bound .held).closing = false
    ∧ (rStr 0x12).stream < 1024 ∧ commonFails (rStr 0x12) 63 false 24 = []
    ∧ ((sStr 0x12 (strB .bound .held)).session 63).isSome = true
    ∧ frontCtl (sStr 0x12 (strB .bound .held)) 63 0x12 = some (rStr 0x12)
    ∧ frontCtl (sStr 0x13 (strB .running .queued)) 63 0x13 = some (rStr 0x13)
    ∧ frontCtl (sStr 0x14 (strB .paused .held)) 63 0x14 = some (rStr 0x14)
    ∧ frontCtl (sStr 0x15 (str .running)) 63 0x15 = some (rStr 0x15) ∧ (str .running).batches = []
    ∧ frontCtl (sStr 0x15 (strB .running .started)) 63 0x15 = some (rStr 0x15) ∧ (strB .running .started).batches ≠ []
    ∧ gives (exec (.run 63) (sStr 0x12 (strB .bound .held))) (fun t => completed t stDone 0 && t.streamState 1023 == .running
        && (t.stream? 1023).map (fun y => y.batches.map (·.state)) == some [.queued]) = true
    ∧ gives (exec (.pause 63) (sStr 0x13 (strB .running .queued))) (fun t => completed t stDone 0 && t.streamState 1023 == .paused
        && (t.stream? 1023).map (fun y => y.batches.map (·.state)) == some [.held]) = true
    ∧ gives (exec (.resume 63) (sStr 0x14 (strB .paused .held))) (fun t => completed t stDone 0 && t.streamState 1023 == .running) = true
    ∧ gives (exec (.drain 63) (sStr 0x15 (str .running))) (fun t => completed t stDone 0 && t.streamState 1023 == .bound) = true
    ∧ gives (exec (.drain 63) (sStr 0x15 (strB .running .started))) (fun t => t.streamState 1023 == .draining) = true := by decide +kernel
theorem witness_StreamCommandsByState_2 :
    frontCtl (sStr 0x12 (str .idle)) 63 0x12 = some (rStr 0x12) ∧ frontCtl (sStr 0x13 (str .idle)) 63 0x13 = some (rStr 0x13)
    ∧ frontCtl (sStr 0x14 (str .idle)) 63 0x14 = some (rStr 0x14) ∧ frontCtl (sStr 0x15 (str .idle)) 63 0x15 = some (rStr 0x15)
    ∧ frontCtl (sStr 0x16 (str .idle)) 63 0x16 = some (rStr 0x16) ∧ frontCtl (sStr 0x17 (str .running)) 63 0x17 = some (rStr 0x17)
    ∧ (sStr 0x17 (str .running)).sound = true ∧ (sStr 0x17 (str .running)).open? 1023 = some (str .running)
    ∧ gives (exec (.run 63) (sStr 0x12 (str .idle))) (fun t => completed t stWrongState 0) = true
    ∧ gives (exec (.pause 63) (sStr 0x13 (str .idle))) (fun t => completed t stWrongState 0) = true
    ∧ gives (exec (.resume 63) (sStr 0x14 (str .idle))) (fun t => completed t stWrongState 0) = true
    ∧ gives (exec (.drain 63) (sStr 0x15 (str .idle))) (fun t => completed t stWrongState 0) = true
    ∧ gives (exec (.resetStream 63) (sStr 0x16 (str .idle))) (fun t => completed t stWrongState 0) = true
    ∧ gives (exec (.closeStream 63) (sStr 0x17 (str .running))) (fun t => completed t stWrongState 0 && t.streamState 1023 == .running)
        = true := by decide +kernel
/-- A HALTED stream with a batch that has still to stop. -/
def strOwes : Stream := { strB .halted .started with cring := { (str .halted).cring with turns := [{ idx := 2 }] } }
theorem witness_ResetAndCloseStream : (sStr 0x16 (str .halted)).sound = true ∧ ((sStr 0x16 (str .halted)).slot 63).scomp.isSome = true
    ∧ (sStr 0x16 (str .halted)).stream? (rStr 0x16).stream = some (str .halted) ∧ (str .halted).session = 63
    ∧ (rStr 0x16).stream < 1024
    ∧ commonFails (rStr 0x16) 63 false 24 = [] ∧ ((sStr 0x16 (str .halted)).session 63).isSome = true ∧ (str .halted).batches = []
    ∧ (str .halted).cring.turns = [] ∧ (str .halted).closing = false ∧ (∀ w ∈ (str .halted).resetWait, w.2.2 = false)
    ∧ (str .halted).resetWait = []
    ∧ (∀ q ∈ ((sStr 0x16 (str .halted)).slot 63).inflight, q.idx ≠ (rStr 0x16).idx)
    ∧ frontCtl (sStr 0x16 (str .halted)) 63 0x16 = some (rStr 0x16)
    ∧ commonFails (rStr 0x17) 63 false 24 = [] ∧ frontCtl (sStr 0x17 (str .faulted)) 63 0x17 = some (rStr 0x17)
    ∧ gives (exec (.resetStream 63) (sStr 0x16 (str .halted))) (fun t => completed t stDone 0 && t.streamState 1023 == .idle) = true
    ∧ gives (exec (.closeStream 63) (sStr 0x17 (str .faulted))) (fun t => completed t stDone 0 && t.streamState 1023 == .closed) = true
    ∧ gives (exec (.closeStream 63) (sStr 0x17 strOwes)) (fun t => !completed t stDone 0 && t.streamState 1023 == .halted) = true := by
  decide +kernel

/-! ### Completions and transfer slots -/

def compOk : Comp := { tag := 5, opcode := 0x20, status := 0, stream := 1023, seq := 2 }
/-- A batch's completion waits in the completion ring of stream 1023; its delivery has perhaps failed once. -/
def strDone (retry : Option Retry) : Stream := { strB .running .done with
  cring := { (str .idle).cring with
    turns := [{ idx := 2, comp := some compOk, after := .batchEnd, counted := true }]
    retry := retry } }
/-- A delivery that failed, due again since tick 5. -/
def again : Retry := ⟨5, 0, 0⟩
def sPost (retry : Option Retry) : State := sCtl (some sess) [] [strDone retry]
/-- CLOSE_SESSION's completion waits in slot 63. -/
def sFree : State := { base with disp := { base.disp with
  slots := setAt base.disp.slots 63
    { scomp := some { addr := scompAddr 63, base := fenKey 1 0x10000, log2 := 6, route := 0,
                      turns := [{ idx := 0, comp := some { tag := 1, opcode := 2 }, after := .freeOwner }] } } } }
theorem witness_CompletionsArePosted_1 : (sPost none).sound = true ∧ (sPost none).ringOut (.comp 1023) = some (strDone none).cring
    ∧ (strDone none).cring.turns = [{ idx := 2, comp := some compOk, after := .batchEnd, counted := true }]
    ∧ (strDone none).cring.retry = none
    ∧ (deliver (sPost none) (.comp 1023)).2 = some { idx := 2, comp := some compOk, after := .batchEnd, counted := true }
    ∧ gives (exec (.completionPost (.comp 1023)) (sPost none)) (fun t => (t.ringOut (.comp 1023)).map (fun q => (q.watch, q.turns.length))
        == some (1, 0) && (t.stream? 1023).map (·.batches.length) == some 0) = true := by decide +kernel
theorem witness_CompletionsArePosted_2 : sFree.sound = true
    ∧ (deliver sFree (.scomp 63)).2 = some { idx := 0, comp := some { tag := 1, opcode := 2 }, after := .freeOwner }
    ∧ gives (exec (.completionPost (.scomp 63)) sFree) (fun t => t.slot 63 == {}) = true := by decide +kernel
theorem witness_CompletionsArePosted_3 : (sPost (some again)).sound = true ∧ (strDone (some again)).cring.retry = some again
    ∧ again.now (sPost (some again)) (strDone (some again)).cring.addr = true ∧ headsDue (sPost (some again)) (refOf (.comp 1023)) = false
    ∧ (deliver ((sPost (some again)).setRingOut (.comp 1023) fun o => { o with retry := none }) (.comp 1023)).2
        = some { idx := 2, comp := some compOk, after := .batchEnd, counted := true }
    ∧ gives (exec (.completionPost (.comp 1023)) (sPost (some again))) (fun t => (t.ringOut (.comp 1023)).map (·.watch) == some 0) = true
    ∧ gives (exec (.deliveryRetry (.comp 1023)) (sPost (some again))) (fun t => (t.ringOut (.comp 1023)).map (·.watch) == some 1) = true := by
  decide +kernel
/-- A BYTES descriptor of 4096 bytes, and a REARM of transfer slot 15 with it. -/
def bytesDesc : List Byte := natLE 8 (fenKey 1 0xA0000) ++ natLE 8 4096 ++ List.replicate 21 0 ++ [3] ++ List.replicate 26 0
def rRe : Rec := ⟨7, natLE 2 0x21 ++ natLE 2 0 ++ natLE 2 1023 ++ natLE 2 63 ++ natLE 8 9 ++ natLE 8 0 ++ [15] ++ List.replicate 7 0
  ++ natLE 8 (fenKey 1 0xB0000) ++ natLE 4 3 ++ List.replicate 84 0⟩
def part1 : Arrived := { data := [1] }
def desc1 : SlotDesc := { bytes := bytesDesc, gen := 1, idx := 1 }
def desc6 : SlotDesc := { bytes := bytesDesc, gen := 2, idx := 6, waits := true }
def strRe (q : TSlot) : Stream := { str .running with
  ring := { (str .idle).ring with head := 8, tail := 8, recs := [rRe] }
  cring := { (str .idle).cring with turns := [{ idx := 6 }, { idx := 7 }] }
  slots := setAt (List.replicate 16 {}) 15 q }
def sRe (q : TSlot) : State := { sCtl (some sess) [] [strRe q] with mem := memPut [] (fenKey 1 0xB0000) bytesDesc }
def qIdle : TSlot := { active := some desc1 }
def qBusy : TSlot := { active := some desc1, part := some part1 }
def qFull : TSlot := { active := some desc1, shadow := some desc6, part := some part1 }
theorem witness_RearmActsOnItsSlot_1 : (sRe qIdle).sound = true ∧ frontRec (sRe qIdle) 1023 0x21 = some (strRe qIdle, rRe)
    ∧ (sRe qIdle).stream? 1023 = some (strRe qIdle) ∧ (strRe qIdle).slots.length = 16
    ∧ pickFail (rearmChecks (takeRec (sRe qIdle) 1023) (strRe qIdle) rRe).2 = none ∧ rRe.n 24 1 = 15
    ∧ ((strRe qIdle).slot 15).shadow = none
    ∧ (sRe qIdle).clean = true ∧ slotBusy (sRe qIdle) (strRe qIdle) 15 = false
    ∧ gives (exec (.rearm 1023) (sRe qIdle)) (fun t => (t.stream? 1023).map (fun y => (y.slot 15).active.map (·.gen)) == some (some 3))
      = true := by decide +kernel
theorem witness_RearmActsOnItsSlot_2 : (sRe qBusy).sound = true ∧ frontRec (sRe qBusy) 1023 0x21 = some (strRe qBusy, rRe)
    ∧ pickFail (rearmChecks (takeRec (sRe qBusy) 1023) (strRe qBusy) rRe).2 = none ∧ ((strRe qBusy).slot 15).shadow = none
    ∧ (sRe qBusy).clean = true ∧ slotBusy (sRe qBusy) (strRe qBusy) 15 = true
    ∧ (sRe qFull).sound = true ∧ frontRec (sRe qFull) 1023 0x21 = some (strRe qFull, rRe)
    ∧ pickFail (rearmChecks (takeRec (sRe qFull) 1023) (strRe qFull) rRe).2 = none ∧ ((strRe qFull).slot 15).shadow = some desc6
    ∧ (sRe qFull).clean = true ∧ slotBusy (sRe qFull) (strRe qFull) 15 = true ∧ desc6.waits = true
    ∧ (∃ u ∈ (strRe qFull).cring.turns, u.idx = desc6.idx ∧ u.comp = none)
    ∧ gives (exec (.rearm 1023) (sRe qFull)) (fun t => (t.stream? 1023).map (fun y => (y.slot 15).shadow.map (fun d => (d.gen, d.replaced)))
        == some (some (3, some 2))) = true := by decide +kernel
def qEnd : TSlot := { active := some desc1, shadow := some desc6 }
theorem witness_RearmActsOnItsSlot_3 : (sRe qFull).stream? 1023 = some (strRe qFull) ∧ slotBusy (sRe qFull) (strRe qFull) 15 = true
    ∧ (sRe qEnd).sound = true ∧ (sRe qEnd).stream? 1023 = some (strRe qEnd) ∧ ((strRe qEnd).slot 15).shadow = some desc6
    ∧ slotBusy (sRe qEnd) (strRe qEnd) 15 = false ∧ (sRe qEnd).clean = true
    ∧ frontRec (sRe qEnd) 1023 0x21 = some (strRe qEnd, rRe) ∧ (strRe qEnd).slots.length = 16
    ∧ pickFail (rearmChecks (takeRec (sRe qEnd) 1023) (strRe qEnd) rRe).2 = none
    ∧ gives (exec (.rearm 1023) (sRe qEnd)) (fun t => (t.stream? 1023).map (fun y => ((y.slot 15).active.map (·.gen),
        (y.slot 15).shadow)) == some (some 3, none)) = true
    ∧ gives (exec (.shadowPromote 1023 15) (sRe qEnd)) (fun t => (t.stream? 1023).map (fun y => ((y.slot 15).active.map (·.gen),
        (y.slot 15).shadow)) == some (some 2, none)) = true := by decide +kernel
theorem witness_RecordsArriveStallAndComeLate_1 : (sRe qIdle).open? 1023 = some (strRe qIdle) ∧ ((strRe qIdle).slot 15).part = none
    ∧ ((strRe qIdle).slot 15).active = some desc1 ∧ takesRecords (strRe qIdle) = true ∧ (List.replicate 4096 (1 : Byte)).length ≤ 65536
    ∧ fieldN ([0] : List Byte) 0 1 ≠ 3 ∧ placeAt ((strRe qIdle).slot 15) desc1 + (List.replicate 4096 (1 : Byte)).length ≤ landingBytes desc1
    ∧ waitingRecv (strRe qIdle) (sRe qIdle).tick 15 = none
    ∧ ¬ (placeAt ((strRe qIdle).slot 15) desc1 + (List.replicate 4097 (1 : Byte)).length ≤ landingBytes desc1)
    ∧ gives (exec (.recordArrival 1023 15 [0] [1, 2, 3] true) (sRe qIdle)) (fun t => (t.stream? 1023).map (fun y =>
        (y.slot 15).whole.map (·.data)) == some [[1, 2, 3]]) = true := by decide +kernel
/-- A partial record silent since tick 0; and no batch 3. -/
theorem witness_RecordsArriveStallAndComeLate_2 : (sRe qBusy).open? 1023 = some (strRe qBusy)
    ∧ ((strRe qBusy).slot 15).part.isSome = true ∧ ((strRe qBusy).slot 15).stalled = false ∧ (strRe qBusy).state = .running
    ∧ ((strRe qBusy).slot 15).lastByte + (strRe qBusy).stallTicks < (sRe qBusy).tick
    ∧ (sRe qBusy).batch? 1023 3 = none ∧ stOp ((strRe qBusy).stage 0) ≠ 0x0801
    ∧ gives (exec (.stallTimerExpiry 1023 15) (sRe qBusy)) (fun t => (t.stream? 1023).map (·.stalls) == some 1) = true
    ∧ gives (exec (.lateArrival 1023 3 0) (sRe qBusy)) (fun t => (t.stream? 1023).map (·.late) == some 1) = true := by decide +kernel

/-! ### Batches -/

def plan1 : Plan := ⟨[discardStage], 0, 0, 0, [], []⟩
/-- A SUBMIT_BATCH with one input descriptor, and one with none. -/
def rSub (n : Nat) : Rec := ⟨2, natLE 2 0x20 ++ natLE 2 0 ++ natLE 2 1023 ++ natLE 2 63 ++ natLE 8 9 ++ natLE 8 0
  ++ natLE 8 (fenKey 1 0xB0000) ++ natLE 2 n ++ natLE 2 0 ++ natLE 4 1 ++ List.replicate 88 0⟩
def colDesc : List Byte := natLE 8 (fenKey 1 0xA0000) ++ natLE 8 4096 ++ List.replicate 16 0 ++ natLE 4 0 ++ [9, 0] ++ List.replicate 26 0
def strSub (n : Nat) : Stream := { str .running with
  plan := some plan1
  ring := { (str .idle).ring with head := 3, tail := 3, recs := [rSub n] }
  cring := { (str .idle).cring with turns := [{ idx := 2 }] } }
def sSub (n : Nat) : State := { sCtl (some sess) [] [strSub n] with mem := memPut [] (fenKey 1 0xB0000) colDesc }
theorem witness_BatchesAreAcceptedAndStart_1 : (sSub 1).sound = true ∧ frontRec (sSub 1) 1023 0x20 = some (strSub 1, rSub 1)
    ∧ (sSub 1).stream? 1023 = some (strSub 1) ∧ (sSub 1).clean = true ∧ (sSub 0).clean = true
    ∧ pickFail (submitChecks (strSub 1) (rSub 1) (takeRec (sSub 1) 1023)).2.1 = none
    ∧ (sSub 0).sound = true ∧ frontRec (sSub 0) 1023 0x20 = some (strSub 0, rSub 0)
    ∧ (pickFail (submitChecks (strSub 0) (rSub 0) (takeRec (sSub 0) 1023)).2.1).map (·.status) = some stBadField
    ∧ (rSub 0).stream = 1023 ∧ (∃ u ∈ (strSub 0).cring.turns, u.idx = (rSub 0).idx ∧ u.comp = none)
    ∧ gives (exec (.submitBatch 1023) (sSub 1)) (fun t => (t.stream? 1023).map (fun y => y.batches.map (·.state)) == some [.queued]) = true
    ∧ gives (exec (.submitBatch 1023) (sSub 0)) (fun t => (t.stream? 1023).map (fun y => y.batches.length) == some 0) = true := by
  decide +kernel
/-- Stream 1023 RUNNING with a batch and the plan of one stage. -/
def strRun (b : Batch) : Stream := { str .running with
  plan := some plan1
  cring := { (str .idle).cring with turns := [{ idx := 2 }] }
  batches := [b] }
def sRun (b : Batch) : State := sCtl (some sess) [] [strRun b]
/-- Its session may hold 1 MiB of HBM. -/
def sQuota : State := sCtl (some { sess with quotaHbm := 1 }) [] [strRun (bat .queued)]
theorem witness_BatchesAreAcceptedAndStart_2 : (sRun (bat .queued)).sound = true
    ∧ (sRun (bat .queued)).open? 1023 = some (strRun (bat .queued)) ∧ (sRun (bat .queued)).stream? 1023 = some (strRun (bat .queued))
    ∧ (strRun (bat .queued)).plan = some plan1 ∧ (strRun (bat .queued)).batches.find? (·.state == .queued) = some (bat .queued)
    ∧ mayStart (strRun (bat .queued)) plan1 (bat .queued) = true ∧ quotaFits (sRun (bat .queued)) 63 4096 0 = true
    ∧ quotaFits sQuota 63 (2 ^ 21) 0 = false ∧ sQuota.batch? 1023 2 = some (bat .queued) ∧ sQuota.sound = true
    ∧ gives (exec (.batchStart 1023 (2 ^ 21)) sQuota) (fun t => match t.ringOut (.comp 1023) with
      | some o => o.turns.map (fun u => u.comp.map (·.status)) == [some stNoSpace]
      | none => false) = true
    ∧ gives (exec (.batchStart 1023 4096) (sRun (bat .queued))) (fun t => (t.batch? 1023 2).map (fun c => (c.state, c.start, c.runs.length))
        == some (.started, 10 ^ 12, 1)) = true := by decide +kernel
def runReady : StageRun := { ix := 0, readyAt := some 5 }
def batReady : Batch := { bat .started with runs := [runReady] }
theorem witness_StagesAreIssuedAndFinish_1 : (sRun batReady).sound = true ∧ (sRun batReady).open? 1023 = some (strRun batReady)
    ∧ (sRun batReady).batch? 1023 2 = some batReady ∧ batReady.runs.find? (·.ix == 0) = some runReady ∧ nextStage plan1 batReady = some 0
    ∧ (sRun batReady).power.issueGate = 0 ∧ cursorFree (strRun batReady) plan1 (plan1.stages.getD 0 []) = true
    ∧ unitsOk (sRun batReady) (strRun batReady) plan1 0 [51] = true
    ∧ servedFirst (sRun batReady) (strRun batReady) 2 (plan1.stages.getD 0 []) 5 = false ∧ batReady.state = .started
    ∧ gives (exec (.stageIssue 1023 2 0 [51]) (sRun batReady)) (fun t => t.assigns == [⟨pgTile 51, 1023, 2, 0⟩]
        && (t.run? 1023 2 0).map (·.issuedAt) == some (some (10 ^ 12))) = true := by decide +kernel
def runOut (e : Option (Nat × Nat)) : StageRun := { ix := 0, readyAt := some 5, issuedAt := some 6, pages := [pgTile 51], failure := e }
def batOut (e : Option (Nat × Nat)) : Batch := { bat .started with runs := [runOut e] }
def sOut (e : Option (Nat × Nat)) : State := { sRun (batOut e) with assigns := [⟨pgTile 51, 1023, 2, 0⟩] }
def sOut1 : State := { sOut none with freeCtr := (sOut none).freeCtr + 1 }
theorem witness_StagesAreIssuedAndFinish_2 : (sOut none).sound = true ∧ (sOut none).open? 1023 = some (strRun (batOut none))
    ∧ (sOut none).batch? 1023 2 = some (batOut none) ∧ (batOut none).runs.find? (·.ix == 0) = some (runOut none)
    ∧ stageReady sOut1 (strRun (batOut none)) plan1 (batOut none) (runOut none) = true
    ∧ (opFinish (mkCtx (sOut none) (strRun (batOut none)) plan1 (batOut none) 0 [pgTile 51]) plan1 (planRecs plan1 0) (runOut none)
        sOut1).2.toOption = some []
    ∧ lateSuits (mkCtx (sOut none) (strRun (batOut none)) plan1 (batOut none) 0 [pgTile 51]) (runOut none).ins [] = none
    ∧ gives (exec (.stageFinish 1023 2 0 .none) (sOut none)) (fun t => t.assigns == [] && (t.run? 1023 2 0).map (·.finished) == some true)
        = true := by decide +kernel
/-- The turn of record 2 of stream 1023 waits. -/
theorem turn_waits (x : Stream) (hc : x.cring.turns = [{ idx := 2 }]) (hs : x.slots = List.replicate 16 {}) : TurnWaits x 2 := by
  refine ⟨⟨{ idx := 2 }, by simp [hc], rfl, rfl⟩, ?_⟩
  intro q hq d hd
  have : q = {} := by simpa [hs] using hq
  subst this
  simp at hd
theorem turn_waits_run (b : Batch) : TurnWaits (strRun b) 2 := turn_waits _ rfl rfl
theorem witness_StagesAreIssuedAndFinish_3 : (sOut (some (stBounds, 48))).sound = true
    ∧ (sOut (some (stBounds, 48))).batch? 1023 2 = some (batOut (some (stBounds, 48)))
    ∧ (batOut (some (stBounds, 48))).runs.find? (·.ix == 0) = some (runOut (some (stBounds, 48)))
    ∧ gives (exec (.stageFinish 1023 2 0 .none) (sOut (some (stBounds, 48)))) (fun t => match t.ringOut (.comp 1023) with
      | some o => o.turns.map (fun u => u.comp.map (·.status)) == [some stBounds]
      | none => false) = true := by decide +kernel
def runFin : StageRun := { runOut none with finished := true }
def batFin : Batch := { bat .started with runs := [runFin] }
theorem witness_BatchesCommitOrTimeOut_1 : (sRun batFin).sound = true
    ∧ (strRun batFin).batches.find? (·.state == .started) = some batFin ∧ (sRun batFin).batch? 1023 2 = some batFin
    ∧ mayCommit (sRun batFin) (strRun batFin) plan1 batFin = true ∧ committedOuts plan1 batFin = [] ∧ batFin.updates = []
    ∧ batFin.runs.all (·.finished) = true
    ∧ gives (exec (.commitPoint 1023) (sRun batFin)) (fun t => match t.ringOut (.comp 1023) with
      | some o => o.turns.map (fun u => u.comp.map (·.status)) == [some stDone]
      | none => false) = true := by decide +kernel
/-- A stage that commits 8 elements to a buffer of 4096 bytes, and to one of none. -/
def outStage : List Byte := natLE 2 0x0204 ++ List.replicate 14 0 ++ List.replicate 16 0xFF ++ [0, 0xFE] ++ List.replicate 6 0xFF ++ List.replicate 216 0
def plan2 : Plan := ⟨[outStage], 0, 0, 0, [], []⟩
def noRoom : List Byte := natLE 8 (fenKey 1 0xA0000) ++ natLE 8 0 ++ List.replicate 16 0 ++ natLE 4 0 ++ [9, 0] ++ List.replicate 26 0
def batSmall : Batch := { bat .started with outDesc := [noRoom], runs := [{ runFin with outs := [some (mkCol 9 [some 1, some 2])] }] }
def strSmall : Stream := { strRun batSmall with plan := some plan2 }
def sSmall : State := sCtl (some sess) [] [strSmall]
theorem witness_BatchesCommitOrTimeOut_2 : sSmall.sound = true ∧ sSmall.batch? 1023 2 = some batSmall
    ∧ mayCommit sSmall strSmall plan2 batSmall = true
    ∧ ((committedOuts plan2 batSmall).find? fun q => !(outFits (Desc.of (batSmall.outDesc.getD q.2.2.1 [])) q.2.2.2)).isSome = true
    ∧ gives (exec (.commitPoint 1023) sSmall) (fun t => match t.ringOut (.comp 1023) with
      | some o => o.turns.map (fun u => u.comp.map (·.status)) == [some stNoSpace]
      | none => false) = true := by decide +kernel
/-- A RECEIVE stage with TIMEOUT 10 issued at tick 6, in a batch whose deadline is 100 ticks from its start. -/
def recvStage : List Byte := natLE 2 0x0801 ++ List.replicate 6 0 ++ natLE 4 10 ++ List.replicate 4 0 ++ List.replicate 16 0xFF
  ++ List.replicate 224 0
def plan3 : Plan := ⟨[recvStage], 0, 0, 0, [], []⟩
def batWait : Batch := { bat .started with deadline := 100, runs := [{ ix := 0, readyAt := some 5, issuedAt := some 6 }] }
def strWait : Stream := { strRun batWait with plan := some plan3 }
def sWait : State := sCtl (some sess) [] [strWait]
theorem witness_BatchesCommitOrTimeOut_3 : sWait.sound = true ∧ sWait.open? 1023 = some strWait ∧ sWait.batch? 1023 2 = some batWait
    ∧ pastDeadline sWait batWait = true ∧ batWait.runs.find? (·.ix == 0) = some { ix := 0, readyAt := some 5, issuedAt := some 6 }
    ∧ runExpired strWait sWait.tick { ix := 0, readyAt := some 5, issuedAt := some 6 } = true
    ∧ awaitedCame sWait strWait batWait { ix := 0, readyAt := some 5, issuedAt := some 6 } = false
    ∧ gives (exec (.deadlineExpiry 1023 2) sWait) (fun t => match t.ringOut (.comp 1023) with
      | some o => o.turns.map (fun u => u.comp.map (·.status)) == [some stTimeout]
      | none => false) = true
    ∧ gives (exec (.stageTimeout 1023 2 0) sWait) (fun t => match t.ringOut (.comp 1023) with
      | some o => o.turns.map (fun u => u.comp.map (·.status)) == [some stTimeout]
      | none => false) = true := by decide +kernel
theorem turn_waits_others : TurnWaits strSmall 2 ∧ TurnWaits strWait 2 := ⟨turn_waits _ rfl rfl, turn_waits _ rfl rfl⟩

/-! ### HALT, the Sluice and the Causeway -/

/-- HALT_SEQ of slot 63 at 1 and a HALT of SESSION scope in its mailbox; and one with a bad scope. -/
def bHalt (scope : Byte) : List Byte := natLE 2 0x30 ++ natLE 2 0 ++ natLE 2 0xFFFF ++ natLE 2 63 ++ natLE 8 9 ++ natLE 8 0 ++ [scope]
  ++ List.replicate 103 0
def sHalt (scope : Byte) : State := { sCtl (some sess) [] [strB .running .started] with
  mem := memPut (memPut [] (haltSeqAddr 63) [1]) (mailboxAddr 63) (bHalt scope) }
def sHalt2 (scope : Byte) : State := (read64 (sHalt scope) (haltSeqAddr 63)).1.setSlot 63 fun k => { k with haltSeq := 1 }
theorem witness_HaltsStopEveryStreamInScope_1 : (sHalt 1).sound = true ∧ (sHalt 3).sound = true ∧ (sHalt 3).clean = true ∧ (sHalt 1).trust.ready = true ∧ (sHalt 1).clean = true
    ∧ (read64 (sHalt 1) (haltSeqAddr 63)).2 = .ok 1 ∧ 1 ≠ ((sHalt 1).slot 63).haltSeq
    ∧ (devRead (sHalt2 1) (mailboxAddr 63) 128).2 = .ok (bHalt 1) ∧ pickFail (haltFails (sHalt 1) 63 ⟨1, bHalt 1⟩) = none
    ∧ (sHalt 1).fab.held = false
    ∧ (devRead (sHalt2 3) (mailboxAddr 63) 128).2 = .ok (bHalt 3)
    ∧ pickFail (haltFails (sHalt 3) 63 ⟨1, bHalt 3⟩) ≠ none
    ∧ gives (exec (.halt 63) (sHalt 1)) (fun t => t.streamState 1023 == .halted && (t.slot 63).haltSeq == 1) = true
    ∧ gives (exec (.halt 63) (sHalt 3)) (fun t => t.streamState 1023 == .running && (t.slot 63).haltSeq == 1) = true := by decide +kernel
/-- A HALT of slot 63 that waits for stack 11's engine to receive its message, or to answer it. -/
def hop (r a : List (StopUnit × List Nat)) : HaltOp := ⟨some 63, 9, false, 1, 1, 0xFFFF, [1023], [1023], r, a, 0⟩
def win : Window := ⟨1023, 2, 0, pgTile 51, 7, [], .lookup, [], 11, 0, [], 0, 0⟩
def sMsg : State := { sCtl (some sess) [] [str .halted] with
  tables := { base.tables with culvs := setAt base.tables.culvs 11 { queue := [win] } } }
def sHop (r a : List (StopUnit × List Nat)) : State := { sMsg with disp := { sMsg.disp with halts := [hop r a] } }
theorem witness_HaltsStopEveryStreamInScope_2 : (sHop [(.culv 11, [1023])] []).sound = true
    ∧ (∃ h ∈ (sHop [(.culv 11, [1023])] []).disp.halts, ∃ e ∈ h.toReceive, e.1 = .culv 11)
    ∧ (sHop [] [(.culv 11, [1023])]).sound = true ∧ ((sHop [] [(.culv 11, [1023])]).slot 63).scomp.isSome = true
    ∧ (sHop [] [(.culv 11, [1023])]).fab.phase = .none
    ∧ HaltOp.done { hop [] [(.culv 11, [1023])] with toAck := [] } (sHop [] [(.culv 11, [1023])]) = true
    ∧ gives (exec (.haltMessage (.culv 11)) (sHop [(.culv 11, [1023])] [])) (fun t => (t.culv 11).queue == []
        && t.disp.halts == [hop [] [(.culv 11, [1023])]]) = true
    ∧ gives (exec (.stopAck (.culv 11)) (sHop [] [(.culv 11, [1023])])) (fun t => match t.ringOut (.scomp 63) with
      | some o => o.turns.map (fun u => u.comp.map (fun c => (c.status, c.tag, c.count))) == [some (stDone, 9, 1)]
      | none => false) = true := by decide +kernel
/-- A HALTED stream whose batch has still to be stopped. -/
def strStop : Stream := { strRun { bat .started with stopped := true } with state := .halted }
def sStop : State := sCtl (some sess) [] [strStop]
theorem witness_HaltsStopEveryStreamInScope_3 : sStop.sound = true ∧ sStop.open? 1023 = some strStop ∧ sStop.stream? 1023 = some strStop
    ∧ strStop.state = .halted ∧ streamStopped sStop 1023 = true ∧ (strStop.batches.map (·.idx)).Nodup ∧ strStop.resetWait = []
    ∧ gives (exec (.streamStopDone 1023) sStop) (fun t => (t.stream? 1023).map (fun y => y.batches.map (·.state)) == some [.done]) = true := by
  decide +kernel
def sDrain (ask : Bool) : State := { base with fab := { base.fab with phase := .draining, holdAsked := ask } }
/-- GO with SCOPE 1 of slot 63, and with SCOPE 2. -/
def vGo : Word := 0x800000000400003F
def sStrs : State := sCtl (some sess) [] [strB .running .started]
theorem witness_SluiceDrainsAndMcHalts : (sDrain true).fab.phase = .draining ∧ lanesEmpty (sDrain true) = true
    ∧ lanesEmpty (sDrain false) = true ∧ sStrs.sound = true ∧ regGate sStrs .mc (pgFab + 0x430) = .through ∧ pageEn sStrs pgFab = true
    ∧ bit vGo 63 = true ∧ sStrs.fab.mcBusy = false ∧ fld vGo 27 26 ≠ 3 ∧ sStrs.trust.ready = true
    ∧ (Agent.host ≠ .mc) ∧ regGate sStrs .host (pgFab + 0x430) = .through
    ∧ sHold.sound = true ∧ regGate sHold .mc (pgFab + 0x430) = .through ∧ bit 0x4000000000000000 62 = true ∧ sHold.fab.held = true
    ∧ gives (exec .sluiceDrained (sDrain false)) (fun t => t.fab.phase == .none && !t.fab.held) = true
    ∧ gives (exec .sluiceDrained (sDrain true)) (fun t => t.fab.phase == .quiet && t.fab.held) = true
    ∧ gives (exec (.mcHaltGo .mc vGo) sStrs) (fun t => t.streamState 1023 == .halted && t.fab.mcStreams == 1) = true
    ∧ gives (exec (.mcHaltGo .host vGo) sStrs) (fun t => t.streamState 1023 == .running) = true
    ∧ gives (exec (.mcHaltRelease .mc 0x4000000000000000) sHold) (fun t => !t.fab.held) = true := by decide +kernel
def sOwn : State := { sCtl (some sess) [] [str .running] with mem := memPut [] (ownerAddr 63) [5] }
def sPeer : State := { base with disp := { base.disp with peers := [⟨63, 12, 0, 5, 0x0202, 0, 1, []⟩] } }
theorem witness_SlotsAndPeersAreFreed : sOwn.sound = true ∧ regGate sOwn .mc (pgDisp + 0x418) = .through ∧ pageEn sOwn pgDisp = true
    ∧ bit 0x800000000000003F 63 = true ∧ fld 0x800000000000003F 5 0 = 63
    ∧ (read64 (answer sOwn .done) (ownerAddr (fld 0x800000000000003F 5 0))).2 = .ok 5 ∧ (5 ≠ 0)
    ∧ (∃ p ∈ sPeer.disp.peers, p.session = 63 ∧ p.peer = 12) ∧ peerNamed sPeer 12 = false
    ∧ gives (exec (.slotReclaim .mc 0x800000000000003F) sOwn) (fun t => t.slot 63 == {} && t.disp.streams == []) = true
    ∧ gives (exec (.peerSessionClose 63 12) sPeer) (fun t => t.disp.peers == []) = true := by decide +kernel

/-! ### SNAPSHOT, ATTEST and quotes -/

/-- Every page with PG_CTL.EN 0 is out of the snapshot; here only STILL's is left in. -/
theorem witness_SnapshotAndAttestRecords_1 : (sCtl (some sess) (rNone 0x40).bytes []).sound = true
    ∧ frontCtl (sCtl (some sess) (rNone 0x40).bytes []) 63 0x40 = some (rNone 0x40) ∧ commonFails (rNone 0x40) 63 false 24 = []
    ∧ noStreamFails (rNone 0x40) = [] ∧ ((sCtl (some sess) (rNone 0x40).bytes []).session 63).isSome = true
    ∧ (sCtl (some sess) (rNone 0x40).bytes []).still.mergeOpen = false
    ∧ gives (exec (.snapshot 63) (sCtl (some sess) (rNone 0x40).bytes [])) (fun t => t.still.waiting == [(63, 0, 1)]
        && t.reg (pgStill + 0x428) == 16) = true := by decide +kernel
/-- ATTEST of register 15 to a buffer of 1496 bytes, and of 1495. -/
def rAtt (len : Nat) : Rec := ⟨0, mkRec 0x41 0xFFFF (List.replicate 32 7 ++ natLE 8 (fenKey 1 0xA0000) ++ natLE 4 len ++ natLE 2 0x8000)⟩
def sAtt (len : Nat) : State := sCtl (some sess) (rAtt len).bytes []
theorem witness_SnapshotAndAttestRecords_2 : (sAtt 1496).sound = true ∧ frontCtl (sAtt 1496) 63 0x41 = some (rAtt 1496)
    ∧ pickFail (attestFails (takeCtl (sAtt 1496) 63 (rAtt 1496)) 63 (rAtt 1496)) = none
    ∧ (sAtt 1495).sound = true ∧ frontCtl (sAtt 1495) 63 0x41 = some (rAtt 1495)
    ∧ (pickFail (attestFails (takeCtl (sAtt 1495) 63 (rAtt 1495)) 63 (rAtt 1495))).map (·.status) = some stNoSpace
    ∧ gives (exec (.attest 63) (sAtt 1496)) (fun t => t.trust.quotes == [.record 63 0 (fenKey 1 0xA0000) 1496 0x8000 (List.replicate 32 7)]) = true
    ∧ gives (exec (.attest 63) (sAtt 1495)) (fun t => completed t stNoSpace 1496) = true := by decide +kernel
/-- A quote waits and its ATTEST is in progress. -/
def sQuote : State := (sCtl (some sess) [] []).setSlot 63 fun k => { k with inflight := [rAtt 1496] }
def sQuote1 : State := sQuote.setTrust fun t => { t with quotes := [.record 63 0 (fenKey 1 0xA0000) 1496 0x8000 []] }
theorem witness_SnapshotAndAttestRecords_3 : sQuote1.sound = true
    ∧ sQuote1.trust.quotes = .record 63 0 (fenKey 1 0xA0000) 1496 0x8000 [] :: [] ∧ sQuote1.power.vinGood = true
    ∧ hasIdentity sQuote1 = true ∧ (sQuote1.slot 63).scomp.isSome = true ∧ inflightRec sQuote1 63 0 = some (rAtt 1496) := by decide +kernel

/-! ### Links and the field self-test -/

def sTest : State := { sHold with disp := { sHold.disp with residents := [⟨1023, 0, [13, 14], 4, []⟩] } }
theorem witness_LinksAndFieldTest : base.sound = true ∧ 7 < 8 ∧ linkUp base 7 = true ∧ linkPowered base 7 = true
    ∧ (base.reg (pgD2d 7 + 0x418)).toNat + 1 < 2 ^ 32 ∧ base.fab.repairing.length = 8 ∧ regGate base .mc (pgD2d 7 + 0x430) = .through
    ∧ pageEn base (pgD2d 7) = true ∧ regGate base .host (pgD2d 7 + 0x430) = .through ∧ base.fab.repairing.getD 7 false = false
    ∧ poolUsed base.fuses (linkPool 7) < poolSize (linkPool 7) ∧ sTest.sound = true ∧ 1 < 4 ∧ sTest.fab.held = true
    ∧ (sTest.die 1).power ≠ .off := by decide +kernel
theorem test_d2d_replay_counts : gives (exec (.d2dReplay 7 false) base) (fun t => t.rfld (pgD2d 7 + 0x418) 31 0 == 1) = true := by decide +kernel
theorem test_retrain_keeps_link : gives (exec (.d2dRetrain 7 true) base) (fun t => linkUp t 7 && t.cutOff == []) = true := by decide +kernel
theorem test_lane_repair_by_mc : gives (exec (.laneRepair .mc 7 5) base) (fun t => t.fab.repairing.getD 7 false) = true := by decide +kernel
theorem test_lane_repair_by_host : gives (exec (.laneRepair .host 7 5) base) (fun t => !(t.fab.repairing.getD 7 false)) = true := by decide +kernel

/-! ### The Weir and fetch engines -/

/-- Stream 1023 holds blocks on tile 51. -/
def strHold (h : Hold) : Stream := { str .running with holds := [h], floorBlocks := h.floor }
def sWeir (h : Hold) : State := sCtl (some sess) [] [strHold h]
def hFree : Hold := { tile := 51, floor := 16, held := 20 }
def hZero : Hold := { tile := 51, floor := 0, held := 1000 }
def hWant : Hold := { tile := 51, floor := 0, held := 1000, wanted := 100 }
def hSpill : Hold := { tile := 51, floor := 0, held := 0, spilling := 3, spilled := 3 }
def hBack : Hold := { tile := 51, floor := 0, held := 0, spilled := 1024 }
theorem witness_WeirGrantsSpillsAndRestores_1 : (sWeir hFree).sound = true ∧ (sWeir hFree).hold? 51 1023 = some hFree ∧ hFree.spilled = 0 ∧ hFree.spilling = 0
    ∧ winnerWaits (sWeir hFree) 51 1023 = false
    ∧ max hFree.floor (hFree.held + 1004) - max hFree.floor hFree.held ≤ freeBlocks (sWeir hFree) 51
    ∧ ¬ (max hFree.floor (hFree.held + 1005) - max hFree.floor hFree.held ≤ freeBlocks (sWeir hFree) 51) ∧ hFree.floor ≠ 0
    ∧ (sWeir hZero).hold? 51 1023 = some hZero ∧ hZero.floor = 0
    ∧ ¬ (max hZero.floor (hZero.held + 100) - max hZero.floor hZero.held ≤ freeBlocks (sWeir hZero) 51)
    ∧ gives (exec (.weirGrant 51 1023 1004) (sWeir hFree)) (fun t => (t.hold? 51 1023).map (·.held) == some 1024) = true
    ∧ gives (exec (.weirGrant 51 1023 1005) (sWeir hFree)) (fun t => (t.hold? 51 1023).map (·.held) == some 20) = true
    ∧ gives (exec (.weirGrant 51 1023 100) (sWeir hZero)) (fun t => t.hold? 51 1023 == some hWant) = true := by decide +kernel
/-- Stream 2 holds blocks of tile 51 beyond its floor while stream 1023 waits there. -/
def sEdge : State := sCtl (some sess) [] [strHold hWant, { strHold hFree with id := 2, order := 1 }]
theorem witness_WeirGrantsSpillsAndRestores_2 : (sWeir hWant).sound = true ∧ (sWeir hWant).hold? 51 1023 = some hWant ∧ hWant.wanted ≠ 0
    ∧ (sWeir hSpill).hold? 51 1023 = some hSpill ∧ hSpill.spilling ≠ 0
    ∧ (sWeir hBack).hold? 51 1023 = some hBack ∧ hBack.spilled ≠ 0 ∧ hBack.spilling = 0 ∧ hBack.spilled ≤ freeBlocks (sWeir hBack) 51
    ∧ sEdge.sound = true ∧ sEdge.hold? 51 1023 = some hWant
    ∧ gives (exec (.weirEdge 51 1023) sEdge) (fun t => t.fab.edges == [⟨51, 1023, 2⟩]) = true
    ∧ gives (exec (.spillBlockWritten 51 1023) (sWeir hSpill)) (fun t => (t.hold? 51 1023).map (·.spilling) == some 2) = true
    ∧ gives (exec (.sloughRestore 51 1023) (sWeir hBack)) (fun t => (t.hold? 51 1023).map (fun h => (h.held, h.spilled)) == some (1024, 0))
        = true := by decide +kernel
/-- Two floor-zero streams that wait on each other for blocks of tile 51. -/
def hCyc : Hold := { tile := 51, floor := 0, held := 512, wanted := 10 }
def sCycle : State := { sCtl (some sess) [] [{ strHold hCyc with id := 1, order := 0 }, { strHold hCyc with id := 2, order := 1 }] with
  fab := { base.fab with edges := [⟨51, 1, 2⟩, ⟨51, 2, 1⟩] } }
theorem witness_WaitCyclesAreResolved : base.sound = true ∧ findCycle base.fab.edges = [] ∧ sCycle.sound = true
    ∧ (∀ e ∈ sCycle.fab.edges, e.waiter ≠ e.holder) ∧ findCycle sCycle.fab.edges ≠ []
    ∧ gives (exec .waitGraphCheck sCycle) (fun t => findCycle t.fab.edges == []) = true := by decide +kernel
/-- Tile 51's engine with a merge group that crosses a 4 KiB boundary; with a request out; and with one more waiting. -/
def sMove (m : Mover) : State := { base with disp := { base.disp with movers := setAt base.disp.movers 51 m } }
def grp : Group := ⟨1023, false, 4000, 200, 0⟩
def grpNew : Group := ⟨1023, false, 4000, 200, 10 ^ 12⟩
def wq : Request := ⟨1023, 2, 4096, 64⟩
def mGrp : Mover := { groups := [grp] }
def mNew : Mover := { groups := [grpNew] }
def mOut : Mover := { out := [⟨1023, 2, 0, 64⟩] }
def mWait : Mover := { out := [⟨1023, 2, 0, 64⟩], waiting := [wq] }
theorem witness_FetchAndStepsOnTiles_1 : (sMove mGrp).sound = true ∧ 51 < 52 ∧ ((sMove mGrp).mover 51).groups[0]? = some grp
    ∧ groupDue (sMove mGrp) ((sMove mGrp).mover 51) grp = true ∧ ((sMove mNew).mover 51).groups[0]? = some grpNew
    ∧ groupDue (sMove mNew) ((sMove mNew).mover 51) grpNew = false ∧ (sMove mNew).sound = true
    ∧ (requestsOf (200 / 4096 + 2) 4000 200).length = 2 ∧ (∃ e ∈ ((sMove mOut).mover 51).out, e.pool = poolNum .write)
    ∧ ((sMove mOut).mover 51).feeds = [] ∧ ((sMove mOut).mover 51).waiting = [] ∧ (sMove mOut).sound = true ∧ (sMove mWait).sound = true
    ∧ (∃ e ∈ ((sMove mWait).mover 51).out, e.pool = poolNum .write) ∧ ((sMove mWait).mover 51).waiting = wq :: []
    ∧ ((sMove mWait).mover 51).feeds = [] ∧ wq.pool = poolNum .write
    ∧ (((sMove mWait).mover 51).out.filter (·.pool == wq.pool)).length ≤ poolDepth wq.pool
    ∧ gives (exec (.mergeGroupIssue 51 0) (sMove mNew)) (fun t => (t.mover 51).groups == [grpNew]) = true
    ∧ gives (exec (.mergeGroupIssue 51 0) (sMove mGrp)) (fun t => (t.mover 51).groups == [] && (t.mover 51).out.length == 2) = true
    ∧ gives (exec (.creditReturn (.tile 51 .write) 0) (sMove mOut)) (fun t => (t.mover 51).out == []) = true
    ∧ gives (exec (.creditReturn (.tile 51 .write) 3) (sMove mWait)) (fun t => (t.mover 51).out == [wq]
        && (t.mover 51).waiting == []) = true := by decide +kernel
/-- A response of stack 11's engine on its way to tile 51; and a packet of two flits whose second hop is full of its own. -/
def sBack : State := { sRun { bat .started with runs := [{ ix := 0, issuedAt := some 6, windows := 1 }] } with
  tables := { base.tables with culvs := setAt base.tables.culvs 11 { back := [win] } } }
def sLane : State := { base with fab := { base.fab with packets := [⟨.wake 5, 0, [0, 1], 0, [1, 1]⟩] } }
theorem witness_FetchAndStepsOnTiles_3 : sBack.sound = true ∧ 11 < 12 ∧ (sBack.culv 11).back.find? (·.page == pgTile 51) = some win
    ∧ sBack.run? win.stream win.batch win.stage = some { ix := 0, issuedAt := some 6, windows := 1 }
    ∧ sLane.sound = true ∧ 0 < 336 ∧ 0 < 5 ∧ 0 ≠ laneRsp ∧ (∀ p ∈ sLane.fab.packets, p.route.Nodup)
    ∧ leaveFirst sLane 1 0 sLane.fab.packets = some ([⟨.wake 5, 0, [0, 1], 0, [1, 0]⟩], none, none)
    ∧ enterFirst 1 0 [⟨.wake 5, 0, [0, 2], 0, [1, 0]⟩] = none
    ∧ leaveFirst sLane 0 0 sLane.fab.packets = some ([⟨.wake 5, 0, [0, 1], 0, [0, 2]⟩], some 1, none)
    ∧ enterFirst 0 0 [⟨.wake 5, 0, [0, 1], 0, [0, 2]⟩] = none
    ∧ gives (exec (.creditReturn (.culvert 51 11) 0) sBack) (fun t => (t.culv 11).back == []
        && (t.run? 1023 2 0).map (·.windows) == some 0) = true
    ∧ gives (exec (.creditReturn (.lane 0 0) 0) sLane) (fun t => laneUsed t 0 0 == 0 && laneUsed t 1 0 == 2) = true := by
  decide +kernel
/-- A resident stage of two tiles in its first rotation step, with a row whose lists are still to be merged. -/
def runStep : StageRun := { ix := 0, issuedAt := some 6, pages := [pgTile 0, pgTile 1], steps := [0, 0], merges := [4, 5] }
def sStep : State := sRun { bat .started with runs := [runStep] }
theorem witness_FetchAndStepsOnTiles_2 : sStep.sound = true ∧ sStep.run? 1023 2 0 = some runStep ∧ runStep.finished = false
    ∧ 1 < runStep.pages.length ∧ runStep.steps.getD 1 runStep.pages.length < runStep.pages.length
    ∧ runStep.steps.getD 1 runStep.pages.length ≤ runStep.steps.getD ((1 + runStep.pages.length - 1) % runStep.pages.length) 0
    ∧ 5 ∈ runStep.merges
    ∧ gives (exec (.ringStep 1023 2 0 1 0) sStep) (fun t => (t.run? 1023 2 0).map (·.steps) == some [0, 1]) = true
    ∧ gives (exec (.partialListMerge 1023 2 0 5) sStep) (fun t => (t.run? 1023 2 0).map (·.merges) == some [4]) = true := by
  decide +kernel

/-! ### Hot rows and tables -/

def sCulv (c : Culv) : State := { base with tables := { base.tables with culvs := setAt base.tables.culvs 11 c } }
def chg : HotChange := ⟨7, 3, [⟨0, 64, 1⟩], [], false⟩
def cChg : Culv := { changes := [chg], sketch := [(5, 9), (6, 1)] }
def cFull : Culv := { changes := [chg], live := [(7, 1, 1), (7, 2, 0), (7, 3, 0), (7, 4, 0)] }
theorem witness_HotRowsFollowEpochs_1 : (sCulv cChg).sound = true ∧ 11 < 12 ∧ stackAsleep (sCulv cChg) 11 = false
    ∧ ((sCulv cChg).culv 11).decayAt + 25000 ≤ (sCulv cChg).tick
    ∧ ((sCulv cChg).culv 11).changes.find? (·.table == 7) = some chg ∧ ((sCulv cChg).culv 11).liveCount 7 < 4
    ∧ ((sCulv cFull).culv 11).changes.find? (·.table == 7) = some chg ∧ 4 ≤ ((sCulv cFull).culv 11).liveCount 7
    ∧ quiescing { sCulv cChg with fab := { base.fab with phase := .quiet } } = true
    ∧ gives (exec (.decayStep 11) (sCulv cChg)) (fun t => (t.culv 11).sketch == [(5, 4)]) = true
    ∧ gives (exec (.epochAdvance 11 7) (sCulv cChg)) (fun t => (t.culv 11).epochOf 7 == 1 && t.tables.epochMsgs.length == 4) = true
    ∧ gives (exec (.epochAdvance 11 7) (sCulv cFull)) (fun t => (t.culv 11).epochOf 7 == 0) = true := by decide +kernel
def lst : Listing := ⟨11, 7, 2, 0, []⟩
def sEpoch : State := { base with tables := { base.tables with epochMsgs := [(3, lst)] } }
def lv : Leaving := ⟨7, 3, 1, [⟨0, 64, 1⟩], none⟩
def cDry : Culv := { leaving := [lv] }
def cWet : Culv := { leaving := [lv], live := [(7, 1, 1)] }
theorem witness_HotRowsFollowEpochs_2 : sEpoch.sound = true ∧ 3 < 4 ∧ sEpoch.tables.epochMsgs.find? (·.1 == 3) = some (3, lst)
    ∧ (sCulv cDry).sound = true ∧ ((sCulv cDry).culv 11).leaving.find? (fun l => l.table == 7 && l.version.isNone) = some lv
    ∧ epochDrained (sCulv cDry) 11 7 1 = true ∧ (sCulv cWet).sound = true
    ∧ ((sCulv cWet).culv 11).leaving.find? (fun l => l.table == 7 && l.version.isNone) = some lv
    ∧ epochDrained (sCulv cWet) 11 7 1 = false
    ∧ gives (exec (.epoch 3) sEpoch) (fun t => (listingOf t 3 11 7).map (·.epoch) == some 2 && t.tables.epochMsgs == []) = true
    ∧ gives (exec (.replicaSlotFree 11 7) (sCulv cDry)) (fun t => (t.culv 11).leaving == []) = true
    ∧ gives (exec (.replicaSlotFree 11 7) (sCulv cWet)) (fun t => (t.culv 11).leaving == [lv]) = true := by decide +kernel
/-- HUMMOCK_HBM of 4096 MiB from 0, then of 4097; HUMMOCK_FEN of 1024 MiB from 7168, then from 7169. -/
theorem witness_HotRowsFollowEpochs_3 : base.sound = true ∧ pageEn base (pgCulv 11) = true
    ∧ regGate base .mc (pgCulv 11 + 0x4E0) = .through ∧ bit 0x8000000000000000 63 = true ∧ regGate base .mc (pgCulv 11 + 0x488) = .through
    ∧ hummockTakes base 11 false 0x0000100000000000 = true ∧ hummockTakes base 11 false 0x0000100100000000 = false
    ∧ regGate base .mc (pgCulv 11 + 0x490) = .through ∧ hummockTakes base 11 true 0x0000040000001C00 = true
    ∧ hummockTakes base 11 true 0x0000040000001C01 = false
    ∧ gives (exec (.sketchClear .mc 11 0x8000000000000000) (sCulv cChg)) (fun t => (t.culv 11).sketch == []) = true
    ∧ gives (exec (.hummockHbmWrite .mc 11 0x0000100000000000) base) (fun t => t.rfld (pgCulv 11 + 0x488) 47 32 == 4096) = true
    ∧ gives (exec (.hummockFenWrite .mc 11 0x0000040000001C00) base) (fun t => t.rfld (pgCulv 11 + 0x490) 12 0 == 7168) = true := by
  decide +kernel
/-- A look-up window of stream 1023 on stack 11's engine, the only one its stage waits for. -/
def winRun : StageRun := { ix := 0, issuedAt := some 6, windows := 1 }
def sWin : State := { sRun { bat .started with runs := [winRun] } with
  tables := { base.tables with culvs := setAt base.tables.culvs 11 { queue := [win] } } }
/-- Its engine makes no row hot. -/
def sStill11 : State := sWin.setReg (pgCulv 11 + 0x480) 0
theorem witness_WindowsAndTableSwitches_1 : sWin.sound = true ∧ 11 < 12 ∧ sStill11.clean = true ∧ hotEn sStill11 11 = false ∧ sStill11.sound = true
    ∧ nextWindow (sStill11.culv 11) (sStill11.rfld (pgCulv 11 + 0x440) 3 0) = some win := by decide +kernel
/-- A TABLE_SWITCH stage of table 7 that waits for the reservation, or holds it. -/
def tabRec : List Byte := natLE 2 7 ++ List.replicate 126 0
def planSw : Plan := ⟨[natLE 2 0x0203 ++ List.replicate 254 0], 0, 0, 0, [(0, tabRec)], []⟩
def strSw : Stream := { strRun { bat .started with runs := [{ ix := 0, readyAt := some 5, issuedAt := some 6 }] } with plan := some planSw }
def tabEnt (r : Option (Nat × Nat)) (ds : List Drain) : TableEnt := { id := 7, record := tabRec, slot := 63, serial := 1, reserved := r, drains := ds }
def sTab (r : Option (Nat × Nat)) (ds : List Drain) : State := { sCtl (some sess) [] [strSw] with
  tables := { base.tables with dirs := [tabEnt r ds] } }
theorem witness_WindowsAndTableSwitches_2 : (sTab none []).sound = true ∧ (sTab none []).table? 7 = some (tabEnt none [])
    ∧ firstWaiter (switchWaiters (sTab none []) 7) = some (5, 1023, 2) ∧ (tabEnt none []).reserved = none
    ∧ firstWaiter (switchWaiters (sTab (some (4, 4)) []) 7) = some (5, 1023, 2) ∧ (tabEnt (some (4, 4)) []).reserved ≠ none
    ∧ (sTab (some (1023, 2)) []).table? 7 = some (tabEnt (some (1023, 2)) [])
    ∧ targetFree (sTab (some (1023, 2)) []) (tabEnt (some (1023, 2)) []) (1023, 2) = true
    ∧ targetFree (sTab (some (1023, 2)) [⟨1, 2, false, 0, 1023⟩]) (tabEnt (some (1023, 2)) [⟨1, 2, false, 0, 1023⟩]) (1023, 2) = false
    ∧ gives (exec (.switchReservation 7) (sTab none [])) (fun t => (t.table? 7).map (·.reserved) == some (some (1023, 2))) = true
    ∧ gives (exec (.switchTargetReady 7) (sTab (some (1023, 2)) [])) (fun t => (t.run? 1023 2 0).map (·.arrived) == some true) = true := by
  decide +kernel
theorem witness_WindowsAndTableSwitches_3 : (sTab none [⟨0, 1, false, 0, 1023⟩]).table? 7 = some (tabEnt none [⟨0, 1, false, 0, 1023⟩])
    ∧ (tabEnt none [⟨0, 1, false, 0, 1023⟩]).drains.find? (fun d => pinCount (sTab none [⟨0, 1, false, 0, 1023⟩]) 7 (· == d.version) none == 0)
        = some ⟨0, 1, false, 0, 1023⟩
    ∧ (∀ k, k < 12 → ∀ l ∈ ((sTab none [⟨0, 1, false, 0, 1023⟩]).culv k).leaving, l.table = 7 → l.version = some 0 →
        epochDrained (sTab none [⟨0, 1, false, 0, 1023⟩]) k 7 l.epoch = true)
    ∧ gives (exec (.versionDrain 7) (sTab none [⟨0, 1, false, 0, 1023⟩])) (fun t => (t.table? 7).map (·.drains) == some []) = true := by
  decide +kernel

/-! ### The Reedbed -/

def sReed (r : Reed) : State := { base with reeds := setAt base.reeds 3 r }
def setR : List Byte := natLE 2 9 ++ [3, 1] ++ natLE 4 1 ++ List.replicate 56 0
/-- A SEARCH stage of a set of no bank, with one key waiting on die 3. -/
def planSe : Plan := ⟨[natLE 2 0x0500 ++ List.replicate 254 0], 0, 0, 0, [(0, setR)], []⟩
def runKey : StageRun := { ix := 0, issuedAt := some 6, keys := [8] }
def sKey : State := { sCtl (some sess) [] [{ strRun { bat .started with runs := [runKey] } with plan := some planSe }] with
  reeds := setAt base.reeds 3 { keys := [⟨1023, 2, 0, 8, 0⟩] } }
theorem witness_ReedbedSearchesScrubsAndSpares_1 : sKey.sound = true ∧ (keyTurns (sKey.reed 3)).head? = some ⟨1023, 2, 0, 8, 0⟩
    ∧ (sKey.die 3).power = .active ∧ sKey.run? 1023 2 0 = some runKey
    ∧ candidates (sKey.reed 3).bank (fieldN (stageRec sKey 1023 0) 56 4)
        (keyUnits (stageRec sKey 1023 0) (SetRec.of ((stageTabs sKey 1023 0).getD 0 [])).width runKey.ins 8) = []
    ∧ gives (exec (.searchKey 3 [] []) sKey) (fun t => (t.run? 1023 2 0).map (·.verdicts) == some [(8, [0, 0, 0])]) = true := by
  decide +kernel
def ent : RbEntry := { valid := true, value := [1], care := [255], prio := 2, result := 77 }
def sScrub : State := sReed { bank := [(5, { ent with value := [0] })], shadow := [(5, ent)] }
def sFill : State := sReed { bank := [(5, ent)], shadow := [(4096, ent)], copying := some (1, 6) }
theorem witness_ReedbedSearchesScrubsAndSpares_2 : sScrub.sound = true ∧ (sScrub.die 3).power = .active
    ∧ sScrub.rfld (pgReed 3 + 0x478) 8 8 ≠ 0 ∧ (sScrub.reed 3).scrubAt + sScrub.rfld (pgReed 3 + 0x478) 7 0 * 25000 ≤ sScrub.tick
    ∧ (sScrub.reed 3).updates = [] ∧ sFill.sound = true ∧ (sFill.reed 3).copying = some (1, 6) ∧ quiescing sFill = false
    ∧ (sFill.reed 3).updates = [] ∧ quiescing { sFill with fab := { base.fab with phase := .quiet } } = true
    ∧ gives (exec (.reedbedScrub 3 []) sScrub) (fun t => entryAt (t.reed 3).bank 5 == ent) = true
    ∧ gives (exec (.bankSpareFillEnd 3) sFill) (fun t => (t.reed 3).copying == none && entryAt (t.reed 3).bank 4096 == ent
        && entryAt (t.reed 3).bank 5 == ent) = true := by decide +kernel
def sSet : State := { base with sets := [⟨9, setR, 63, 1⟩] }
def upd : RbUpdate := ⟨1023, 2, 9, [0, 0] ++ natLE 2 1 ++ [2, 0, 0, 0] ++ natLE 4 77 ++ List.replicate 4 0 ++ List.replicate 80 255⟩
def sUpd : State := { sSet with reeds := setAt base.reeds 3 { updates := [upd] } }
theorem witness_ReedbedSearchesScrubsAndSpares_3 : sSet.sound = true ∧ regGate sSet .mc (pgReed 3 + 0x428) = .through
    ∧ pageEn sSet (pgReed 3) = true ∧ (sSet.reed 3).copying = none ∧ regGate sSet .host (pgReed 3 + 0x428) = .through
    ∧ fld 0 5 0 < 32 ∧ sSet.fuses.repair.reedFree.getD 3 [] ≠ [] ∧ poolUsed sSet.fuses 3 < poolSize 3
    ∧ bankInSet sSet 3 (fld 0 5 0) = true
    ∧ sUpd.sound = true ∧ sUpd.clean = true ∧ (sUpd.reed 3).updates = upd :: [] ∧ (sUpd.die 3).power = .active ∧ sUpd.set? upd.set_ = some ⟨9, setR, 63, 1⟩
    ∧ gives (exec (.bankSpare .mc 3 0) sSet) (fun t => (t.reed 3).copying == some (0, 0) && poolUsed t.fuses 3 == 1) = true
    ∧ gives (exec (.bankSpare .host 3 0) sSet) (fun t => (t.reed 3).copying == none) = true
    ∧ gives (exec (.updateVerifyDrain 3) sUpd) (fun t => (t.reed 3).updates == [] && (entryAt (t.reed 3).shadow 1).result == 77) = true := by
  decide +kernel

/-! ### Ethernet -/

/-- A context of queue pair 0x105 on port 1 that grants 4096 bytes of Fen memory for writes, reads and atomics. -/
def qctx : List Byte := [1, 0x38, 1, 0] ++ natLE 4 0 ++ natLE 4 7 ++ natLE 4 0xFFFFFF ++ List.replicate 24 0 ++ natLE 8 (fenKey 1 0x100000)
  ++ natLE 8 4096 ++ natLE 4 0xABCD ++ [0, 2, 7, 31] ++ List.replicate 64 0
def qpr : Qp := { index := 5, ctx := qctx, addr := fenKey 1 0xC0000, state := .ready, recvPsn := 0xFFFFFF }
/-- A RECEIVE stage of transfer slot 15 whose source is queue pair 0x105, or UDP port 53 of Ethernet port 1. -/
def ingressStage (kind port n : Nat) : List Byte :=
  natLE 2 0x0801 ++ List.replicate 46 0 ++ natLE 1 kind ++ natLE 1 port ++ [15, 0] ++ natLE 4 n ++ List.replicate 200 0
def bigDesc : SlotDesc :=
  { bytes := natLE 8 (fenKey 1 0x200000) ++ natLE 8 65536 ++ List.replicate 21 0 ++ [3] ++ List.replicate 26 0, gen := 1, idx := 1 }
def strEth (q : TSlot) : Stream := { strRe q with plan := some ⟨[ingressStage 0 0 0x105, ingressStage 1 1 53], 0, 0, 0, [], []⟩ }
def sEthQ (q : TSlot) (qs : List Qp) : State := { sCtl (some sess) [] [strEth q] with
  disp := { (sCtl (some sess) [] [strEth q]).disp with binds := [(0, 0, 0x105, 1023, 0), (1, 1, 53, 1023, 1)] }
  ext := { base.ext with ports := [{}, { up := true, mode := 1 }, {}, {}], qps := qs } }
def sEth : State := sEthQ { active := some bigDesc } [qpr]
/-- The last bytes of the grant, and one byte past it; with the key; an aligned word; and no data. -/
def rq (a n : Nat) (bs : List Byte) : RdmaReq := ⟨1, 0x105, true, 0xABCD, fenKey 1 (0x100000 + a), n, bs, 0⟩
theorem witness_EthernetRequestsAreServed_1 : sEth.sound = true ∧ sEth.qp? (rq 4093 3 [1, 2, 3]).qp = some qpr ∧ qpr.state = .ready
    ∧ qpr.port = (rq 4093 3 [1, 2, 3]).port ∧ portUp sEth 1 = true ∧ (rq 4093 3 [1, 2, 3]).psnOk = true
    ∧ granted qpr (rq 4093 3 [1, 2, 3]) 3 3 = true ∧ granted qpr (rq 4094 3 [1, 2, 3]) 3 3 = false
    ∧ (devWrite (wakeForWrite sEth (rq 4093 3 [1, 2, 3]).addr) (rq 4093 3 [1, 2, 3]).addr [1, 2, 3]).2 = none
    ∧ granted qpr (rq 4093 3 []) 4 3 = true ∧ granted qpr (rq 4094 3 []) 4 3 = false
    ∧ (devRead sEth (rq 4093 3 []).addr 3).2.toOption = some [0, 0, 0]
    ∧ (deliverQp sEth qpr [1, 2, 3]).2 = .taken ∧ (sEthQ {} [qpr]).sound = true ∧ (deliverQp (sEthQ {} [qpr]) qpr [1, 2, 3]).2 = .noSpace
    ∧ granted qpr (rq 4088 8 []) 5 8 = true ∧ (rq 4088 8 []).addr % 8 = 0 ∧ inStackView (rq 4088 8 []).addr = false
    ∧ (read64 (wakeForWrite sEth (rq 4088 8 []).addr) (rq 4088 8 []).addr).2.toOption = some 0
    ∧ (write64 (read64 (wakeForWrite sEth (rq 4088 8 []).addr) (rq 4088 8 []).addr).1 (rq 4088 8 []).addr 9).2 = none
    ∧ granted qpr (rq 4096 8 []) 5 8 = false := by decide +kernel
theorem witness_EthernetRequestsAreServed_2 :
    gives (exec (.rdmaWrite (rq 4093 3 [1, 2, 3])) sEth) (fun t => t.byteAt (fenKey 1 (0x100000 + 4095)) == 3
        && t.out == [.ack 1 0x105] && (t.qp? 0x105).map (·.recvPsn) == some 0) = true
    ∧ gives (exec (.rdmaWrite (rq 4094 3 [1, 2, 3])) sEth) (fun t => t.out.contains (.nak 1 0x105 0x62)
        && (t.qp? 0x105).map (·.state) == some .error) = true
    ∧ gives (exec (.rdmaRead (rq 4093 3 [])) sEth) (fun t => t.out == [.packet 1 0x105 pkRead [0, 0, 0]]) = true
    ∧ gives (exec (.roceSend (rq 0 0 [1, 2, 3])) sEth) (fun t => t.out == [.ack 1 0x105]
        && (t.stream? 1023).map (fun y => (y.slot 15).whole.map (·.data)) == some [[1, 2, 3]]) = true
    ∧ gives (exec (.roceSend (rq 0 0 [1, 2, 3])) (sEthQ {} [qpr])) (fun t => t.out == [.nak 1 0x105 0x20]) = true
    ∧ gives (exec (.atomicCompareAndSwap (rq 4088 8 []) 0 9) sEth) (fun t => t.byteAt (fenKey 1 (0x100000 + 4088)) == 9
        && t.out == [.packet 1 0x105 pkAtomic (natLE 8 0)]) = true
    ∧ gives (exec (.atomicFetchAndAdd (rq 4088 8 []) 9) sEth) (fun t => t.byteAt (fenKey 1 (0x100000 + 4088)) == 9) = true
    ∧ gives (exec (.atomicFetchAndAdd (rq 4096 8 []) 9) sEth) (fun t => (t.qp? 0x105).map (·.state) == some .error) = true := by
  decide +kernel
/-- The record of a WRITE with immediate, whatever its bytes, fits the 64 KiB of the descriptor. -/
theorem witness_EthernetRequestsAreServed_3 : granted qpr (rq 4096 0 []) 3 0 = true
    ∧ (deliverQp (immRecord sEth).1 qpr (immRecord sEth).2).2 = .taken
    ∧ (devWrite (wakeForWrite (deliverQp (immRecord sEth).1 qpr (immRecord sEth).2).1 (rq 4096 0 []).addr) (rq 4096 0 []).addr []).2 = none := by
  have hl : (immRecord sEth).2.length ≤ 65535 := by
    simp only [immRecord, takeFreeBits, List.length_map, List.length_range]
    omega
  have hb : boundTo (immRecord sEth).1 (0, 0, qpr.num) = some (1023, 15) := by decide +kernel
  refine ⟨by decide, ?_, rfl⟩
  simp only [deliverQp, hb]
  have hr : placeAt ((strEth { active := some bigDesc }).slot 15) bigDesc = 0 := by decide +kernel
  have hd : landingBytes bigDesc = 65536 := by decide +kernel
  exact arrive_taken _ _ _ (x := strEth { active := some bigDesc }) (d := bigDesc) (by decide +kernel) (by decide +kernel)
    (by decide +kernel) (by decide +kernel) (by decide +kernel) (by decide +kernel) (by omega) (by omega)
def frm (n : Nat) (ok : Bool) : Frame := ⟨n, ok, false, 2, none, true, [7]⟩
/-- 127.0.0.1 is no address of port 1; 10.0.0.1 is. -/
def sUdp : State := sEth.setReg (pgEth 1 + 0x410) 0x0A000001
def ipA : Nat := 0xFFFF * 2 ^ 32 + 0x0A000001
theorem witness_EthernetRequestsAreServed_4 : sEth.sound = true ∧ portUp sEth 1 = true ∧ sUdp.sound = true ∧ portUp sUdp 1 = true
    ∧ ownAddress sUdp 1 ipA = true ∧ (List.replicate 9000 (1 : Byte)) ≠ [] ∧ (List.replicate 9000 (1 : Byte)).length ≤ 9000
    ∧ boundTo sUdp (1, 1, 53) = some (1023, 15) ∧ ownAddress sUdp 1 (ipA + 1) = false
    ∧ gives (exec (.frameReceive 1 (frm 9216 true)) sEth) (fun t => t.out == [.gsi 1 0 [7]]) = true
    ∧ gives (exec (.frameReceive 1 (frm 9217 true)) sEth) (fun t => t.out == [] && t.reg (pgEth 1 + 0x440) == 1) = true
    ∧ gives (exec (.frameReceive 1 (frm 64 false)) sEth) (fun t => t.out == [] && t.reg (pgEth 1 + 0x430) == 2) = true
    ∧ gives (exec (.udpDatagram 1 5 6 ipA 53 [1, 2]) sUdp) (fun t => (t.stream? 1023).map (fun y => (y.slot 15).whole.map (·.data))
        == some [[1, 2]]) = true
    ∧ gives (exec (.udpDatagram 1 5 6 (ipA + 1) 53 [1, 2]) sUdp) (fun t => t.reg (pgEth 1 + 0x440) == 1) = true := by decide +kernel
def qMsg (n : Nat) : Qp := { qpr with msgs := [⟨1023, 2, 0, 5, [1]⟩], retries := n }
def sReq (n : Nat) : State := sEthQ {} [qMsg n]
theorem witness_QueuePairsRetryAckAndLoad_1 : (sReq 1).sound = true ∧ requester (sReq 1) 1 0x105 = some (qMsg 1)
    ∧ 1 < fieldN qctx 61 1 ∧ (sReq 2).sound = true ∧ requester (sReq 2) 1 0x105 = some (qMsg 2) ∧ fieldN qctx 61 1 ≤ 2
    ∧ isRnr 0x3F = true ∧ isRnr 0x1F = false ∧ isRnr 0x40 = false ∧ fieldN qctx 62 1 = 7
    ∧ gives (exec (.ackTimeout 1 0x105) (sReq 1)) (fun t => (t.qp? 0x105).map (fun q => (q.retries, q.state)) == some (2, .ready)) = true
    ∧ gives (exec (.ackTimeout 1 0x105) (sReq 2)) (fun t => (t.qp? 0x105).map (·.state) == some .error) = true
    ∧ gives (exec (.nakReceived 1 0x105 0x3F) (sReq 1)) (fun t => (t.qp? 0x105).map (·.rnr) == some 1) = true
    ∧ gives (exec (.nakReceived 1 0x105 0x40) (sReq 1)) (fun t => (t.qp? 0x105).map (·.state) == some .error) = true
    ∧ gives (exec (.ackReceived 1 0x105 []) (sReq 1)) (fun t => (t.qp? 0x105).map (fun q => (q.msgs, q.retries)) == some ([], 0)) = true := by
  decide +kernel
/-- QP_TBL of six contexts at 0x1000 of Fen memory 1: context 5 is the last; and context 6 is past its end. -/
def sLoad (qs : List Qp) : State := { (sEthQ {} qs).setReg (pgEth 0 + 0x418) (wd (6 * 2 ^ 44 + fenKey 1 0x1000)) with
  mem := memPut [] (fenKey 1 0x1280) qctx }
def vLoad : Word := 0x4000000000000005
theorem witness_QueuePairsRetryAckAndLoad_2 : (sLoad []).sound = true ∧ regGate (sLoad []) .mc (pgEth 3 + 0x420) = .through
    ∧ pageEn (sLoad []) (pgEth 3) = true ∧ fld vLoad 63 62 = 1 ∧ contextAddr (sLoad []) (fld vLoad 13 0) = some (fenKey 1 0x1280)
    ∧ (devRead (answer (sLoad []) .done) (fenKey 1 0x1280) 128).2.toOption = some qctx ∧ contextOk qctx = true
    ∧ ((sLoad []).qp? 0x105).map (·.state) ≠ some .ready
    ∧ (sLoad [qpr]).sound = true ∧ ((sLoad [qpr]).qp? 0x105).map (·.state) = some .ready
    ∧ fld 0x8000000000000005 63 62 = 2 ∧ (sLoad [qpr]).qp? 0x105 = some qpr
    ∧ regGate (sLoad [qpr]) .mc (pgEth 3 + 0x420) = .through ∧ pageEn (sLoad [qpr]) (pgEth 3) = true
    ∧ gives (exec (.qpLoad .mc 3 vLoad) (sLoad [])) (fun t => (t.qp? 0x105).map (fun q => (q.state, q.recvPsn)) == some (.ready, 0xFFFFFF))
        = true
    ∧ gives (exec (.qpLoad .mc 3 vLoad) (sLoad [qpr])) (fun t => t.ext.qps == [qpr]) = true
    ∧ gives (exec (.qpReset .mc 3 0x8000000000000005) (sLoad [qpr])) (fun t => (t.qp? 0x105).map (·.state) == some .reset) = true := by
  decide +kernel

/-! ### Links -/

/-- Port 3 is down, PORT_CFG of reset allows 800 Gb/s with negotiation; port 2 runs 400 Gb/s without. -/
def sPort : State := base.setReg (pgEth 2 + 0x400) 0x24000002
theorem witness_PortsAndLinksComeUpAndDown_1 : sPort.sound = true ∧ 3 < 4 ∧ sPort.power.vinGood = true ∧ (sPort.port 3).up = false
    ∧ bit (sPort.reg (pgEth 3 + 0x400)) 8 = true ∧ modeRate 1 ≤ modeRate (fld (sPort.reg (pgEth 3 + 0x400)) 1 0)
    ∧ bit (sPort.reg (pgEth 2 + 0x400)) 8 = false ∧ 2 = fld (sPort.reg (pgEth 2 + 0x400)) 1 0
    ∧ retryDue sPort (sPort.port 3).retryAt = true ∧ sPort.trust.mcRunning = true ∧ (sPort.port 3).spare = 15 ∧ sPort.fuses.repairIod < 8
    ∧ sPort.ext.mgmtUp = false ∧ retryDue sPort sPort.ext.mgmtRetry = true ∧ bitOf sPort.trust.straps 3 = false
    ∧ gives (exec (.ethLinkUp 3 1) sPort) (fun t => t.port 3 == { up := true, mode := 1 }) = true
    ∧ gives (exec (.ethLinkUp 2 2) sPort) (fun t => t.port 2 == { up := true, mode := 2 }) = true
    ∧ gives (exec (.ethLinkUp 2 3) sPort) (fun t => t.port 2 == {}) = true
    ∧ gives (exec (.ethLinkDown 1) sEth) (fun t => t.port 1 == {}) = true
    ∧ gives (exec (.autonegRetry 3) sPort) (fun t => (t.port 3).retryAt == some (10 ^ 12 + 25000000)) = true
    ∧ gives (exec (.ethLaneSpare 3 7) sPort) (fun t => (t.port 3).spare == 7 && t.fuses.repairIod == 1) = true
    ∧ gives (exec (.autonegRetry 4) sPort) (fun t => t.ext.mgmtRetry == some (10 ^ 12 + 25000000)) = true
    ∧ gives (exec (.mgmtLinkUp 2 2) sPort) (fun t => t.ext.mgmtUp && t.ext.mgmtSpeed == 2) = true
    ∧ gives (exec (.mgmtLinkUp 1 2) sPort) (fun t => !t.ext.mgmtUp) = true
    ∧ gives (exec .mgmtLinkDown { sPort with ext := { sPort.ext with mgmtUp := true } }) (fun t => !t.ext.mgmtUp) = true := by decide +kernel
def sPc (root : Bool) (up : Nat) (rd : List NvmeRead) : State :=
  { base with ext := { base.ext with pcieRoot := root, pcieSplit := 2, pcieUp := up, pcieRate := 6, pcieWidth := 16, nvme := rd } }
def rd15 (n : Nat) : NvmeRead := { queue := 15, stream := 1023, batch := 2, stage := 0, extent := 1, left := n }
theorem witness_PortsAndLinksComeUpAndDown_2 : (sPc true 1 []).power.vinGood = true ∧ [1, 2, 4, 8, 16].contains 4 = true
    ∧ 3 < pciePorts (sPc true 1 []) ∧ 4 * pciePorts (sPc true 1 []) ≤ 16 ∧ [1, 2, 4, 8, 16].contains 8 = true
    ∧ 16 < 8 * pciePorts (sPc true 1 []) ∧ bitOf (sPc true 1 []).ext.pcieUp 3 = false
    ∧ (sPc true 1 [rd15 2]).sound = true ∧ bitOf (sPc true 1 [rd15 2]).ext.pcieUp 0 = true
    ∧ fld ((sPc true 1 [rd15 2]).reg (nvmeKey 15)) 59 58 = 0
    ∧ gives (exec (.pcieLinkUp 3 6 4) (sPc true 1 [])) (fun t => t.ext.pcieUp == 9) = true
    ∧ gives (exec (.pcieLinkUp 1 6 16) (sPc false 1 [])) (fun t => t.ext.pcieUp == 1) = true
    ∧ gives (exec (.pcieLinkDown 0) (sPc true 1 [rd15 2])) (fun t => t.ext.pcieUp == 0 && t.ext.nvme == []) = true := by decide +kernel

/-! ### The PCIe window and mailbox -/

/-- An endpoint whose window shows 64 GiB from 0x80000000000 - a place of Fen memory 0 - once the part is READY. -/
def sWin0 (ready : Bool) : State := { (sPc false 1 []).setReg (pgPcie + 0x408) (wd (8 * 2 ^ 44 + fenKey 0 0)) with
  trust := { base.trust with ready := ready } }
def offEnd : Nat := 0x200000000 - 8
theorem witness_EndpointWindowAndMailbox_1 : (sWin0 true).sound = true ∧ endpointUp (sWin0 true) = true ∧ (sWin0 false).sound = true
    ∧ endpointUp (sWin0 false) = true ∧ (sWin0 false).trust.ready = false ∧ (64 * 2 ^ 20 - 8) + 8 ≤ stagingBytes
    ∧ (sWin0 true).trust.ready = true ∧ windowAddr (sWin0 true) (offEnd + 1) 8 = none
    ∧ windowAddr (sWin0 true) offEnd 8 = some (fenKey 0 offEnd) ∧ (devRead (sWin0 true) (fenKey 0 offEnd) 8).2.toOption.isSome = true
    ∧ Memory.wf (sWin0 false).ext.staging = true ∧ fenKey 0 offEnd % 8 = 0 ∧ inStackView (fenKey 0 offEnd) = false
    ∧ (read64 (wakeForWrite (sWin0 true) (fenKey 0 offEnd)) (fenKey 0 offEnd)).2.toOption = some 0 ∧ (sWin0 false).power.mossUp = true
    ∧ gives (exec (.pcieWindowRead (64 * 2 ^ 20 - 8) 8 noErrs) (sWin0 false)) (fun t => t.resp == .data (List.replicate 8 0)) = true
    ∧ gives (exec (.pcieWindowRead (64 * 2 ^ 20 - 7) 8 noErrs) (sWin0 false)) (fun t => t.resp == .unsupported) = true
    ∧ gives (exec (.pcieWindowRead (offEnd + 1) 8 noErrs) (sWin0 true)) (fun t => t.resp == .unsupported && t.reg (pgPcie + 0x430) == 1) = true
    ∧ gives (exec (.pcieWindowWrite 5 [1, 2] noErrs) (sWin0 false)) (fun t => stagingRead t 5 3 == [1, 2, 0]) = true
    ∧ gives (exec (.pcieWindowWrite offEnd [1, 2] noErrs) (sWin0 true)) (fun t => t.byteAt (fenKey 0 (offEnd + 1)) == 2) = true
    ∧ gives (exec (.pcieAtomicCas 8 offEnd 0 9) (sWin0 true)) (fun t => t.byteAt (fenKey 0 offEnd) == 9 && t.resp == .data (natLE 8 0)) = true
    ∧ gives (exec (.pcieAtomicFetchAdd 8 offEnd 300) (sWin0 true)) (fun t => t.byteAt (fenKey 0 (offEnd + 1)) == 1) = true
    ∧ gives (exec (.recoveryMailboxWrite 8 77) (sWin0 false)) (fun t => t.ext.boxLen == 77) = true
    ∧ gives (exec (.recoveryMailboxWrite 0 1) (sWin0 false)) (fun t => t.ext.boxResult == 2 || 256 ≤ t.ext.boxResult) = true
    ∧ gives (exec (.msiXTableWrite 32760 5) (sWin0 true)) (fun t => msixWord t 32760 == 5) = true := by decide +kernel
/-- A window on a Fen line that cannot be read. -/
def sWinBad : State := { sWin0 true with fenLines := [(fenKey 0 0 / 64, .poisoned)] }
theorem witness_EndpointWindowAndMailbox_2 : sWinBad.sound = true ∧ windowAddr sWinBad 0 8 = some (fenKey 0 0)
    ∧ (devRead sWinBad (fenKey 0 0) 8).2.toOption = none
    ∧ gives (exec (.pcieWindowRead 0 8 noErrs) sWinBad) (fun t => t.resp == .poisonedCompletion) = true := by decide +kernel

/-! ### Root port and NVMe -/

/-- A configuration address behind port 3, whose link is down, and one behind port 0, whose link is up. -/
def sCfg (a : Nat) (up : Nat) : State := (sPc true up []).setReg (pgPcie + 0x410) (wd a)
theorem witness_RootPortAndNvmeQueues_1 : (sPc false 1 []).sound = true ∧ pageEn (sPc false 1 []) pgPcie = true
    ∧ regGate (sPc false 1 []) .mc (pgPcie + 0x418) = .through ∧ (sPc false 1 []).ext.pcieRoot = false
    ∧ (sCfg 0x30000000 7).sound = true ∧ pageEn (sCfg 0x30000000 7) pgPcie = true ∧ (sCfg 0x30000000 7).ext.pcieRoot = true
    ∧ regGate (sCfg 0x30000000 7) .mc (pgPcie + 0x418) = .through
    ∧ bitOf (sCfg 0x30000000 7).ext.pcieUp (fld ((sCfg 0x30000000 7).reg (pgPcie + 0x410)) 29 28) = false
    ∧ (sCfg 8 7).sound = true ∧ regGate (sCfg 8 7) .mc (pgPcie + 0x418) = .through
    ∧ bitOf (sCfg 8 7).ext.pcieUp (fld ((sCfg 8 7).reg (pgPcie + 0x410)) 29 28) = true
    ∧ regGate (sCfg 8 0) .mc (pgPcie + 0x428) = .through ∧ (sCfg 8 0).ext.pcieUp = 0
    ∧ regGate (sCfg 8 7) .mc (pgPcie + 0x428) = .through ∧ (sCfg 8 7).ext.pcieUp ≠ 0
    ∧ gives (exec (.cfgDataAccess .mc false 0) (sPc false 1 [])) (fun t => t.resp == .word 0) = true
    ∧ gives (exec (.cfgDataAccess .mc false 0) (sCfg 0x30000000 7)) (fun t => t.resp == .word 0xFFFFFFFF) = true
    ∧ gives (exec (.mmioDataAccess .mc false 0) (sCfg 8 0)) (fun t => t.resp == .word (BitVec.allOnes 64)) = true := by decide +kernel
theorem witness_RootPortAndNvmeQueues_2 : (sPc true 1 []).sound = true ∧ (sPc true 1 []).power.vinGood = true
    ∧ (sPc true 1 []).ext.pcieRoot = true ∧ (sPc true 1 []).ext.pcieUp ≠ 0 ∧ inR44 (fenKey 3 0x1FFFFFFFE) 2 = true
    ∧ (devRead (sPc true 1 []) (fenKey 3 0x1FFFFFFFE) 2).2.toOption = some [0, 0] ∧ inR44 (fenKey 3 0x1FFFFFFFF) 2 = false
    ∧ gives (exec (.inboundDeviceRequest true (fenKey 3 0x1FFFFFFFE) [1, 2] noErrs) (sPc true 1 [])) (fun t => t.resp == .done
        && t.byteAt (fenKey 3 0x1FFFFFFFF) == 2) = true
    ∧ gives (exec (.inboundDeviceRequest false (fenKey 3 0x1FFFFFFFE) [1, 2] noErrs) (sPc true 1 [])) (fun t => t.resp == .data [0, 0]) = true
    ∧ gives (exec (.inboundDeviceRequest false (fenKey 3 0x1FFFFFFFF) [1, 2] noErrs) (sPc true 1 [])) (fun t => t.resp == .unsupported) = true := by
  decide +kernel
/-- NVMe pair 15 with its queues in Fen memory 3, withdrawn or enabled with a read under way. -/
def sNv (en : Nat) (rd : List NvmeRead) : State := (((sPc true 1 rd).setReg (nvmeKey 15 + 8) (wd (fenKey 3 0x40000))).setReg (nvmeKey 15 + 16)
  (wd (fenKey 3 0x80000))).setReg (nvmeKey 15) (wd (en * 2 ^ 63 + 12 * 2 ^ 32))
def vNv (log2 : Nat) : Word := wd (2 ^ 63 + log2 * 2 ^ 32)
theorem witness_RootPortAndNvmeQueues_3 : (sNv 0 []).sound = true ∧ 15 < 16 ∧ regGate (sNv 0 []) .mc (nvmeKey 15) = .through
    ∧ pageEn (sNv 0 []) pgPcie = true ∧ bit ((sNv 0 []).reg (nvmeKey 15)) 63 = false
    ∧ bit (writtenReg (sNv 0 []) (nvmeKey 15) (vNv 13)) 63 = true
    ∧ queueOk (sNv 0 []) 15 (writtenReg (sNv 0 []) (nvmeKey 15) (vNv 13)) = false
    ∧ bit (writtenReg (sNv 0 []) (nvmeKey 15) (vNv 12)) 63 = true
    ∧ queueOk (sNv 0 []) 15 (writtenReg (sNv 0 []) (nvmeKey 15) (vNv 12)) = true
    ∧ (sNv 1 [rd15 2]).sound = true ∧ bit ((sNv 1 [rd15 2]).reg (nvmeKey 15)) 63 = true
    ∧ regGate (sNv 1 [rd15 2]) .mc (nvmeKey 15) = .through ∧ pageEn (sNv 1 [rd15 2]) pgPcie = true
    ∧ bit (writtenReg (sNv 1 [rd15 2]) (nvmeKey 15) 0) 63 = false
    ∧ gives (exec (.nvmeQueueEnable .mc 15 (vNv 12)) (sNv 0 [])) (fun t => bit (t.reg (nvmeKey 15)) 63) = true
    ∧ gives (exec (.nvmeQueueEnable .mc 15 0) (sNv 1 [rd15 2])) (fun t => t.ext.nvme == [] && !(bit (t.reg (nvmeKey 15)) 63)) = true := by
  decide +kernel
/-- A RECEIVE stage from NVMe under way. -/
def sNvRun (n : Nat) : State := { sRun { bat .started with runs := [{ ix := 0, readyAt := some 5, issuedAt := some 6 }] } with
  ext := (sNv 1 [rd15 n]).ext }
theorem witness_RootPortAndNvmeQueues_4 : (sNvRun 2).sound = true ∧ (sNvRun 2).ext.nvme.find? (·.queue == 15) = some (rd15 2)
    ∧ 1 < (rd15 2).left ∧ (sNvRun 1).sound = true ∧ (sNvRun 1).ext.nvme.find? (·.queue == 15) = some (rd15 1) ∧ (rd15 1).left ≤ 1
    ∧ ((sNvRun 1).run? 1023 2 0).map (·.asked) = some []
    ∧ gives (exec (.nvmeCompletion 15 1 []) (sNvRun 2)) (fun t => t.ext.nvme == []
        && (t.run? 1023 2 0).map (·.failure.isSome) == some true) = true
    ∧ gives (exec (.nvmeCompletion 15 0 [1]) (sNvRun 2)) (fun t => t.ext.nvme == [rd15 1]) = true
    ∧ gives (exec (.nvmeCompletion 15 0 [1]) (sNvRun 1)) (fun t => t.ext.nvme == []) = true := by decide +kernel

/-! ### Management -/

/-- GPIO 15 is an output, 14 is none. -/
def sGpio : State := { base with power := { base.power with gpioDir := 0x8000 } }
theorem witness_ManagementRequestsAreServed_1 : sStrs.sound = true ∧ sStrs.trust.mcRunning = true ∧ sStrs.power.vinGood = true
    ∧ sStrs.fab.mcBusy = false ∧ 1 % 4 ≠ 3 ∧ sStrs.trust.ready = true ∧ (5 ∈ [1, 2, 5])
    ∧ 4096 + ([1, 2, 3] : List Byte).length ≤ slotSize 5
    ∧ sGpio.trust.mcRunning = true ∧ sGpio.power.scanned = false ∧ bitOf sGpio.power.gpioDir 15 = true ∧ bitOf sGpio.power.gpioDir 14 = false
    ∧ wantsMctp sStrs = false ∧ roleRank .readOnly < roleRank .operator ∧ 2 ≤ roleRank .operator ∧ base.clean = true ∧ sStrs.clean = true ∧ sGpio.clean = true := by
  decide +kernel
/-- A payload of any bytes that is one longer than a slot holds. -/
theorem witness_ManagementRequestsAreServed_2 : base.sound = true ∧ base.power.mossUp = true ∧ base.trust.mcRunning = true
    ∧ (∃ payload : List Byte, slotSize 2 < 4096 + payload.length)
    ∧ gives (exec (.pldmFirmwareUpdate 1 [1, 2, 3]) base) (fun t => t.resp == .done) = true := by
  refine ⟨by decide +kernel, by decide, by decide, ⟨List.replicate (4 * 2 ^ 20) 0, ?_⟩, by decide +kernel⟩
  rw [List.length_replicate]
  decide
/-- A sample of 50.00 V, 33.33 A, 1666 W and 102 °C. -/
def sTemp : State := { base.setReg (pgMgmt + 0x408) 0x14E with
  power := { base.power with
    hot := true
    sample := { base.power.sample with
      volts := 5000
      current := 3333
      avg1 := 1666
      temps := [61, 102, 9, 7] } } }
theorem witness_ManagementRequestsAreServed_3 : smbusServes sTemp = true ∧ (0x88 + 2) ∉ [0x79, 0x88, 0x89, 0x8D, 0x97, 0x98]
    ∧ gives (exec .readTemperature1 sTemp) (fun t => t.resp == .word (29 * 2 ^ 11 + 816)) = true
    ∧ gives (exec .readPin sTemp) (fun t => t.resp == .word (1 * 2 ^ 11 + 833)) = true
    ∧ gives (exec .readVin sTemp) (fun t => t.resp == .word (28 * 2 ^ 11 + 800)) = true
    ∧ gives (exec .readIin sTemp) (fun t => t.resp == .word (28 * 2 ^ 11 + 533)) = true
    ∧ gives (exec .pmbusRevision sTemp) (fun t => t.resp == .word 0x33) = true
    ∧ gives (exec (.unsupportedPmbusCommand 0x8A) sTemp) (fun t => t.resp == .nack) = true := by decide +kernel
def sDbg (n : Nat) : State := { base with trust := { base.trust with debug := n }, host := { base.host with running := 0x30 } }
theorem witness_ManagementRequestsAreServed_4 : (sDbg 1).power.vinGood = true ∧ base.trust.debug = 0 ∧ (sDbg 1).trust.debug ≠ 0
    ∧ bitOf (sDbg 1).host.running 5 = true ∧ bitOf (sDbg 1).host.halted 5 = false
    ∧ placeOf (hbmKey 11 0) = .hbm 11 0 ∧ (devRead (sDbg 1) (hbmKey 11 0) 0).2.toOption = some []
    ∧ gives (exec (.jtagDebugInstruction (.haltCore 5)) base) (fun t => t.resp == .refused 0) = true
    ∧ gives (exec (.jtagDebugInstruction (.haltCore 5)) (sDbg 1)) (fun t => t.host.halted == 0x20) = true
    ∧ gives (exec .boundaryScanExtest (sDbg 1)) (fun t => t.power.scanned) = true := by decide +kernel
/-- What the clauses on faults and turned-away requests ask for: no buffer for an immediate; an acknowledgement timeout that is not
due, and limits reached; an atomic of 4 bytes; the MC busy or not READY; a boot search that takes an MCTP package; a tile's SRAM. -/
def qSent : Qp := { qMsg 1 with sentAt := 10 ^ 12 }
def qSpent : Qp := { qMsg 0 with ctx := setAt qctx 62 0 }
def sMctp : State := { base with trust := { base.trust with search := some { left := [.mctp] } } }
theorem witness_further_clauses :
    (deliverQp (immRecord (sEthQ {} [qpr])).1 qpr (immRecord (sEthQ {} [qpr])).2).2 = .noSpace
    ∧ ackDue (sReq 1) (qMsg 1) = true ∧ requester (sEthQ {} [qSent]) 1 0x105 = some qSent ∧ ackDue (sEthQ {} [qSent]) qSent = false
    ∧ requester (sEthQ {} [qSpent]) 1 0x105 = some qSpent ∧ (sEthQ {} [qSpent]).sound = true
    ∧ fieldN qSpent.ctx 62 1 ≠ 7 ∧ fieldN qSpent.ctx 62 1 ≤ qSpent.rnr
    ∧ udpFrame ipA 4 ≤ sUdp.rfld (pgEth 1 + 0x400) 31 16
    ∧ windowAddr (sWin0 true) offEnd 8 = some (fenKey 0 offEnd) ∧ (4 ≠ 8)
    ∧ (sWin0 false).trust.ready = false
    ∧ wantsMctp sMctp = true ∧ sMctp.sound = true ∧ sMctp.power.mossUp = true ∧ wantsMctp base = false
    ∧ placeOf (0x50000000000 + 51 * 0x2000000) = .tile 51 0 ∧ ((sDbg 1).tile 51).power ≠ .off ∧ (sDbg 1).clean = true := by decide +kernel

end Sys2Proof.Tests
end

section
/-! SUPPORT. Narrow accesses, reads of a register and the read-to-clear, State.reset, and the tick of an empty queue (chapter 0). -/

namespace Sys2Proof.Machine

/-! ### Accesses that draw a bus error (R6, R371, R454) -/

theorem placeOf_regs {a k : Nat} (h : placeOf a = .regs k) : regBase ≤ a ∧ k = a - regBase := by
  unfold placeOf at h
  dsimp only at h
  split_ifs at h with _ _ _ _ _ _ hr
  exact ⟨hr.1, (Place.regs.inj h).symm⟩

/-- Register space starts at a multiple of 8, so that a place in it is aligned as its address is. -/
theorem placeOf_regs_mod {a k : Nat} (h : placeOf a = .regs k) : k % 8 = a % 8 := by
  have hk := placeOf_regs h
  unfold regBase at hk
  omega

theorem regGate_misaligned (s : State) (who : Agent) {k : Nat} (h : k % 8 ≠ 0) : regGate s who k = .bus := by
  simp [regGate, h]

theorem isBusError_regs (s : State) (who : Agent) {addr k : Nat} (size : Nat) (atomic : Bool) (h : placeOf addr = .regs k) :
    isBusError s who addr size atomic = true ↔ size ≠ 8 ∨ regGate s who k = .bus ∨ (atomic = true ∧ who = .host) := by
  simp [isBusError, h, or_assoc]

theorem isBusError_unbacked (s : State) (who : Agent) {addr : Nat} (size : Nat) (atomic : Bool) (h : placeOf addr = .unbacked) :
    isBusError s who addr size atomic = true := by
  simp [isBusError, h]

theorem exec_busErrorAccess {s : State} {who : Agent} {addr size : Nat} {atomic : Bool} (write : Bool)
    (h : isBusError s who addr size atomic = true) :
    exec (.busErrorAccess who addr size write atomic) s = .next { s with resp := .busError } := by
  change Host.Outcome.next (if isBusError s who addr size atomic then answer s .busError else s) = _
  rw [if_pos h]
  rfl

/-- Settles O10: each access named draws a bus error, the misaligned one at the register's gate (R6). -/
theorem narrowAccessIsBusError : Obligations.NarrowAccessIsBusError := by
  unfold Obligations.NarrowAccessIsBusError
  refine ⟨fun who addr k size write atomic s hp hbad => exec_busErrorAccess write ?_,
    fun who addr size write atomic s hp => exec_busErrorAccess write (isBusError_unbacked s who size atomic hp)⟩
  rw [isBusError_regs s who size atomic hp]
  rcases hbad with hsize | ⟨_, halign⟩ | hatomic
  · exact .inl (by omega)
  · exact .inr (.inl (regGate_misaligned s who (by rwa [placeOf_regs_mod hp])))
  · exact .inr (.inr hatomic)

/-! ### State.reset -/

theorem reset_storesOk : State.reset.storesOk = true := by
  simp only [State.storesOk, State.reset, Memory.wf, cellsWf_nil, Bool.and_self]

theorem reset_sizesOk : State.reset.sizesOk = true := by decide

theorem reset_sound : State.reset.sound = true := by
  rw [State.sound, reset_storesOk, reset_sizesOk, Bool.and_self]

/-- No register is listed, so each reads as its reset value. -/
theorem reset_reg (k : Nat) : State.reset.reg k = regReset k := rfl

/-- No byte is listed, so each reads as 0. -/
theorem reset_byteAt (a : Nat) : State.reset.byteAt a = 0 := rfl

/-- Settles O3: every store of State.reset is empty, and every array has the size that the manual gives. -/
theorem resetRegistersAndStores : Obligations.ResetRegistersAndStores :=
  ⟨reset_sound, rfl, rfl, reset_reg, reset_byteAt, rfl, rfl⟩

/-! ### Entries of the part's arrays -/

/-- A property that a change of an entry keeps is the same of every entry of the changed list. -/
theorem modifyAt_getD_proj {α β : Type} (p : α → β) {f : α → α} (hf : ∀ x, p (f x) = p x) (l : List α) (n j : Nat) (d : α) :
    p ((modifyAt l n f).getD j d) = p (l.getD j d) := by
  induction l generalizing n j with
  | nil => rfl
  | cons a t ih =>
    cases n with
    | zero =>
      cases j with
      | zero => exact hf a
      | succ j => rfl
    | succ n =>
      cases j with
      | zero => rfl
      | succ j => exact ih n j

theorem sound_storesOk {s : State} (h : s.sound = true) : s.storesOk = true := (Bool.and_eq_true_iff.1 h).1

theorem storesOk_regs {s : State} (h : s.storesOk = true) : cellsWf regReset s.regs = true := by
  simp only [State.storesOk, Bool.and_eq_true] at h
  obtain ⟨⟨⟨⟨⟨⟨_, hregs⟩, _⟩, _⟩, _⟩, _⟩, _⟩ := h
  exact hregs

theorem sound_regs {s : State} (h : s.sound = true) : cellsWf regReset s.regs = true := storesOk_regs (sound_storesOk h)

/-! ### Reads of a register (R9, R373) -/

theorem setTile_enabled (s : State) (t j : Nat) {f : TileState → TileState} (hf : ∀ x, (f x).enabled = x.enabled) :
    ((s.setTile t f).tile j).enabled = (s.tile j).enabled := modifyAt_getD_proj TileState.enabled hf ..

/-- An access to a block's own registers wakes its tile, and does nothing else (R373, R393). -/
theorem wakeForAccess_eq (s : State) (k : Nat) : wakeForAccess s k = { s with tiles := (wakeForAccess s k).tiles } := by
  unfold wakeForAccess wakeTile
  split
  · split <;> rfl
  · rfl

theorem wakeForAccess_enabled (s : State) (k t : Nat) : ((wakeForAccess s k).tile t).enabled = (s.tile t).enabled := by
  unfold wakeForAccess wakeTile
  split
  · split
    · exact setTile_enabled s _ t fun _ => rfl
    · exact setTile_enabled s _ t fun _ => rfl
    · rfl
  · rfl

theorem wakeForAccess_regs (s : State) (k : Nat) : (wakeForAccess s k).regs = s.regs := by rw [wakeForAccess_eq]

theorem wakeForAccess_reg (s : State) (k j : Nat) : (wakeForAccess s k).reg j = s.reg j := by
  rw [State.reg, wakeForAccess_regs, State.reg]

/-- A tile that is woken was enabled before, so that no page comes into service by it. -/
theorem wakeForAccess_pageEn (s : State) (k page : Nat) : pageEn (wakeForAccess s k) page = pageEn s page := by
  have hen (t : Nat) : ((wakeForAccess s k).tiles.getD t {}).enabled = (s.tiles.getD t {}).enabled := wakeForAccess_enabled s k t
  simp only [pageEn, wakeForAccess_reg, hen]

/-- What a read of a register leaves: the register at zero where it is read-to-clear and its block in service. -/
theorem regReadAt_eq (s : State) {k : Nat} {r : RegRow} (h : regRow? (keyCls k) (keyOff k) = some r) :
    regReadAt s k = (if r.rc && pageEn s (pageKey (keyCls k) (keyInst k)) then s.setReg k 0 else s, regShown s k) := by
  simp only [regReadAt, h]
  split <;> rfl

/-- A read that reaches its register is answered with the value that it shows. -/
theorem exec_rcRead_through {s : State} {who : Agent} {addr k : Nat} (hp : placeOf addr = .regs k)
    (hg : regGate s who k = .through) :
    exec (.rcRead who addr) s
      = .next (answer (regReadAt (wakeForAccess s k) k).1 (.word (regReadAt (wakeForAccess s k) k).2)) := by
  change Host.Outcome.next (readRegister who addr s) = _
  simp only [readRegister, hp, regAccess, hg]

/-- Settles O9: the register is written with zero just where it is read-to-clear and its block in service (R9, R373). -/
theorem registerReadsAndReadToClear : Obligations.RegisterReadsAndReadToClear := by
  unfold Obligations.RegisterReadsAndReadToClear
  intro who addr k s r hs hp hg hr
  have hwf : cellsWf regReset (wakeForAccess s k).regs = true := by rw [wakeForAccess_regs]; exact sound_regs hs
  have hmem : (wakeForAccess s k).mem = s.mem := by rw [wakeForAccess_eq]
  have hgran : (wakeForAccess s k).gran = s.gran := by rw [wakeForAccess_eq]
  have hlines : (wakeForAccess s k).fenLines = s.fenLines := by rw [wakeForAccess_eq]
  have hdisp : (wakeForAccess s k).disp = s.disp := by rw [wakeForAccess_eq]
  refine ⟨_, exec_rcRead_through hp hg, ?_⟩
  rw [regReadAt_eq _ hr, wakeForAccess_pageEn]
  refine ⟨rfl, ?_⟩
  by_cases hc : (r.rc && pageEn s (pageKey (keyCls k) (keyInst k))) = true
  case pos =>
    rw [if_pos hc]
    have hc' := Bool.and_eq_true_iff.1 hc
    refine ⟨fun _ => State.setReg_reg_self _ k 0 hwf, fun hn => ?_, fun j hj => ?_, hmem, hgran, hlines, hdisp⟩
    · simp [hc'] at hn
    · exact (State.setReg_reg_other _ k j 0 hwf hj).trans (wakeForAccess_reg s k j)
  case neg =>
    rw [if_neg hc]
    exact ⟨fun h => absurd (Bool.and_eq_true_iff.2 h) hc, fun _ => wakeForAccess_reg s k k, fun j _ => wakeForAccess_reg s k j,
      hmem, hgran, hlines, hdisp⟩

/-! ### Counters -/

/-- What a count can do: it takes at most one free value, and writes its own register. -/
theorem bumpField_eq (s : State) (k lo w n : Nat) : ∃ c v, bumpField s k lo w n = ({ s with freeCtr := c } : State).setReg k v := by
  unfold bumpField
  dsimp only
  split
  · exact ⟨s.freeCtr, _, rfl⟩
  · exact ⟨s.freeCtr + 1, _, rfl⟩

theorem bump_cases (s : State) (k n : Nat) :
    bump s k n = s ∨ ∃ c v, bump s k n = ({ s with freeCtr := c } : State).setReg k v := by
  unfold bump
  split
  · exact .inr (bumpField_eq ..)
  · exact .inl rfl

/-! ### The Moss tick (R64, R390, log 2) -/

/-- The counters that run with time: CLK.THROTTLE_TICKS and CULV.EPOCH_WAIT. -/
def IsTickCounter (k : Nat) : Prop := k = pgClk + 0x428 ∨ ∃ i, k = pgCulv i + 0x4D8

/-- What the passing of time alone does to a state: registers other than the counters that run with time stay, and the stacks
and Fen dies keep what the MC's repairs rest on. -/
structure TimePasses (s t : State) : Prop where
  rest : t = { s with regs := t.regs, freeCtr := t.freeCtr, hbms := t.hbms, fens := t.fens, dies := t.dies }
  wf : cellsWf regReset s.regs = true → cellsWf regReset t.regs = true
  reg : cellsWf regReset s.regs = true → ∀ k, ¬ IsTickCounter k → t.reg k = s.reg k
  marks : ∀ k, (t.stack k).markDue = (s.stack k).markDue
  layers : ∀ d, (t.fen d).layers = (s.fen d).layers
  passCe : ∀ d, (t.fen d).passCe = (s.fen d).passCe
  ueAt : ∀ d, (t.fen d).ueAt = (s.fen d).ueAt

theorem TimePasses.refl (s : State) : TimePasses s s :=
  ⟨rfl, id, fun _ _ _ => rfl, fun _ => rfl, fun _ => rfl, fun _ => rfl, fun _ => rfl⟩

theorem TimePasses.trans {s t u : State} (h : TimePasses s t) (g : TimePasses t u) : TimePasses s u where
  rest := g.rest.trans (by rw [h.rest])
  wf := g.wf ∘ h.wf
  reg hs k hk := (g.reg (h.wf hs) k hk).trans (h.reg hs k hk)
  marks k := (g.marks k).trans (h.marks k)
  layers d := (g.layers d).trans (h.layers d)
  passCe d := (g.passCe d).trans (h.passCe d)
  ueAt d := (g.ueAt d).trans (h.ueAt d)

theorem foldl_timePasses {α : Type} {f : State → α → State} (hf : ∀ s a, TimePasses s (f s a)) (l : List α) (s : State) :
    TimePasses s (l.foldl f s) := by
  induction l generalizing s with
  | nil => exact .refl s
  | cons a t ih => exact (hf s a).trans (ih _)

theorem foldl_of_fixed {α β : Type} {f : β → α → β} {s : β} {l : List α} (h : ∀ a ∈ l, f s a = s) : l.foldl f s = s := by
  induction l with
  | nil => rfl
  | cons a t ih =>
    rw [List.foldl_cons, h a (by simp)]
    exact ih fun b hb => h b (by simp [hb])

theorem bump_timePasses (s : State) {k : Nat} (n : Nat) (hk : IsTickCounter k) : TimePasses s (bump s k n) := by
  rcases bump_cases s k n with h | ⟨c, v, h⟩ <;> rw [h]
  · exact .refl s
  · exact ⟨rfl, State.setReg_wf { s with freeCtr := c } k v,
      fun hs j hj => State.setReg_reg_other { s with freeCtr := c } k j v hs fun e => hj (e ▸ hk),
      fun _ => rfl, fun _ => rfl, fun _ => rfl, fun _ => rfl⟩

theorem setStack_timePasses (s : State) (k : Nat) {f : Stack → Stack} (hf : ∀ x, (f x).markDue = x.markDue) :
    TimePasses s (s.setStack k f) :=
  ⟨rfl, id, fun _ _ _ => rfl, fun _ => modifyAt_getD_proj Stack.markDue hf .., fun _ => rfl, fun _ => rfl, fun _ => rfl⟩

theorem setFen_timePasses (s : State) (d : Nat) {f : FenDie → FenDie} (hl : ∀ x, (f x).layers = x.layers)
    (hc : ∀ x, (f x).passCe = x.passCe) (hu : ∀ x, (f x).ueAt = x.ueAt) : TimePasses s (s.setFen d f) :=
  ⟨rfl, id, fun _ _ _ => rfl, fun _ => rfl, fun _ => modifyAt_getD_proj FenDie.layers hl ..,
    fun _ => modifyAt_getD_proj FenDie.passCe hc .., fun _ => modifyAt_getD_proj FenDie.ueAt hu ..⟩

theorem setDie_timePasses (s : State) (d : Nat) (f : DieState → DieState) : TimePasses s (s.setDie d f) :=
  ⟨rfl, id, fun _ _ _ => rfl, fun _ => rfl, fun _ => rfl, fun _ => rfl, fun _ => rfl⟩

theorem tickStack_timePasses (s : State) (k : Nat) : TimePasses s (tickStack s k) := by
  unfold tickStack
  split
  · exact setStack_timePasses s k fun _ => rfl
  · exact .refl s

theorem tickCopy_timePasses (s : State) (d : Nat) : TimePasses s (tickCopy s d) := by
  unfold tickCopy
  split
  · exact setFen_timePasses s d (fun _ => rfl) (fun _ => rfl) fun _ => rfl
  · exact .refl s

theorem tickEpoch_timePasses (s : State) (k : Nat) : TimePasses s (tickEpoch s k) := by
  unfold tickEpoch
  split
  · exact bump_timePasses s 1 (.inr ⟨k, rfl⟩)
  · exact .refl s

theorem tickDie_timePasses (s : State) (d : Nat) : TimePasses s (tickDie s d) := by
  unfold tickDie
  split
  · exact .refl s
  · exact setDie_timePasses ..

theorem tickClock_timePasses (s : State) : TimePasses s (tickClock s) := by
  unfold tickClock
  split
  · exact bump_timePasses s 1 (.inl rfl)
  · exact .refl s

theorem TimePasses.disp {s t : State} (h : TimePasses s t) : t.disp = s.disp := by rw [h.rest]

/-- A tile whose engines hold nothing stands still. -/
theorem tickMover_idle {s : State} {t : Nat} (h : s.mover t = {}) : tickMover s t = s := by
  unfold tickMover
  exact if_pos h

/-- With no tile's engine at work, the part of a tick that runs with time by itself is the passing of time. -/
theorem tickTime_timePasses {s : State} (hm : ∀ t, t < 52 → s.mover t = {}) : TimePasses s (tickTime s) := by
  have h := ((foldl_timePasses tickStack_timePasses (List.range 12) s).trans
    (foldl_timePasses tickCopy_timePasses (List.range 4) _)).trans (foldl_timePasses tickEpoch_timePasses (List.range 12) _)
  unfold tickTime
  dsimp only
  generalize (List.range 12).foldl tickEpoch _ = u at h ⊢
  have hu : (List.range 52).foldl tickMover u = u := foldl_of_fixed fun t ht => tickMover_idle <| by
    rw [State.mover, h.disp]
    exact hm t (List.mem_range.1 ht)
  rw [hu]
  exact (h.trans (foldl_timePasses tickDie_timePasses (List.range 4) u)).trans (tickClock_timePasses _)

/-- What the MC would make by itself does not fall due by the passing of time alone. -/
theorem TimePasses.mcIdle {s t : State} (h : TimePasses s t) : mcIdle t = mcIdle s := by
  have htick : t.tick = s.tick := by rw [h.rest]
  have htile (k : Nat) : tileWorn t k = tileWorn s k := by rw [h.rest]; rfl
  have hlayer (d l : Nat) : layerWorn t d l = layerWorn s d l := by
    simp only [layerWorn, h.layers, h.passCe, h.ueAt, htick]
  have hbank (d b : Nat) : bankWorn t d b = bankWorn s d b := by rw [h.rest]; rfl
  have hfab : t.fab = s.fab := by rw [h.rest]
  simp only [Machine.mcIdle, h.marks, htile, hlayer, hbank, hfab]

/-! ### What the MC makes by itself, when none of it is due -/

theorem tickMark_idle {s : State} {k : Nat} (h : (s.stack k).markDue = []) : tickMark s k = s := by
  unfold tickMark
  rw [h]

theorem tickTile_idle {s : State} {t : Nat} (h : tileWorn s t = false) : tickTile s t = s := by
  simp [tickTile, h]

theorem tickLayer_idle {s : State} {d : Nat} (h : ∀ l, l < 4 → layerWorn s d l = false) : tickLayer s d = s := by
  have hnone : (List.range 4).find? (layerWorn s d) = none := by simpa using h
  unfold tickLayer
  rw [hnone, ite_self]

theorem tickBank_idle {s : State} {d : Nat} (h : ∀ b, b < 32 → bankWorn s d b = false) : tickBank s d = s := by
  have hnone : (List.range 32).find? (bankWorn s d) = none := by simpa using h
  unfold tickBank
  rw [hnone, ite_self]

theorem tickLane_idle {s : State} (l : Nat) (h : s.fab.blames = []) : tickLane s l = s := by
  unfold tickLane
  rw [h]
  exact ite_self _

theorem haltNext_idle {s : State} (h : s.fab.mcAsked = []) : haltNext s = s := by
  unfold haltNext
  rw [h]

/-- With nothing due that the MC makes by itself, its part of a tick changes nothing. -/
theorem tickMc_idle {s : State} (h : mcIdle s = true) : tickMc s = s := by
  simp only [mcIdle, Bool.and_eq_true, List.all_eq_true, List.mem_range, Bool.not_eq_true', List.isEmpty_iff] at h
  obtain ⟨⟨⟨⟨⟨hmark, htile⟩, hlayer⟩, hbank⟩, hblame⟩, hasked⟩ := h
  have h1 : (List.range 12).foldl tickMark s = s := foldl_of_fixed fun k hk => tickMark_idle (hmark k (List.mem_range.1 hk))
  have h2 : (List.range 52).foldl tickTile s = s := foldl_of_fixed fun t ht => tickTile_idle (htile t (List.mem_range.1 ht))
  have h3 : (List.range 4).foldl tickLayer s = s := foldl_of_fixed fun d hd => tickLayer_idle (hlayer d (List.mem_range.1 hd))
  have h4 : (List.range 4).foldl tickBank s = s := foldl_of_fixed fun d hd => tickBank_idle (hbank d (List.mem_range.1 hd))
  have h5 : (List.range 8).foldl tickLane s = s := foldl_of_fixed fun l _ => tickLane_idle l hblame
  simp only [tickMc, h1, h2, h3, h4, h5, haltNext_idle hasked]

/-! ### A step on an empty queue -/

theorem step_empty {s : State} (h : s.pending = []) : step s = .next (mossTick s) := by
  unfold step
  rw [h]

theorem mossTick_unpowered {s : State} (h : s.power.vsbGood = false) : mossTick s = s := by
  simp [mossTick, h]

theorem mossTick_mcIdle {s : State} (hv : s.power.vsbGood = true) (hi : mcIdle (tickTime s) = true) :
    mossTick s = { tickTime s with
      tick := (tickTime s).tick + 1
      power := { (tickTime s).power with issueGate := (tickTime s).power.issueGate - 1 } } := by
  simp only [mossTick, hv, tickMc_idle hi, if_true]

/-- Settles O2: with no engine at work and nothing due, a tick is the passing of time, which touches no register but its two
counters (log 2, DESIGN CHOICE). -/
theorem idleStepIsOneMossTick : Obligations.IdleStepIsOneMossTick := by
  unfold Obligations.IdleStepIsOneMossTick
  refine ⟨fun s hq hv => by rw [step_empty hq, mossTick_unpowered hv], fun s hs hq hv hi hm => ?_⟩
  have h := tickTime_timePasses hm
  refine ⟨mossTick s, step_empty hq, ?_⟩
  rw [mossTick_mcIdle hv (h.mcIdle.trans hi)]
  have hreg : ∀ k, k ≠ pgClk + 0x428 → (∀ i, k ≠ pgCulv i + 0x4D8) → (tickTime s).reg k = s.reg k := fun k hclk hculv =>
    h.reg (sound_regs hs) k fun hk => hk.elim hclk fun ⟨i, he⟩ => hculv i he
  generalize tickTime s = u at h hreg ⊢
  refine ⟨?_, ?_, ?_, ?_, ?_, ?_, ?_, ?_, ?_, ?_, ?_, ?_, hreg⟩ <;> rw [h.rest]
  exact hq

end Sys2Proof.Machine
end

section
/-! SUPPORT. The sizes of the part's arrays: each function of the model keeps them, in the order of the files of the model. -/

namespace Sys2Proof.Machine

/-- The lengths of the arrays that State.sizesOk bounds, in its order. One equation `(f s).sizes = s.sizes` says of a function
of the model that it keeps them all, and such equations rewrite through a chain of calls. -/
def State.sizes (s : State) : List Nat :=
  [s.hbms.length, s.fens.length, s.tiles.length, s.dies.length, s.reeds.length, s.tables.culvs.length, s.tables.hummock.length,
   s.disp.slots.length, s.disp.movers.length, s.ext.ports.length, s.banks.length, s.fab.linkUp.length, s.fab.linkDown.length,
   s.fuses.repairDie.length, s.fuses.repairHbm.length, s.trust.meas.length, s.trust.measCnt.length]

/-- The sizes of the part's arrays. -/
def partSizes : List Nat := [12, 4, 52, 4, 4, 12, 4, 64, 52, 4, 2, 8, 8, 4, 12, 16, 16]

theorem sizesOk_iff (s : State) : s.sizesOk = true ↔ s.sizes = partSizes := by
  simp only [State.sizesOk, State.sizes, partSizes, Bool.and_eq_true, decide_eq_true_eq, List.cons.injEq]
  tauto

/-- A state that takes its plain lists of units from s, and in whose records the arrays are as long as those of s. -/
theorem State.sizes_with {s : State} {pending tick freeCtr resp out regs srst leaks mem gran fillWords fenLines sram assigns still
    power fuses trust cutOff disp tables sets fab host ext}
    (hc : tables.culvs.length = s.tables.culvs.length) (hh : tables.hummock.length = s.tables.hummock.length)
    (hs : disp.slots.length = s.disp.slots.length) (hv : disp.movers.length = s.disp.movers.length)
    (hp : ext.ports.length = s.ext.ports.length) (hu : fab.linkUp.length = s.fab.linkUp.length)
    (hd : fab.linkDown.length = s.fab.linkDown.length) (hrd : fuses.repairDie.length = s.fuses.repairDie.length)
    (hrh : fuses.repairHbm.length = s.fuses.repairHbm.length) (hm : trust.meas.length = s.trust.meas.length)
    (hmc : trust.measCnt.length = s.trust.measCnt.length) :
    ({ pending, tick, freeCtr, resp, out, regs, srst, leaks, mem, gran, fillWords, fenLines, sram, assigns, still, power, fuses,
       trust, cutOff, disp, tables, sets, fab, host, ext, hbms := s.hbms, fens := s.fens, tiles := s.tiles, dies := s.dies,
       reeds := s.reeds, banks := s.banks } : State).sizes = s.sizes := by
  simp only [State.sizes, *]

theorem foldl_sizes {α : Type} {f : State → α → State} (hf : ∀ s a, (f s a).sizes = s.sizes) (l : List α) (s : State) :
    (l.foldl f s).sizes = s.sizes := by
  induction l generalizing s with
  | nil => rfl
  | cons a t ih => exact (ih _).trans (hf s a)

theorem foldl_fst_sizes {α β : Type} {f : State × β → α → State × β} (hf : ∀ r a, (f r a).1.sizes = r.1.sizes) (l : List α)
    (r : State × β) : (l.foldl f r).1.sizes = r.1.sizes := by
  induction l generalizing r with
  | nil => rfl
  | cons a t ih => exact (ih _).trans (hf r a)

/-! ### Setters of one entry, and the fuses' repair records -/

theorem State.setStack_sizes (s : State) (k : Nat) (f : Stack → Stack) : (s.setStack k f).sizes = s.sizes := by
  simp only [State.sizes, State.setStack, modifyAt_length]

theorem State.setFen_sizes (s : State) (k : Nat) (f : FenDie → FenDie) : (s.setFen k f).sizes = s.sizes := by
  simp only [State.sizes, State.setFen, modifyAt_length]

theorem State.setDie_sizes (s : State) (k : Nat) (f : DieState → DieState) : (s.setDie k f).sizes = s.sizes := by
  simp only [State.sizes, State.setDie, modifyAt_length]

theorem State.setTile_sizes (s : State) (k : Nat) (f : TileState → TileState) : (s.setTile k f).sizes = s.sizes := by
  simp only [State.sizes, State.setTile, modifyAt_length]

theorem State.setReed_sizes (s : State) (k : Nat) (f : Reed → Reed) : (s.setReed k f).sizes = s.sizes := by
  simp only [State.sizes, State.setReed, modifyAt_length]

theorem State.setTrust_sizes {s : State} {f : Trust → Trust} (hm : (f s.trust).meas.length = s.trust.meas.length)
    (hc : (f s.trust).measCnt.length = s.trust.measCnt.length) : (s.setTrust f).sizes = s.sizes := by
  simp only [State.sizes, State.setTrust, hm, hc]

theorem fst_sizes {α : Type} {p : State × α} {s t : State} {r : α} (e : p = (t, r)) (h : p.1.sizes = s.sizes) :
    t.sizes = s.sizes := by
  rw [← h, e]

theorem usePool_repairDie (f : Fuses) (inst : Nat) : (usePool f inst).repairDie.length = f.repairDie.length := by
  simp only [usePool]
  split
  · exact modifyAt_length ..
  · split <;> rfl

theorem usePool_repairHbm (f : Fuses) (inst : Nat) : (usePool f inst).repairHbm.length = f.repairHbm.length := by
  simp only [usePool]
  split
  · rfl
  · split
    · exact modifyAt_length ..
    · rfl

theorem repairDie_of_sizes {s t : State} (h : t.sizes = s.sizes) : t.fuses.repairDie.length = s.fuses.repairDie.length := by
  simp only [State.sizes, List.cons.injEq] at h
  tauto

theorem repairHbm_of_sizes {s t : State} (h : t.sizes = s.sizes) : t.fuses.repairHbm.length = s.fuses.repairHbm.length := by
  simp only [State.sizes, List.cons.injEq] at h
  tauto

theorem useSlot_repairDie (f : Fuses) (n : Nat) : (useSlot f n).repairDie = f.repairDie := by
  unfold useSlot
  split <;> simp only

theorem useSlot_repairHbm (f : Fuses) (n : Nat) : (useSlot f n).repairHbm = f.repairHbm := by
  unfold useSlot
  split <;> simp only

theorem fuseValue_repairDie (f : Fuses) (setting value : Nat) (keys : List (List Byte)) :
    (fuseValue f setting value keys).repairDie = f.repairDie := by
  unfold fuseValue
  split
  case h_1 => split <;> simp only
  all_goals simp only

theorem fuseValue_repairHbm (f : Fuses) (setting value : Nat) (keys : List (List Byte)) :
    (fuseValue f setting value keys).repairHbm = f.repairHbm := by
  unfold fuseValue
  split
  case h_1 => split <;> simp only
  all_goals simp only

/-! ### Registers, memory and the host cache (chapters 0 to 3) (Ops.lean) -/

theorem takeFree_sizes (s : State) : (takeFree s).1.sizes = s.sizes := by
  simp only [takeFree, State.sizes_with]

theorem takeFreeBits_sizes (s : State) (w : Nat) : (takeFreeBits s w).1.sizes = s.sizes := by
  simp only [takeFreeBits, State.sizes_with]

theorem State.setReg_sizes (s : State) (k : Nat) (v : Word) : (State.setReg s k v).sizes = s.sizes := by
  simp only [State.setReg, State.sizes_with]

theorem State.setRfld_sizes (s : State) (k hi lo x : Nat) : (State.setRfld s k hi lo x).sizes = s.sizes := by
  simp only [State.setRfld, State.setReg_sizes]

theorem raiseInt_sizes (s : State) (page n : Nat) : (raiseInt s page n).sizes = s.sizes := by
  simp only [raiseInt, State.setRfld_sizes]

theorem bumpField_sizes (s : State) (k lo w n : Nat) : (bumpField s k lo w n).sizes = s.sizes := by
  simp only [bumpField, State.setRfld_sizes, takeFreeBits_sizes, apply_ite State.sizes, ite_self]

theorem bump_sizes (s : State) (k n : Nat) : (bump s k n).sizes = s.sizes := by
  unfold bump
  split <;> simp only [bumpField_sizes]

theorem bumpSat_sizes (s : State) (k lo w n : Nat) : (bumpSat s k lo w n).sizes = s.sizes := by
  simp only [bumpSat, State.setRfld_sizes]

theorem putOut_sizes (s : State) (o : Out) : (putOut s o).sizes = s.sizes := by
  simp only [putOut, State.sizes_with]

theorem mgmtFrames_sizes (s : State) : (mgmtFrames s).sizes = s.sizes := by
  simp only [mgmtFrames, takeFreeBits_sizes, bump_sizes]

theorem redfish_sizes (s : State) (code value : Nat) (data : List Byte) : (redfish s code value data).sizes = s.sizes := by
  simp only [redfish, putOut_sizes, mgmtFrames_sizes, bump_sizes, apply_ite State.sizes, ite_self]

theorem asRole_sizes {go : State → State} (hg : ∀ s, (go s).sizes = s.sizes) (need role : Role) (s : State) :
    (asRole need role go s).sizes = s.sizes := by
  simp only [asRole, apply_ite State.sizes, mgmtFrames_sizes, bump_sizes, putOut_sizes, redfish_sizes, hg, ite_self]

theorem recordTrigger_sizes (s : State) (src : Nat) : (recordTrigger s src).sizes = s.sizes := by
  simp only [recordTrigger, bump_sizes, State.setReg_sizes, apply_ite State.sizes, ite_self, State.sizes_with]

theorem errorTrigger_sizes (s : State) (c : Nat) : (errorTrigger s c).sizes = s.sizes := by
  simp only [errorTrigger, recordTrigger_sizes, apply_ite State.sizes, ite_self]

theorem countUE_sizes (s : State) (page : Nat) : (countUE s page).sizes = s.sizes := by
  simp only [countUE, errorTrigger_sizes, raiseInt_sizes, bumpSat_sizes]

theorem countCE_sizes (s : State) (page : Nat) : (countCE s page).sizes = s.sizes := by
  simp only [countCE, bumpSat_sizes, errorTrigger_sizes, raiseInt_sizes, apply_ite State.sizes, ite_self]

theorem firstEvent_sizes (s : State) (page off v : Nat) : (firstEvent s page off v).sizes = s.sizes := by
  simp only [firstEvent, raiseInt_sizes, State.setReg_sizes, apply_ite State.sizes, ite_self]

theorem State.setGranule_sizes (s : State) (gk : Nat) (g : Gran) : (State.setGranule s gk g).sizes = s.sizes := by
  simp only [State.setGranule, State.sizes_with]

theorem chargeDie_sizes (s : State) (stack die : Nat) : (chargeDie s stack die).sizes = s.sizes := by
  simp only [chargeDie, State.setStack_sizes]

theorem granCE_sizes (s : State) (stack g m : Nat) (scrub : Bool) : (granCE s stack g m scrub).sizes = s.sizes := by
  simp only [granCE, chargeDie_sizes, countCE_sizes, firstEvent_sizes]

theorem granUE_sizes (s : State) (stack g : Nat) (scrub fillmap rmw : Bool) :
    (granUE s stack g scrub fillmap rmw).sizes = s.sizes := by
  simp only [granUE, firstEvent_sizes, countUE_sizes]

theorem State.setFillBits_sizes (s : State) (w : Nat) (b : WordBits) : (State.setFillBits s w b).sizes = s.sizes := by
  simp only [State.setFillBits, State.sizes_with]

theorem fillWord_sizes (s : State) (stack g : Nat) (scrub : Bool) : (fillWord s stack g scrub).1.sizes = s.sizes := by
  simp only [fillWord]
  split <;> simp only [countCE_sizes, State.setFillBits_sizes, State.setGranule_sizes, granUE_sizes, foldl_sizes, implies_true]

theorem strikeSym_sizes (stack : Nat) (s : State) (p : Nat × SymErr) : (strikeSym stack s p).sizes = s.sizes := by
  simp only [strikeSym, State.setGranule_sizes, apply_ite State.sizes, ite_self]

theorem strikeWord_sizes (stack : Nat) (s : State) (p : Nat × Bool) : (strikeWord stack s p).sizes = s.sizes := by
  simp only [strikeWord, State.setFillBits_sizes, apply_ite State.sizes, ite_self]

theorem strike_sizes (s : State) (stack : Nat) (h : HbmHits) : (strike s stack h).sizes = s.sizes := by
  simp only [strike, strikeWord_sizes, strikeSym_sizes, bump_sizes, apply_ite State.sizes, ite_self, foldl_sizes, implies_true]

theorem granData_sizes (s : State) (stack g : Nat) (scrub rmw : Bool) : (granData s stack g scrub rmw).1.sizes = s.sizes := by
  simp only [granData]
  (repeat' split) <;> simp only [granCE_sizes, granUE_sizes, State.setGranule_sizes]

theorem granRead_sizes (s : State) (stack g : Nat) : (granRead s stack g).1.sizes = s.sizes := by
  unfold granRead
  split <;> rename_i e <;> simp only [granData_sizes, fst_sizes e (fillWord_sizes ..)]

theorem granStore_sizes (s : State) (stack g : Nat) (data : List Byte) (poison : Bool) :
    (granStore s stack g data poison).sizes = s.sizes := by
  simp only [granStore, State.setGranule_sizes, apply_ite State.sizes, ite_self, State.sizes_with]

theorem granPatch_sizes (s : State) (stack g b : Nat) (data : List Byte) (poison : Bool) :
    (granPatch s stack g b data poison).1.sizes = s.sizes := by
  simp only [granPatch]
  split
  · simp only [granStore_sizes, bump_sizes]
  · rfl
  · split <;> rename_i e <;> simp only [granStore_sizes, fst_sizes e (granData_sizes ..), bump_sizes]

theorem granWrite_sizes (s : State) (stack g b : Nat) (data : List Byte) (poison : Bool) :
    (granWrite s stack g b data poison).1.sizes = s.sizes := by
  simp only [granWrite, fillWord_sizes, granStore_sizes, granPatch_sizes, apply_ite State.sizes, apply_ite Prod.fst, ite_self]

theorem granDiscard_sizes (s : State) (stack g : Nat) : (granDiscard s stack g).sizes = s.sizes := by
  simp only [granDiscard, bump_sizes, fillWord_sizes, State.setGranule_sizes, State.sizes_with]

theorem State.setFenLine_sizes (s : State) (lk : Nat) (l : FenLine) : (State.setFenLine s lk l).sizes = s.sizes := by
  simp only [State.setFenLine, State.sizes_with]

theorem fenStrike_sizes (s : State) (d line : Nat) (e : LineErr) : (fenStrike s d line e).sizes = s.sizes := by
  cases e <;> simp only [fenStrike]
  all_goals split <;> simp only [State.setFenLine_sizes]

theorem fenCE_sizes (s : State) (d line : Nat) : (fenCE s d line).sizes = s.sizes := by
  simp only [fenCE, bumpSat_sizes, countCE_sizes, State.setFen_sizes]

theorem noteLayer_sizes (s : State) (d line : Nat) : (noteLayer s d line).sizes = s.sizes := by
  simp only [noteLayer, State.setFen_sizes]

theorem fenUE_sizes (s : State) (d line : Nat) : (fenUE s d line).sizes = s.sizes := by
  simp only [fenUE, noteLayer_sizes, State.setFenLine_sizes, firstEvent_sizes, countUE_sizes]

theorem fenCheck_sizes (s : State) (d line : Nat) : (fenCheck s d line).1.sizes = s.sizes := by
  unfold fenCheck
  split <;> simp only [fenCE_sizes, fenUE_sizes]

theorem fenPatch_sizes (s : State) (d line b : Nat) (data : List Byte) (poison : Bool) :
    (fenPatch s d line b data poison).1.sizes = s.sizes := by
  simp only [fenPatch]
  split
  · simp only [apply_ite Prod.fst, apply_ite State.sizes, State.sizes_with, State.setFenLine_sizes, ite_self]
  · split <;> rename_i e <;>
      simp only [apply_ite Prod.fst, apply_ite State.sizes, State.sizes_with, State.setFenLine_sizes,
        fst_sizes e (fenCheck_sizes ..), bump_sizes, ite_self]

theorem State.putSector_sizes (s : State) (x : CacheSector) : (State.putSector s x).sizes = s.sizes := by
  simp only [State.putSector, State.sizes_with]

theorem cleanSector_sizes (s : State) (x : CacheSector) : (cleanSector s x).sizes = s.sizes := by
  unfold cleanSector
  (repeat' split) <;>
    simp only [State.putSector_sizes, granWrite_sizes, fenPatch_sizes, apply_ite State.sizes, ite_self, foldl_sizes, implies_true]

theorem evictSector_sizes (s : State) (ix : Nat) : (evictSector s ix).sizes = s.sizes := by
  simp only [evictSector, cleanSector_sizes, State.putSector_sizes]

theorem cacheRoom_sizes (s : State) : (cacheRoom s).sizes = s.sizes := by
  simp only [cacheRoom]
  (repeat' split) <;> simp only [takeFreeBits_sizes, evictSector_sizes]

theorem fillSector_sizes (s : State) (x : CacheSector) (need : List Nat) : (fillSector s x need).1.sizes = s.sizes := by
  unfold fillSector
  dsimp only
  split
  · rfl
  · split <;> rename_i e <;> simp only [fst_sizes e (granRead_sizes ..)]
  · refine foldl_fst_sizes (fun r l => ?_) _ _
    split
    · rfl
    · split <;> rename_i e <;> simp only [fst_sizes e (fenCheck_sizes ..)]
  · rfl

theorem hostLoad_sizes (s : State) (ix : Nat) (lines : List Nat) : (hostLoad s ix lines).1.sizes = s.sizes := by
  simp only [hostLoad]
  split <;> rename_i e <;> simp only [State.putSector_sizes, fst_sizes e (fillSector_sizes ..)]

theorem hostStore_sizes (s : State) (ix o : Nat) (data : List Byte) (poison : Bool) :
    (hostStore s ix o data poison).1.sizes = s.sizes := by
  simp only [hostStore]
  split
  · exact State.putSector_sizes ..
  · split <;> rename_i e <;> simp only [State.putSector_sizes, fst_sizes e (fillSector_sizes ..)]

theorem snoop_sizes (s : State) (a n : Nat) (write device : Bool) : (snoop s a n write device).sizes = s.sizes := by
  unfold snoop
  split <;> simp only [bump_sizes, cleanSector_sizes, State.putSector_sizes, apply_ite State.sizes, ite_self]

theorem wakeDieBy_sizes (s : State) (d src : Nat) : (wakeDieBy s d src).sizes = s.sizes := by
  unfold wakeDieBy
  split <;> simp only [State.setDie_sizes, bump_sizes, State.setReg_sizes, apply_ite State.sizes, ite_self, State.sizes_with]

theorem touchDie_sizes (s : State) (d : Nat) : (touchDie s d).sizes = s.sizes := by
  simp only [touchDie, wakeDieBy_sizes]

theorem dispatcherWakes_sizes (s : State) : (dispatcherWakes s).sizes = s.sizes := by
  simp only [dispatcherWakes, State.sizes_with]

theorem wakeForWrite_sizes (s : State) (a : Nat) : (wakeForWrite s a).sizes = s.sizes := by
  simp only [wakeForWrite, dispatcherWakes_sizes, wakeDieBy_sizes, apply_ite State.sizes, ite_self, foldl_sizes, implies_true]

theorem readPiece_sizes (s : State) (a w : Nat) : (readPiece s a w).1.sizes = s.sizes := by
  simp only [readPiece]
  split
  · split
    · split <;> rename_i e <;> simp only [fst_sizes e (granRead_sizes ..), snoop_sizes, touchDie_sizes]
    · simp only [snoop_sizes, touchDie_sizes]
  · split
    · split <;> rename_i e <;> simp only [fst_sizes e (fenCheck_sizes ..), snoop_sizes, touchDie_sizes]
    · simp only [snoop_sizes, touchDie_sizes]
  · rfl

theorem writePiece_sizes (s : State) (a : Nat) (data : List Byte) (poison : Bool) :
    (writePiece s a data poison).1.sizes = s.sizes := by
  unfold writePiece
  split <;>
    simp only [snoop_sizes, touchDie_sizes, granWrite_sizes, fenPatch_sizes, apply_ite State.sizes, apply_ite Prod.fst, ite_self]

theorem devRead_sizes (s : State) (a n : Nat) : (devRead s a n).1.sizes = s.sizes := by
  unfold devRead
  refine foldl_fst_sizes (fun r p => ?_) _ _
  split
  · rfl
  · split <;> rename_i e <;> simp only [fst_sizes e (readPiece_sizes ..)]

theorem devWriteP_sizes (s : State) (a : Nat) (data : List Byte) (poison : Bool) :
    (devWriteP s a data poison).1.sizes = s.sizes := by
  simp only [devWriteP, writePiece_sizes, foldl_fst_sizes, implies_true]

theorem devWrite_sizes (s : State) (a : Nat) (data : List Byte) : (devWrite s a data).1.sizes = s.sizes := by
  simp only [devWrite, devWriteP_sizes]

theorem discardPiece_sizes (s : State) (a w : Nat) : (discardPiece s a w).1.sizes = s.sizes := by
  unfold discardPiece
  split <;>
    simp only [snoop_sizes, touchDie_sizes, granDiscard_sizes, granWrite_sizes, writePiece_sizes, apply_ite State.sizes,
      apply_ite Prod.fst, ite_self]

theorem devDiscard_sizes (s : State) (a n : Nat) : (devDiscard s a n).1.sizes = s.sizes := by
  simp only [devDiscard, discardPiece_sizes, foldl_fst_sizes, implies_true]

theorem read64_sizes (s : State) (a : Nat) : (read64 s a).1.sizes = s.sizes := by
  unfold read64
  split <;> rename_i e <;> simp only [fst_sizes e (devRead_sizes ..)]

theorem write64_sizes (s : State) (a v : Nat) : (write64 s a v).1.sizes = s.sizes := by
  simp only [write64, devWrite_sizes]

/-! ### Operations that answer with a status (R58) (Flags.lean) -/

theorem ok_sizes {α : Type} (s : State) (a : α) : (ok s a).1.sizes = s.sizes := by
  simp only [ok]

theorem fail_sizes {α : Type} (s : State) (status : Nat) : (fail s status : Res α).1.sizes = s.sizes := by
  simp only [fail]

theorem failAt_sizes {α : Type} (s : State) (status off : Nat) : (failAt s status off : Res α).1.sizes = s.sizes := by
  simp only [failAt]

theorem andThen_sizes {α β : Type} {f : State → α → Res β} (hf : ∀ s a, (f s a).1.sizes = s.sizes) (r : Res α) :
    (andThen r f).1.sizes = r.1.sizes := by
  unfold andThen
  split
  · exact hf ..
  · rfl

theorem must_sizes {β : Type} {k : State → Res β} (hk : ∀ s, (k s).1.sizes = s.sizes) (s : State) (c : Bool) (status : Nat) :
    (must s c status k).1.sizes = s.sizes := by
  simp only [must, apply_ite Prod.fst, apply_ite State.sizes, hk, fail_sizes, ite_self]

theorem eachRes_sizes {α β : Type} {f : State → α → Res β} (hf : ∀ s a, (f s a).1.sizes = s.sizes) (s : State) (l : List α) :
    (eachRes f s l).1.sizes = s.sizes := by
  induction l generalizing s with
  | nil => rfl
  | cons a t ih => simp only [eachRes, andThen_sizes, ok_sizes, ih, hf, implies_true]

theorem readMem_sizes (s : State) (a n : Nat) : (readMem s a n).1.sizes = s.sizes := by
  unfold readMem
  split <;> rename_i e <;> simp only [fail_sizes, fst_sizes e (devRead_sizes ..)]

theorem noteErr_sizes (s : State) (page off status stream stage op : Nat) :
    (noteErr s page off status stream stage op).sizes = s.sizes := by
  simp only [noteErr, firstEvent_sizes]

/-! ### Columns as they are read (Operands.lean) -/

theorem loadCol_sizes (s : State) (c : Col) : (loadCol s c).1.sizes = s.sizes := by
  simp only [loadCol]
  split
  · exact ok_sizes ..
  · split
    · simp only [andThen_sizes, apply_ite Prod.fst, apply_ite State.sizes, readMem_sizes, ok_sizes, ite_self, implies_true]
    · split
      · refine (andThen_sizes (fun s o => ?_) _).trans (readMem_sizes ..)
        simp only [andThen_sizes, apply_ite Prod.fst, apply_ite State.sizes, readMem_sizes, ok_sizes, fail_sizes, ite_self,
          implies_true]
      · simp only [andThen_sizes, apply_ite Prod.fst, apply_ite State.sizes, readMem_sizes, ok_sizes, ite_self, implies_true]

theorem loadAll_sizes (s : State) (cs : List (Option Col)) : (loadAll s cs).1.sizes = s.sizes := by
  refine eachRes_sizes (fun s c => ?_) _ _
  cases c <;> simp only [ok_sizes, andThen_sizes, loadCol_sizes, implies_true]

/-! ### Lanes and credits of the fabric (Lanes.lean) -/

theorem countHop_sizes (s : State) (hop n : Nat) : (countHop s hop n).sizes = s.sizes := by
  simp only [countHop, bump_sizes, apply_ite State.sizes, ite_self]

theorem sendPacket_sizes (s : State) (of : PacketOf) (lane : Nat) (route : List Nat) (flits : Nat) :
    (sendPacket s of lane route flits).sizes = s.sizes := by
  unfold sendPacket
  split <;> simp only [countHop_sizes, State.sizes_with]

theorem dropPackets_sizes (s : State) (mine : PacketOf → Bool) : (dropPackets s mine).sizes = s.sizes := by
  simp only [dropPackets, State.sizes_with]

theorem dropPacket_sizes (s : State) (of : PacketOf) : (dropPacket s of).sizes = s.sizes := by
  simp only [dropPacket, State.sizes_with]

theorem refillHop_sizes (n : Nat) (s : State) (hop lane : Nat) : (refillHop n s hop lane).sizes = s.sizes := by
  induction n generalizing s hop with
  | zero => rfl
  | succ n ih =>
    unfold refillHop
    split
    · rfl
    · split
      · rfl
      · dsimp only
        split <;> simp only [ih, countHop_sizes, State.sizes_with]

theorem respond_sizes (s : State) (p : Option PacketOf) : (respond s p).sizes = s.sizes := by
  unfold respond
  split
  · exact sendPacket_sizes ..
  · rfl

theorem countStall_sizes (s : State) (hop n : Nat) : (countStall s hop n).sizes = s.sizes := by
  simp only [countStall, bump_sizes, apply_ite State.sizes, ite_self]

theorem laneReturn_sizes (s : State) (hop lane held : Nat) : (laneReturn s hop lane held).sizes = s.sizes := by
  simp only [laneReturn]
  split
  · rfl
  · split
    · rfl
    · simp only [respond_sizes, refillHop_sizes, apply_ite State.sizes, countStall_sizes, ite_self]
      split <;> simp only [countHop_sizes, State.sizes_with]

/-! ### The Peat store, the AUDIT ring and refused settings (PeatOps.lean) -/

theorem peatWrite_sizes (s : State) (type_ : Nat) (payload : List Byte) (ev : PeatEvent) :
    (peatWrite s type_ payload ev).1.sizes = s.sizes := by
  have put (b : Nat) (bk : PeatBank) : ({ s with banks := setAt s.banks b bk } : State).sizes = s.sizes := by
    simp only [State.sizes, setAt_length]
  simp only [peatWrite]
  split
  · rfl
  · split
    · simp only [bump_sizes, put]
    · split <;> simp only [bump_sizes, firstEvent_sizes, put]
    · split <;> simp only [bump_sizes, firstEvent_sizes, put]
    · exact put ..
    · exact put ..

theorem appendAudit_sizes (s : State) (setting phase path signer inst slotIx old new : Nat) (fails : Bool) :
    (appendAudit s setting phase path signer inst slotIx old new fails).1.sizes = s.sizes := by
  simp only [appendAudit, peatWrite_sizes, apply_ite State.sizes, apply_ite Prod.fst, ite_self]

theorem syncRepairRecord_sizes (s : State) : (syncRepairRecord s).sizes = s.sizes := by
  unfold syncRepairRecord
  split <;> simp only [peatWrite_sizes, apply_ite State.sizes, ite_self]

theorem refuseTally_sizes (s : State) (result setting path inst : Nat) :
    (refuseTally s result setting path inst).sizes = s.sizes := by
  simp only [refuseTally, firstEvent_sizes, bump_sizes]

theorem repairRefused_sizes (s : State) (inst kind target : Nat) : (repairRefused s inst kind target).sizes = s.sizes := by
  simp only [repairRefused, refuseTally_sizes, State.sizes_with]

theorem repairWrite_sizes (s : State) (who : Agent) (inst kind target value before place : Nat) (allowed : Bool)
    (fuse : Repair → Repair) : (repairWrite s who inst kind target value before place allowed fuse).1.sizes = s.sizes := by
  simp only [repairWrite, apply_ite Prod.fst, apply_ite State.sizes, refuseTally_sizes, repairRefused_sizes]
  simp only [State.sizes_with, usePool_repairDie, usePool_repairHbm, appendAudit_sizes, ite_self]

/-! ### Accesses to register space (Registers.lean) -/

theorem answer_sizes (s : State) (r : Resp) : (answer s r).sizes = s.sizes := by
  simp only [answer, State.sizes_with]

theorem wakeTile_sizes (s : State) (t : Nat) : (wakeTile s t).sizes = s.sizes := by
  unfold wakeTile
  split <;> simp only [State.setTile_sizes]

theorem wakeForAccess_sizes (s : State) (k : Nat) : (wakeForAccess s k).sizes = s.sizes := by
  simp only [wakeForAccess, wakeTile_sizes, apply_ite State.sizes, ite_self]

theorem regWriteAt_sizes (s : State) (k : Nat) (v : Word) : (regWriteAt s k v).sizes = s.sizes := by
  unfold regWriteAt
  split <;> simp only [State.setReg_sizes, apply_ite State.sizes, ite_self, State.sizes_with]

theorem regReadAt_sizes (s : State) (k : Nat) : (regReadAt s k).1.sizes = s.sizes := by
  unfold regReadAt
  split <;> simp only [State.setReg_sizes, apply_ite State.sizes, apply_ite Prod.fst, ite_self]

theorem holdAt_sizes (s : State) (d : Nat) (c : Instr) : (holdAt s d c).sizes = s.sizes := by
  simp only [holdAt, answer_sizes, wakeDieBy_sizes, State.setDie_sizes]

theorem regAccess_sizes {go : State → State} (hg : ∀ s, (go s).sizes = s.sizes) (s : State) (who : Agent) (k : Nat) (h : Instr) :
    (regAccess s who k h go).sizes = s.sizes := by
  unfold regAccess
  split <;> simp only [answer_sizes, holdAt_sizes, hg, wakeForAccess_sizes]

theorem sramBytes_sizes (s : State) (a n : Nat) : (sramBytes s a n).1.sizes = s.sizes := by
  simp only [sramBytes, State.sizes_with]

theorem sramAccess_sizes {go : State → State} (hg : ∀ s, (go s).sizes = s.sizes) (s : State) (who : Agent) (t a : Nat) (h : Instr) :
    (sramAccess s who t a h go).sizes = s.sizes := by
  simp only [sramAccess, apply_ite State.sizes, answer_sizes, holdAt_sizes, hg, wakeTile_sizes, ite_self]

theorem sramRead_sizes (t a : Nat) (s : State) : (sramRead t a s).sizes = s.sizes := by
  simp only [sramRead, sramBytes_sizes, takeFreeBits_sizes, countCE_sizes, countUE_sizes, State.setTile_sizes, answer_sizes,
    apply_ite State.sizes, ite_self]

theorem sramWrite_sizes (a : Nat) (v : Word) (s : State) : (sramWrite a v s).sizes = s.sizes := by
  simp only [sramWrite, answer_sizes, State.sizes_with]

theorem writeRegister_sizes (who : Agent) (addr : Nat) (v : Word) (s : State) : (writeRegister who addr v s).sizes = s.sizes := by
  unfold writeRegister
  split <;> simp only [regAccess_sizes, answer_sizes, regWriteAt_sizes, sramAccess_sizes, sramWrite_sizes, implies_true]

theorem readRegister_sizes (who : Agent) (addr : Nat) (s : State) : (readRegister who addr s).sizes = s.sizes := by
  unfold readRegister
  split <;> simp only [regAccess_sizes, regReadAt_sizes, answer_sizes, sramAccess_sizes, sramRead_sizes, implies_true]

theorem pgCtlWrite_sizes (s : State) (page : Nat) (v : Word) : (pgCtlWrite s page v).sizes = s.sizes := by
  simp only [pgCtlWrite]
  split <;> simp only [State.setReg_sizes, State.setTile_sizes, wakeDieBy_sizes, apply_ite State.sizes, ite_self, State.sizes_with]

theorem pgCtlAccess_sizes (who : Agent) (cls inst : Nat) (v : Word) (s : State) :
    (pgCtlAccess who cls inst v s).sizes = s.sizes := by
  unfold pgCtlAccess
  split <;> simp only [answer_sizes, pgCtlWrite_sizes]

theorem softCounters_sizes (s : State) (page : Nat) : (softCounters s page).sizes = s.sizes := by
  unfold softCounters
  split <;> simp only [State.setStack_sizes, State.setFen_sizes, State.sizes_with]

theorem softResetEnd_sizes (s : State) (page : Nat) : (softResetEnd s page).sizes = s.sizes := by
  simp only [softResetEnd, softCounters_sizes, State.setReg_sizes, State.sizes_with, foldl_sizes, implies_true]

theorem setLeak_sizes (s : State) (page t : Nat) : (setLeak s page t).sizes = s.sizes := by
  simp only [setLeak, State.sizes_with]

theorem bucketLeak_sizes (s : State) (page : Nat) : (bucketLeak s page).sizes = s.sizes := by
  simp only [bucketLeak, setLeak_sizes, State.setRfld_sizes, apply_ite State.sizes, ite_self]

theorem bucketConfig_sizes (s : State) (page : Nat) (v : Word) : (bucketConfig s page v).sizes = s.sizes := by
  simp only [bucketConfig, State.setRfld_sizes, setLeak_sizes, apply_ite State.sizes, ite_self]

/-! ### Sessions, streams, batches and runs (Stage.lean) -/

theorem spread_sizes (s : State) (pages : List Nat) (off : Nat) (counts : List Nat) :
    (spread s pages off counts).sizes = s.sizes := by
  simp only [spread, bump_sizes, apply_ite State.sizes, ite_self, foldl_sizes, implies_true]

theorem State.setSlot_sizes (s : State) (k : Nat) (f : SlotState → SlotState) : (State.setSlot s k f).sizes = s.sizes := by
  simp only [State.setSlot, State.sizes_with, modifyAt_length]

theorem State.setStream_sizes (s : State) (id : Nat) (f : Stream → Stream) : (State.setStream s id f).sizes = s.sizes := by
  simp only [State.setStream, State.sizes_with]

theorem charge_sizes (s : State) (slot hbm fen : Nat) : (charge s slot hbm fen).sizes = s.sizes := by
  simp only [charge, State.setSlot_sizes]

theorem uncharge_sizes (s : State) (slot hbm fen : Nat) : (uncharge s slot hbm fen).sizes = s.sizes := by
  simp only [uncharge, State.setSlot_sizes]

theorem State.setBatch_sizes (s : State) (stream idx : Nat) (f : Batch → Batch) :
    (State.setBatch s stream idx f).sizes = s.sizes := by
  simp only [State.setBatch, State.setStream_sizes]

theorem State.setRun_sizes (s : State) (stream idx stage : Nat) (f : StageRun → StageRun) :
    (State.setRun s stream idx stage f).sizes = s.sizes := by
  simp only [State.setRun, State.setBatch_sizes]

theorem failRun_sizes (s : State) (stream idx stage status : Nat) : (failRun s stream idx stage status).sizes = s.sizes := by
  simp only [failRun, State.setRun_sizes]

/-! ### TOKENIZE (Text.lean) -/

theorem readWord32_sizes (s : State) (a : Nat) : (readWord32 s a).1.sizes = s.sizes := by
  simp only [readWord32, andThen_sizes, readMem_sizes, ok_sizes, implies_true]

theorem trieStep_sizes (t : Trie) (s : State) (st c : Nat) : (trieStep t s st c).1.sizes = s.sizes := by
  simp only [trieStep, andThen_sizes, readWord32_sizes, ok_sizes, apply_ite State.sizes, apply_ite Prod.fst, ite_self, implies_true]

theorem trieWalk_sizes (t : Trie) (s : State) (st : Nat) (bs : List Byte) : (trieWalk t s st bs).1.sizes = s.sizes := by
  induction bs generalizing s st with
  | nil => rfl
  | cons b bs ih =>
    refine (andThen_sizes (fun s n => ?_) _).trans (trieStep_sizes ..)
    cases n with
    | none => rfl
    | some n => exact ih ..

theorem longest_sizes (t : Trie) (f : Nat) (s : State) (st : Nat) (bs : List Byte) (n : Nat) (best : Option (Nat × Nat)) :
    (longest t f s st bs n best).1.sizes = s.sizes := by
  induction f generalizing s st bs n best with
  | zero => simp only [longest, ok_sizes]
  | succ f ih =>
    cases bs with
    | nil => rfl
    | cons b bs =>
      refine (andThen_sizes (fun s next => ?_) _).trans (trieStep_sizes ..)
      cases next with
      | none => rfl
      | some st =>
        simp only [andThen_sizes, apply_ite Prod.fst, apply_ite State.sizes, fail_sizes, ih, readWord32_sizes, ite_self,
          implies_true]

theorem matchWord_sizes (t : Trie) (contLen unk : Nat) (unkChar : Bool) (off0 : Nat) (word : List Byte) (f : Nat) (s : State)
    (pos : Nat) (acc : List (Nat × Nat)) : (matchWord t contLen unk unkChar off0 word f s pos acc).1.sizes = s.sizes := by
  induction f generalizing s pos acc with
  | zero => rfl
  | succ f ih =>
    unfold matchWord
    split
    · rfl
    · refine (andThen_sizes (fun s best => ?_) _).trans (longest_sizes ..)
      split <;> simp only [apply_ite Prod.fst, apply_ite State.sizes, ih, ok_sizes, ite_self]

theorem wordTokens_sizes (r : List Byte) (t : Trie) (s : State) (w : Word8) : (wordTokens r t s w).1.sizes = s.sizes := by
  simp only [wordTokens, ok_sizes, matchWord_sizes, apply_ite State.sizes, apply_ite Prod.fst, ite_self]

theorem textTokens_sizes (r : List Byte) (t : Trie) (page : Nat) (s : State) (text : List Byte) :
    (textTokens r t page s text).1.sizes = s.sizes := by
  simp only [textTokens, bump_sizes, fail_sizes, andThen_sizes, eachRes_sizes, wordTokens_sizes, ok_sizes, apply_ite State.sizes,
    apply_ite Prod.fst, ite_self, implies_true]

theorem tokenRun_sizes (c : Ctx) (ins : List (Option Col)) (s : State) : (tokenRun c ins s).1.sizes = s.sizes := by
  simp only [tokenRun, andThen_sizes, eachRes_sizes, textTokens_sizes, ok_sizes, fail_sizes, apply_ite State.sizes,
    apply_ite Prod.fst, ite_self, implies_true]

theorem trieRoot_sizes (r h : List Byte) (s : State) : (trieRoot r h s).1.sizes = s.sizes := by
  simp only [trieRoot, trieWalk_sizes]

/-! ### DEFLATE and INFLATE (Compress.lean) -/

theorem countJob_sizes (c : Ctx) (page : Nat) (s : State) (j : JobEnd) : (countJob c page s j).sizes = s.sizes := by
  simp only [countJob, bump_sizes, noteErr_sizes, apply_ite State.sizes, ite_self]

theorem packRun_sizes (c : Ctx) (ins : List (Option Col)) (s : State) : (packRun c ins s).1.sizes = s.sizes := by
  simp only [packRun]
  (repeat' split) <;> simp only [fail_sizes, countJob_sizes, ok_sizes, foldl_sizes, implies_true]

/-! ### Dense operators (Dense.lean) -/

theorem denseOut_sizes (c : Ctx) (dims : List Nat) (rows : List (List Nat)) (s : State) :
    (denseOut c dims rows s).1.sizes = s.sizes := by
  simp only [denseOut, spread_sizes, ok_sizes]

theorem countMacs_sizes (s : State) (pages : List Nat) (rows perRow : Nat) : (countMacs s pages rows perRow).sizes = s.sizes := by
  simp only [countMacs, State.setTile_sizes, bump_sizes, apply_ite State.sizes, ite_self, foldl_sizes, implies_true]

theorem countBusy_sizes (s : State) (pages : List Nat) (ta tb rows cols depth : Nat) :
    (countBusy s pages ta tb rows cols depth).sizes = s.sizes := by
  simp only [countBusy, bump_sizes, apply_ite State.sizes, ite_self, foldl_sizes, implies_true]

theorem freeBusy_sizes (s : State) (c : Ctx) (ta tb : Nat) : (freeBusy s c ta tb).sizes = s.sizes := by
  simp only [freeBusy, bump_sizes, apply_ite State.sizes, ite_self, foldl_sizes, implies_true]

theorem runMatmul_sizes (c : Ctx) (ins : List (Option Col)) (s : State) : (runMatmul c ins s).1.sizes = s.sizes := by
  simp only [runMatmul, countMacs_sizes, countBusy_sizes, freeBusy_sizes, denseOut_sizes, apply_ite State.sizes, ite_self]

theorem readWeights_sizes (s : State) (r : List Byte) (b : Blocks) : (readWeights s r b).1.sizes = s.sizes := by
  simp only [readWeights, andThen_sizes, loadCol_sizes, ok_sizes, readMem_sizes, apply_ite State.sizes, apply_ite Prod.fst,
    ite_self, implies_true]

theorem runLinear_sizes (c : Ctx) (held : Option (Col × List Byte)) (ins : List (Option Col)) (s : State) :
    (runLinear c held ins s).1.sizes = s.sizes := by
  unfold runLinear
  split <;>
    simp only [ok_sizes, andThen_sizes, readMem_sizes, readWeights_sizes, countMacs_sizes, countBusy_sizes, denseOut_sizes,
      apply_ite State.sizes, apply_ite Prod.fst, ite_self, implies_true]

theorem runAttention_sizes (c : Ctx) (ins : List (Option Col)) (s : State) : (runAttention c ins s).1.sizes = s.sizes := by
  simp only [runAttention, must_sizes, freeBusy_sizes, countMacs_sizes, denseOut_sizes, implies_true]

theorem runInteract_sizes (c : Ctx) (ins : List (Option Col)) (s : State) : (runInteract c ins s).1.sizes = s.sizes := by
  simp only [runInteract, freeBusy_sizes, countMacs_sizes, denseOut_sizes]

theorem runElementwise_sizes (c : Ctx) (ins : List (Option Col)) (s : State) : (runElementwise c ins s).1.sizes = s.sizes := by
  simp only [runElementwise, denseOut_sizes, must_sizes, apply_ite State.sizes, apply_ite Prod.fst, ite_self, implies_true]

theorem runNormLayer_sizes (c : Ctx) (ins : List (Option Col)) (s : State) : (runNormLayer c ins s).1.sizes = s.sizes := by
  simp only [runNormLayer, denseOut_sizes]

theorem runSoftmax_sizes (c : Ctx) (ins : List (Option Col)) (s : State) : (runSoftmax c ins s).1.sizes = s.sizes := by
  simp only [runSoftmax, denseOut_sizes]

theorem denseRun_sizes (c : Ctx) (held : Option (Col × List Byte)) (ins : List (Option Col)) (s : State) :
    (denseRun c held ins s).1.sizes = s.sizes := by
  unfold denseRun
  split <;>
    simp only [andThen_sizes, loadAll_sizes, runMatmul_sizes, runLinear_sizes, runAttention_sizes, runInteract_sizes,
      runElementwise_sizes, runNormLayer_sizes, runSoftmax_sizes, implies_true]

/-! ### Heat, hot rows, replicas and epochs (Hot.lean) -/

theorem State.setCulv_sizes (s : State) (k : Nat) (f : Culv → Culv) : (State.setCulv s k f).sizes = s.sizes := by
  simp only [State.setCulv, State.sizes_with, modifyAt_length]

theorem State.setTable_sizes (s : State) (id : Nat) (f : TableEnt → TableEnt) : (State.setTable s id f).sizes = s.sizes := by
  simp only [State.setTable, State.sizes_with]

theorem placeReplicas_sizes (k grans : Nat) (ps : List (Nat × Option Nat)) (n : Nat) (l : List Replica) (s : State) :
    (placeReplicas k grans ps n l s).1.sizes = s.sizes := by
  induction ps generalizing l s with
  | nil => rfl
  | cons p t ih =>
    unfold placeReplicas
    split
    · rfl
    · split
      · exact ih ..
      · dsimp only
        split <;> simp only [ih, bump_sizes]

theorem fillReplicas_sizes (s : State) (addr bytes : Nat) (new : List Replica) :
    (fillReplicas s addr bytes new).1.sizes = s.sizes := by
  unfold fillReplicas
  split <;> rename_i e <;> simp only [foldl_sizes, devWrite_sizes, fst_sizes e (devRead_sizes ..), implies_true]

theorem planReplicas_sizes (s : State) (k table row n : Nat) : (planReplicas s k table row n).sizes = s.sizes := by
  simp only [planReplicas]
  split
  · simp only [apply_ite State.sizes, State.setCulv_sizes, bump_sizes, fillReplicas_sizes, placeReplicas_sizes, ite_self]
  · rfl

theorem makeHot_sizes (s : State) (k table row est : Nat) : (makeHot s k table row est).sizes = s.sizes := by
  simp only [makeHot, planReplicas_sizes, State.setCulv_sizes]

theorem heatWindow_sizes (s : State) (k table : Nat) (rows : List (Nat × Nat)) : (heatWindow s k table rows).sizes = s.sizes := by
  unfold heatWindow
  split <;>
    simp only [State.setCulv_sizes, bump_sizes, makeHot_sizes, apply_ite State.sizes, apply_ite Prod.fst, ite_self, foldl_sizes,
      foldl_fst_sizes, implies_true]

theorem reviewHot_sizes (s : State) (k : Nat) (h : HotRow) : (reviewHot s k h).sizes = s.sizes := by
  simp only [reviewHot, State.setCulv_sizes, planReplicas_sizes, apply_ite State.sizes, ite_self]

theorem decayOnce_sizes (s : State) (k : Nat) : (decayOnce s k).sizes = s.sizes := by
  simp only [decayOnce, reviewHot_sizes, State.setCulv_sizes, apply_ite State.sizes, ite_self, foldl_sizes, implies_true]

theorem decayStep_sizes (s : State) (k : Nat) : (decayStep s k).sizes = s.sizes := by
  simp only [decayStep, decayOnce_sizes, State.setCulv_sizes, apply_ite State.sizes, ite_self]

theorem missedDecay_sizes (s : State) (k : Nat) : (missedDecay s k).sizes = s.sizes := by
  simp only [missedDecay, decayOnce_sizes, State.setCulv_sizes, foldl_sizes, implies_true]

theorem pruneLive_sizes (s : State) (k table : Nat) : (pruneLive s k table).sizes = s.sizes := by
  simp only [pruneLive, State.setCulv_sizes]

theorem moveLive_sizes (s : State) (k table epoch : Nat) (out : Bool) : (moveLive s k table epoch out).sizes = s.sizes := by
  simp only [moveLive, State.setCulv_sizes, pruneLive_sizes, apply_ite State.sizes, ite_self]

theorem openEpoch_sizes (s : State) (k table version : Nat) : (openEpoch s k table version).sizes = s.sizes := by
  simp only [openEpoch, State.setCulv_sizes, sendPacket_sizes, pruneLive_sizes, bump_sizes, State.sizes_with, foldl_sizes,
    implies_true]

theorem epochAdvance_sizes (s : State) (k table : Nat) : (epochAdvance s k table).sizes = s.sizes := by
  simp only [epochAdvance]
  split <;> simp only [openEpoch_sizes, State.setCulv_sizes, apply_ite State.sizes, ite_self]

theorem epochApply_sizes (s : State) (die : Nat) : (epochApply s die).sizes = s.sizes := by
  unfold epochApply
  split <;> simp only [dropPacket_sizes, pruneLive_sizes, State.sizes_with, modifyAt_length]

theorem freeSlotAt_sizes (s : State) (r : Replica) : (freeSlotAt s r).sizes = s.sizes := by
  simp only [freeSlotAt, devDiscard_sizes, apply_ite State.sizes, ite_self]

theorem freeLeaving_sizes (s : State) (k : Nat) (p : Leaving → Bool) : (freeLeaving s k p).sizes = s.sizes := by
  simp only [freeLeaving, State.setCulv_sizes, freeSlotAt_sizes, bump_sizes, apply_ite State.sizes, ite_self, foldl_sizes,
    implies_true]

theorem replicaSlotFree_sizes (s : State) (k table : Nat) : (replicaSlotFree s k table).sizes = s.sizes := by
  unfold replicaSlotFree
  split <;> simp only [freeLeaving_sizes, apply_ite State.sizes, ite_self]

theorem trackTable_sizes (s : State) (id : Nat) : (trackTable s id).sizes = s.sizes := by
  unfold trackTable
  split
  · rfl
  · refine foldl_sizes (fun s k => ?_) _ _
    split
    · exact State.setCulv_sizes ..
    · exact State.setTable_sizes ..

theorem unregister_sizes (s : State) (id : Nat) : (unregister s id).sizes = s.sizes := by
  simp only [unregister, State.sizes_with, List.length_map, foldl_sizes, dropPacket_sizes, State.setCulv_sizes, bump_sizes,
    freeSlotAt_sizes, implies_true]

theorem sketchClear_sizes (who : Agent) (k : Nat) (v : Word) (s : State) : (sketchClear who k v s).sizes = s.sizes := by
  simp only [sketchClear, regAccess_sizes, answer_sizes, State.setCulv_sizes, apply_ite State.sizes, ite_self, implies_true]

theorem hummockWrite_sizes (s : State) (k : Nat) (fen : Bool) (v : Word) : (hummockWrite s k fen v).sizes = s.sizes := by
  simp only [hummockWrite, State.setReg_sizes, apply_ite State.sizes, ite_self]

theorem hummockAccess_sizes (who : Agent) (k : Nat) (fen : Bool) (v : Word) (s : State) :
    (hummockAccess who k fen v s).sizes = s.sizes := by
  simp only [hummockAccess, regAccess_sizes, answer_sizes, hummockWrite_sizes, implies_true]

theorem dropReplica_sizes (s : State) (k table row addr : Nat) : (dropReplica s k table row addr).sizes = s.sizes := by
  unfold dropReplica
  (repeat' split) <;> simp only [State.setCulv_sizes]

theorem forwardRow_sizes (s : State) (k table row : Nat) (b : List Byte) : (forwardRow s k table row b).sizes = s.sizes := by
  simp only [forwardRow, devWrite_sizes, bump_sizes, apply_ite State.sizes, ite_self, foldl_sizes, implies_true]

/-! ### Windows, updates and switches of tables (Tables.lean) -/

theorem noteCulv_sizes (s : State) (k status table stream pos : Nat) : (noteCulv s k status table stream pos).sizes = s.sizes := by
  simp only [noteCulv, firstEvent_sizes]

theorem readCopy_sizes (s : State) (t : TRec) (row home src : Nat) : (readCopy s t row home src).1.sizes = s.sizes := by
  unfold readCopy
  split
  · exact devRead_sizes ..
  · split <;> rename_i e <;> simp only [devRead_sizes, dropReplica_sizes, fst_sizes e (devRead_sizes ..)]

theorem readRows_sizes (s : State) (t : TRec) (es : List WinEntry) : (readRows s t es).1.sizes = s.sizes := by
  unfold readRows
  refine foldl_fst_sizes (fun r q => ?_) _ _
  split
  · rfl
  · split <;> rename_i e <;> simp only [fst_sizes e (readCopy_sizes ..)]

theorem skipFails_sizes {s t : State} {w : Window} {k : Nat} (h : skipFails s w k = some t) : t.sizes = s.sizes := by
  simp only [skipFails] at h
  split at h
  · split at h
    · cases h
      simp only [failRun_sizes, noteCulv_sizes]
    · cases h
  · cases h

theorem lookWindow_sizes (s : State) (w : Window) (k : Nat) (engine : Bool) : (lookWindow s w k engine).sizes = s.sizes := by
  simp only [lookWindow]
  split
  · rename_i e
    simp only [skipFails_sizes e, State.sizes_with]
  · split <;> rename_i e <;>
      simp only [failRun_sizes, noteCulv_sizes, State.setRun_sizes, apply_ite State.sizes, bump_sizes,
        fst_sizes e (readRows_sizes ..), heatWindow_sizes, State.sizes_with, ite_self]

theorem stageSpace_sizes (s : State) (w : Window) (k bytes : Nat) : (stageSpace s w k bytes).sizes = s.sizes := by
  simp only [stageSpace, charge_sizes, State.setBatch_sizes, failRun_sizes, noteCulv_sizes, apply_ite State.sizes, ite_self]

theorem updateWindow_sizes (s : State) (w : Window) (k : Nat) : (updateWindow s w k).sizes = s.sizes := by
  simp only [updateWindow]
  split
  · rename_i e
    simp only [skipFails_sizes e, State.sizes_with]
  · simp only [State.setRun_sizes, stageSpace_sizes, apply_ite State.sizes, heatWindow_sizes, State.sizes_with, ite_self]

theorem sendCommand_sizes (s : State) (k : Nat) (w : Window) : (sendCommand s k w).sizes = s.sizes := by
  simp only [sendCommand, State.setCulv_sizes, State.setRun_sizes]

theorem pushCommands_sizes (c : Ctx) (kind : WinKind) (k n : Nat) (s : State) (page : Nat) :
    (pushCommands c kind k n s page).sizes = s.sizes := by
  simp only [pushCommands, sendCommand_sizes, apply_ite State.sizes, ite_self, foldl_sizes, implies_true]

theorem sendPiece_sizes (s : State) (w : Window) (at_ : Option Nat) : (sendPiece s w at_).sizes = s.sizes := by
  have skipped (k : Nat) : ((skipFails s w k).getD s).sizes = s.sizes := by
    cases e : skipFails s w k with
    | none => rfl
    | some t => exact skipFails_sizes e
  cases at_ <;>
    simp only [sendPiece, lookWindow_sizes, failRun_sizes, skipped, sendCommand_sizes, moveLive_sizes, apply_ite State.sizes,
      ite_self]

theorem sendWindows_sizes (s : State) (stream batch stage page : Nat) (rec_ : List Byte) (version : Nat) (kind : WinKind)
    (pool : List Nat) (xs : List RawIx) : (sendWindows s stream batch stage page rec_ version kind pool xs).sizes = s.sizes := by
  simp only [sendWindows, foldl_sizes, sendPiece_sizes, State.setRun_sizes, implies_true]

theorem countWindow_sizes (s : State) (k : Nat) (w : Window) : (countWindow s k w).sizes = s.sizes := by
  simp only [countWindow, bump_sizes, takeFreeBits_sizes, apply_ite State.sizes, ite_self]

theorem runWindow_sizes (s : State) (k : Nat) (w : Window) : (runWindow s k w).sizes = s.sizes := by
  unfold runWindow
  split <;> simp only [lookWindow_sizes, updateWindow_sizes]

theorem culvertWindow_sizes (s : State) (k : Nat) : (culvertWindow s k).sizes = s.sizes := by
  unfold culvertWindow
  split <;> simp only [runWindow_sizes, countWindow_sizes, State.setCulv_sizes]

theorem pieceBack_sizes (s : State) (w : Window) : (pieceBack s w).sizes = s.sizes := by
  simp only [pieceBack, moveLive_sizes, apply_ite State.sizes, ite_self]

theorem culvertReturn_sizes (t k held : Nat) (s : State) : (culvertReturn t k held s).sizes = s.sizes := by
  unfold culvertReturn
  split <;> simp only [pieceBack_sizes, State.setCulv_sizes, State.setRun_sizes, bump_sizes, apply_ite State.sizes, ite_self]

theorem dropCommands_sizes (s : State) (k : Nat) (mine : Window → Bool) : (dropCommands s k mine).sizes = s.sizes := by
  simp only [dropCommands, State.setCulv_sizes, pieceBack_sizes, foldl_sizes, implies_true]

theorem dropWindows_sizes (s : State) (stream batch : Nat) : (dropWindows s stream batch).sizes = s.sizes := by
  simp only [dropWindows, dropCommands_sizes, foldl_sizes, implies_true]

theorem countNowhere_sizes (c : Ctx) (ins : List (Option Col)) (s : State) : (countNowhere c ins s).sizes = s.sizes := by
  simp only [countNowhere, bump_sizes, apply_ite State.sizes, ite_self]

theorem lookupIssue_sizes (c : Ctx) (recs : List (List Byte)) (pins : List (Nat × Nat)) (ins : List (Option Col)) (s : State) :
    (lookupIssue c recs pins ins s).sizes = s.sizes := by
  simp only [lookupIssue, failRun_sizes, sendWindows_sizes, countNowhere_sizes, State.setRun_sizes, apply_ite State.sizes, ite_self,
    foldl_sizes, implies_true]

theorem updateIssue_sizes (c : Ctx) (recs : List (List Byte)) (ins : List (Option Col)) (s : State) :
    (updateIssue c recs ins s).sizes = s.sizes := by
  simp only [updateIssue, sendWindows_sizes]

theorem lookupOut_sizes (c : Ctx) (recs : List (List Byte)) (run : StageRun) (s : State) :
    (lookupOut c recs run s).1.sizes = s.sizes := by
  simp only [lookupOut, fail_sizes, ok_sizes, apply_ite State.sizes, apply_ite Prod.fst, ite_self]

theorem pieceStop_sizes (s : State) (a : Nat) (b : List Byte) : (pieceStop s a b).1.sizes = s.sizes := by
  unfold pieceStop
  split
  · rename_i e
    split
    · simp only [apply_ite Prod.fst, apply_ite State.sizes, fst_sizes e (writePiece_sizes ..), ite_self]
    · exact fst_sizes e (writePiece_sizes ..)
  · exact writePiece_sizes ..

theorem rowStop_sizes {s : State} {addr : Nat} {b : List Byte} {r : State × Option MemErr} (h : rowStop s addr b = some r) :
    r.1.sizes = s.sizes := by
  obtain ⟨p, _, rfl⟩ := List.mem_map.1 (List.mem_of_find?_eq_some h)
  exact pieceStop_sizes ..

theorem rowWrite_sizes (s : State) (addr : Nat) (b : List Byte) : (rowWrite s addr b).1.sizes = s.sizes := by
  unfold rowWrite
  split
  · rename_i e
    exact rowStop_sizes e
  · exact devWrite_sizes ..

theorem rowRead_sizes (s : State) (addr n : Nat) : (rowRead s addr n).1.sizes = s.sizes := by
  unfold rowRead
  split
  · rename_i e
    exact rowStop_sizes e
  · simp only [foldl_sizes, readPiece_sizes, implies_true]

theorem applyRow_sizes (s : State) (stream : Nat) (r : List Byte) (table : Nat) (item : Nat × Nat × List Nat) :
    (applyRow s stream r table item).1.sizes = s.sizes := by
  unfold applyRow
  split
  · rfl
  · extract_lets t addr k new
    have hn : new.1.sizes = s.sizes := by
      simp only [new]
      split
      · split <;> rename_i e <;> exact fst_sizes e (rowRead_sizes ..)
      · rfl
    clear_value new
    rcases new with ⟨u, x | b⟩
    · simp only [noteCulv_sizes, hn]
    · dsimp only
      split <;> rename_i e <;> simp only [noteCulv_sizes, forwardRow_sizes, bump_sizes, fst_sizes e (rowWrite_sizes ..), hn]

theorem applyRows_sizes (s : State) (stream : Nat) (r : List Byte) (table : Nat) (items : List (Nat × Nat × List Nat)) :
    (applyRows s stream r table items).1.sizes = s.sizes := by
  simp only [applyRows, applyRow_sizes, State.sizes_with, foldl_fst_sizes, implies_true]

theorem forwardDiscard_sizes (s : State) (a n : Nat) : (forwardDiscard s a n).sizes = s.sizes := by
  simp only [forwardDiscard]
  refine foldl_sizes (fun s k => foldl_sizes (fun s h => ?_) _ _) _ _
  split
  · rfl
  · split
    · split <;> rename_i e <;> simp only [forwardRow_sizes, fst_sizes e (devRead_sizes ..)]
    · rfl

theorem applyDiscard_sizes (s : State) (a n : Nat) : (applyDiscard s a n).1.sizes = s.sizes := by
  simp only [applyDiscard, devDiscard_sizes, forwardDiscard_sizes, apply_ite State.sizes, apply_ite Prod.fst, ite_self]

theorem switchReservation_sizes (s : State) (table : Nat) : (switchReservation s table).sizes = s.sizes := by
  unfold switchReservation
  split <;> simp only [State.setTable_sizes, apply_ite State.sizes, ite_self]

theorem switchTargetReady_sizes (s : State) (table : Nat) : (switchTargetReady s table).sizes = s.sizes := by
  unfold switchTargetReady
  (repeat' split) <;> simp only [State.setBatch_sizes]

theorem switchEngine_sizes (table old new : Nat) (s : State) (k : Nat) : (switchEngine table old new s k).sizes = s.sizes := by
  simp only [switchEngine, State.setCulv_sizes, openEpoch_sizes, apply_ite State.sizes, ite_self]

theorem applySwitch_sizes (s : State) (stream table : Nat) (r : List Byte) : (applySwitch s stream table r).sizes = s.sizes := by
  unfold applySwitch
  split <;> simp only [State.setTable_sizes, switchEngine_sizes, foldl_sizes, implies_true]

theorem releaseSwitch_sizes (s : State) (stream batch : Nat) : (releaseSwitch s stream batch).sizes = s.sizes := by
  simp only [releaseSwitch, State.sizes_with]

theorem versionDrain_sizes (s : State) (table : Nat) : (versionDrain s table).sizes = s.sizes := by
  unfold versionDrain
  split
  · rfl
  · split
    · rfl
    · extract_lets mine
      split
      · rfl
      · rename_i t home s1 odd exts s2 s3 _
        have h1 : s1.sizes = s.sizes := by simp only [s1, foldl_sizes, freeLeaving_sizes, implies_true]
        have h2 : s2.sizes = s1.sizes := by
          simp only [s2]
          split
          · refine foldl_sizes (fun s x => ?_) _ _
            split <;> rename_i e <;> simp only [noteCulv_sizes, fst_sizes e (devDiscard_sizes ..)]
          · rfl
        have h3 : s3.sizes = s2.sizes := by
          simp only [s3]
          split
          · rfl
          · split <;> rename_i e <;> simp only [noteCulv_sizes, fst_sizes e (write64_sizes ..)]
        rw [State.setTable_sizes, h3, h2, h1]

/-! ### The Reedbed (Reedbed.lean) -/

theorem releaseSet_sizes (s : State) (id : Nat) : (releaseSet s id).sizes = s.sizes := by
  unfold releaseSet
  split <;> simp only [State.setReed_sizes, State.sizes_with]

theorem noteReed_sizes (s : State) (d status set_ stream bank : Nat) : (noteReed s d status set_ stream bank).sizes = s.sizes := by
  simp only [noteReed, firstEvent_sizes]

theorem searchIssue_sizes (c : Ctx) (setRec : List Byte) (ins : List (Option Col)) (s : State) :
    (searchIssue c setRec ins s).sizes = s.sizes := by
  simp only [searchIssue]
  split <;>
    simp only [failRun_sizes, noteReed_sizes, wakeDieBy_sizes, State.setReed_sizes, State.setRun_sizes, apply_ite State.sizes,
      ite_self]

theorem applyDecay_sizes (s : State) (d : Nat) (ds : List RbDecay) : (applyDecay s d ds).sizes = s.sizes := by
  simp only [applyDecay, State.setReed_sizes]

theorem rewriteEntry_sizes (s : State) (d i : Nat) : (rewriteEntry s d i).sizes = s.sizes := by
  simp only [rewriteEntry, State.setReed_sizes, countCE_sizes, bump_sizes]

theorem shadowError_sizes (s : State) (d i : Nat) (e : LineErr) : (shadowError s d i e).sizes = s.sizes := by
  cases e <;>
    simp only [shadowError, fenCE_sizes, takeFreeBits_sizes, State.setReed_sizes, firstEvent_sizes, countUE_sizes, noteLayer_sizes]

theorem verify_sizes (d : Nat) (all : Bool) (key : List Nat) (cs : List (Nat × RbEntry)) (es : List LineErr) (l : List Nat)
    (rej : Bool) (s : State) : (verify d all key cs es l rej s).1.sizes = s.sizes := by
  induction cs generalizing es l rej s with
  | nil => rfl
  | cons c t ih =>
    simp only [verify, apply_ite Prod.fst, apply_ite State.sizes]
    refine ite_eq_iff'.2 ⟨fun _ => rfl, fun _ => ?_⟩
    split <;>
      simp only [apply_ite Prod.fst, apply_ite State.sizes, ih, State.setReed_sizes, rewriteEntry_sizes, bump_sizes,
        shadowError_sizes, ite_self]

theorem searchKey_sizes (s : State) (d : Nat) (decay : List RbDecay) (errs : List LineErr) :
    (searchKey s d decay errs).sizes = s.sizes := by
  unfold searchKey
  split
  · rfl
  · split
    · rfl
    · extract_lets stream idx stage k s1
      have h1 : s1.sizes = s.sizes := by simp only [s1, applyDecay_sizes, State.setReed_sizes]
      clear_value s1
      split
      · exact h1
      · rename_i r q bitmap s2 finish _ run _
        have h2 : s2.sizes = s1.sizes := bump_sizes ..
        have hf (s : State) (v : List Nat) : (finish s v).sizes = s.sizes := State.setRun_sizes ..
        clear_value s2 finish
        dsimp only
        split <;> rename_i e
        · simp only [failRun_sizes, State.setRun_sizes, noteReed_sizes, fst_sizes e (verify_sizes ..), h2, h1]
        · split <;> simp only [hf, apply_ite State.sizes, bump_sizes, fst_sizes e (verify_sizes ..), h2, h1, ite_self]

theorem searchOut_sizes (c : Ctx) (setRec : List Byte) (run : StageRun) (s : State) :
    (searchOut c setRec run s).1.sizes = s.sizes := by
  simp only [searchOut, ok_sizes]

theorem updateRecords_sizes (c : Ctx) (setRec : List Byte) (ins : List (Option Col)) (s : State) :
    (updateRecords c setRec ins s).1.sizes = s.sizes := by
  simp only [updateRecords]
  (repeat' split) <;> simp only [fail_sizes, noteReed_sizes, ok_sizes]

theorem beginUpdate_sizes (s : State) (d : Nat) : (beginUpdate s d).sizes = s.sizes := by
  unfold beginUpdate
  (repeat' split) <;> simp only [State.setReed_sizes]

theorem applySearch_sizes (s : State) (stream batch set_ : Nat) (records : List (List Byte)) :
    (applySearch s stream batch set_ records).sizes = s.sizes := by
  unfold applySearch
  split <;> simp only [State.setReed_sizes, State.setBatch_sizes, beginUpdate_sizes, apply_ite State.sizes, ite_self]

theorem finishUpdate_sizes (s : State) (d : Nat) : (finishUpdate s d).sizes = s.sizes := by
  unfold finishUpdate
  (repeat' split) <;> simp only [State.setReed_sizes, bump_sizes, State.setBatch_sizes, beginUpdate_sizes]

theorem noteRewrite_sizes (s : State) (d i : Nat) : (noteRewrite s d i).sizes = s.sizes := by
  simp only [noteRewrite, State.setReed_sizes]

theorem reedbedScrub_sizes (s : State) (d : Nat) (decay : List RbDecay) : (reedbedScrub s d decay).sizes = s.sizes := by
  simp only [reedbedScrub, applyDecay_sizes, noteRewrite_sizes, rewriteEntry_sizes, State.setReed_sizes, apply_ite State.sizes,
    ite_self, foldl_sizes, implies_true]

theorem bankSpare_sizes (who : Agent) (d : Nat) (v : Word) (s : State) : (bankSpare who d v s).sizes = s.sizes := by
  refine regAccess_sizes (fun s => ?_) _ _ _ _
  simp only [apply_ite State.sizes, answer_sizes, State.sizes_with, repairRefused_sizes, ite_self]
  refine ite_eq_iff'.2 ⟨fun _ => rfl, fun _ => ite_eq_iff'.2 ⟨fun _ => rfl, fun _ => ?_⟩⟩
  split <;> rename_i e <;>
    simp only [answer_sizes, apply_ite State.sizes, State.setReed_sizes, State.setReg_sizes, State.sizes_with,
      fst_sizes e (repairWrite_sizes ..), ite_self]

theorem bankSpareFillEnd_sizes (d : Nat) (s : State) : (bankSpareFillEnd d s).sizes = s.sizes := by
  unfold bankSpareFillEnd
  split <;> simp only [State.setReed_sizes, apply_ite State.sizes, ite_self]

theorem dropKeys_sizes (s : State) (stream batch : Nat) : (dropKeys s stream batch).sizes = s.sizes := by
  simp only [dropKeys, State.sizes, List.length_map]

/-! ### Calmet rings (Rings.lean) -/

theorem State.setRingIn_sizes (s : State) (r : RingRef) (f : RingIn → RingIn) : (State.setRingIn s r f).sizes = s.sizes := by
  unfold State.setRingIn
  split <;> simp only [State.setSlot_sizes, State.setStream_sizes]

theorem State.setRingOut_sizes (s : State) (r : CompRef) (f : RingOut → RingOut) : (State.setRingOut s r f).sizes = s.sizes := by
  unfold State.setRingOut
  split <;> simp only [State.setSlot_sizes, State.setStream_sizes]

theorem ringFault_sizes (s : State) (cause : Nat) (ref : RingRef) (completion : Bool) :
    (ringFault s cause ref completion).sizes = s.sizes := by
  simp only [ringFault, errorTrigger_sizes, firstEvent_sizes, apply_ite State.sizes, ite_self]

theorem pushTurn_sizes (s : State) (r : CompRef) (t : Turn) : (pushTurn s r t).sizes = s.sizes := by
  simp only [pushTurn, State.setRingOut_sizes]

theorem giveTurn_sizes (s : State) (r : CompRef) (idx : Nat) (c : Comp) (a : After) : (giveTurn s r idx c a).sizes = s.sizes := by
  simp only [giveTurn, State.setRingOut_sizes]

theorem countReject_sizes (s : State) (status : Nat) : (countReject s status).sizes = s.sizes := by
  simp only [countReject, bump_sizes, apply_ite State.sizes, ite_self]

theorem endCtl_sizes (s : State) (slot : Nat) (r : Rec) (status detail count aux : Nat) (a : After) :
    (endCtl s slot r status detail count aux a).sizes = s.sizes := by
  simp only [endCtl, pushTurn_sizes]

theorem endRec_sizes (s : State) (stream : Nat) (r : Rec) (status detail count aux : Nat) :
    (endRec s stream r status detail count aux).sizes = s.sizes := by
  simp only [endRec, giveTurn_sizes]

theorem rejectFront_sizes (s : State) (ref : RingRef) (n : Nat) : (rejectFront s ref n).sizes = s.sizes := by
  induction n generalizing s with
  | zero => rfl
  | succ n ih =>
    simp only [rejectFront]
    split
    · split
      · rfl
      · split <;> simp only [ih, endCtl_sizes, endRec_sizes, State.setSlot_sizes, countReject_sizes, State.setRingIn_sizes]
    · rfl

theorem settle_sizes (s : State) (ref : RingRef) : (settle s ref).sizes = s.sizes := rejectFront_sizes ..

theorem readRecs_sizes (ref : RingRef) (f : Nat) (s : State) (room : Nat) : (readRecs ref f s room).sizes = s.sizes := by
  induction f generalizing s room with
  | zero => rfl
  | succ f ih =>
    simp only [readRecs]
    split
    · rfl
    · split
      · rfl
      · split <;> rename_i e
        · split <;> simp only [ih, pushTurn_sizes, State.setRingIn_sizes, fst_sizes e (devRead_sizes ..)]
        · simp only [ih, pushTurn_sizes, ringFault_sizes, State.setRingIn_sizes, fst_sizes e (devRead_sizes ..)]

theorem writeHeads_sizes (s : State) (ref : RingRef) : (writeHeads s ref).sizes = s.sizes := by
  unfold writeHeads
  split <;> simp only [write64_sizes, State.setRingIn_sizes, ringFault_sizes, apply_ite State.sizes, ite_self]

theorem keepWatch_sizes (s : State) (ref : RingRef) (w : Nat) : (keepWatch s ref w).sizes = s.sizes := by
  unfold keepWatch
  split <;> simp only [State.setSlot_sizes]

theorem overrunRing_sizes (s : State) (ref : RingRef) (r : RingIn) : (overrunRing s ref r).sizes = s.sizes := by
  unfold overrunRing
  split <;> simp only [ringFault_sizes, State.setRingIn_sizes, pushTurn_sizes, State.setStream_sizes]

theorem readUpTo_sizes (s : State) (ref : RingRef) (r : RingIn) (w : Nat) : (readUpTo s ref r w).sizes = s.sizes := by
  simp only [readUpTo, settle_sizes, apply_ite State.sizes, writeHeads_sizes, readRecs_sizes, State.setRingIn_sizes, ite_self]

theorem observeRing_sizes (s : State) (ref : RingRef) : (observeRing s ref).sizes = s.sizes := by
  unfold observeRing
  split
  · rfl
  · split
    · rfl
    · split <;> rename_i e <;>
        simp only [readUpTo_sizes, ringFault_sizes, overrunRing_sizes, keepWatch_sizes, fst_sizes e (read64_sizes ..),
          apply_ite State.sizes, ite_self]

theorem readScomp_sizes (s : State) (k : Nat) : (readScomp s k).1.sizes = s.sizes := by
  unfold readScomp
  split
  · rfl
  · split <;> rename_i e <;> simp only [ringFault_sizes, fst_sizes e (devRead_sizes ..)]

theorem nameScomp_sizes (s : State) (k : Nat) : (nameScomp s k).sizes = s.sizes := by
  unfold nameScomp
  split
  · rfl
  · split <;> rename_i e
    · simp only [ringFault_sizes, fst_sizes e (read64_sizes ..)]
    · split
      · exact fst_sizes e (read64_sizes ..)
      · split <;> rename_i e' <;> simp only [State.setSlot_sizes, fst_sizes e' (readScomp_sizes ..), fst_sizes e (read64_sizes ..)]

theorem nameSlot_sizes (s : State) (k : Nat) : (nameSlot s k).sizes = s.sizes := by
  unfold nameSlot
  split <;> rename_i e
  · simp only [ringFault_sizes, fst_sizes e (read64_sizes ..)]
  · split <;> rename_i e'
    · simp only [ringFault_sizes, fst_sizes e' (devRead_sizes ..), fst_sizes e (read64_sizes ..)]
    · simp only [apply_ite State.sizes, keepWatch_sizes, fst_sizes e' (devRead_sizes ..), fst_sizes e (read64_sizes ..)]
      refine ite_eq_iff'.2 ⟨fun _ => rfl, fun _ => ite_eq_iff'.2 ⟨fun _ => rfl, fun _ => ?_⟩⟩
      split <;> rename_i e'' <;>
        simp only [apply_ite State.sizes, observeRing_sizes, ringFault_sizes, State.setSlot_sizes, keepWatch_sizes,
          fst_sizes e'' (readScomp_sizes ..), fst_sizes e' (devRead_sizes ..), fst_sizes e (read64_sizes ..), ite_self]

theorem watchObserve_sizes (ref : RingRef) (s : State) : (watchObserve ref s).sizes = s.sizes := by
  unfold watchObserve
  (repeat' split) <;> simp only [nameSlot_sizes, observeRing_sizes]

theorem sendMsix_sizes (s : State) (v : Nat) : (sendMsix s v).sizes = s.sizes := by
  simp only [sendMsix, bump_sizes, apply_ite State.sizes, ite_self, State.sizes_with]

theorem writeMsi_sizes (s : State) (core file identity : Nat) : (writeMsi s core file identity).sizes = s.sizes := by
  simp only [writeMsi, State.sizes_with]

theorem sendSig_sizes (s : State) (n : Nat) : (sendSig s n).sizes = s.sizes := by
  simp only [sendSig, bump_sizes, writeMsi_sizes, firstEvent_sizes, apply_ite State.sizes, ite_self]

theorem raiseSignal_sizes (s : State) (route : Nat) : (raiseSignal s route).sizes = s.sizes := by
  unfold raiseSignal
  split <;> simp only [sendSig_sizes, sendMsix_sizes, apply_ite State.sizes, ite_self]

theorem retryLater_sizes (s : State) (r : CompRef) : (retryLater s r).sizes = s.sizes := by
  simp only [retryLater, State.setRingOut_sizes]

theorem writeStatus_sizes (s : State) (x : Stream) : (writeStatus s x).1.sizes = s.sizes := by
  unfold writeStatus
  split
  · split <;> rename_i e <;> simp only [State.setStream_sizes, ringFault_sizes, fst_sizes e (devWrite_sizes ..)]
  · rfl

theorem writeStatuses_sizes (s : State) (ids : List Nat) : (writeStatuses s ids).1.sizes = s.sizes := by
  unfold writeStatuses
  refine foldl_fst_sizes (fun a id => ?_) _ _
  split
  · rfl
  · simp only [writeStatus_sizes]

theorem keepStatus_sizes (s : State) (id : Nat) : (keepStatus s id).sizes = s.sizes := by
  unfold keepStatus
  split <;> rename_i e <;> simp only [retryLater_sizes, fst_sizes e (writeStatuses_sizes ..)]

theorem keepStatuses_sizes (s : State) (ids : List Nat) : (keepStatuses s ids).sizes = s.sizes := by
  simp only [keepStatuses, keepStatus_sizes, foldl_sizes, implies_true]

theorem countTurn_sizes (s : State) (r : CompRef) (t : Turn) : (countTurn s r t).sizes = s.sizes := by
  unfold countTurn
  split <;> simp only [State.setRingOut_sizes, State.setStream_sizes, apply_ite State.sizes, ite_self]

theorem deliveryFault_sizes (s : State) (r : CompRef) : (deliveryFault s r).sizes = s.sizes := by
  simp only [deliveryFault, retryLater_sizes, ringFault_sizes]

theorem advanceWatch_sizes (s : State) (r : CompRef) (o : RingOut) (t : Turn) : (advanceWatch s r o t).1.sizes = s.sizes := by
  unfold advanceWatch
  split <;> rename_i e <;>
    simp only [apply_ite State.sizes, raiseSignal_sizes, deliveryFault_sizes, State.setRingOut_sizes,
      fst_sizes e (write64_sizes ..), ite_self]

theorem writeEntry_sizes (s : State) (r : CompRef) (o : RingOut) (t : Turn) (c : Comp) :
    (writeEntry s r o t c).1.sizes = s.sizes := by
  simp only [writeEntry]
  split <;> rename_i e
  · simp only [deliveryFault_sizes, fst_sizes e (read64_sizes ..)]
  · split
    · exact fst_sizes e (read64_sizes ..)
    · split <;> rename_i e' <;>
        simp only [advanceWatch_sizes, deliveryFault_sizes, fst_sizes e' (devWrite_sizes ..), fst_sizes e (read64_sizes ..)]

theorem deliver_sizes (s : State) (r : CompRef) : (deliver s r).1.sizes = s.sizes := by
  unfold deliver
  split
  · rfl
  · split
    · rfl
    · split
      · rfl
      · simp only [apply_ite Prod.fst, apply_ite State.sizes, advanceWatch_sizes, countTurn_sizes]
        refine ite_eq_iff'.2 ⟨fun _ => rfl, fun _ => ?_⟩
        split <;> rename_i e <;>
          simp only [retryLater_sizes, writeEntry_sizes, fst_sizes e (writeStatuses_sizes ..), countTurn_sizes]

/-! ### The stream engines of a tile (Mover.lean) -/

theorem State.setMover_sizes (s : State) (t : Nat) (f : Mover → Mover) : (State.setMover s t f).sizes = s.sizes := by
  simp only [State.setMover, State.sizes_with, modifyAt_length]

theorem State.setHold_sizes (s : State) (t id : Nat) (f : Hold → Hold) : (State.setHold s t id f).sizes = s.sizes := by
  simp only [State.setHold, State.setStream_sizes]

theorem pumpTile_sizes (s : State) (t : Nat) : (pumpTile s t).sizes = s.sizes := by
  simp only [pumpTile, sendPacket_sizes, State.setMover_sizes, foldl_sizes, implies_true]

theorem issueGroup_sizes (s : State) (t : Nat) (g : Group) : (issueGroup s t g).sizes = s.sizes := by
  simp only [issueGroup, pumpTile_sizes, State.setMover_sizes]

theorem openGroup_sizes (s : State) (t : Nat) (g : Group) (merge : Bool) : (openGroup s t g merge).sizes = s.sizes := by
  simp only [openGroup, issueGroup_sizes, State.setMover_sizes, apply_ite State.sizes, ite_self]
  split <;> simp only [issueGroup_sizes, apply_ite State.sizes, ite_self, foldl_sizes, implies_true]

theorem openTransfer_sizes (s : State) (t stream : Nat) (write : Bool) (addr len : Nat) :
    (openTransfer s t stream write addr len).sizes = s.sizes := by
  simp only [openTransfer]
  (repeat' split) <;> simp only [State.setMover_sizes, bump_sizes, issueGroup_sizes, openGroup_sizes]

theorem mergeGroupIssue_sizes (t group : Nat) (s : State) : (mergeGroupIssue t group s).sizes = s.sizes := by
  unfold mergeGroupIssue
  split <;> simp only [issueGroup_sizes, apply_ite State.sizes, ite_self]

theorem State.setFeed_sizes (s : State) (t : Nat) (g : Feed) (f : Feed → Feed) : (State.setFeed s t g f).sizes = s.sizes := by
  simp only [State.setFeed, State.setMover_sizes]

theorem beginBlock_sizes (s : State) (t : Nat) (f : Feed) (extra : Bool) : (beginBlock s t f extra).sizes = s.sizes := by
  unfold beginBlock
  split <;> simp only [State.setFeed_sizes, openTransfer_sizes]

theorem giveBlocks_sizes (s : State) (t id n : Nat) : (giveBlocks s t id n).sizes = s.sizes := by
  simp only [giveBlocks]
  split <;> simp only [State.setHold_sizes, beginBlock_sizes, State.sizes_with]

theorem grantWaiters_sizes (s : State) (t : Nat) : (grantWaiters s t).sizes = s.sizes := by
  refine foldl_sizes (fun s w => ?_) _ _
  split <;> simp only [apply_ite State.sizes, giveBlocks_sizes, ite_self]

theorem releaseBlocks_sizes (s : State) (t id n : Nat) : (releaseBlocks s t id n).sizes = s.sizes := by
  simp only [releaseBlocks, State.setHold_sizes, grantWaiters_sizes, apply_ite State.sizes, ite_self, State.sizes_with]

theorem askBlock_sizes (s : State) (t : Nat) (f : Feed) : (askBlock s t f).sizes = s.sizes := by
  unfold askBlock
  split <;>
    simp only [beginBlock_sizes, State.setHold_sizes, State.setMover_sizes, State.setFeed_sizes, apply_ite State.sizes, ite_self]

theorem feedTile_sizes (s : State) (t : Nat) : (feedTile s t).sizes = s.sizes := by
  refine foldl_sizes (fun s _ => foldl_sizes (fun s f => ?_) _ _) _ _
  split <;> simp only [askBlock_sizes]

theorem issueSteps_sizes (s : State) (t : Nat) : (issueSteps s t).sizes = s.sizes := by
  simp only [issueSteps, State.setMover_sizes, apply_ite State.sizes, ite_self, foldl_sizes, implies_true]

theorem retireSteps_sizes (s : State) (t : Nat) : (retireSteps s t).sizes = s.sizes := by
  simp only [retireSteps, State.setMover_sizes, releaseBlocks_sizes, foldl_sizes, implies_true]

theorem tickMover_sizes (s : State) (t : Nat) : (tickMover s t).sizes = s.sizes := by
  simp only [tickMover, retireSteps_sizes, feedTile_sizes, issueSteps_sizes, issueGroup_sizes, apply_ite State.sizes, ite_self,
    foldl_sizes, implies_true]

theorem fetchInputs_sizes (s : State) (id idx i : Nat) (tiles : List Nat) (ins : List (Option Col))
    (staged : List (Nat × Nat × Nat)) : (fetchInputs s id idx i tiles ins staged).sizes = s.sizes := by
  simp only [fetchInputs, feedTile_sizes, State.setMover_sizes, apply_ite State.sizes, ite_self, foldl_sizes, implies_true]

theorem endFeeds_sizes (s : State) (t id idx i : Nat) : (endFeeds s t id idx i).sizes = s.sizes := by
  simp only [endFeeds, State.setMover_sizes, releaseBlocks_sizes]

theorem writeBack_sizes (s : State) (t id addr len : Nat) : (writeBack s t id addr len).sizes = s.sizes := by
  simp only [writeBack, openTransfer_sizes, foldl_sizes, implies_true]

theorem writeBackAll_sizes (s : State) (tiles : List Nat) (id addr len : Nat) :
    (writeBackAll s tiles id addr len).sizes = s.sizes := by
  simp only [writeBackAll, writeBack_sizes, foldl_sizes, implies_true]

theorem dropReads_sizes (s : State) (t id : Nat) : (dropReads s t id).sizes = s.sizes := by
  simp only [dropReads, State.setMover_sizes]

theorem dropFetch_sizes (s : State) (t id : Nat) : (dropFetch s t id).sizes = s.sizes := by
  simp only [dropFetch, pumpTile_sizes, dropReads_sizes, State.setMover_sizes]

theorem leaveTiles_sizes (s : State) (id : Nat) : (leaveTiles s id).sizes = s.sizes := by
  simp only [leaveTiles, State.setStream_sizes, grantWaiters_sizes, dropReads_sizes, State.sizes_with, foldl_sizes, implies_true]

theorem tileReturn_sizes (t p held : Nat) (s : State) : (tileReturn t p held s).sizes = s.sizes := by
  simp only [tileReturn]
  split <;>
    simp only [dropPacket_sizes, State.setMover_sizes, bump_sizes, feedTile_sizes, issueSteps_sizes, pumpTile_sizes,
      apply_ite State.sizes, ite_self]

/-! ### Clocks, tile and die sleep, supplies (Power.lean) -/

theorem refclkLoss_sizes (s : State) : (refclkLoss s).sizes = s.sizes := by
  simp only [refclkLoss, State.setReg_sizes, raiseInt_sizes, apply_ite State.sizes, ite_self, State.sizes_with]

theorem refclkReturn_sizes (s : State) : (refclkReturn s).sizes = s.sizes := by
  simp only [refclkReturn, State.setRfld_sizes, apply_ite State.sizes, ite_self, State.sizes_with]

theorem powerSample_sizes (p : PowerSample) (s : State) : (powerSample p s).sizes = s.sizes := by
  simp only [powerSample, State.setReg_sizes, bump_sizes, apply_ite State.sizes, ite_self, State.sizes_with]

theorem captureAsleep_sizes (s : State) (page : Nat) : (captureAsleep s page).sizes = s.sizes := by
  simp only [captureAsleep, State.sizes_with]

theorem tileDoze_sizes (t : Nat) (s : State) : (tileDoze t s).sizes = s.sizes := by
  simp only [tileDoze, State.setTile_sizes, apply_ite State.sizes, ite_self]

theorem tileNap_sizes (t : Nat) (s : State) : (tileNap t s).sizes = s.sizes := by
  simp only [tileNap, captureAsleep_sizes, State.setTile_sizes, apply_ite State.sizes, ite_self]

theorem dieWake_sizes (d src : Nat) (s : State) : (dieWake d src s).sizes = s.sizes := by
  simp only [dieWake, wakeDieBy_sizes, apply_ite State.sizes, ite_self]

theorem dieMireEntered_sizes (d : Nat) (s : State) : (dieMireEntered d s).sizes = s.sizes := by
  simp only [dieMireEntered, captureAsleep_sizes, State.setDie_sizes, bump_sizes, State.setFen_sizes, apply_ite State.sizes,
    ite_self, foldl_sizes, implies_true]

theorem vsbGood_sizes (s : State) : (vsbGood s).sizes = s.sizes := by
  simp only [vsbGood, apply_ite State.sizes, ite_self, State.sizes_with]

theorem offTimeEnd_sizes (s : State) : (offTimeEnd s).sizes = s.sizes := by
  unfold offTimeEnd
  split <;> simp only [apply_ite State.sizes, ite_self, State.sizes_with]

theorem thermtripClear_sizes (hottest : Nat) (s : State) : (thermtripClear hottest s).sizes = s.sizes := by
  simp only [thermtripClear, apply_ite State.sizes, ite_self, State.sizes_with]

theorem pwrokRelease_sizes (s : State) : (pwrokRelease s).sizes = s.sizes := by
  unfold pwrokRelease
  split <;> simp only [apply_ite State.sizes, ite_self, State.sizes_with]

/-! ### Sessions and streams (Calmet.lean) -/

theorem slotClaim_sizes (slot tag : Nat) (s : State) : (slotClaim slot tag s).sizes = s.sizes := by
  unfold slotClaim
  split
  · rfl
  · split <;> rename_i e <;> simp only [answer_sizes, apply_ite State.sizes, write64_sizes, fst_sizes e (read64_sizes ..), ite_self]

theorem takeCtl_sizes (s : State) (slot : Nat) (r : Rec) : (takeCtl s slot r).sizes = s.sizes := by
  simp only [takeCtl, State.setRingIn_sizes, State.setSlot_sizes]

theorem startCtl_sizes {checks : Rec → State → State × List Fail} {act : Rec → State → State}
    (hc : ∀ r s, (checks r s).1.sizes = s.sizes) (ha : ∀ r s, (act r s).sizes = s.sizes) (s : State) (slot op : Nat)
    (aux : State → Nat) : (startCtl s slot op aux checks act).sizes = s.sizes := by
  unfold startCtl
  split
  · rfl
  · simp only [settle_sizes]
    split <;> simp only [endCtl_sizes, countReject_sizes, ha, hc, takeCtl_sizes]

theorem pureChecks_sizes (f : Rec → State → List Fail) (r : Rec) (s : State) : (pureChecks f r s).1.sizes = s.sizes := by
  simp only [pureChecks]

theorem openSession_sizes (slot : Nat) (s : State) : (openSession slot s).sizes = s.sizes := by
  simp only [openSession, startCtl_sizes, pureChecks_sizes, State.setSlot_sizes, endCtl_sizes, State.sizes_with, implies_true]

theorem releaseTables_sizes (s : State) : (releaseTables s).sizes = s.sizes := by
  simp only [releaseTables, unregister_sizes, releaseSet_sizes, foldl_sizes, implies_true]

theorem closeSession_sizes (slot : Nat) (s : State) : (closeSession slot s).sizes = s.sizes := by
  simp only [closeSession, startCtl_sizes, pureChecks_sizes, releaseTables_sizes, endCtl_sizes, State.setSlot_sizes, implies_true]

theorem readHeader_sizes (s : State) (addr kind off : Nat) : (readHeader s addr kind off).1.sizes = s.sizes := by
  unfold readHeader
  split
  · rfl
  · split
    · rfl
    · split <;> rename_i e <;> exact fst_sizes e (devRead_sizes ..)

theorem openStreamChecks_sizes (slot : Nat) (r : Rec) (s : State) : (openStreamChecks slot r s).1.sizes = s.sizes := by
  simp only [openStreamChecks, readHeader_sizes]

theorem openStream_sizes (slot : Nat) (s : State) : (openStream slot s).sizes = s.sizes := by
  simp only [openStream, startCtl_sizes, openStreamChecks_sizes, State.setStream_sizes, endCtl_sizes, State.sizes_with,
    implies_true]

theorem streamCmd_sizes {act : Rec → State → State} (ha : ∀ r s, (act r s).sizes = s.sizes) (s : State) (slot op : Nat)
    (p : SState → Bool) : (streamCmd s slot op p act).sizes = s.sizes :=
  startCtl_sizes (fun _ _ => pureChecks_sizes ..) ha ..

theorem freeResidents_sizes (s : State) (id : Nat) : (freeResidents s id).sizes = s.sizes := by
  simp only [freeResidents, leaveTiles_sizes, State.sizes_with]

theorem setState_sizes (s : State) (id : Nat) (st : SState) : (setState s id st).sizes = s.sizes := by
  simp only [setState, State.setStream_sizes, freeResidents_sizes, apply_ite State.sizes, ite_self]

theorem startRunning_sizes (s : State) (id : Nat) : (startRunning s id).sizes = s.sizes := by
  simp only [startRunning, setState_sizes, State.setStream_sizes]

theorem runStream_sizes (slot : Nat) (s : State) : (runStream slot s).sizes = s.sizes := by
  simp only [runStream, streamCmd_sizes, endCtl_sizes, startRunning_sizes, implies_true]

theorem pauseStream_sizes (slot : Nat) (s : State) : (pauseStream slot s).sizes = s.sizes := by
  simp only [pauseStream, streamCmd_sizes, setState_sizes, State.setStream_sizes, endCtl_sizes, implies_true]

theorem resumeStream_sizes (slot : Nat) (s : State) : (resumeStream slot s).sizes = s.sizes := by
  simp only [resumeStream, streamCmd_sizes, endCtl_sizes, startRunning_sizes, implies_true]

theorem drainStream_sizes (slot : Nat) (s : State) : (drainStream slot s).sizes = s.sizes := by
  refine streamCmd_sizes (fun r s => ?_) _ _ _ _
  split
  · rfl
  · simp only [apply_ite State.sizes, endCtl_sizes, setState_sizes, State.setStream_sizes, ite_self]

theorem endLate_sizes (s : State) (slot idx status count : Nat) (a : After) :
    (endLate s slot idx status count a).sizes = s.sizes := by
  unfold endLate
  split <;> simp only [endCtl_sizes]

theorem resetProgress_sizes (s : State) (id : Nat) : (resetProgress s id).sizes = s.sizes := by
  unfold resetProgress
  split <;>
    simp only [State.setStream_sizes, endLate_sizes, setState_sizes, apply_ite State.sizes, ite_self, foldl_sizes, implies_true]

theorem freePlan_sizes (s : State) (x : Stream) : (freePlan s x).sizes = s.sizes := by
  simp only [freePlan, uncharge_sizes, State.setStream_sizes]

theorem sizeSlough_sizes (s : State) (x : Stream) (bytes : Nat) : (sizeSlough s x bytes).sizes = s.sizes := by
  simp only [sizeSlough, charge_sizes, uncharge_sizes, State.setStream_sizes, apply_ite State.sizes, ite_self]

theorem freeBinds_sizes (s : State) (id : Nat) : (freeBinds s id).sizes = s.sizes := by
  simp only [freeBinds, State.sizes_with]

theorem unbindPlan_sizes (s : State) (id : Nat) : (unbindPlan s id).sizes = s.sizes := by
  unfold unbindPlan
  split <;> simp only [releaseTables_sizes, freeBinds_sizes, freeResidents_sizes, freePlan_sizes]

theorem skipRing_sizes (s : State) (id : Nat) : (skipRing s id).sizes = s.sizes := by
  simp only [skipRing]
  split
  · rfl
  · split <;> rename_i e <;> simp only [writeHeads_sizes, State.setStream_sizes, ringFault_sizes, fst_sizes e (read64_sizes ..)]

theorem endRearm_sizes (s : State) (id : Nat) (d : SlotDesc) (status flags : Nat) :
    (endRearm s id d status flags).sizes = s.sizes := by
  simp only [endRearm, giveTurn_sizes, apply_ite State.sizes, ite_self]

theorem stopShadows_sizes (s : State) (id : Nat) : (stopShadows s id).sizes = s.sizes := by
  unfold stopShadows
  split <;> simp only [endRearm_sizes, State.setStream_sizes, foldl_sizes, implies_true]

theorem clearSlots_sizes (s : State) (id : Nat) : (clearSlots s id).sizes = s.sizes := by
  simp only [clearSlots]
  split <;> simp only [stopShadows_sizes, endRearm_sizes, State.setStream_sizes, foldl_sizes, implies_true]

theorem resetStream_sizes (slot : Nat) (s : State) : (resetStream slot s).sizes = s.sizes := by
  simp only [resetStream, streamCmd_sizes, unbindPlan_sizes, clearSlots_sizes, setState_sizes, skipRing_sizes, resetProgress_sizes,
    State.setStream_sizes, implies_true]

theorem batchCount_sizes (s : State) (x : Stream) (b : Batch) : (batchCount s x b).1.sizes = s.sizes := by
  simp only [batchCount]
  (repeat' split) <;> simp only [takeFreeBits_sizes]

theorem stopOne_sizes (id : Nat) (s : State) (b : Batch) : (stopOne id s b).sizes = s.sizes := by
  unfold stopOne
  split <;> simp only [batchCount_sizes, giveTurn_sizes, State.setBatch_sizes]

theorem stopUnstarted_sizes (s : State) (id : Nat) : (stopUnstarted s id).sizes = s.sizes := by
  unfold stopUnstarted
  split <;> simp only [stopOne_sizes, foldl_sizes, implies_true]

theorem freeSlough_sizes (s : State) (id : Nat) : (freeSlough s id).sizes = s.sizes := by
  unfold freeSlough
  split <;> simp only [sizeSlough_sizes]

theorem closeStream_sizes (slot : Nat) (s : State) : (closeStream slot s).sizes = s.sizes := by
  simp only [closeStream, streamCmd_sizes, freeSlough_sizes, unbindPlan_sizes, clearSlots_sizes, stopUnstarted_sizes,
    State.setStream_sizes, resetProgress_sizes, implies_true]

theorem answerHalt_sizes (s : State) (h : HaltOp) : (answerHalt s h).sizes = s.sizes := by
  unfold answerHalt
  split <;> simp only [pushTurn_sizes, State.sizes_with, foldl_sizes, implies_true]

theorem haltProgress_sizes (s : State) : (haltProgress s).sizes = s.sizes := by
  simp only [haltProgress, answerHalt_sizes, apply_ite State.sizes, ite_self, State.sizes_with, foldl_sizes, implies_true]

theorem freeSlot_sizes (s : State) (k : Nat) : (freeSlot s k).sizes = s.sizes := by
  simp only [freeSlot, write64_sizes, State.setSlot_sizes]

theorem batchPosted_sizes (s : State) (id idx : Nat) : (batchPosted s id idx).sizes = s.sizes := by
  simp only [batchPosted]
  (repeat' split) <;> simp only [State.setStream_sizes, endLate_sizes, setState_sizes, State.sizes_with]

theorem afterPost_sizes (s : State) (r : CompRef) (t : Turn) : (afterPost s r t).sizes = s.sizes := by
  unfold afterPost
  split
  · simp only [settle_sizes, haltProgress_sizes, resetProgress_sizes]
    split <;> simp only [batchPosted_sizes]
  · simp only [settle_sizes, apply_ite State.sizes, State.sizes_with, ite_self]
    split <;> simp only [freeSlot_sizes, State.sizes_with, State.setSlot_sizes]

theorem postTurn_sizes (s : State) (r : CompRef) : (postTurn s r).sizes = s.sizes := by
  unfold postTurn
  split <;> rename_i e <;> simp only [afterPost_sizes, fst_sizes e (deliver_sizes ..)]

theorem completionPost_sizes (r : CompRef) (s : State) : (completionPost r s).sizes = s.sizes := by
  unfold completionPost
  split <;> simp only [postTurn_sizes, apply_ite State.sizes, ite_self]

theorem redeliver_sizes (s : State) (r : CompRef) : (redeliver s r).sizes = s.sizes := by
  simp only [redeliver]
  split <;> simp only [State.setRingOut_sizes, keepStatus_sizes, postTurn_sizes]

theorem deliveryRetry_sizes (r : CompRef) (s : State) : (deliveryRetry r s).sizes = s.sizes := by
  simp only [deliveryRetry, writeHeads_sizes, redeliver_sizes, apply_ite State.sizes, ite_self]

/-! ### Transfer slots, RECEIVE and SEND (Link.lean) -/

theorem State.setTSlot_sizes (s : State) (id k : Nat) (f : TSlot → TSlot) : (State.setTSlot s id k f).sizes = s.sizes := by
  simp only [State.setTSlot, State.setStream_sizes]

theorem rearmProgress_sizes (s : State) (id k : Nat) : (rearmProgress s id k).sizes = s.sizes := by
  unfold rearmProgress
  split <;> simp only [endRearm_sizes, State.setTSlot_sizes, foldl_sizes, implies_true]

theorem promote_sizes (s : State) (id k : Nat) : (promote s id k).sizes = s.sizes := by
  unfold promote
  split <;> simp only [rearmProgress_sizes, State.setTSlot_sizes, apply_ite State.sizes, ite_self]

theorem claim_sizes (s : State) (id k : Nat) : (claim s id k).sizes = s.sizes := by
  simp only [claim]
  (repeat' split) <;> simp only [State.setTSlot_sizes, failRun_sizes]

theorem freeTaken_sizes (s : State) (id batch : Nat) : (freeTaken s id batch).sizes = s.sizes := by
  simp only [freeTaken, State.setStream_sizes, rearmProgress_sizes, foldl_sizes, implies_true]

theorem arrive_sizes (s : State) (id k : Nat) (origin data : List Byte) (last : Bool) :
    (arrive s id k origin data last).1.sizes = s.sizes := by
  simp only [arrive]
  (repeat' split) <;> simp only [promote_sizes, State.setTSlot_sizes, devWrite_sizes, wakeForWrite_sizes, claim_sizes]

theorem tearSlot_sizes (s : State) (id k : Nat) : (tearSlot s id k).sizes = s.sizes := by
  simp only [tearSlot]
  (repeat' split) <;> simp only [State.setTSlot_sizes, failRun_sizes, promote_sizes]

theorem tearSource_sizes (s : State) (src : Nat × Nat × Nat) : (tearSource s src).sizes = s.sizes := by
  unfold tearSource
  split <;> simp only [tearSlot_sizes]

theorem recordArrival_sizes (id k : Nat) (origin data : List Byte) (last : Bool) (s : State) :
    (recordArrival id k origin data last s).sizes = s.sizes := by
  simp only [recordArrival]
  split
  · exact bump_sizes ..
  · split <;> rename_i e <;>
      simp only [apply_ite State.sizes, bump_sizes, State.sizes_with, fst_sizes e (arrive_sizes ..), ite_self]

theorem stallCounted_sizes (s : State) (id k : Nat) : (stallCounted s id k).sizes = s.sizes := by
  simp only [stallCounted, State.setTSlot_sizes, State.setStream_sizes]

theorem stallExpiry_sizes (id k : Nat) (s : State) : (stallExpiry id k s).sizes = s.sizes := by
  unfold stallExpiry
  split <;> simp only [keepStatus_sizes, stallCounted_sizes, apply_ite State.sizes, ite_self]

theorem State.setQp_sizes (s : State) (n : Nat) (f : Qp → Qp) : (State.setQp s n f).sizes = s.sizes := by
  simp only [State.setQp, State.sizes_with]

theorem State.setPort_sizes (s : State) (p : Nat) (f : Port → Port) : (State.setPort s p f).sizes = s.sizes := by
  simp only [State.setPort, State.sizes_with, modifyAt_length]

theorem qpTear_sizes (s : State) (n : Nat) (st : QpState) : (qpTear s n st).sizes = s.sizes := by
  simp only [qpTear]
  split
  · rfl
  · refine (foldl_sizes (fun s m => ?_) _ _).trans ?_
    · split <;> simp only [apply_ite State.sizes, promote_sizes, ite_self]
    · simp only [tearSource_sizes, foldl_sizes, failRun_sizes, State.setQp_sizes, implies_true]

theorem noteQp_sizes (s : State) (port cause index : Nat) : (noteQp s port cause index).sizes = s.sizes := by
  simp only [noteQp, firstEvent_sizes]

theorem qpError_sizes (s : State) (n cause : Nat) : (qpError s n cause).sizes = s.sizes := by
  unfold qpError
  split <;> simp only [devWrite_sizes, wakeForWrite_sizes, qpTear_sizes, noteQp_sizes, bump_sizes]

theorem qpSend_sizes (s : State) (n : Nat) (m : QpMsg) : (qpSend s n m).sizes = s.sizes := by
  unfold qpSend
  split <;> simp only [State.setQp_sizes, apply_ite State.sizes, ite_self, State.sizes_with]

theorem sendOne_sizes (c : Ctx) (entry data : List Byte) (s : State) : (sendOne c entry data s).1.sizes = s.sizes := by
  unfold sendOne
  (repeat' split) <;>
    simp only [fail_sizes, ok_sizes, qpSend_sizes, apply_ite State.sizes, apply_ite Prod.fst, ite_self, State.sizes_with]

theorem sendEntries_sizes (c : Ctx) (ins : List (Option Col)) (n : Nat) (s : State) :
    (sendEntries c ins n s).1.sizes = s.sizes := by
  simp only [sendEntries]
  (repeat' split) <;> simp only [ok_sizes, promote_sizes, fail_sizes, andThen_sizes, readMem_sizes, implies_true]

theorem sendIssue_sizes (c : Ctx) (ins : List (Option Col)) (s : State) : (sendIssue c ins s).sizes = s.sizes := by
  simp only [sendIssue]
  split <;> rename_i e
  · refine fst_sizes e ((andThen_sizes (fun s ins => ?_) _).trans (loadAll_sizes ..))
    simp only [andThen_sizes, eachRes_sizes, sendEntries_sizes, sendOne_sizes, implies_true]
  · refine (failRun_sizes ..).trans (fst_sizes e ((andThen_sizes (fun s ins => ?_) _).trans (loadAll_sizes ..)))
    simp only [andThen_sizes, eachRes_sizes, sendEntries_sizes, sendOne_sizes, implies_true]

theorem nvmeNext_sizes (s : State) (id batch stage : Nat) : (nvmeNext s id batch stage).sizes = s.sizes := by
  simp only [nvmeNext]
  (repeat' split) <;> simp only [failRun_sizes, takeFree_sizes, State.setRun_sizes, State.sizes_with]

theorem nvmeTear_sizes (s : State) (q : Nat) : (nvmeTear s q).sizes = s.sizes := by
  simp only [nvmeTear, tearSource_sizes, failRun_sizes, State.sizes_with, foldl_sizes, implies_true]

theorem recvIssue_sizes (c : Ctx) (ins : List (Option Col)) (s : State) : (recvIssue c ins s).sizes = s.sizes := by
  simp only [recvIssue]
  split
  · rfl
  · split
    · simp only [failRun_sizes, State.setTSlot_sizes]
    · split
      · split <;> rename_i e <;>
          simp only [failRun_sizes, nvmeNext_sizes, claim_sizes, State.setRun_sizes, fst_sizes e (loadAll_sizes ..)]
      · exact claim_sizes ..

theorem recvOut_sizes (c : Ctx) (s : State) : (recvOut c s).1.sizes = s.sizes := by
  unfold recvOut
  split <;> simp only [fail_sizes, ok_sizes]

theorem rearmChecks_sizes (s : State) (x : Stream) (r : Rec) : (rearmChecks s x r).1.sizes = s.sizes := by
  simp only [rearmChecks]
  split
  · rfl
  · split
    · rfl
    · split <;> rename_i e <;> exact fst_sizes e (devRead_sizes ..)

theorem takeRec_sizes (s : State) (id : Nat) : (takeRec s id).sizes = s.sizes := by
  simp only [takeRec, State.setStream_sizes]

theorem rearmSlot_sizes (s : State) (x : Stream) (r : Rec) : (rearmSlot s x r).sizes = s.sizes := by
  simp only [rearmSlot]
  (repeat' split) <;> simp only [State.setTSlot_sizes, endRearm_sizes, rearmProgress_sizes]

theorem rearmStream_sizes (id : Nat) (s : State) : (rearmStream id s).sizes = s.sizes := by
  simp only [rearmStream]
  (repeat' split) <;>
    simp only [rearmChecks_sizes, takeRec_sizes, endRec_sizes, countReject_sizes, promote_sizes, rearmSlot_sizes, settle_sizes]

/-! ### Peer sessions (Peer.lean) -/

theorem peerPacket_sizes (q : Qp) (kind : Nat) (s : State) (addr : Nat) (data : List Byte) :
    (peerPacket q kind s addr data).sizes = s.sizes := by
  simp only [peerPacket, State.sizes_with]

theorem peerWrite_sizes (q : Qp) (s : State) (addr : Nat) (data : List Byte) : (peerWrite q s addr data).sizes = s.sizes := by
  simp only [peerWrite, peerPacket_sizes]

theorem openPeerSession_sizes (q : Qp) (owner slot level area peer : Nat) (s : State) :
    (openPeerSession q owner slot level area peer s).sizes = s.sizes := by
  simp only [openPeerSession, peerPacket_sizes, peerWrite_sizes, State.sizes_with]

theorem State.setPeer_sizes (s : State) (peer : Nat) (f : PeerSession → PeerSession) :
    (State.setPeer s peer f).sizes = s.sizes := by
  simp only [State.setPeer, State.sizes_with]

theorem publish_sizes (q : Qp) (peer op stream : Nat) (params : List (Nat × Nat × Nat)) (s : State) :
    (publish q peer op stream params s).sizes = s.sizes := by
  unfold publish
  split <;> simp only [peerWrite_sizes, State.setPeer_sizes]

theorem startRemote_sizes (q : Qp) (id remote : Nat) (h : Remote) (s : State) : (startRemote q id remote h s).sizes = s.sizes := by
  simp only [startRemote, peerWrite_sizes, publish_sizes, State.setPeer_sizes]

theorem openRemote_sizes (slot id : Nat) (h : Remote) (a : Peering) : (openRemote slot id h a).1.sizes = a.1.sizes := by
  simp only [openRemote]
  split
  · rfl
  · split
    · rfl
    · split
      · split <;> simp only [startRemote_sizes]
      · split
        · split
          · split <;> simp only [startRemote_sizes, openPeerSession_sizes]
          · rfl
        · rfl
        · rfl

theorem closePeer_sizes (q : Qp) (p : PeerSession) (s : State) : (closePeer q p s).sizes = s.sizes := by
  simp only [closePeer, peerWrite_sizes, publish_sizes, foldl_sizes, implies_true]

/-! ### PICTURE_DECODE and PICTURE_TRANSFORM (Picture.lean) -/

theorem meshStatus_sizes (s : State) (d : List Byte) : (meshStatus s d).1.sizes = s.sizes := by
  simp only [meshStatus, ok_sizes, andThen_sizes, readMem_sizes, apply_ite State.sizes, apply_ite Prod.fst, ite_self, implies_true]

theorem picHole_sizes (c : Ctx) (page : Nat) (s : State) (desc : List Byte) (status : Nat) :
    (picHole c page s desc status).1.sizes = s.sizes := by
  simp only [picHole, ok_sizes, noteErr_sizes, bump_sizes]

theorem decodeSample_sizes (c : Ctx) (page : Nat) (s : State) (d : List Byte) : (decodeSample c page s d).1.sizes = s.sizes := by
  unfold decodeSample
  refine (andThen_sizes (fun s st => ?_) _).trans ?_
  · split
    · exact picHole_sizes ..
    · dsimp only
      split
      · simp only [ok_sizes, bump_sizes, State.setStream_sizes]
      · refine (andThen_sizes (fun s bytes => ?_) _).trans (readMem_sizes ..)
        split <;> simp only [picHole_sizes, ok_sizes, bump_sizes, State.setStream_sizes, apply_ite State.sizes, ite_self]
  · simp only [apply_ite Prod.fst, apply_ite State.sizes, meshStatus_sizes, ok_sizes, ite_self]

theorem tableEntry_sizes (t : Col) (i : Nat) (s : State) : (tableEntry t i s).1.sizes = s.sizes := by
  unfold tableEntry
  split <;> simp only [readMem_sizes, ok_sizes]

theorem decodeRow_sizes (c : Ctx) (ix table : Col) (s : State) (k : Nat) : (decodeRow c ix table s k).1.sizes = s.sizes := by
  have read (i : Nat) (page : Nat) : (andThen (tableEntry table i s) fun s d => decodeSample c page s d).1.sizes = s.sizes := by
    simp only [andThen_sizes, decodeSample_sizes, tableEntry_sizes, implies_true]
  simp only [decodeRow]
  split
  · exact ok_sizes ..
  · split
    · simp only [fail_sizes, noteErr_sizes]
    · split
      · rename_i e
        simp only [noteErr_sizes, fst_sizes e (read ..)]
      · exact read ..

theorem decodeRun_sizes (c : Ctx) (ins : List (Option Col)) (s : State) : (decodeRun c ins s).1.sizes = s.sizes := by
  refine (andThen_sizes (fun s ps => ?_) _).trans (eachRes_sizes (fun s k => decodeRow_sizes ..) _ _)
  split <;> simp only [fail_sizes, ok_sizes]

theorem readMesh_sizes (s : State) (p : Pic) : (readMesh s p).1.sizes = s.sizes := by
  simp only [readMesh, ok_sizes, andThen_sizes, readMem_sizes, apply_ite State.sizes, apply_ite Prod.fst, ite_self, implies_true]

theorem transformRun_sizes (c : Ctx) (ins : List (Option Col)) (s : State) : (transformRun c ins s).1.sizes = s.sizes := by
  unfold transformRun
  refine (andThen_sizes (fun s rows => ok_sizes ..) _).trans (eachRes_sizes (fun s p => ?_) _ _)
  dsimp only
  split <;> rename_i e <;>
    simp only [noteErr_sizes, ok_sizes, bump_sizes, apply_ite State.sizes, fst_sizes e (readMesh_sizes ..), ite_self]

/-! ### Relational and feature operators (Rel.lean) -/

theorem runProject_sizes (c : Ctx) (ins : List (Option Col)) (s : State) : (runProject c ins s).1.sizes = s.sizes := by
  simp only [runProject, must_sizes, spread_sizes, ok_sizes, implies_true]

theorem runFilter_sizes (c : Ctx) (ins : List (Option Col)) (s : State) : (runFilter c ins s).1.sizes = s.sizes := by
  simp only [runFilter, must_sizes, spread_sizes, ok_sizes, apply_ite State.sizes, apply_ite Prod.fst, ite_self, implies_true]

theorem runScan_sizes (c : Ctx) (ins : List (Option Col)) (s : State) : (runScan c ins s).1.sizes = s.sizes := by
  simp only [runScan]
  split <;> simp only [fail_sizes, ok_sizes, spread_sizes]

theorem mapCols_sizes (c : Ctx) (ins : List (Option Col)) (t : Nat → Nat) (f : Nat → Nat → Option Val → Option Nat) (s : State) :
    (mapCols c ins t f s).1.sizes = s.sizes := by
  simp only [mapCols, must_sizes, ok_sizes, spread_sizes, implies_true]

theorem runCast_sizes (c : Ctx) (ins : List (Option Col)) (s : State) : (runCast c ins s).1.sizes = s.sizes := by
  simp only [runCast, mapCols_sizes]

theorem runHash_sizes (c : Ctx) (ins : List (Option Col)) (s : State) : (runHash c ins s).1.sizes = s.sizes := by
  simp only [runHash, must_sizes, ok_sizes, spread_sizes, implies_true]

theorem runBucketize_sizes (c : Ctx) (ins : List (Option Col)) (s : State) : (runBucketize c ins s).1.sizes = s.sizes := by
  simp only [runBucketize, mapCols_sizes]

theorem runNormalize_sizes (c : Ctx) (ins : List (Option Col)) (s : State) : (runNormalize c ins s).1.sizes = s.sizes := by
  simp only [runNormalize, mapCols_sizes]

theorem runJoinBuild_sizes (c : Ctx) (ins : List (Option Col)) (s : State) : (runJoinBuild c ins s).1.sizes = s.sizes := by
  simp only [runJoinBuild, must_sizes, spread_sizes, ok_sizes, implies_true]

theorem objBytes_sizes (s : State) (c : Col) (off n : Nat) : (objBytes s c off n).1.sizes = s.sizes := by
  unfold objBytes
  split <;> simp only [readMem_sizes, ok_sizes]

theorem probeKey_sizes (s : State) (o : Col) (h : List Byte) (key : Nat) : (probeKey s o h key).1.sizes = s.sizes := by
  refine (andThen_sizes (fun s b => must_sizes (fun s => ?_) _ _ _) _).trans (objBytes_sizes ..)
  exact (andThen_sizes (fun s es => ok_sizes ..) _).trans (objBytes_sizes ..)

theorem runJoinProbe_sizes (c : Ctx) (ins : List (Option Col)) (s : State) : (runJoinProbe c ins s).1.sizes = s.sizes := by
  unfold runJoinProbe
  refine (andThen_sizes (fun s h => ?_) _).trans ?_
  · dsimp only
    split
    · exact fail_sizes ..
    · refine must_sizes (fun s => (andThen_sizes (fun s ms => ?_) _).trans (eachRes_sizes (fun s e => ?_) _ _)) _ _ _
      · simp only [must_sizes, spread_sizes, ok_sizes, implies_true]
      · split
        · exact (andThen_sizes (fun s ms => ok_sizes ..) _).trans (probeKey_sizes ..)
        · exact ok_sizes ..
  · simp only [apply_ite Prod.fst, apply_ite State.sizes, objBytes_sizes, fail_sizes, ite_self]

theorem runGroupAgg_sizes (c : Ctx) (ins : List (Option Col)) (s : State) : (runGroupAgg c ins s).1.sizes = s.sizes := by
  simp only [runGroupAgg, must_sizes, spread_sizes, ok_sizes, implies_true]

theorem relSpill_sizes (c : Ctx) (ins : List (Option Col)) (s : State) : (relSpill c ins s).sizes = s.sizes := by
  simp only [relSpill, charge_sizes, State.setRun_sizes, bump_sizes, failRun_sizes, noteErr_sizes, apply_ite State.sizes, ite_self,
    foldl_sizes, implies_true]

theorem relRun_sizes (c : Ctx) (ins : List (Option Col)) (s : State) : (relRun c ins s).1.sizes = s.sizes := by
  unfold relRun
  split <;>
    simp only [andThen_sizes, loadAll_sizes, runScan_sizes, runProject_sizes, runFilter_sizes, runHash_sizes, runBucketize_sizes,
      runNormalize_sizes, runJoinBuild_sizes, runJoinProbe_sizes, runGroupAgg_sizes, runCast_sizes, implies_true]

/-! ### Selection (Select.lean) -/

theorem mergeRow_sizes (r : List Byte) (pages : List Nat) (ins : List (Option Col)) (row : Nat) (s : State) :
    (mergeRow r pages ins row s).sizes = s.sizes := by
  simp only [mergeRow, bump_sizes, apply_ite State.sizes, ite_self]

theorem scanPieces_sizes (r : List Byte) (pages : List Nat) (ins : List (Option Col)) (s : State) :
    (scanPieces r pages ins s).sizes = s.sizes := by
  simp only [scanPieces, bump_sizes, apply_ite State.sizes, ite_self, foldl_sizes, implies_true]

theorem countRows_sizes (s : State) (pageOf : Nat → Nat) (k : Nat) (rows : List (Nat × Nat)) :
    (countRows s pageOf k rows).sizes = s.sizes := by
  simp only [countRows, bump_sizes, apply_ite State.sizes, ite_self, foldl_sizes, implies_true]

theorem gatherRow_sizes (r : List Byte) (tbl : Col) (l row k : Nat) (kept : List El) (s : State) :
    (gatherRow r tbl l row k kept s).1.sizes = s.sizes := by
  simp only [gatherRow, andThen_sizes, eachRes_sizes, must_sizes, objBytes_sizes, ok_sizes, implies_true]

theorem runTopk_sizes (c : Ctx) (ins : List (Option Col)) (s : State) : (runTopk c ins s).1.sizes = s.sizes := by
  unfold runTopk
  refine must_sizes (fun s => ?_) _ _ _
  refine (andThen_sizes (fun s pay => ok_sizes ..) _).trans ?_
  split
  · refine (andThen_sizes (fun s bs => ok_sizes ..) _).trans ((eachRes_sizes (fun s q => ?_) _ _).trans ?_)
    · simp only [andThen_sizes, ok_sizes, bump_sizes, gatherRow_sizes, implies_true]
    · simp only [countRows_sizes, scanPieces_sizes]
  · simp only [ok_sizes, countRows_sizes, scanPieces_sizes]

theorem runMergeLists_sizes (c : Ctx) (ins : List (Option Col)) (s : State) : (runMergeLists c ins s).1.sizes = s.sizes := by
  simp only [runMergeLists, spread_sizes, countRows_sizes, ok_sizes]

theorem selLoad_sizes (r : List Byte) (ins : List (Option Col)) (s : State) : (selLoad r ins s).1.sizes = s.sizes := by
  simp only [selLoad, loadAll_sizes, andThen_sizes, ok_sizes, apply_ite State.sizes, apply_ite Prod.fst, ite_self, implies_true]

theorem selRun_sizes (c : Ctx) (ins : List (Option Col)) (s : State) : (selRun c ins s).1.sizes = s.sizes := by
  simp only [selRun, runMergeLists_sizes, runTopk_sizes, apply_ite State.sizes, apply_ite Prod.fst, ite_self]

/-! ### SHUFFLE and BATCH (Shuffle.lean) -/

theorem shuffleIssue_sizes (c : Ctx) (s : State) : (shuffleIssue c s).sizes = s.sizes := by
  unfold shuffleIssue
  split <;> simp only [bump_sizes, State.setStream_sizes, State.setBatch_sizes, State.setRun_sizes]

theorem cursorGiveUp_sizes (s : State) (stream idx : Nat) : (cursorGiveUp s stream idx).sizes = s.sizes := by
  unfold cursorGiveUp
  split <;> simp only [State.setStream_sizes]

theorem batchRun_sizes (c : Ctx) (shuf : List Byte) (cs : List Cand) (ins : List (Option Col)) (s : State) :
    (batchRun c shuf cs ins s).1.sizes = s.sizes := by
  unfold batchRun
  (repeat' split) <;>
    simp only [failAt_sizes, noteErr_sizes, State.setStream_sizes, State.setBatch_sizes, bump_sizes, ok_sizes, fail_sizes,
      apply_ite State.sizes, ite_self]

theorem prepLoad_sizes (r : List Byte) (ins : List (Option Col)) (s : State) : (prepLoad r ins s).1.sizes = s.sizes := by
  simp only [prepLoad, andThen_sizes, loadAll_sizes, ok_sizes, apply_ite State.sizes, apply_ite Prod.fst, ite_self, implies_true]

/-! ### Plans (Plan.lean) -/

theorem readWant_sizes (s : State) (w : Want) : (readWant s w).1.sizes = s.sizes := by
  unfold readWant
  split
  · rfl
  · split <;> rename_i e <;> exact fst_sizes e (devRead_sizes ..)

theorem readMore_sizes (s : State) (r : List Byte) (b : Blocks) : (readMore s r b).1.sizes = s.sizes := by
  simp only [readMore]
  split
  · simp only [apply_ite Prod.fst, apply_ite State.sizes, readWant_sizes, ite_self]
  · simp only [apply_ite Prod.fst, apply_ite State.sizes, readWant_sizes, ite_self]
  · split
    · rfl
    · split <;> rename_i e <;> exact fst_sizes e (trieRoot_sizes ..)
  · rfl

theorem readBlocks_sizes (s : State) (r : List Byte) : (readBlocks s r).1.sizes = s.sizes := by
  simp only [readBlocks, readWant_sizes, readMore_sizes, foldl_fst_sizes, implies_true]

theorem bindStage_sizes (w : Binder) (plan : List (List Byte)) (tilesMax : Nat) (s : State) (d : Draft) (i : Nat) (r : List Byte) :
    (bindStage w plan tilesMax s d i r).1.sizes = s.sizes := by
  simp only [bindStage, readBlocks_sizes, apply_ite State.sizes, apply_ite Prod.fst, ite_self]

theorem bindStages_sizes (w : Binder) (plan : List (List Byte)) (tilesMax : Nat) (s : State) (d : Draft) (i : Nat)
    (l : List (List Byte)) : (bindStages w plan tilesMax s d i l).1.sizes = s.sizes := by
  induction l generalizing s d i with
  | nil =>
    unfold bindStages
    rfl
  | cons r t ih =>
    unfold bindStages
    simp only [ih, bindStage_sizes]

theorem readPlan_sizes (n : Nat) (s : State) (a i : Nat) : (readPlan n s a i).1.sizes = s.sizes := by
  induction n generalizing s a i with
  | zero => rfl
  | succ n ih =>
    unfold readPlan
    split <;> rename_i e
    · exact fst_sizes e (devRead_sizes ..)
    · simp only [ih, fst_sizes e (devRead_sizes ..)]

theorem checkPlan_sizes (slot : Nat) (r : Rec) (x : Stream) (s : State) : (checkPlan slot r x s).1.sizes = s.sizes := by
  simp only [checkPlan, bindStages_sizes, readPlan_sizes]

theorem adoptPlan_sizes (slot : Nat) (r : Rec) (x : Stream) (d : Draft) (plan : List (List Byte)) (s : State) :
    (adoptPlan slot r x d plan s).sizes = s.sizes := by
  simp only [adoptPlan, freeBinds_sizes, freeResidents_sizes, sizeSlough_sizes, freePlan_sizes, trackTable_sizes, charge_sizes,
    State.setStream_sizes, releaseTables_sizes, setState_sizes, State.sizes_with, foldl_sizes, implies_true]

theorem readDescList_sizes (n : Nat) (s : State) (a : Nat) : (readDescList n s a).1.sizes = s.sizes := by
  induction n generalizing s a with
  | zero => rfl
  | succ n ih =>
    unfold readDescList
    split <;> rename_i e <;> simp only [ih, fst_sizes e (devRead_sizes ..)]

theorem readDescs_sizes (s : State) (addr n off : Nat) : (readDescs s addr n off).1.sizes = s.sizes := by
  simp only [readDescs, apply_ite Prod.fst, apply_ite State.sizes, readDescList_sizes, ite_self]

theorem batchFails_sizes (s : State) (p : Option Plan) (level rows inAddr nIn outAddr nOut : Nat) :
    (batchFails s p level rows inAddr nIn outAddr nOut).1.sizes = s.sizes := by
  simp only [batchFails, readDescs_sizes]

theorem recheckOne_sizes (id : Nat) (x : Stream) (p : Plan) (s : State) (b : Batch) : (recheckOne id x p s b).sizes = s.sizes := by
  simp only [recheckOne]
  split <;> simp only [batchFails_sizes, State.setBatch_sizes, batchCount_sizes, giveTurn_sizes, countReject_sizes]

theorem recheckHeld_sizes (s : State) (id : Nat) : (recheckHeld s id).sizes = s.sizes := by
  unfold recheckHeld
  (repeat' split) <;> simp only [recheckOne_sizes, foldl_sizes, implies_true]

theorem bindChecks_sizes (slot : Nat) (r : Rec) (s : State) : (bindChecks slot r s).1.sizes = s.sizes := by
  simp only [bindChecks, checkPlan_sizes, apply_ite State.sizes, apply_ite Prod.fst, ite_self]

theorem bindGo_sizes (slot : Nat) (peers : List PeerAnswer) (r : Rec) (s : State) : (bindGo slot peers r s).sizes = s.sizes := by
  have opened (id : Nat) (l : List Remote) (a : Peering) :
      (l.foldl (fun a h => openRemote slot id h a) a).1.sizes = a.1.sizes := foldl_fst_sizes (fun a h => openRemote_sizes ..) l a
  simp only [bindGo]
  split
  · simp only [endCtl_sizes, countReject_sizes, bindChecks_sizes]
  · split <;> rename_i e <;> simp only [endCtl_sizes, recheckHeld_sizes, adoptPlan_sizes, fst_sizes e (opened ..), bindChecks_sizes]
  · exact bindChecks_sizes ..

theorem bindPlan_sizes (slot : Nat) (peers : List PeerAnswer) (s : State) : (bindPlan slot peers s).sizes = s.sizes := by
  simp only [bindPlan, startCtl_sizes, bindGo_sizes, implies_true]

theorem peerSessionClose_sizes (session peer : Nat) (s : State) : (peerSessionClose session peer s).sizes = s.sizes := by
  unfold peerSessionClose
  (repeat' split) <;> simp only [closePeer_sizes, State.sizes_with]

/-! ### Batches and their stages (Batch.lean) -/

theorem submitChecks_sizes (x : Stream) (r : Rec) (s : State) : (submitChecks x r s).1.sizes = s.sizes := by
  simp only [submitChecks, batchFails_sizes]

theorem acceptBatch_sizes (s : State) (id : Nat) (b : Batch) : (acceptBatch s id b).sizes = s.sizes := by
  simp only [acceptBatch, State.setStream_sizes]

theorem submitBatch_sizes (id : Nat) (s : State) : (submitBatch id s).sizes = s.sizes := by
  simp only [submitBatch]
  (repeat' split) <;>
    simp only [submitChecks_sizes, takeRec_sizes, endRec_sizes, countReject_sizes, keepStatus_sizes, acceptBatch_sizes,
      settle_sizes]

theorem refreshReady_sizes (s : State) (id : Nat) : (refreshReady s id).sizes = s.sizes := by
  unfold refreshReady
  split
  · rfl
  · split
    · rfl
    · refine foldl_sizes (fun s b => ?_) _ _
      split
      · rfl
      · split <;> simp only [apply_ite State.sizes, State.setRun_sizes, ite_self]

theorem reserveFloor_sizes (s : State) (x : Stream) (tiles : List Nat) : (reserveFloor s x tiles).sizes = s.sizes := by
  simp only [reserveFloor, State.setStream_sizes]

theorem endUnit_sizes (s : State) (a : Assign) : (endUnit s a).sizes = s.sizes := by
  simp only [endUnit, endFeeds_sizes, apply_ite State.sizes, ite_self]

theorem releaseBatch_sizes (s : State) (id idx : Nat) : (releaseBatch s id idx).sizes = s.sizes := by
  unfold releaseBatch
  split <;>
    simp only [dropKeys_sizes, dropWindows_sizes, releaseSwitch_sizes, freeTaken_sizes, cursorGiveUp_sizes, uncharge_sizes,
      endUnit_sizes, State.setTile_sizes, State.setBatch_sizes, leaveTiles_sizes, apply_ite State.sizes, ite_self, State.sizes_with,
      foldl_sizes, implies_true]

theorem finishBatch_sizes (s : State) (id idx status detail : Nat) : (finishBatch s id idx status detail).sizes = s.sizes := by
  unfold finishBatch
  split <;>
    simp only [batchCount_sizes, releaseBatch_sizes, State.setBatch_sizes, errorTrigger_sizes, bump_sizes, giveTurn_sizes,
      apply_ite State.sizes, ite_self]

theorem stopStarted_sizes (s : State) (id : Nat) (b : Batch) : (stopStarted s id b).sizes = s.sizes := by
  simp only [stopStarted, State.setBatch_sizes, finishBatch_sizes, apply_ite State.sizes, ite_self]

theorem stopDrain_sizes (s : State) (id : Nat) : (stopDrain s id).sizes = s.sizes := by
  unfold stopDrain
  split <;> simp only [endLate_sizes, State.setStream_sizes]

theorem faultStream_sizes (s : State) (id status stage : Nat) : (faultStream s id status stage).sizes = s.sizes := by
  unfold faultStream
  split <;>
    simp only [setState_sizes, State.setStream_sizes, stopStarted_sizes, stopDrain_sizes, stopUnstarted_sizes, foldl_sizes,
      implies_true]

theorem endBatch_sizes (s : State) (id idx status detail : Nat) : (endBatch s id idx status detail).sizes = s.sizes := by
  unfold endBatch
  split <;> simp only [finishBatch_sizes, faultStream_sizes, refreshReady_sizes, apply_ite State.sizes, ite_self]

theorem batchProgress_sizes (s : State) (id idx : Nat) : (batchProgress s id idx).sizes = s.sizes := by
  unfold batchProgress
  (repeat' split) <;> simp only [finishBatch_sizes, endBatch_sizes]

theorem batchStart_sizes (id staging : Nat) (s : State) : (batchStart id staging s).sizes = s.sizes := by
  unfold batchStart
  (repeat' split) <;>
    simp only [charge_sizes, takeFree_sizes, State.setBatch_sizes, dispatcherWakes_sizes, refreshReady_sizes, endBatch_sizes,
      apply_ite State.sizes, ite_self, State.sizes_with]

theorem failRunAt_sizes (s : State) (stream idx stage status off : Nat) :
    (failRunAt s stream idx stage status off).sizes = s.sizes := by
  simp only [failRunAt, State.setRun_sizes]

theorem noteStage_sizes (s : State) (c : Ctx) (recs : List (List Byte)) (status : Nat) :
    (noteStage s c recs status).sizes = s.sizes := by
  unfold noteStage
  (repeat' split) <;> simp only [noteReed_sizes, noteErr_sizes]

theorem noted_sizes {α : Type} (c : Ctx) (recs : List (List Byte)) (r : Res α) : (noted c recs r).1.sizes = r.1.sizes := by
  unfold noted
  split
  · exact noteStage_sizes ..
  · rfl

theorem askPeers_sizes (c : Ctx) (ins : List (Option Col)) (s : State) : (askPeers c ins s).sizes = s.sizes := by
  unfold askPeers
  split
  · rfl
  · refine foldl_sizes (fun s k => ?_) _ _
    dsimp only
    split <;> simp only [failRun_sizes, qpSend_sizes]

theorem loadGroup_sizes (s : State) (c : Ctx) (p : Plan) (units : List Nat) : (loadGroup s c p units).sizes = s.sizes := by
  have weights (l : List Nat) :
      (eachRes (fun s i => andThen (readWeights s (p.stages.getD i []) (p.blocksOf i)) fun s w => ok s (i, w.1, w.2)) s l).1.sizes
        = s.sizes := by
    simp only [eachRes_sizes, andThen_sizes, readWeights_sizes, ok_sizes, implies_true]
  unfold loadGroup
  split
  · rfl
  · split
    · rfl
    · split
      · rfl
      · split <;> rename_i e <;>
          simp only [failRun_sizes, noteStage_sizes, foldl_sizes, bump_sizes, State.sizes_with, fst_sizes e (weights ..),
            implies_true]

theorem relPush_sizes (c : Ctx) (ins : List (Option Col)) (s : State) : (relPush c ins s).sizes = s.sizes := by
  unfold relPush
  (repeat' split) <;> simp only [pushCommands_sizes, bump_sizes, foldl_sizes, implies_true]

theorem opIssue_sizes (c : Ctx) (recs : List (List Byte)) (b : Batch) (ins : List (Option Col)) (s : State) :
    (opIssue c recs b ins s).sizes = s.sizes := by
  unfold opIssue
  extract_lets keep loaded
  have hk (s : State) (l : List (Option Col)) : (keep s l).sizes = s.sizes := State.setRun_sizes ..
  have hl {f : List (Option Col) → State → State} (hf : ∀ l s, (f l s).sizes = s.sizes) (r : Res (List (Option Col))) :
      (loaded r f).sizes = r.1.sizes := by
    simp only [loaded]
    rcases r with ⟨s, e | l⟩
    · simp only [failRunAt_sizes, noteStage_sizes]
    · simp only [hf, hk]
  clear_value loaded keep
  split <;>
    simp only [hl, hk, relPush_sizes, loadAll_sizes, relSpill_sizes, lookupIssue_sizes, askPeers_sizes, updateIssue_sizes,
      selLoad_sizes, State.setRun_sizes, searchIssue_sizes, shuffleIssue_sizes, sendIssue_sizes, recvIssue_sizes, implies_true]

theorem sendWakes_sizes (s : State) (pages : List Nat) : (sendWakes s pages).sizes = s.sizes := by
  simp only [sendWakes, sendPacket_sizes, bump_sizes, apply_ite State.sizes, ite_self, State.sizes_with, foldl_sizes, implies_true]

theorem workDies_sizes (s : State) (units : List Nat) : (workDies s units).sizes = s.sizes := by
  simp only [workDies, wakeDieBy_sizes, foldl_sizes, implies_true]

theorem issueStage_sizes (x : Stream) (p : Plan) (b : Batch) (i : Nat) (units : List Nat) (s : State) :
    (issueStage x p b i units s).sizes = s.sizes := by
  simp only [issueStage]
  split <;>
    simp only [wakeTile_sizes, workDies_sizes, reserveFloor_sizes, State.setRun_sizes, sendWakes_sizes, failRunAt_sizes,
      noteStage_sizes, failRun_sizes, opIssue_sizes, fetchInputs_sizes, loadGroup_sizes, apply_ite State.sizes, ite_self,
      State.sizes_with, foldl_sizes, implies_true]

theorem stageIssue_sizes (id idx i : Nat) (units : List Nat) (s : State) : (stageIssue id idx i units s).sizes = s.sizes := by
  unfold stageIssue
  (repeat' split) <;> simp only [issueStage_sizes, apply_ite State.sizes, ite_self]

theorem releaseGroups_sizes (s : State) (t : Nat) : (releaseGroups s t).sizes = s.sizes := by
  simp only [releaseGroups, leaveTiles_sizes, State.sizes_with, foldl_sizes, implies_true]

theorem quarantine_sizes (s : State) (t : Nat) : (quarantine s t).sizes = s.sizes := by
  simp only [quarantine, State.setTile_sizes, releaseGroups_sizes, apply_ite State.sizes, ite_self, State.sizes_with]

theorem applyFault_sizes (s : State) (c : Ctx) (f : StageFault) : (applyFault s c f).1.sizes = s.sizes := by
  cases f <;>
    simp only [applyFault, apply_ite Prod.fst, apply_ite State.sizes, foldl_sizes, countCE_sizes, countUE_sizes,
      State.setTile_sizes, releaseGroups_sizes, quarantine_sizes, noteErr_sizes, firstEvent_sizes, ite_self, implies_true]

theorem stageUpdate_sizes (s : State) (c : Ctx) (u : Update) : (stageUpdate s c u).sizes = s.sizes := by
  simp only [stageUpdate, State.setBatch_sizes]

theorem opFinish_sizes (c : Ctx) (p : Plan) (recs : List (List Byte)) (u : StageRun) (s : State) :
    (opFinish c p recs u s).1.sizes = s.sizes := by
  have run {α β : Type} {r : Res α} {f : State → α → Res β} (hf : ∀ s l, (f s l).1.sizes = s.sizes) (hr : r.1.sizes = s.sizes) :
      (andThen (noted c recs r) f).1.sizes = s.sizes := (andThen_sizes hf _).trans ((noted_sizes ..).trans hr)
  unfold opFinish
  extract_lets none_ ins
  split
  case h_8 =>
    refine run (fun s l => (andThen_sizes (fun s rs => ?_) _).trans (updateRecords_sizes ..)) (loadAll_sizes ..)
    simp only [none_, ok_sizes, stageUpdate_sizes]
  case h_9 => exact (noted_sizes ..).trans ((andThen_sizes (fun s l => tokenRun_sizes ..) _).trans (prepLoad_sizes ..))
  case h_10 => exact run (fun s l => decodeRun_sizes ..) (prepLoad_sizes ..)
  case h_13 => exact run (fun s l => batchRun_sizes ..) (prepLoad_sizes ..)
  case h_14 | h_15 => split <;> rename_i e <;> simp only [noteErr_sizes, packRun_sizes, fst_sizes e (loadAll_sizes ..)]
  case h_18 =>
    split
    · simp only [noted_sizes, relRun_sizes]
    · split
      · simp only [noted_sizes, denseRun_sizes]
      · refine run (fun s q => ?_) (selRun_sizes ..)
        simp only [ok_sizes, apply_ite State.sizes, State.setBatch_sizes, ite_self]
  all_goals
    simp only [none_, ok_sizes, failAt_sizes, apply_ite Prod.fst, apply_ite State.sizes, lookupOut_sizes, stageUpdate_sizes,
      searchOut_sizes, transformRun_sizes, recvOut_sizes, ite_self]

theorem freeUnits_sizes (s : State) (id idx i : Nat) : (freeUnits s id idx i).sizes = s.sizes := by
  simp only [freeUnits, endUnit_sizes, State.setTile_sizes, uncharge_sizes, State.setRun_sizes, leaveTiles_sizes, workDies_sizes,
    State.sizes_with, foldl_sizes, implies_true]

theorem stageOutputs_sizes (x : Stream) (idx : Nat) (u : StageRun) (outs : List (Option Col)) (s : State) :
    (stageOutputs x idx u outs s).sizes = s.sizes := by
  refine foldl_sizes (fun s q => ?_) _ _
  split
  · simp only [apply_ite State.sizes, writeBackAll_sizes, State.setBatch_sizes, ite_self]
  · rfl

theorem stageFails_sizes (s : State) (x : Stream) (idx i status off : Nat) : (stageFails s x idx i status off).sizes = s.sizes := by
  simp only [stageFails, endBatch_sizes]

theorem finishStage_sizes (x : Stream) (p : Plan) (b : Batch) (u : StageRun) (f : StageFault) (s : State) :
    (finishStage x p b u f s).sizes = s.sizes := by
  simp only [finishStage]
  split <;> rename_i e
  · simp only [stageFails_sizes, apply_ite State.sizes, noteStage_sizes, fst_sizes e (applyFault_sizes ..), State.sizes_with,
      ite_self]
  · split
    · simp only [stageFails_sizes, fst_sizes e (applyFault_sizes ..), State.sizes_with]
    · split
      · simp only [fst_sizes e (applyFault_sizes ..), State.sizes_with]
      · split <;> rename_i e'
        · simp only [stageFails_sizes, fst_sizes e' (opFinish_sizes ..), fst_sizes e (applyFault_sizes ..), State.sizes_with]
        · split <;>
            simp only [stageFails_sizes, noteStage_sizes, batchProgress_sizes, refreshReady_sizes, freeUnits_sizes,
              stageOutputs_sizes, State.setRun_sizes, fst_sizes e' (opFinish_sizes ..), fst_sizes e (applyFault_sizes ..),
              State.sizes_with]

theorem stageFinish_sizes (id idx i : Nat) (f : StageFault) (s : State) : (stageFinish id idx i f s).sizes = s.sizes := by
  unfold stageFinish
  (repeat' split) <;> simp only [finishStage_sizes]

theorem validBits_sizes (s : State) (y : Col) : (validBits s y).1.sizes = s.sizes := by
  simp only [validBits, apply_ite Prod.fst, apply_ite State.sizes, takeFreeBits_sizes, ite_self]

theorem commitWrite_sizes (a : State × Nat) (addr : Nat) (data : List Byte) : (commitWrite a addr data).1.sizes = a.1.sizes := by
  simp only [commitWrite, devWrite_sizes, wakeForWrite_sizes]

theorem writeOut_sizes (b : Batch) (a : State × Nat) (q : Nat × Nat × Nat × Col) : (writeOut b a q).1.sizes = a.1.sizes := by
  simp only [writeOut, commitWrite_sizes, apply_ite Prod.fst, apply_ite State.sizes, validBits_sizes, ite_self]

theorem commitRequests_sizes (x : Stream) (b : Batch) (s : State) (q : Nat × Nat × Nat × Col) :
    (commitRequests x b s q).sizes = s.sizes := by
  simp only [commitRequests, writeBackAll_sizes, apply_ite State.sizes, ite_self]

theorem applyUpdate_sizes (x : Stream) (b : Batch) (a : State × Nat × Nat) (u : Update) :
    (applyUpdate x b a u).1.sizes = a.1.sizes := by
  cases u <;>
    simp only [applyUpdate, apply_ite Prod.fst, applyRows_sizes, applyDiscard_sizes, applySearch_sizes, applySwitch_sizes, ite_self]

theorem commitBatch_sizes (x : Stream) (p : Plan) (b : Batch) (s : State) : (commitBatch x p b s).sizes = s.sizes := by
  simp only [commitBatch]
  split
  · simp only [endBatch_sizes, noteStage_sizes]
  · simp only [batchProgress_sizes, refreshReady_sizes, apply_ite State.sizes, State.setBatch_sizes, foldl_fst_sizes,
      applyUpdate_sizes, writeOut_sizes, foldl_sizes, commitRequests_sizes, ite_self, implies_true]

theorem commitPoint_sizes (id : Nat) (s : State) : (commitPoint id s).sizes = s.sizes := by
  unfold commitPoint
  (repeat' split) <;> simp only [commitBatch_sizes]

theorem updateVerifyDrain_sizes (d : Nat) (s : State) : (updateVerifyDrain d s).sizes = s.sizes := by
  unfold updateVerifyDrain
  split <;> simp only [batchProgress_sizes, finishUpdate_sizes]

theorem deadlineExpiry_sizes (id idx : Nat) (s : State) : (deadlineExpiry id idx s).sizes = s.sizes := by
  unfold deadlineExpiry
  split <;> simp only [endBatch_sizes, apply_ite State.sizes, ite_self]

theorem stageTimeout_sizes (id idx i : Nat) (s : State) : (stageTimeout id idx i s).sizes = s.sizes := by
  unfold stageTimeout
  (repeat' split) <;> simp only [endBatch_sizes]

theorem lateCounted_sizes (s : State) (id : Nat) : (lateCounted s id).sizes = s.sizes := by
  simp only [lateCounted, bump_sizes, State.setStream_sizes]

theorem countLate_sizes (s : State) (id : Nat) : (countLate s id).sizes = s.sizes := by
  simp only [countLate, keepStatus_sizes, lateCounted_sizes]

theorem lateArrival_sizes (id idx i : Nat) (s : State) : (lateArrival id idx i s).sizes = s.sizes := by
  unfold lateArrival
  split <;> simp only [countLate_sizes, apply_ite State.sizes, ite_self]

/-! ### Firmware, measurements, repairs and tally requests (Boot.lean) -/

theorem extendMeas_sizes (s : State) (m : Nat) (digest : List Byte) (source : Nat) :
    (extendMeas s m digest source).sizes = s.sizes := by
  simp only [extendMeas, State.setTrust_sizes, modifyAt_length]

theorem measExtend_sizes (who : Agent) (v : Word) (s : State) : (measExtend who v s).sizes = s.sizes := by
  unfold measExtend
  split <;> simp only [answer_sizes, extendMeas_sizes, apply_ite State.sizes, ite_self]

theorem refuseComp_sizes (s : State) (code type_ source bank : Nat) : (refuseComp s code type_ source bank).sizes = s.sizes := by
  simp only [refuseComp, firstEvent_sizes, bump_sizes]

theorem noRecord_sizes (s : State) (type_ source : Nat) : (noRecord s type_ source).sizes = s.sizes := by
  simp only [noRecord, firstEvent_sizes]

theorem tryMc_sizes (s : State) (img : List Byte) (source bank seq : Nat) : (tryMc s img source bank seq).1.sizes = s.sizes := by
  unfold tryMc
  split <;> simp only [refuseComp_sizes, State.setTrust_sizes]

theorem tryFirmware_sizes (s : State) (img : List Byte) (source bank seq : Nat) :
    (tryFirmware s img source bank seq).1.sizes = s.sizes := by
  simp only [tryFirmware]
  (repeat' split) <;> simp only [refuseComp_sizes, State.setTrust_sizes, extendMeas_sizes]

theorem tryImage_sizes (s : State) (firmware : Bool) (img : List Byte) (source bank seq : Nat) :
    (tryImage s firmware img source bank seq).1.sizes = s.sizes := by
  simp only [tryImage, tryFirmware_sizes, tryMc_sizes, apply_ite State.sizes, apply_ite Prod.fst, ite_self]

theorem noteUnread_sizes (s : State) (b type_ sector : Nat) : (noteUnread s b type_ sector).sizes = s.sizes := by
  simp only [noteUnread, firstEvent_sizes]

theorem tryRecords_sizes (firmware : Bool) (l : List (Nat × PeatRec)) (s : State) :
    (tryRecords firmware l s).1.sizes = s.sizes := by
  induction l generalizing s with
  | nil => rfl
  | cons r t ih =>
    unfold tryRecords
    split
    · simp only [ih, noteUnread_sizes]
    · split <;> rename_i e <;> simp only [ih, fst_sizes e (tryImage_sizes ..)]

theorem runSearch_sizes (firmware : Bool) (l : List Source) (s : State) : (runSearch firmware l s).sizes = s.sizes := by
  induction l generalizing s with
  | nil => simp only [runSearch, State.sizes_with, State.setTrust_sizes]
  | cons a t ih =>
    cases a <;> simp only [runSearch]
    case peat =>
      split
      · simp only [ih, noRecord_sizes]
      · split <;> rename_i e <;> simp only [ih, fst_sizes e (tryRecords_sizes ..)]
    all_goals
      split
      · split <;> rename_i e <;> simp only [ih, fst_sizes e (tryImage_sizes ..)]
      · simp only [State.setTrust_sizes]

theorem reconcile_sizes (s : State) : (reconcile s).sizes = s.sizes := by
  simp only [reconcile, appendAudit_sizes, State.sizes_with, foldl_sizes, implies_true]

theorem coldRepair_sizes (s : State) (inst kind target : Nat) (spare : Bool) (fix lose : Repair → Repair) :
    (coldRepair s inst kind target spare fix lose).sizes = s.sizes := by
  simp only [coldRepair]
  split
  · have h (st p a b i v : Nat) := appendAudit_sizes s st p a b inst i 0 v false
    simp only [appendAudit_sizes, State.setTrust_sizes, State.sizes_with, usePool_repairDie, usePool_repairHbm,
      repairDie_of_sizes (h ..), repairHbm_of_sizes (h ..)]
  · have h := repairRefused_sizes s inst kind target
    simp only [State.sizes_with, repairDie_of_sizes h, repairHbm_of_sizes h, h]

theorem repairTile_sizes (s : State) (t : Nat) : (repairTile s t).sizes = s.sizes := by
  simp only [repairTile, coldRepair_sizes, apply_ite State.sizes, ite_self, State.sizes_with]

theorem repairColumn_sizes (s : State) (c : Nat × Nat) : (repairColumn s c).sizes = s.sizes := by
  simp only [repairColumn, coldRepair_sizes, repairTile_sizes, apply_ite State.sizes, ite_self]

theorem repairLayer_sizes (s : State) (c : Nat × Nat) : (repairLayer s c).sizes = s.sizes := by
  simp only [repairLayer]
  split <;> simp only [coldRepair_sizes, apply_ite State.sizes, ite_self, State.sizes_with]

theorem repairBank_sizes (s : State) (c : Nat × Nat) : (repairBank s c).sizes = s.sizes := by
  simp only [repairBank]
  split <;> simp only [coldRepair_sizes, State.sizes_with]

theorem repairCore_sizes (s : State) (c : Nat) : (repairCore s c).sizes = s.sizes := by
  simp only [repairCore, coldRepair_sizes, apply_ite State.sizes, ite_self, State.sizes_with]

theorem mossRelease_sizes (s : State) : (mossRelease s).sizes = s.sizes := by
  simp only [mossRelease, State.setTrust_sizes, runSearch_sizes, apply_ite State.sizes, ite_self, State.sizes_with]

theorem firmwareLoad_sizes (s : State) : (firmwareLoad s).sizes = s.sizes := by
  simp only [firmwareLoad, runSearch_sizes, State.setTrust_sizes, apply_ite State.sizes, ite_self]

theorem tallyResult_sizes (s : State) (path : TallyPath) (setting code : Nat) :
    (tallyResult s path setting code).sizes = s.sizes := by
  simp only [tallyResult, State.setTrust_sizes, answer_sizes, refuseTally_sizes, apply_ite State.sizes, ite_self]

theorem tallyStart_sizes (s : State) (path : TallyPath) (b : List Byte) (auditFails : Bool) :
    (tallyStart s path b auditFails).sizes = s.sizes := by
  simp only [tallyStart]
  split
  · exact tallyResult_sizes ..
  · split <;> rename_i e <;> simp only [tallyResult_sizes, answer_sizes, State.setTrust_sizes, fst_sizes e (appendAudit_sizes ..)]

theorem tallyArrives_sizes (path : TallyPath) (b : List Byte) (auditFails : Bool) (s : State) :
    (tallyArrives path b auditFails s).sizes = s.sizes := by
  simp only [tallyArrives, answer_sizes, State.setTrust_sizes, tallyStart_sizes, apply_ite State.sizes, ite_self]

theorem tallyRequest_sizes (path : TallyPath) (b : List Byte) (auditFails : Bool) (s : State) :
    (tallyRequest path b auditFails s).sizes = s.sizes := by
  unfold tallyRequest
  (repeat' split) <;> simp only [asRole_sizes, tallyArrives_sizes, redfish_sizes, implies_true]

theorem tallyNext_sizes (l : List (TallyPath × List Byte × Bool)) (s : State) : (tallyNext l s).sizes = s.sizes := by
  induction l generalizing s with
  | nil => simp only [tallyNext, State.setTrust_sizes]
  | cons a t ih => simp only [tallyNext, apply_ite State.sizes, State.setTrust_sizes, ih, tallyStart_sizes, ite_self]

theorem slotVerify_sizes (good auditFails : Bool) (s : State) : (slotVerify good auditFails s).sizes = s.sizes := by
  simp only [slotVerify]
  split
  · rfl
  · split <;>
      simp only [tallyNext_sizes, syncRepairRecord_sizes, apply_ite State.sizes, appendAudit_sizes, tallyResult_sizes, bump_sizes,
        State.setStack_sizes, State.setTrust_sizes, State.sizes_with, apply_ite Fuses.repairDie, apply_ite Fuses.repairHbm,
        useSlot_repairDie, useSlot_repairHbm, fuseValue_repairDie, fuseValue_repairHbm, ite_self]

theorem tfWrite_sizes (who : Agent) (addr : Nat) (v : Word) (s : State) : (tfWrite who addr v s).sizes = s.sizes := by
  simp only [tfWrite]
  split
  · split
    · simp only [apply_ite State.sizes, answer_sizes, refuseTally_sizes]
      refine ite_eq_iff'.2 ⟨fun _ => rfl, fun _ => ite_eq_iff'.2 ⟨fun _ => rfl, fun _ => ?_⟩⟩
      split
      · simp only [answer_sizes, refuseTally_sizes]
      · have h := bump_sizes s (pgTally + 0x450) 1
        simp only [apply_ite State.sizes, answer_sizes, refuseTally_sizes, State.sizes_with, fuseValue_repairDie,
          fuseValue_repairHbm, useSlot_repairDie, useSlot_repairHbm, repairDie_of_sizes h, repairHbm_of_sizes h, h, ite_self]
    · exact answer_sizes ..
    · rfl
  · rfl

theorem peatRecordWrite_sizes (type_ : Nat) (payload : List Byte) (ev : PeatEvent) (s : State) :
    (peatRecordWrite type_ payload ev s).sizes = s.sizes := by
  simp only [peatRecordWrite, peatWrite_sizes, answer_sizes, apply_ite State.sizes, ite_self]

theorem patrolRec_sizes (unread : List (Nat × Nat)) (s : State) (at_ : Nat × Nat × Nat) :
    (patrolRec unread s at_).sizes = s.sizes := by
  have mark (s : State) (b : Nat) (f : PeatBank → PeatBank) : ({ s with banks := modifyAt s.banks b f } : State).sizes = s.sizes := by
    simp only [State.sizes, modifyAt_length]
  simp only [patrolRec]
  split
  · rfl
  · split
    · rfl
    · simp only [mark, noteUnread_sizes]
    · simp only [mark, firstEvent_sizes, bump_sizes]

theorem peatPatrol_sizes (corrected : List Nat) (unread : List (Nat × Nat)) (s : State) :
    (peatPatrol corrected unread s).sizes = s.sizes := by
  simp only [peatPatrol, State.setTrust_sizes, countCE_sizes, patrolRec_sizes, apply_ite State.sizes, ite_self, foldl_sizes,
    implies_true]

theorem jtagUnlock_sizes (signer : Nat) (pubkey token : List Byte) (s : State) :
    (jtagUnlock signer pubkey token s).sizes = s.sizes := by
  simp only [jtagUnlock, State.setTrust_sizes, extendMeas_sizes, answer_sizes, apply_ite State.sizes, ite_self]

/-! ### Granules, Fen lines, scrub, marking and training (Memory.lean) -/

theorem memFailure_sizes (s : State) (who : Agent) (load : Bool) (e : MemErr) : (memFailure s who load e).sizes = s.sizes := by
  unfold memFailure
  split <;> simp only [answer_sizes, countUE_sizes, apply_ite State.sizes, ite_self]

theorem memAccess_sizes {go : State → State} (hg : ∀ s, (go s).sizes = s.sizes) (s : State) (d : Nat) (h : Instr) :
    (memAccess s d h go).sizes = s.sizes := by
  unfold memAccess
  split <;> simp only [answer_sizes, hg, wakeDieBy_sizes, holdAt_sizes]

theorem afterHost_sizes (s : State) (ix : Nat) (ev : CacheEvent) : (afterHost s ix ev).sizes = s.sizes := by
  simp only [afterHost, countCE_sizes, evictSector_sizes, cacheRoom_sizes, apply_ite State.sizes, ite_self]

theorem granuleReadNow_sizes (who : Agent) (addr k o : Nat) (hits : HbmHits) (ev : CacheEvent) (s : State) :
    (granuleReadNow who addr k o hits ev s).sizes = s.sizes := by
  unfold granuleReadNow
  split
  · split
    · split <;> rename_i e <;>
        simp only [answer_sizes, afterHost_sizes, memFailure_sizes, fst_sizes e (hostLoad_sizes ..), strike_sizes]
    · split <;> rename_i e <;>
        simp only [answer_sizes, memFailure_sizes, fst_sizes e (granRead_sizes ..), snoop_sizes, strike_sizes]
  · exact memFailure_sizes ..

theorem granuleRead_sizes (who : Agent) (addr : Nat) (hits : HbmHits) (ev : CacheEvent) (s : State) :
    (granuleRead who addr hits ev s).sizes = s.sizes := by
  unfold granuleRead
  split <;> simp only [memAccess_sizes, granuleReadNow_sizes, memFailure_sizes, implies_true]

theorem granuleWriteNow_sizes (who : Agent) (addr k o : Nat) (data : List Byte) (poison : Bool) (hits : HbmHits) (ev : CacheEvent)
    (s : State) : (granuleWriteNow who addr k o data poison hits ev s).sizes = s.sizes := by
  unfold granuleWriteNow
  split
  · split
    · split <;> rename_i e <;>
        simp only [answer_sizes, afterHost_sizes, memFailure_sizes, fst_sizes e (hostStore_sizes ..), strike_sizes]
    · split <;> rename_i e <;>
        simp only [answer_sizes, memFailure_sizes, fst_sizes e (granWrite_sizes ..), snoop_sizes, strike_sizes]
  · exact memFailure_sizes ..

theorem granuleWrite_sizes (who : Agent) (addr : Nat) (data : List Byte) (poison : Bool) (hits : HbmHits) (ev : CacheEvent)
    (s : State) : (granuleWrite who addr data poison hits ev s).sizes = s.sizes := by
  unfold granuleWrite
  split <;> simp only [memAccess_sizes, wakeForWrite_sizes, granuleWriteNow_sizes, memFailure_sizes, implies_true]

theorem scrubGranule_sizes (s : State) (k g : Nat) (raced : Bool) : (scrubGranule s k g raced).sizes = s.sizes := by
  unfold scrubGranule
  split
  · split <;> rename_i e <;> simp only [apply_ite State.sizes, granStore_sizes, fst_sizes e (granData_sizes ..), ite_self]
  · rfl

theorem scrubWords_sizes (s : State) (k a b : Nat) : (scrubWords s k a b).sizes = s.sizes := by
  simp only [scrubWords, fillWord_sizes, foldl_sizes, implies_true]

theorem scrubVisit_sizes (k g : Nat) (hits : HbmHits) (raced : Bool) (s : State) :
    (scrubVisit k g hits raced s).sizes = s.sizes := by
  simp only [scrubVisit, scrubGranule_sizes, scrubWords_sizes, strike_sizes, State.setStack_sizes, apply_ite State.sizes, ite_self]

theorem scrubPassStart_sizes (k : Nat) (s : State) : (scrubPassStart k s).sizes = s.sizes := by
  simp only [scrubPassStart, scrubWords_sizes, State.setStack_sizes, apply_ite State.sizes, ite_self]

theorem markDie_sizes (s : State) (who : Agent) (k die value : Nat) : (markDie s who k die value).1.sizes = s.sizes := by
  unfold markDie
  split <;> rename_i e <;> simp only [State.setStack_sizes, fst_sizes e (repairWrite_sizes ..)]

theorem markCause_sizes (s : State) (k die : Nat) : (markCause s k die).sizes = s.sizes := by
  simp only [markCause, repairRefused_sizes, markDie_sizes, apply_ite State.sizes, ite_self]

theorem tickMark_sizes (s : State) (k : Nat) : (tickMark s k).sizes = s.sizes := by
  unfold tickMark
  split <;> simp only [wakeDieBy_sizes, markCause_sizes, State.setStack_sizes, apply_ite State.sizes, ite_self]

theorem dieMark_sizes (who : Agent) (k : Nat) (v : Word) (s : State) : (dieMark who k v s).sizes = s.sizes := by
  simp only [dieMark]
  split
  · exact answer_sizes ..
  · exact holdAt_sizes ..
  · split
    · exact answer_sizes ..
    · split <;> rename_i e <;> simp only [answer_sizes, State.setStack_sizes, fst_sizes e (markDie_sizes ..)]

theorem trainLane_sizes (k : Nat) (s : State) : (trainLane k s).sizes = s.sizes := by
  simp only [trainLane, repairWrite_sizes, State.setStack_sizes, apply_ite State.sizes, ite_self]

theorem trainRows_sizes (k : Nat) (s : State) (n : Nat) : (trainRows k s n).sizes = s.sizes := by
  simp only [trainRows, repairWrite_sizes, State.setStack_sizes, apply_ite State.sizes, ite_self]

theorem trainStack_sizes (k : Nat) (r : TrainResult) (s : State) : (trainStack k r s).sizes = s.sizes := by
  have lanes (n : Nat) (s : State) : ((trainLane k)^[n] s).sizes = s.sizes := by
    induction n generalizing s with
    | zero => rfl
    | succ n ih => exact (ih _).trans (trainLane_sizes ..)
  cases e : r.failedDie <;>
    simp only [trainStack, e, apply_ite State.sizes, syncRepairRecord_sizes, State.sizes_with, markCause_sizes, foldl_sizes,
      trainRows_sizes, lanes, State.setStack_sizes, ite_self, implies_true]

theorem fenReadNow_sizes (who : Agent) (d o : Nat) (err : LineErr) (ev : CacheEvent) (s : State) :
    (fenReadNow who d o err ev s).sizes = s.sizes := by
  simp only [fenReadNow]
  split
  · split
    · split <;> rename_i e <;>
        simp only [answer_sizes, afterHost_sizes, memFailure_sizes, fst_sizes e (hostLoad_sizes ..), fenStrike_sizes]
    · split <;> rename_i e <;>
        simp only [answer_sizes, memFailure_sizes, fst_sizes e (fenCheck_sizes ..), snoop_sizes, fenStrike_sizes]
  · exact memFailure_sizes ..

theorem fenLineRead_sizes (who : Agent) (addr : Nat) (err : LineErr) (ev : CacheEvent) (s : State) :
    (fenLineRead who addr err ev s).sizes = s.sizes := by
  unfold fenLineRead
  split <;> simp only [memAccess_sizes, fenReadNow_sizes, memFailure_sizes, implies_true]

theorem fenWriteNow_sizes (who : Agent) (d o : Nat) (data : List Byte) (poison : Bool) (err : LineErr) (ev : CacheEvent) (s : State)
    : (fenWriteNow who d o data poison err ev s).sizes = s.sizes := by
  unfold fenWriteNow
  split
  · split
    · split <;> rename_i e <;>
        simp only [answer_sizes, afterHost_sizes, memFailure_sizes, fst_sizes e (hostStore_sizes ..), fenStrike_sizes]
    · split <;> rename_i e <;>
        simp only [answer_sizes, memFailure_sizes, fst_sizes e (fenPatch_sizes ..), snoop_sizes, fenStrike_sizes]
  · exact memFailure_sizes ..

theorem fenLineWrite_sizes (who : Agent) (addr : Nat) (data : List Byte) (poison : Bool) (err : LineErr) (ev : CacheEvent)
    (s : State) : (fenLineWrite who addr data poison err ev s).sizes = s.sizes := by
  unfold fenLineWrite
  split <;>
    simp only [memAccess_sizes, wakeForWrite_sizes, fenWriteNow_sizes, memFailure_sizes, apply_ite State.sizes, ite_self,
      implies_true]

theorem fenSweepEnd_sizes (d ticks : Nat) (s : State) : (fenSweepEnd d ticks s).sizes = s.sizes := by
  simp only [fenSweepEnd, State.setFen_sizes, apply_ite State.sizes, ite_self, State.sizes_with]

theorem fenSpare_sizes (who : Agent) (d : Nat) (v : Word) (s : State) : (fenSpare who d v s).sizes = s.sizes := by
  simp only [fenSpare]
  split
  · exact answer_sizes ..
  · exact holdAt_sizes ..
  · split
    · exact answer_sizes ..
    · split
      · simp only [answer_sizes, apply_ite State.sizes, repairRefused_sizes, ite_self]
      · split <;> rename_i e <;> simp only [answer_sizes, State.setFen_sizes, fst_sizes e (repairWrite_sizes ..)]

theorem fenSpareCopyEnd_sizes (d : Nat) (s : State) : (fenSpareCopyEnd d s).sizes = s.sizes := by
  unfold fenSpareCopyEnd
  split <;> simp only [State.setFen_sizes, apply_ite State.sizes, ite_self, State.sizes_with]

theorem fenScrubVisit_sizes (d line : Nat) (err : LineErr) (raced : Bool) (s : State) :
    (fenScrubVisit d line err raced s).sizes = s.sizes := by
  simp only [fenScrubVisit]
  (repeat' split) <;> simp only [fenStrike_sizes, fenCE_sizes, State.setFenLine_sizes, fenUE_sizes, State.setFen_sizes]

/-! ### The Weir and WAKE messages (Weir.lean) -/

theorem weirGrant_sizes (t id n : Nat) (s : State) : (weirGrant t id n s).sizes = s.sizes := by
  unfold weirGrant
  split <;> simp only [giveBlocks_sizes, State.setHold_sizes, apply_ite State.sizes, ite_self]

theorem weirEdge_sizes (t id : Nat) (s : State) : (weirEdge t id s).sizes = s.sizes := by
  unfold weirEdge
  split <;> simp only [bump_sizes, apply_ite State.sizes, ite_self, State.sizes_with]

theorem spillTile_sizes (s : State) (t victim winner : Nat) : (spillTile s t victim winner).sizes = s.sizes := by
  unfold spillTile
  split <;>
    simp only [State.setHold_sizes, sendPacket_sizes, bump_sizes, firstEvent_sizes, apply_ite State.sizes, ite_self, foldl_sizes,
      implies_true]

theorem resolveCycle_sizes (s : State) (cycle : List Nat) : (resolveCycle s cycle).sizes = s.sizes := by
  simp only [resolveCycle, spillTile_sizes, State.setStream_sizes, State.sizes_with, foldl_sizes, implies_true]

theorem resolveAll_sizes (n : Nat) (s : State) : (resolveAll n s).sizes = s.sizes := by
  induction n generalizing s with
  | zero => rfl
  | succ n ih =>
    unfold resolveAll
    split
    · rfl
    · simp only [ih, resolveCycle_sizes]

theorem spillBlockWritten_sizes (t id : Nat) (s : State) : (spillBlockWritten t id s).sizes = s.sizes := by
  unfold spillBlockWritten
  split <;> simp only [dropPacket_sizes, releaseBlocks_sizes, State.setHold_sizes, apply_ite State.sizes, ite_self]

theorem sloughRestore_sizes (t id : Nat) (s : State) : (sloughRestore t id s).sizes = s.sizes := by
  unfold sloughRestore
  split <;> simp only [bump_sizes, State.setHold_sizes, apply_ite State.sizes, ite_self]

theorem creditReturn_sizes (c : Credit) (held : Nat) (s : State) : (creditReturn c held s).sizes = s.sizes := by
  unfold creditReturn
  split <;> simp only [tileReturn_sizes, culvertReturn_sizes, laneReturn_sizes]

theorem ringStep_sizes (id idx stage m waited : Nat) (s : State) : (ringStep id idx stage m waited s).sizes = s.sizes := by
  unfold ringStep
  split <;> simp only [State.setRun_sizes, bump_sizes, apply_ite State.sizes, ite_self]

theorem partialListMerge_sizes (id idx stage row : Nat) (s : State) : (partialListMerge id idx stage row s).sizes = s.sizes := by
  unfold partialListMerge
  split <;> simp only [mergeRow_sizes, State.setRun_sizes, apply_ite State.sizes, ite_self]

theorem wakeArrives_sizes (u : WakeUnit) (s : State) : (wakeArrives u s).sizes = s.sizes := by
  simp only [wakeArrives]
  (repeat' split) <;> simp only [dropPacket_sizes, wakeDieBy_sizes, State.setTile_sizes, State.sizes_with]

/-! ### HALT, the Sluice and SLOT_RECLAIM (Halt.lean) -/

theorem haltStream_sizes (s : State) (id : Nat) : (haltStream s id).sizes = s.sizes := by
  simp only [haltStream, setState_sizes, State.setStream_sizes, stopDrain_sizes, stopShadows_sizes]

theorem startSluice_sizes (s : State) : (startSluice s).sizes = s.sizes := by
  simp only [startSluice, errorTrigger_sizes, takeFreeBits_sizes, State.setReg_sizes, State.sizes_with]

theorem acceptHalt_sizes (s : State) (h : HaltOp) (slot : Nat) : (acceptHalt s h slot).sizes = s.sizes := by
  simp only [acceptHalt, startSluice_sizes, haltStream_sizes, sendPacket_sizes, bump_sizes, takeFreeBits_sizes, State.setReg_sizes,
    keepStatuses_sizes, haltProgress_sizes, apply_ite State.sizes, ite_self, State.sizes_with, foldl_sizes, implies_true]

theorem answerMailbox_sizes (s : State) (slot : Nat) (r : Rec) (status detail : Nat) :
    (answerMailbox s slot r status detail).sizes = s.sizes := by
  simp only [answerMailbox, pushTurn_sizes, nameScomp_sizes]

theorem takeMailbox_sizes (s : State) (slot seq : Nat) : (takeMailbox s slot seq).sizes = s.sizes := by
  unfold takeMailbox
  split <;> rename_i e
  · simp only [pushTurn_sizes, nameScomp_sizes, ringFault_sizes, fst_sizes e (devRead_sizes ..)]
  · dsimp only
    split <;>
      simp only [answerMailbox_sizes, countReject_sizes, acceptHalt_sizes, apply_ite State.sizes, fst_sizes e (devRead_sizes ..),
        ite_self]

theorem haltSlot_sizes (slot : Nat) (s : State) : (haltSlot slot s).sizes = s.sizes := by
  unfold haltSlot
  split
  · rfl
  · split <;> rename_i e <;>
      simp only [ringFault_sizes, takeMailbox_sizes, State.setSlot_sizes, apply_ite State.sizes, fst_sizes e (read64_sizes ..),
        ite_self]

theorem haltPort_sizes (s : State) (p : Nat) (ids : List Nat) : (haltPort s p ids).sizes = s.sizes := by
  simp only [haltPort, takeFree_sizes, qpError_sizes, apply_ite State.sizes, ite_self, foldl_sizes, implies_true]

theorem stopAgent_sizes (s : State) (u : StopUnit) (ids : List Nat) : (stopAgent s u ids).sizes = s.sizes := by
  unfold stopAgent
  split
  · simp only [foldl_sizes, dropFetch_sizes, implies_true]
  · exact dropCommands_sizes ..
  · simp only [State.sizes, modifyAt_length]
  · exact haltPort_sizes ..
  · rfl

theorem haltMessage_sizes (u : StopUnit) (s : State) : (haltMessage u s).sizes = s.sizes := by
  simp only [haltMessage, stopAgent_sizes, dropPackets_sizes, sendPacket_sizes, bump_sizes, apply_ite State.sizes, ite_self,
    State.sizes_with]

theorem stopAck_sizes (u : StopUnit) (s : State) : (stopAck u s).sizes = s.sizes := by
  simp only [stopAck, dropPackets_sizes, haltProgress_sizes, State.sizes_with]

theorem stopBatch_sizes (id : Nat) (s : State) (b : Batch) : (stopBatch id s b).sizes = s.sizes := by
  unfold stopBatch
  split <;> simp only [stopOne_sizes, finishBatch_sizes, apply_ite State.sizes, ite_self]

theorem streamStopDone_sizes (id : Nat) (s : State) : (streamStopDone id s).sizes = s.sizes := by
  unfold streamStopDone
  split <;>
    simp only [haltProgress_sizes, resetProgress_sizes, leaveTiles_sizes, stopBatch_sizes, apply_ite State.sizes, ite_self,
      foldl_sizes, implies_true]

theorem endSluice_sizes (s : State) : (endSluice s).sizes = s.sizes := by
  simp only [endSluice, haltProgress_sizes, State.sizes_with]

theorem sluiceDrained_sizes (s : State) : (sluiceDrained s).sizes = s.sizes := by
  simp only [sluiceDrained, endSluice_sizes, answerHalt_sizes, apply_ite State.sizes, ite_self, State.sizes_with, foldl_sizes,
    implies_true]

theorem mcHalt_sizes (s : State) (v : Word) : (mcHalt s v).sizes = s.sizes := by
  simp only [mcHalt, acceptHalt_sizes, State.sizes_with]

theorem mcOnly_sizes {go : State → State} (hg : ∀ s, (go s).sizes = s.sizes) (s : State) (who : Agent) (k : Nat) (h : Instr) :
    (mcOnly s who k h go).sizes = s.sizes := by
  refine regAccess_sizes (fun s => ?_) _ _ _ _
  simp only [answer_sizes, apply_ite State.sizes, hg, ite_self]

theorem mcHaltGo_sizes (who : Agent) (v : Word) (s : State) : (mcHaltGo who v s).sizes = s.sizes := by
  simp only [mcHaltGo, mcOnly_sizes, mcHalt_sizes, apply_ite State.sizes, ite_self, implies_true]

theorem mcHaltRelease_sizes (who : Agent) (v : Word) (s : State) : (mcHaltRelease who v s).sizes = s.sizes := by
  simp only [mcHaltRelease, mcOnly_sizes, endSluice_sizes, apply_ite State.sizes, ite_self, State.sizes_with, implies_true]

theorem reclaimStream_sizes (s : State) (id : Nat) : (reclaimStream s id).sizes = s.sizes := by
  simp only [reclaimStream, haltStream_sizes, releaseBatch_sizes, stopAgent_sizes, keepStatus_sizes, unbindPlan_sizes,
    State.setStream_sizes, State.sizes_with, foldl_sizes, implies_true]

theorem reclaim_sizes (s : State) (slot : Nat) : (reclaim s slot).sizes = s.sizes := by
  simp only [reclaim, reclaimStream_sizes, State.setSlot_sizes, haltProgress_sizes, freeSlot_sizes, releaseTables_sizes,
    apply_ite State.sizes, ite_self, State.sizes_with, foldl_sizes, implies_true]

theorem slotReclaim_sizes (who : Agent) (v : Word) (s : State) : (slotReclaim who v s).sizes = s.sizes := by
  refine regAccess_sizes (fun s => ?_) _ _ _ _
  dsimp only
  split
  · exact answer_sizes ..
  · split <;> rename_i e <;> simp only [reclaim_sizes, fst_sizes e (read64_sizes ..), answer_sizes]

/-! ### Die-to-die links (Fabric.lean) -/

theorem d2dReplay_sizes (l : Nat) (corrected : Bool) (s : State) : (d2dReplay l corrected s).sizes = s.sizes := by
  simp only [d2dReplay, countCE_sizes, bump_sizes, apply_ite State.sizes, ite_self]

theorem linkFails_sizes (s : State) (l : Nat) : (linkFails s l).sizes = s.sizes := by
  simp only [linkFails, apply_ite State.sizes, State.sizes_with, errorTrigger_sizes, setAt_length, ite_self]

theorem d2dRetrain_sizes (l : Nat) (good : Bool) (s : State) : (d2dRetrain l good s).sizes = s.sizes := by
  simp only [d2dRetrain, takeFreeBits, apply_ite State.sizes, linkFails_sizes, firstEvent_sizes, State.sizes_with, ite_self]

theorem laneRepair_sizes (who : Agent) (l : Nat) (v : Word) (s : State) : (laneRepair who l v s).sizes = s.sizes := by
  unfold laneRepair
  split
  · rfl
  · refine regAccess_sizes (fun s => ?_) _ _ _ _
    split
    · exact answer_sizes ..
    · split <;> rename_i e <;> simp only [answer_sizes, State.setReg_sizes, State.sizes_with, fst_sizes e (repairWrite_sizes ..)]

/-! ### Stillwater snapshots and quotes (StillOps.lean) -/

theorem stillTrigger_sizes (who : Agent) (v : Word) (s : State) : (stillTrigger who v s).sizes = s.sizes := by
  simp only [stillTrigger, regAccess_sizes, answer_sizes, recordTrigger_sizes, apply_ite State.sizes, ite_self, implies_true]

theorem stillInEdge_sizes (highTicks : Nat) (s : State) : (stillInEdge highTicks s).sizes = s.sizes := by
  simp only [stillInEdge, bump_sizes, recordTrigger_sizes, apply_ite State.sizes, ite_self]

theorem stillTimerExpiry_sizes (s : State) : (stillTimerExpiry s).sizes = s.sizes := by
  simp only [stillTimerExpiry, recordTrigger_sizes, apply_ite State.sizes, ite_self, State.sizes_with]

theorem countSnap_sizes (s : State) (page lo : Nat) : (countSnap s page lo).sizes = s.sizes := by
  simp only [countSnap, bumpField_sizes]

theorem putWindow_sizes (s : State) (page : Nat) (ws : List Word) : (putWindow s page ws).sizes = s.sizes := by
  simp only [putWindow, State.setReg_sizes, foldl_sizes, implies_true]

theorem latchPage_sizes (s : State) (page : Nat) : (latchPage s page).sizes = s.sizes := by
  simp only [latchPage, State.setRfld_sizes, putWindow_sizes, State.setReg_sizes, raiseInt_sizes, countSnap_sizes,
    apply_ite State.sizes, ite_self]

theorem snapshotsDone_sizes (s : State) : (snapshotsDone s).sizes = s.sizes := by
  simp only [snapshotsDone, endLate_sizes, apply_ite State.sizes, ite_self, State.sizes_with, foldl_sizes, implies_true]

theorem snapshotLatch_sizes (cls inst : Nat) (s : State) : (snapshotLatch cls inst s).sizes = s.sizes := by
  simp only [snapshotLatch, latchPage_sizes, countSnap_sizes, snapshotsDone_sizes, apply_ite State.sizes, ite_self,
    State.sizes_with]

theorem mergeWindowClose_sizes (s : State) : (mergeWindowClose s).sizes = s.sizes := by
  simp only [mergeWindowClose, apply_ite State.sizes, ite_self, State.sizes_with]

theorem stillOutPulseEnd_sizes (s : State) : (stillOutPulseEnd s).sizes = s.sizes := by
  unfold stillOutPulseEnd
  split <;> simp only [apply_ite State.sizes, ite_self, State.sizes_with]

theorem snapshotStart_sizes (slot : Nat) (s : State) : (snapshotStart slot s).sizes = s.sizes := by
  simp only [snapshotStart, startCtl_sizes, pureChecks_sizes, recordTrigger_sizes, snapshotsDone_sizes, State.sizes_with,
    implies_true]

theorem attestStart_sizes (slot : Nat) (s : State) : (attestStart slot s).sizes = s.sizes := by
  simp only [attestStart]
  (repeat' split) <;> simp only [takeCtl_sizes, endCtl_sizes, countReject_sizes, State.setTrust_sizes, settle_sizes]

theorem quoteSign_sizes (s : State) : (quoteSign s).sizes = s.sizes := by
  simp only [quoteSign]
  split
  · rfl
  · split
    · rfl
    · split
      · split
        · simp only [endLate_sizes, State.setTrust_sizes]
        · split <;> rename_i e <;>
            simp only [endLate_sizes, bump_sizes, fst_sizes e (devWrite_sizes ..), wakeForWrite_sizes, State.setTrust_sizes]
      · simp only [apply_ite State.sizes, bump_sizes, State.sizes_with, State.setTrust_sizes, ite_self]

/-! ### MIRE, the device states and the loss of supplies (Sleep.lean) -/

theorem dieMireEntry_sizes (d : Nat) (s : State) : (dieMireEntry d s).sizes = s.sizes := by
  simp only [dieMireEntry, State.setDie_sizes, apply_ite State.sizes, ite_self]

theorem replayHeld_sizes (s : State) (i : Instr) : (replayHeld s i).sizes = s.sizes := by
  unfold replayHeld
  split <;>
    simp only [writeRegister_sizes, readRegister_sizes, dieMark_sizes, fenSpare_sizes, bankSpare_sizes, laneRepair_sizes,
      sketchClear_sizes, hummockAccess_sizes, granuleRead_sizes, granuleWrite_sizes, fenLineRead_sizes, fenLineWrite_sizes]

theorem wakeRetrain_sizes (s : State) (l : Nat) : (wakeRetrain s l).sizes = s.sizes := by
  simp only [wakeRetrain, takeFreeBits, apply_ite State.sizes, State.sizes_with, ite_self]

theorem dieAwake_sizes (d : Nat) (s : State) : (dieAwake d s).sizes = s.sizes := by
  simp only [dieAwake, foldl_sizes, replayHeld_sizes, State.sizes_with, apply_ite State.sizes, missedDecay_sizes,
    State.setFen_sizes, wakeRetrain_sizes, State.setDie_sizes, ite_self, implies_true]

theorem dieActive_sizes (d : Nat) (s : State) : (dieActive d s).sizes = s.sizes := by
  simp only [dieActive, dieAwake_sizes, apply_ite State.sizes, ite_self]

theorem deviceIdle_sizes (s : State) : (deviceIdle s).sizes = s.sizes := by
  simp only [deviceIdle, apply_ite State.sizes, ite_self, State.sizes_with]

theorem deviceMire_sizes (s : State) : (deviceMire s).sizes = s.sizes := by
  simp only [deviceMire, apply_ite State.sizes, ite_self, State.sizes_with]

theorem wakeN_sizes (low : Nat) (s : State) : (wakeN low s).sizes = s.sizes := by
  simp only [wakeN, takeFreeBits_sizes, wakeDieBy_sizes, apply_ite State.sizes, ite_self, State.sizes_with, foldl_sizes,
    implies_true]

theorem loseTally_sizes (s : State) : (loseTally s).sizes = s.sizes := by
  simp only [loseTally]
  split
  · split
    · simp only [State.setTrust_sizes]
    · split <;> rename_i e <;>
        simp only [State.setTrust_sizes, State.sizes_with, fuseValue_repairDie, fuseValue_repairHbm, useSlot_repairDie,
          useSlot_repairHbm, fst_sizes e (takeFreeBits_sizes ..)]
  · simp only [State.setTrust_sizes]

theorem fieldTile_sizes (s : State) (t : Nat) : (fieldTile s t).sizes = s.sizes := by
  simp only [fieldTile, repairTile_sizes, quarantine_sizes, apply_ite State.sizes, ite_self]

theorem fieldSelfTest_sizes (d : Nat) (failed : List Nat) (s : State) : (fieldSelfTest d failed s).sizes = s.sizes := by
  simp only [fieldSelfTest, State.setTrust_sizes, releaseGroups_sizes, syncRepairRecord_sizes, fieldTile_sizes, State.setReed_sizes,
    apply_ite State.sizes, ite_self, State.sizes_with, foldl_sizes, implies_true]

/-! ### The last stages of start-up, and the host cores (Ready.lean) -/

theorem configHeader_sizes (l : List (Nat × PeatRec)) (s : State) : (configHeader l s).1.sizes = s.sizes := by
  induction l generalizing s with
  | nil => rfl
  | cons r t ih =>
    unfold configHeader
    split
    · simp only [ih, noteUnread_sizes]
    · split <;> simp only [ih, refuseComp_sizes]

theorem configWrite_sizes (s : State) (w : Nat × Nat) : (configWrite s w).sizes = s.sizes := by
  unfold configWrite
  split <;> simp only [hummockWrite_sizes, regWriteAt_sizes, apply_ite State.sizes, ite_self]

theorem configBucket_sizes (buckets : List (Nat × Nat)) (s : State) (page : Nat) :
    (configBucket buckets s page).sizes = s.sizes := by
  unfold configBucket
  (repeat' split) <;> simp only [bucketConfig_sizes]

theorem lockPage_sizes (culv : Bool) (s : State) (page : Nat) : (lockPage culv s page).sizes = s.sizes := by
  simp only [lockPage, State.setRfld_sizes, apply_ite State.sizes, ite_self]

theorem configurePages_sizes (c : ConfigBody) (s : State) : (configurePages c s).sizes = s.sizes := by
  simp only [configurePages, configBucket_sizes, State.setRfld_sizes, configWrite_sizes, lockPage_sizes, apply_ite State.sizes,
    ite_self, State.sizes_with, foldl_sizes, implies_true]

theorem configureAndLock_sizes (c : ConfigBody) (s : State) : (configureAndLock c s).sizes = s.sizes := by
  unfold configureAndLock
  split
  · simp only [State.setTrust_sizes, extendMeas_sizes, configurePages_sizes, configHeader_sizes]
  · rfl

theorem handOffHost_sizes (s : State) : (handOffHost s).sizes = s.sizes := by
  simp only [handOffHost, devWrite_sizes, takeFreeBits_sizes, State.setTrust_sizes, State.sizes_with]

theorem becomeReady_sizes (s : State) : (becomeReady s).sizes = s.sizes := by
  simp only [becomeReady, handOffHost_sizes, apply_ite State.sizes, ite_self]

theorem hartStart_sizes (who : Agent) (v : Word) (s : State) : (hartStart who v s).sizes = s.sizes := by
  simp only [hartStart, regAccess_sizes, answer_sizes, firstEvent_sizes, apply_ite State.sizes, ite_self, State.sizes_with,
    implies_true]

theorem setCompare_sizes (s : State) (core : Nat) (irq : CoreIrq) : (setCompare s core irq).sizes = s.sizes := by
  cases irq <;> simp only [setCompare, State.sizes_with]

theorem takeIrq_sizes (s : State) (core : Nat) (irq : CoreIrq) : (takeIrq s core irq).sizes = s.sizes := by
  simp only [takeIrq, State.sizes_with]

theorem coreWake_sizes (core : Nat) (irq : CoreIrq) (s : State) : (coreWake core irq s).sizes = s.sizes := by
  simp only [coreWake, apply_ite State.sizes, takeIrq_sizes, setCompare_sizes, ite_self]

/-! ### The Ethernet data ports (Eth.lean) -/

theorem frameReceive_sizes (p : Nat) (f : Frame) (s : State) : (frameReceive p f s).sizes = s.sizes := by
  simp only [frameReceive, bump_sizes, putOut_sizes, apply_ite State.sizes, ite_self]

theorem responder_sizes {go : Qp → State → State} (hg : ∀ q s, (go q s).sizes = s.sizes) (s : State) (r : RdmaReq) :
    (responder s r go).sizes = s.sizes := by
  unfold responder
  split
  · rfl
  · simp only [apply_ite State.sizes, putOut_sizes, hg, ite_self]

theorem nakError_sizes (s : State) (r : RdmaReq) (code : Nat) : (nakError s r code).sizes = s.sizes := by
  simp only [nakError, qpError_sizes, putOut_sizes]

theorem acked_sizes (s : State) (q : Qp) (n : Nat) : (acked s q n).sizes = s.sizes := by
  simp only [acked, putOut_sizes, State.setQp_sizes]

theorem rdmaStore_sizes (s : State) (q : Qp) (r : RdmaReq) : (rdmaStore s q r).sizes = s.sizes := by
  unfold rdmaStore
  split <;> rename_i e <;> simp only [acked_sizes, nakError_sizes, fst_sizes e (devWrite_sizes ..), wakeForWrite_sizes]

theorem rdmaWrite_sizes (r : RdmaReq) (s : State) : (rdmaWrite r s).sizes = s.sizes := by
  simp only [rdmaWrite, responder_sizes, rdmaStore_sizes, nakError_sizes, apply_ite State.sizes, ite_self, implies_true]

theorem deliverQp_sizes (s : State) (q : Qp) (data : List Byte) : (deliverQp s q data).1.sizes = s.sizes := by
  unfold deliverQp
  split <;> simp only [arrive_sizes]

theorem immRecord_sizes (s : State) : (immRecord s).1.sizes = s.sizes := by
  simp only [immRecord, takeFreeBits_sizes]

theorem rdmaWriteImm_sizes (r : RdmaReq) (s : State) : (rdmaWriteImm r s).sizes = s.sizes := by
  refine responder_sizes (fun q s => ?_) _ _
  dsimp only
  split
  · exact nakError_sizes ..
  · split <;> rename_i e <;> simp only [rdmaStore_sizes, putOut_sizes, fst_sizes e (deliverQp_sizes ..), immRecord_sizes]

theorem rdmaRead_sizes (r : RdmaReq) (s : State) : (rdmaRead r s).sizes = s.sizes := by
  refine responder_sizes (fun q s => ?_) _ _
  dsimp only
  split
  · exact nakError_sizes ..
  · split <;> rename_i e <;> simp only [nakError_sizes, putOut_sizes, State.setQp_sizes, fst_sizes e (devRead_sizes ..)]

theorem roceSend_sizes (r : RdmaReq) (s : State) : (roceSend r s).sizes = s.sizes := by
  refine responder_sizes (fun q s => ?_) _ _
  split <;> rename_i e <;> simp only [acked_sizes, putOut_sizes, fst_sizes e (deliverQp_sizes ..)]

theorem rdmaAtomic_sizes (r : RdmaReq) (f : Nat → Nat) (s : State) : (rdmaAtomic r f s).sizes = s.sizes := by
  refine responder_sizes (fun q s => ?_) _ _
  dsimp only
  split
  · exact nakError_sizes ..
  · split <;> rename_i e
    · simp only [nakError_sizes, fst_sizes e (read64_sizes ..), wakeForWrite_sizes]
    · split <;> rename_i e' <;>
        simp only [nakError_sizes, putOut_sizes, State.setQp_sizes, fst_sizes e' (write64_sizes ..), fst_sizes e (read64_sizes ..),
          wakeForWrite_sizes]

theorem resend_sizes (s : State) (q : Qp) : (resend s q).sizes = s.sizes := by
  simp only [resend, bump_sizes, State.setQp_sizes, putOut_sizes, apply_ite State.sizes, ite_self, foldl_sizes, implies_true]

theorem ackTimeout_sizes (port n : Nat) (s : State) : (ackTimeout port n s).sizes = s.sizes := by
  unfold ackTimeout
  split <;> simp only [resend_sizes, State.setQp_sizes, qpError_sizes, apply_ite State.sizes, ite_self]

theorem nakReceived_sizes (port n code : Nat) (s : State) : (nakReceived port n code s).sizes = s.sizes := by
  unfold nakReceived
  split <;> simp only [qpError_sizes, resend_sizes, State.setQp_sizes, apply_ite State.sizes, ite_self]

theorem peerAnswer_sizes (s : State) (m : QpMsg) (data : List Byte) : (peerAnswer s m data).sizes = s.sizes := by
  unfold peerAnswer
  split <;> simp only [State.setRun_sizes, countLate_sizes, apply_ite State.sizes, ite_self]

theorem ackReceived_sizes (port n : Nat) (data : List Byte) (s : State) : (ackReceived port n data s).sizes = s.sizes := by
  simp only [ackReceived]
  (repeat' split) <;> simp only [State.setQp_sizes, peerAnswer_sizes, promote_sizes]

theorem udpDatagram_sizes (p srcIp srcPort dstIp dstPort : Nat) (data : List Byte) (s : State) :
    (udpDatagram p srcIp srcPort dstIp dstPort data s).sizes = s.sizes := by
  unfold udpDatagram
  (repeat' split) <;> simp only [bump_sizes, recordArrival_sizes]

theorem loadQp_sizes (s : State) (i addr : Nat) (b : List Byte) : (loadQp s i addr b).sizes = s.sizes := by
  simp only [loadQp, State.sizes_with]

theorem refuseLoad_sizes (s : State) (p i : Nat) : (refuseLoad s p i).sizes = s.sizes := by
  simp only [refuseLoad, noteQp_sizes]

theorem qpLoad_sizes (who : Agent) (p : Nat) (v : Word) (s : State) : (qpLoad who p v s).sizes = s.sizes := by
  unfold qpLoad
  split
  · rfl
  · refine regAccess_sizes (fun s => ?_) _ _ _ _
    dsimp only
    split
    · exact answer_sizes ..
    · split
      · simp only [refuseLoad_sizes, answer_sizes]
      · split <;> rename_i e <;>
          simp only [apply_ite State.sizes, refuseLoad_sizes, loadQp_sizes, fst_sizes e (devRead_sizes ..), answer_sizes, ite_self]

theorem qpReset_sizes (who : Agent) (p : Nat) (v : Word) (s : State) : (qpReset who p v s).sizes = s.sizes := by
  simp only [qpReset, regAccess_sizes, answer_sizes, qpTear_sizes, apply_ite State.sizes, ite_self, implies_true]

theorem ethLinkUp_sizes (p mode : Nat) (s : State) : (ethLinkUp p mode s).sizes = s.sizes := by
  simp only [ethLinkUp, State.setPort_sizes, apply_ite State.sizes, ite_self]

theorem ethLinkDown_sizes (p : Nat) (s : State) : (ethLinkDown p s).sizes = s.sizes := by
  simp only [ethLinkDown, State.setPort_sizes]

theorem autonegRetry_sizes (p : Nat) (s : State) : (autonegRetry p s).sizes = s.sizes := by
  simp only [autonegRetry, State.setPort_sizes, apply_ite State.sizes, ite_self, State.sizes_with]

theorem ethLaneSpare_sizes (p lane : Nat) (s : State) : (ethLaneSpare p lane s).sizes = s.sizes := by
  unfold ethLaneSpare
  split
  · split <;> rename_i e <;> simp only [State.setPort_sizes, fst_sizes e (repairWrite_sizes ..)]
  · rfl

theorem mgmtLinkUp_sizes (mode fec : Nat) (s : State) : (mgmtLinkUp mode fec s).sizes = s.sizes := by
  simp only [mgmtLinkUp, apply_ite State.sizes, ite_self, State.sizes_with]

/-! ### The PCIe port (Pcie.lean) -/

theorem unsupported_sizes (s : State) : (unsupported s).sizes = s.sizes := by
  simp only [unsupported, answer_sizes, bump_sizes]

theorem aerReport_sizes (e : LinkErrs) (s : State) : (aerReport e s).sizes = s.sizes := by
  simp only [aerReport, bump_sizes, takeFreeBits_sizes, firstEvent_sizes, apply_ite State.sizes, ite_self]

theorem stagingWrite_sizes (s : State) (off : Nat) (bs : List Byte) : (stagingWrite s off bs).sizes = s.sizes := by
  simp only [stagingWrite, State.sizes_with]

theorem windowReadNow_sizes (off n : Nat) (s : State) : (windowReadNow off n s).sizes = s.sizes := by
  unfold windowReadNow
  split
  · simp only [apply_ite State.sizes, answer_sizes, unsupported_sizes, ite_self]
  · split
    · exact unsupported_sizes ..
    · split <;> rename_i e <;> simp only [answer_sizes, fst_sizes e (devRead_sizes ..)]

theorem windowRead_sizes (off n : Nat) (e : LinkErrs) (s : State) : (windowRead off n e s).sizes = s.sizes := by
  simp only [windowRead, windowReadNow_sizes, aerReport_sizes, apply_ite State.sizes, ite_self]

theorem windowWriteNow_sizes (off : Nat) (bs : List Byte) (s : State) : (windowWriteNow off bs s).sizes = s.sizes := by
  unfold windowWriteNow
  (repeat' split) <;> simp only [answer_sizes, stagingWrite_sizes, unsupported_sizes, devWrite_sizes, wakeForWrite_sizes]

theorem windowWrite_sizes (off : Nat) (bs : List Byte) (e : LinkErrs) (s : State) : (windowWrite off bs e s).sizes = s.sizes := by
  simp only [windowWrite, windowWriteNow_sizes, aerReport_sizes, apply_ite State.sizes, ite_self]

theorem windowAtomic_sizes (size off : Nat) (f : Nat → Nat) (s : State) : (windowAtomic size off f s).sizes = s.sizes := by
  simp only [windowAtomic, apply_ite State.sizes, unsupported_sizes]
  refine ite_eq_iff'.2 ⟨fun _ => rfl, fun _ => ite_eq_iff'.2 ⟨fun _ => rfl, fun _ => ?_⟩⟩
  split
  · exact unsupported_sizes ..
  · split
    · exact unsupported_sizes ..
    · split <;> rename_i e <;> simp only [answer_sizes, write64_sizes, fst_sizes e (read64_sizes ..), wakeForWrite_sizes]

theorem releasePending_sizes (s : State) : (releasePending s).sizes = s.sizes := by
  simp only [releasePending, putOut_sizes, State.sizes_with, foldl_sizes, implies_true]

theorem msixWrite_sizes (off : Nat) (v : Word) (s : State) : (msixWrite off v s).sizes = s.sizes := by
  simp only [msixWrite, releasePending_sizes, apply_ite State.sizes, ite_self, State.sizes_with]

theorem indirectFails_sizes (s : State) : (indirectFails s).1.sizes = s.sizes := by
  simp only [indirectFails, takeFreeBits_sizes, firstEvent_sizes]

theorem indirect_sizes (s : State) (up write : Bool) (kind addr : Nat) (v : Word) :
    (indirect s up write kind addr v).1.sizes = s.sizes := by
  simp only [indirect]
  split
  · exact indirectFails_sizes ..
  · split <;> rename_i e
    · simp only [indirectFails_sizes, fst_sizes e (takeFree_sizes ..), putOut_sizes]
    · simp only [apply_ite Prod.fst, apply_ite State.sizes, takeFreeBits_sizes, fst_sizes e (takeFree_sizes ..), putOut_sizes,
        ite_self]

theorem indirectAccess_sizes (who : Agent) (k : Nat) (h : Instr) (write up : Bool) (kind addr mask : Nat) (v : Word) (s : State) :
    (indirectAccess who k h write up kind addr mask v s).sizes = s.sizes := by
  simp only [indirectAccess, regAccess_sizes, answer_sizes, indirect_sizes, apply_ite State.sizes, ite_self, implies_true]

theorem cfgData_sizes (who : Agent) (write : Bool) (v : Word) (s : State) : (cfgData who write v s).sizes = s.sizes := by
  simp only [cfgData, indirectAccess_sizes]

theorem mmioData_sizes (who : Agent) (write : Bool) (v : Word) (s : State) : (mmioData who write v s).sizes = s.sizes := by
  simp only [mmioData, indirectAccess_sizes]

theorem inboundNow_sizes (write : Bool) (a : Nat) (bs : List Byte) (s : State) : (inboundNow write a bs s).sizes = s.sizes := by
  unfold inboundNow
  split
  · split
    · simp only [answer_sizes, devWrite_sizes, wakeForWrite_sizes]
    · split <;> rename_i e <;> simp only [answer_sizes, fst_sizes e (devRead_sizes ..)]
  · split <;> simp only [answer_sizes, writeMsi_sizes, unsupported_sizes]

theorem inboundRequest_sizes (write : Bool) (a : Nat) (bs : List Byte) (e : LinkErrs) (s : State) :
    (inboundRequest write a bs e s).sizes = s.sizes := by
  simp only [inboundRequest, inboundNow_sizes, aerReport_sizes, apply_ite State.sizes, ite_self]

theorem nvmeEnable_sizes (who : Agent) (n : Nat) (v : Word) (s : State) : (nvmeEnable who n v s).sizes = s.sizes := by
  simp only [nvmeEnable, regAccess_sizes, answer_sizes, takeFreeBits_sizes, firstEvent_sizes, State.setReg_sizes, nvmeTear_sizes,
    apply_ite State.sizes, ite_self, implies_true]

theorem nvmeOrigin_sizes (s : State) : (nvmeOrigin s).1.sizes = s.sizes := by
  simp only [nvmeOrigin, State.sizes_with]

theorem nvmeArrives_sizes (s : State) (m : NvmeRead) (data : List Byte) : (nvmeArrives s m data).sizes = s.sizes := by
  simp only [nvmeArrives]
  split <;> simp only [nvmeOrigin_sizes, arrive_sizes, nvmeNext_sizes, apply_ite State.sizes, ite_self, State.sizes_with]

theorem nvmeCompletion_sizes (q status : Nat) (data : List Byte) (s : State) :
    (nvmeCompletion q status data s).sizes = s.sizes := by
  simp only [nvmeCompletion]
  (repeat' split) <;> simp only [nvmeArrives_sizes, State.setTSlot_sizes, failRun_sizes, State.sizes_with]

theorem pcieLinkUp_sizes (port rate width : Nat) (s : State) : (pcieLinkUp port rate width s).sizes = s.sizes := by
  simp only [pcieLinkUp, apply_ite State.sizes, ite_self, State.sizes_with]

theorem pcieLinkDown_sizes (port : Nat) (s : State) : (pcieLinkDown port s).sizes = s.sizes := by
  simp only [pcieLinkDown, nvmeTear_sizes, apply_ite State.sizes, ite_self, State.sizes_with, foldl_sizes, implies_true]

/-! ### The management side (Mgmt.lean) -/

theorem haltWritten_sizes (s : State) (v : Word) : (haltWritten s v).sizes = s.sizes := by
  simp only [haltWritten, mcHalt_sizes, redfish_sizes]

theorem haltAsked_sizes (v : Word) (s : State) : (haltAsked v s).sizes = s.sizes := by
  simp only [haltAsked, redfish_sizes, haltWritten_sizes, apply_ite State.sizes, ite_self, State.sizes_with]

theorem redfishHalt_sizes (role : Role) (scope target : Nat) (hold : Bool) (s : State) :
    (redfishHalt role scope target hold s).sizes = s.sizes := by
  simp only [redfishHalt, asRole_sizes, haltAsked_sizes, apply_ite State.sizes, ite_self, implies_true]

theorem haltNext_sizes (s : State) : (haltNext s).sizes = s.sizes := by
  unfold haltNext
  split <;> simp only [haltWritten_sizes, apply_ite State.sizes, ite_self, State.sizes_with]

theorem quoteAsked_sizes (nonce : List Byte) (mask : Nat) (s : State) : (quoteAsked nonce mask s).sizes = s.sizes := by
  simp only [quoteAsked, redfish_sizes, State.setTrust_sizes, apply_ite State.sizes, ite_self]

theorem redfishAttestation_sizes (role : Role) (nonce : List Byte) (mask : Nat) (s : State) :
    (redfishAttestation role nonce mask s).sizes = s.sizes := by
  simp only [redfishAttestation, asRole_sizes, quoteAsked_sizes, apply_ite State.sizes, ite_self, implies_true]

theorem recordAsked_sizes (type_ : Nat) (payload : List Byte) (s : State) : (recordAsked type_ payload s).sizes = s.sizes := by
  unfold recordAsked
  split
  · exact redfish_sizes ..
  · split <;> rename_i e <;> simp only [redfish_sizes, fst_sizes e (peatWrite_sizes ..)]

theorem redfishUpdate_sizes (role : Role) (type_ : Nat) (payload : List Byte) (s : State) :
    (redfishUpdate role type_ payload s).sizes = s.sizes := by
  simp only [redfishUpdate, asRole_sizes, recordAsked_sizes, apply_ite State.sizes, ite_self, implies_true]

theorem gpioAsked_sizes (pin : Nat) (level : Bool) (s : State) : (gpioAsked pin level s).sizes = s.sizes := by
  simp only [gpioAsked, redfish_sizes, putOut_sizes, apply_ite State.sizes, ite_self, State.sizes_with]

theorem gpioDrive_sizes (role : Role) (pin : Nat) (level : Bool) (s : State) : (gpioDrive role pin level s).sizes = s.sizes := by
  simp only [gpioDrive, asRole_sizes, gpioAsked_sizes, apply_ite State.sizes, ite_self, implies_true]

theorem pmbus_sizes (s : State) (w : Nat) : (pmbus s w).sizes = s.sizes := by
  simp only [pmbus, answer_sizes, apply_ite State.sizes, ite_self]

theorem reading_sizes (s : State) (num den : Nat) : (reading s num den).sizes = s.sizes := by
  simp only [reading, pmbus_sizes, takeFreeBits_sizes, apply_ite State.sizes, ite_self]

theorem statusWord_sizes (s : State) : (statusWord s).sizes = s.sizes := by
  simp only [statusWord, takeFreeBits_sizes, pmbus_sizes]

theorem unsupportedPmbus_sizes (command : Nat) (s : State) : (unsupportedPmbus command s).sizes = s.sizes := by
  simp only [unsupportedPmbus, answer_sizes, apply_ite State.sizes, ite_self]

theorem debugRead_sizes (s : State) (a n : Nat) : (debugRead s a n).sizes = s.sizes := by
  unfold debugRead
  split
  · simp only [apply_ite State.sizes, answer_sizes, sramBytes_sizes, ite_self]
  · split <;> rename_i e <;> simp only [answer_sizes, memFailure_sizes, fst_sizes e (devRead_sizes ..)]

theorem jtagDebug_sizes (op : DebugOp) (s : State) : (jtagDebug op s).sizes = s.sizes := by
  unfold jtagDebug
  (repeat' split) <;> simp only [answer_sizes, debugRead_sizes, readRegister_sizes, State.sizes_with]

/-! ### The tick of an empty queue (Tick.lean) -/

theorem tickStack_sizes (s : State) (k : Nat) : (tickStack s k).sizes = s.sizes := by
  simp only [tickStack, State.setStack_sizes, apply_ite State.sizes, ite_self]

theorem tickCopy_sizes (s : State) (d : Nat) : (tickCopy s d).sizes = s.sizes := by
  simp only [tickCopy, State.setFen_sizes, apply_ite State.sizes, ite_self]

theorem tickEpoch_sizes (s : State) (k : Nat) : (tickEpoch s k).sizes = s.sizes := by
  simp only [tickEpoch, bump_sizes, apply_ite State.sizes, ite_self]

theorem tickClock_sizes (s : State) : (tickClock s).sizes = s.sizes := by
  simp only [tickClock, bump_sizes, apply_ite State.sizes, ite_self]

theorem tickDie_sizes (s : State) (d : Nat) : (tickDie s d).sizes = s.sizes := by
  simp only [tickDie, State.setDie_sizes, apply_ite State.sizes, ite_self]

theorem byItself_sizes {go : State → State} (hg : ∀ s, (go s).sizes = s.sizes) (s : State) : (byItself go s).sizes = s.sizes := by
  simp only [byItself, State.sizes_with, hg]

theorem onDie_sizes {go : State → State} (hg : ∀ s, (go s).sizes = s.sizes) (s : State) (d : Nat) :
    (onDie s d go).sizes = s.sizes := by
  unfold onDie
  split <;> simp only [byItself_sizes hg, wakeDieBy_sizes]

theorem tickLayer_sizes (s : State) (d : Nat) : (tickLayer s d).sizes = s.sizes := by
  unfold tickLayer
  (repeat' split) <;> simp only [onDie_sizes, fenSpare_sizes, State.setFen_sizes, implies_true]

theorem tickBank_sizes (s : State) (d : Nat) : (tickBank s d).sizes = s.sizes := by
  unfold tickBank
  (repeat' split) <;> simp only [onDie_sizes, bankSpare_sizes, State.setReed_sizes, implies_true]

theorem tickLane_sizes (s : State) (l : Nat) : (tickLane s l).sizes = s.sizes := by
  simp only [tickLane]
  (repeat' split) <;> simp only [byItself_sizes, laneRepair_sizes, State.sizes_with, implies_true]

theorem tickTile_sizes (s : State) (t : Nat) : (tickTile s t).sizes = s.sizes := by
  simp only [tickTile, quarantine_sizes, apply_ite State.sizes, ite_self]

theorem tickTime_sizes (s : State) : (tickTime s).sizes = s.sizes := by
  simp only [tickTime, tickStack_sizes, tickCopy_sizes, tickEpoch_sizes, tickMover_sizes, tickDie_sizes, tickClock_sizes,
    foldl_sizes, implies_true]

theorem tickMc_sizes (s : State) : (tickMc s).sizes = s.sizes := by
  simp only [tickMc, tickMark_sizes, tickTile_sizes, tickLayer_sizes, tickBank_sizes, tickLane_sizes, haltNext_sizes, foldl_sizes,
    implies_true]

theorem mossTick_sizes (s : State) : (mossTick s).sizes = s.sizes := by
  simp only [mossTick, tickMc_sizes, tickTime_sizes, apply_ite State.sizes, ite_self, State.sizes_with]

/-! ### Functions that build arrays anew

The cold start, the loss of a supply, and what leads to them: the new arrays have the part's sizes where the old ones had. -/

theorem applyTest_partSizes {s : State} (h : s.sizes = partSizes) (x : SelfTest) : (applyTest s x).sizes = partSizes := by
  rw [← h]
  unfold applyTest
  extract_lets r s1 s2 s3 s4 s5 r5 trust fab u
  have h5 : s5.sizes = s.sizes := by
    simp only [s5, s4, s3, s2, s1, foldl_sizes, repairTile_sizes, repairColumn_sizes, repairLayer_sizes, repairBank_sizes,
      repairCore_sizes, implies_true]
  have hu : u.sizes = s.sizes := by
    rw [h] at h5 ⊢
    simp only [u, trust, State.sizes, partSizes, List.cons.injEq, List.length_map, List.length_range] at h5 ⊢
    tauto
  simp only [foldl_sizes, apply_ite State.sizes, State.setReg_sizes, ite_self, implies_true, hu]

theorem bringUp_partSizes {s : State} (h : s.sizes = partSizes) (x : SelfTest) : (bringUp s x).sizes = partSizes := by
  simp only [bringUp, syncRepairRecord_sizes, reconcile_sizes]
  exact applyTest_partSizes (by simpa only [State.sizes_with, State.setTrust_sizes]) x

theorem afterMc_partSizes {s : State} (h : s.sizes = partSizes) : (afterMc s).sizes = partSizes := by
  unfold afterMc
  split
  · split
    · exact bringUp_partSizes h _
    · exact h
  · exact h

theorem runSearch_cleared_sizes (firmware : Bool) (l : List Source) (s : State) :
    (runSearch firmware l (s.setTrust fun t => { t with search := none })).sizes = s.sizes := by
  simp only [runSearch_sizes, State.setTrust_sizes]

theorem bootTimeout_partSizes {s : State} (h : s.sizes = partSizes) : (bootTimeout s).sizes = partSizes := by
  unfold bootTimeout
  split
  · split
    · exact afterMc_partSizes ((runSearch_cleared_sizes ..).trans h)
    · exact h
  · exact h

theorem vinGood_partSizes {s : State} (h : s.sizes = partSizes) (samples : List Nat) (x : SelfTest) :
    (vinGood samples x s).sizes = partSizes := by
  unfold vinGood
  split
  · extract_lets straps life power s1 lane ext s2 cut fuses s3 s4 s5 s6 s7
    have h2 : s2.sizes = partSizes := by
      rw [← h]
      simp only [s2, s1, State.sizes, List.length_map, List.length_zipIdx]
    clear_value s2
    have h3 : s3.sizes = partSizes := by
      rw [← h2]
      simp only [s3]
      split <;> simp only [fuses, State.sizes, List.length_map]
    clear_value s3
    have h4 : s4.sizes = partSizes := by
      simp only [s4, State.setTrust, State.sizes, partSizes, List.length_replicate, List.cons.injEq] at h3 ⊢
      tauto
    clear_value s4
    refine afterMc_partSizes ?_
    simp only [s7, s6, s5, foldl_sizes, extendMeas_sizes, implies_true, h4]
  · exact h

theorem enterStandby_partSizes {s : State} (h : s.sizes = partSizes) (cause : Nat) : (enterStandby s cause).sizes = partSizes := by
  unfold enterStandby
  extract_lets u p t
  have hu : u.sizes = partSizes := (loseTally_sizes s).trans h
  have ht : t.meas.length = u.trust.meas.length ∧ t.measCnt.length = u.trust.measCnt.length := ⟨rfl, rfl⟩
  clear_value u
  simp only [State.sizes, partSizes, List.cons.injEq] at hu ⊢
  simp only [ht]
  tauto

theorem regAccess_partSizes {go : State → State} (hg : ∀ s, s.sizes = partSizes → (go s).sizes = partSizes) {s : State}
    (h : s.sizes = partSizes) (who : Agent) (k : Nat) (i : Instr) : (regAccess s who k i go).sizes = partSizes := by
  unfold regAccess
  split
  · exact (answer_sizes ..).trans h
  · exact (holdAt_sizes ..).trans h
  · exact hg _ ((wakeForAccess_sizes ..).trans h)

theorem mcOnly_partSizes {go : State → State} (hg : ∀ s, s.sizes = partSizes → (go s).sizes = partSizes) {s : State}
    (h : s.sizes = partSizes) (who : Agent) (k : Nat) (i : Instr) : (mcOnly s who k i go).sizes = partSizes := by
  refine regAccess_partSizes (fun s h => ?_) h _ _ _
  refine (answer_sizes ..).trans ?_
  split
  · exact hg s h
  · exact h

theorem standbyRequest_partSizes {s : State} (h : s.sizes = partSizes) (who : Agent) (v : Word) :
    (standbyRequest who v s).sizes = partSizes := by
  have go (s : State) (h : s.sizes = partSizes) : (if s.fab.held then enterStandby s 4 else s).sizes = partSizes := by
    split
    · exact enterStandby_partSizes h 4
    · exact h
  unfold standbyRequest
  split
  · exact h
  · exact mcOnly_partSizes go h ..

theorem vinOut_partSizes {s : State} (h : s.sizes = partSizes) (c : OffCause) : (vinOut c s).sizes = partSizes := by
  unfold vinOut
  split
  · exact enterStandby_partSizes h _
  · simpa only [State.sizes_with]

theorem thermtripAt_partSizes {s : State} (h : s.sizes = partSizes) (sensor reading : Nat) :
    (thermtripAt sensor reading s).sizes = partSizes := by
  unfold thermtripAt
  split
  · extract_lets u power w
    have hw : w.sizes = partSizes := by simpa only [w, u, State.sizes_with, State.setTrust_sizes]
    clear_value w
    split
    · exact enterStandby_partSizes hw 3
    · exact hw
  · exact h

theorem vsbLoss_partSizes {s : State} (h : s.sizes = partSizes) : (vsbLoss s).sizes = partSizes := by
  unfold vsbLoss
  split
  · extract_lets u
    have hu : u.sizes = partSizes := (loseTally_sizes s).trans h
    clear_value u
    simp only [State.sizes, partSizes, List.cons.injEq] at hu ⊢
    tauto
  · exact h

theorem deliverImage_partSizes {s : State} (h : s.sizes = partSizes) (src : Source) (img : List Byte) :
    (deliverImage s src img).sizes = partSizes := by
  unfold deliverImage
  extract_lets u
  have hu : u.sizes = partSizes := by
    refine Eq.trans ?_ h
    cases src <;> simp only [u, State.setTrust_sizes]
  clear_value u
  split
  · split
    · exact afterMc_partSizes ((runSearch_cleared_sizes ..).trans hu)
    · split
      · exact afterMc_partSizes ((runSearch_cleared_sizes ..).trans hu)
      · exact hu
  · exact hu

theorem mailboxWrite_partSizes {s : State} (h : s.sizes = partSizes) (off v : Nat) : (mailboxWrite off v s).sizes = partSizes := by
  unfold mailboxWrite
  split
  · exact h
  · split
    · simpa only [State.sizes_with]
    · split
      · exact deliverImage_partSizes (by simpa only [State.sizes_with, State.setTrust_sizes]) _ _
      · exact h

theorem pldmUpdate_partSizes {s : State} (h : s.sizes = partSizes) (component : Nat) (payload : List Byte) :
    (pldmUpdate component payload s).sizes = partSizes := by
  unfold pldmUpdate
  split
  · exact h
  · split
    · split
      · simpa only [answer_sizes] using deliverImage_partSizes h _ _
      · simpa only [apply_ite State.sizes, answer_sizes, peatWrite_sizes, ite_self]
    · simpa only [apply_ite State.sizes, answer_sizes, peatWrite_sizes, ite_self]
    · simpa only [tallyRequest_sizes]
    · exact h

/-! ### Every command, and every step -/

theorem ite_sizes {c : Prop} [Decidable c] {s u : State} (hu : u.sizes = s.sizes) : (if c then u else s).sizes = s.sizes := by
  rw [apply_ite State.sizes, hu, ite_self]

theorem next_eq_partSizes {u t : State} (hu : u.sizes = partSizes)
    (e : (Host.Outcome.next u : Host.Outcome State Fault Refusal) = .next t) : t.sizes = partSizes := by
  cases e
  exact hu

theorem next_sizes_partSizes {s u t : State} (h : s.sizes = partSizes) (hu : u.sizes = s.sizes)
    (e : (Host.Outcome.next u : Host.Outcome State Fault Refusal) = .next t) : t.sizes = partSizes :=
  next_eq_partSizes (hu.trans h) e

theorem execBucketConfigWrite_partSizes {s t : State} {who : Agent} {cls inst : Nat} {v : Word} (h : s.sizes = partSizes)
    (e : execBucketConfigWrite who cls inst v s = .next t) : t.sizes = partSizes := by
  unfold execBucketConfigWrite at e
  split at e
  · exact next_sizes_partSizes h ((answer_sizes ..).trans (bucketConfig_sizes ..)) e
  · exact next_sizes_partSizes h (answer_sizes ..) e

theorem exec_partSizes {i : Instr} {s t : State} (h : s.sizes = partSizes) (e : exec i s = .next t) : t.sizes = partSizes := by
  cases i with
  | slotClaim => exact next_sizes_partSizes h (slotClaim_sizes ..) e
  | watchObserve => exact next_sizes_partSizes h (watchObserve_sizes ..) e
  | openSession => exact next_sizes_partSizes h (openSession_sizes ..) e
  | closeSession => exact next_sizes_partSizes h (closeSession_sizes ..) e
  | openStream => exact next_sizes_partSizes h (openStream_sizes ..) e
  | bindPlan => exact next_sizes_partSizes h (bindPlan_sizes ..) e
  | peerSessionClose => exact next_sizes_partSizes h (peerSessionClose_sizes ..) e
  | run => exact next_sizes_partSizes h (runStream_sizes ..) e
  | pause => exact next_sizes_partSizes h (pauseStream_sizes ..) e
  | resume => exact next_sizes_partSizes h (resumeStream_sizes ..) e
  | drain => exact next_sizes_partSizes h (drainStream_sizes ..) e
  | resetStream => exact next_sizes_partSizes h (resetStream_sizes ..) e
  | closeStream => exact next_sizes_partSizes h (closeStream_sizes ..) e
  | submitBatch => exact next_sizes_partSizes h (submitBatch_sizes ..) e
  | rearm => exact next_sizes_partSizes h (rearmStream_sizes ..) e
  | shadowPromote => exact next_sizes_partSizes h (promote_sizes ..) e
  | halt => exact next_sizes_partSizes h (haltSlot_sizes ..) e
  | snapshot => exact next_sizes_partSizes h (snapshotStart_sizes ..) e
  | attest => exact next_sizes_partSizes h (attestStart_sizes ..) e
  | quoteSign => exact next_sizes_partSizes h (quoteSign_sizes ..) e
  | slotReclaim => exact next_sizes_partSizes h (slotReclaim_sizes ..) e
  | completionPost => exact next_sizes_partSizes h (completionPost_sizes ..) e
  | deliveryRetry => exact next_sizes_partSizes h (deliveryRetry_sizes ..) e
  | batchStart => exact next_sizes_partSizes h (batchStart_sizes ..) e
  | stageIssue => exact next_sizes_partSizes h (stageIssue_sizes ..) e
  | stageFinish => exact next_sizes_partSizes h (stageFinish_sizes ..) e
  | commitPoint => exact next_sizes_partSizes h (commitPoint_sizes ..) e
  | deadlineExpiry => exact next_sizes_partSizes h (deadlineExpiry_sizes ..) e
  | stageTimeout => exact next_sizes_partSizes h (stageTimeout_sizes ..) e
  | lateArrival => exact next_sizes_partSizes h (lateArrival_sizes ..) e
  | recordArrival => exact next_sizes_partSizes h (recordArrival_sizes ..) e
  | stallTimerExpiry => exact next_sizes_partSizes h (stallExpiry_sizes ..) e
  | weirGrant => exact next_sizes_partSizes h (weirGrant_sizes ..) e
  | waitGraphCheck => exact next_sizes_partSizes h (resolveAll_sizes ..) e
  | spillBlockWritten => exact next_sizes_partSizes h (spillBlockWritten_sizes ..) e
  | sloughRestore => exact next_sizes_partSizes h (sloughRestore_sizes ..) e
  | mergeGroupIssue => exact next_sizes_partSizes h (mergeGroupIssue_sizes ..) e
  | creditReturn => exact next_sizes_partSizes h (creditReturn_sizes ..) e
  | granuleRead => exact next_sizes_partSizes h (granuleRead_sizes ..) e
  | granuleFullWrite => exact next_sizes_partSizes h (ite_sizes (granuleWrite_sizes ..)) e
  | granulePartialWrite => exact next_sizes_partSizes h (ite_sizes (granuleWrite_sizes ..)) e
  | scrubVisit => exact next_sizes_partSizes h (scrubVisit_sizes ..) e
  | scrubPassStart => exact next_sizes_partSizes h (scrubPassStart_sizes ..) e
  | dieMark => exact next_sizes_partSizes h (dieMark_sizes ..) e
  | hbmTrainingEnd => exact next_sizes_partSizes h (trainStack_sizes ..) e
  | fenLineRead => exact next_sizes_partSizes h (fenLineRead_sizes ..) e
  | fenLineWrite => exact next_sizes_partSizes h (fenLineWrite_sizes ..) e
  | fenSweepEnd => exact next_sizes_partSizes h (fenSweepEnd_sizes ..) e
  | fenSpare => exact next_sizes_partSizes h (fenSpare_sizes ..) e
  | fenSpareCopyEnd => exact next_sizes_partSizes h (fenSpareCopyEnd_sizes ..) e
  | fenScrubVisit => exact next_sizes_partSizes h (fenScrubVisit_sizes ..) e
  | culvertWindow => exact next_sizes_partSizes h (culvertWindow_sizes ..) e
  | decayStep => exact next_sizes_partSizes h (decayStep_sizes ..) e
  | epochAdvance => exact next_sizes_partSizes h (epochAdvance_sizes ..) e
  | epoch => exact next_sizes_partSizes h (epochApply_sizes ..) e
  | replicaSlotFree => exact next_sizes_partSizes h (replicaSlotFree_sizes ..) e
  | sketchClear => exact next_sizes_partSizes h (sketchClear_sizes ..) e
  | hummockHbmWrite => exact next_sizes_partSizes h (hummockAccess_sizes ..) e
  | hummockFenWrite => exact next_sizes_partSizes h (hummockAccess_sizes ..) e
  | switchReservation => exact next_sizes_partSizes h (switchReservation_sizes ..) e
  | switchTargetReady => exact next_sizes_partSizes h (switchTargetReady_sizes ..) e
  | versionDrain => exact next_sizes_partSizes h (versionDrain_sizes ..) e
  | searchKey => exact next_sizes_partSizes h (searchKey_sizes ..) e
  | updateVerifyDrain => exact next_sizes_partSizes h (updateVerifyDrain_sizes ..) e
  | reedbedScrub => exact next_sizes_partSizes h (reedbedScrub_sizes ..) e
  | bankSpare => exact next_sizes_partSizes h (bankSpare_sizes ..) e
  | bankSpareFillEnd => exact next_sizes_partSizes h (bankSpareFillEnd_sizes ..) e
  | ringStep => exact next_sizes_partSizes h (ringStep_sizes ..) e
  | partialListMerge => exact next_sizes_partSizes h (partialListMerge_sizes ..) e
  | haltMessage => exact next_sizes_partSizes h (haltMessage_sizes ..) e
  | stopAck => exact next_sizes_partSizes h (stopAck_sizes ..) e
  | streamStopDone => exact next_sizes_partSizes h (streamStopDone_sizes ..) e
  | sluiceDrained => exact next_sizes_partSizes h (sluiceDrained_sizes ..) e
  | weirEdge => exact next_sizes_partSizes h (weirEdge_sizes ..) e
  | wake => exact next_sizes_partSizes h (wakeArrives_sizes ..) e
  | mcHaltGo => exact next_sizes_partSizes h (mcHaltGo_sizes ..) e
  | mcHaltRelease => exact next_sizes_partSizes h (mcHaltRelease_sizes ..) e
  | d2dReplay => exact next_sizes_partSizes h (d2dReplay_sizes ..) e
  | d2dRetrain => exact next_sizes_partSizes h (d2dRetrain_sizes ..) e
  | laneRepair => exact next_sizes_partSizes h (laneRepair_sizes ..) e
  | registerWrite => exact next_sizes_partSizes h (writeRegister_sizes ..) e
  | rcRead => exact next_sizes_partSizes h (readRegister_sizes ..) e
  | busErrorAccess => exact next_sizes_partSizes h (ite_sizes (answer_sizes ..)) e
  | pgLock => exact next_sizes_partSizes h (ite_sizes (pgCtlAccess_sizes ..)) e
  | pgSoftReset => exact next_sizes_partSizes h (ite_sizes (pgCtlAccess_sizes ..)) e
  | pgSoftResetEnd => exact next_sizes_partSizes h (ite_sizes (softResetEnd_sizes ..)) e
  | pgEnable => exact next_sizes_partSizes h (pgCtlAccess_sizes ..) e
  | pgPwrReq => exact next_sizes_partSizes h (pgCtlAccess_sizes ..) e
  | bucketLeak => exact next_sizes_partSizes h (bucketLeak_sizes ..) e
  | bucketConfigWrite => exact execBucketConfigWrite_partSizes h e
  | stillTrigger => exact next_sizes_partSizes h (stillTrigger_sizes ..) e
  | stillInEdge => exact next_sizes_partSizes h (stillInEdge_sizes ..) e
  | stillTimerExpiry => exact next_sizes_partSizes h (stillTimerExpiry_sizes ..) e
  | snapshotLatch => exact next_sizes_partSizes h (snapshotLatch_sizes ..) e
  | mergeWindowClose => exact next_sizes_partSizes h (mergeWindowClose_sizes ..) e
  | stillOutPulseEnd => exact next_sizes_partSizes h (stillOutPulseEnd_sizes ..) e
  | refclkLoss => exact next_sizes_partSizes h (refclkLoss_sizes ..) e
  | refclkReturn => exact next_sizes_partSizes h (refclkReturn_sizes ..) e
  | powerSample => exact next_sizes_partSizes h (powerSample_sizes ..) e
  | tileDoze => exact next_sizes_partSizes h (tileDoze_sizes ..) e
  | tileNap => exact next_sizes_partSizes h (tileNap_sizes ..) e
  | tileWake => exact next_sizes_partSizes h (ite_sizes (wakeTile_sizes ..)) e
  | dieMireEntry => exact next_sizes_partSizes h (dieMireEntry_sizes ..) e
  | dieMireEntered => exact next_sizes_partSizes h (dieMireEntered_sizes ..) e
  | dieWake => exact next_sizes_partSizes h (dieWake_sizes ..) e
  | dieActive => exact next_sizes_partSizes h (dieActive_sizes ..) e
  | deviceIdle => exact next_sizes_partSizes h (deviceIdle_sizes ..) e
  | deviceMire => exact next_sizes_partSizes h (deviceMire_sizes ..) e
  | standbyRequest => exact next_eq_partSizes (standbyRequest_partSizes h ..) e
  | vsb3v3Good => exact next_sizes_partSizes h (vsbGood_sizes ..) e
  | mossResetRelease => exact next_sizes_partSizes h (mossRelease_sizes ..) e
  | bootSourceTimeout => exact next_eq_partSizes (bootTimeout_partSizes h ..) e
  | vsb3v3Loss => exact next_eq_partSizes (vsbLoss_partSizes h ..) e
  | vin50PowerGood => exact next_eq_partSizes (vinGood_partSizes h ..) e
  | firmwareLoad => exact next_sizes_partSizes h (firmwareLoad_sizes ..) e
  | configureAndLock => exact next_sizes_partSizes h (configureAndLock_sizes ..) e
  | ready => exact next_sizes_partSizes h (becomeReady_sizes ..) e
  | vin50OutOfRange => exact next_eq_partSizes (vinOut_partSizes h ..) e
  | offTimeEnd => exact next_sizes_partSizes h (offTimeEnd_sizes ..) e
  | thermtrip => exact next_eq_partSizes (thermtripAt_partSizes h ..) e
  | thermtripClear => exact next_sizes_partSizes h (thermtripClear_sizes ..) e
  | fieldSelfTest => exact next_sizes_partSizes h (fieldSelfTest_sizes ..) e
  | measExtend => exact next_sizes_partSizes h (measExtend_sizes ..) e
  | jtagUnlock => exact next_sizes_partSizes h (jtagUnlock_sizes ..) e
  | tallyRequest => exact next_sizes_partSizes h (tallyRequest_sizes ..) e
  | tallySlotVerify => exact next_sizes_partSizes h (slotVerify_sizes ..) e
  | tfWrite => exact next_sizes_partSizes h (tfWrite_sizes ..) e
  | peatRecordWrite => exact next_sizes_partSizes h (peatRecordWrite_sizes ..) e
  | peatPatrol => exact next_sizes_partSizes h (peatPatrol_sizes ..) e
  | hartStart => exact next_sizes_partSizes h (hartStart_sizes ..) e
  | coreWake => exact next_sizes_partSizes h (coreWake_sizes ..) e
  | frameReceive => exact next_sizes_partSizes h (frameReceive_sizes ..) e
  | rdmaWrite => exact next_sizes_partSizes h (rdmaWrite_sizes ..) e
  | rdmaWriteWithImmediate => exact next_sizes_partSizes h (rdmaWriteImm_sizes ..) e
  | rdmaRead => exact next_sizes_partSizes h (rdmaRead_sizes ..) e
  | roceSend => exact next_sizes_partSizes h (roceSend_sizes ..) e
  | atomicCompareAndSwap => exact next_sizes_partSizes h (rdmaAtomic_sizes ..) e
  | atomicFetchAndAdd => exact next_sizes_partSizes h (rdmaAtomic_sizes ..) e
  | ackTimeout => exact next_sizes_partSizes h (ackTimeout_sizes ..) e
  | nakReceived => exact next_sizes_partSizes h (nakReceived_sizes ..) e
  | udpDatagram => exact next_sizes_partSizes h (udpDatagram_sizes ..) e
  | qpLoad => exact next_sizes_partSizes h (qpLoad_sizes ..) e
  | qpReset => exact next_sizes_partSizes h (qpReset_sizes ..) e
  | autonegRetry => exact next_sizes_partSizes h (autonegRetry_sizes ..) e
  | ethLaneSpare => exact next_sizes_partSizes h (ethLaneSpare_sizes ..) e
  | nvmeCompletion => exact next_sizes_partSizes h (nvmeCompletion_sizes ..) e
  | pcieWindowRead => exact next_sizes_partSizes h (windowRead_sizes ..) e
  | pcieWindowWrite => exact next_sizes_partSizes h (windowWrite_sizes ..) e
  | pcieAtomicCas => exact next_sizes_partSizes h (windowAtomic_sizes ..) e
  | pcieAtomicFetchAdd => exact next_sizes_partSizes h (windowAtomic_sizes ..) e
  | recoveryMailboxWrite => exact next_eq_partSizes (mailboxWrite_partSizes h ..) e
  | cfgDataAccess => exact next_sizes_partSizes h (cfgData_sizes ..) e
  | mmioDataAccess => exact next_sizes_partSizes h (mmioData_sizes ..) e
  | nvmeQueueEnable => exact next_sizes_partSizes h (nvmeEnable_sizes ..) e
  | redfishHalt => exact next_sizes_partSizes h (redfishHalt_sizes ..) e
  | redfishAttestation => exact next_sizes_partSizes h (redfishAttestation_sizes ..) e
  | redfishUpdate => exact next_sizes_partSizes h (redfishUpdate_sizes ..) e
  | pldmFirmwareUpdate => exact next_eq_partSizes (pldmUpdate_partSizes h ..) e
  | statusWord => exact next_sizes_partSizes h (statusWord_sizes ..) e
  | readVin => exact next_sizes_partSizes h (reading_sizes ..) e
  | readIin => exact next_sizes_partSizes h (reading_sizes ..) e
  | readTemperature1 => exact next_sizes_partSizes h (reading_sizes ..) e
  | readPin => exact next_sizes_partSizes h (reading_sizes ..) e
  | pmbusRevision => exact next_sizes_partSizes h (pmbus_sizes ..) e
  | wakeN => exact next_sizes_partSizes h (wakeN_sizes ..) e
  | ethLinkUp => exact next_sizes_partSizes h (ethLinkUp_sizes ..) e
  | ethLinkDown => exact next_sizes_partSizes h (ethLinkDown_sizes ..) e
  | mgmtLinkUp => exact next_sizes_partSizes h (mgmtLinkUp_sizes ..) e
  | mgmtLinkDown =>
    cases e
    exact h
  | pcieLinkUp => exact next_sizes_partSizes h (pcieLinkUp_sizes ..) e
  | pcieLinkDown => exact next_sizes_partSizes h (pcieLinkDown_sizes ..) e
  | ackReceived => exact next_sizes_partSizes h (ackReceived_sizes ..) e
  | pwrokRelease => exact next_sizes_partSizes h (pwrokRelease_sizes ..) e
  | boundaryScanExtest =>
    cases e
    exact h
  | jtagDebugInstruction => exact next_sizes_partSizes h (jtagDebug_sizes ..) e
  | msiXTableWrite => exact next_sizes_partSizes h (msixWrite_sizes ..) e
  | inboundDeviceRequest => exact next_sizes_partSizes h (inboundRequest_sizes ..) e
  | unsupportedPmbusCommand => exact next_sizes_partSizes h (unsupportedPmbus_sizes ..) e
  | gpioOutputDrive => exact next_sizes_partSizes h (gpioDrive_sizes ..) e

/-- Settles O5: the lengths of the part's arrays, listed, are equal before and after each function of the model, but for the
few that build an array anew; those give the part's lengths. -/
theorem stepKeepsSizes : Obligations.StepKeepsSizes := by
  unfold Obligations.StepKeepsSizes
  intro s t h e
  rw [sizesOk_iff] at h ⊢
  cases hp : s.pending with
  | nil => exact next_sizes_partSizes h (mossTick_sizes s) ((step_empty hp).symm.trans e)
  | cons c rest =>
    simp only [step, hp] at e
    exact exec_partSizes (s := { s with pending := rest }) h e

end Sys2Proof.Machine
end

section
/-! SUPPORT. Slots and streams of the dispatcher under their updates, and frames: what an operation of the Calmet contract leaves
as it was, with a relation for what it may do to a slot and to a stream. -/

namespace Sys2Proof.Machine

/-! ### Entries of a list -/

theorem modifyAt_getD_self {α : Type} {l : List α} {n : Nat} (h : n < l.length) (f : α → α) (d : α) :
    (modifyAt l n f).getD n d = f (l.getD n d) := by
  induction l generalizing n with
  | nil => simp at h
  | cons a t ih =>
    cases n with
    | zero => rfl
    | succ n => exact ih (by simpa using h)

theorem modifyAt_getD_ne {α : Type} (l : List α) {n j : Nat} (h : j ≠ n) (f : α → α) (d : α) :
    (modifyAt l n f).getD j d = l.getD j d := by
  induction l generalizing n j with
  | nil => rfl
  | cons a t ih =>
    cases n with
    | zero =>
      cases j with
      | zero => exact absurd rfl h
      | succ j => rfl
    | succ n =>
      cases j with
      | zero => rfl
      | succ j => exact ih (by omega)

theorem forall₂_trans {α : Type} {R : α → α → Prop} (ht : ∀ {a b c}, R a b → R b c → R a c) {l m n : List α}
    (h : List.Forall₂ R l m) (g : List.Forall₂ R m n) : List.Forall₂ R l n := by
  induction h generalizing n with
  | nil => exact g
  | cons hab _ ih =>
    cases g with
    | cons hbc g => exact .cons (ht hab hbc) (ih g)

theorem forall₂_modifyAt {α : Type} {R : α → α → Prop} (hr : ∀ a, R a a) (l : List α) (n : Nat) {f : α → α} (hf : ∀ a, R a (f a)) :
    List.Forall₂ R l (modifyAt l n f) := by
  induction l generalizing n with
  | nil => exact .nil
  | cons a t ih =>
    cases n with
    | zero => exact .cons (hf a) (List.forall₂_same.2 fun b _ => hr b)
    | succ n => exact .cons (hr a) (ih n)

/-- Lists that correspond have the same first entry that passes a test, up to the correspondence. -/
theorem forall₂_find? {α : Type} {R : α → α → Prop} {p : α → Bool} {l m : List α} (h : List.Forall₂ R l m)
    (hp : ∀ a b, R a b → p b = p a) : Option.Rel R (l.find? p) (m.find? p) := by
  induction h with
  | nil => exact .none
  | @cons a b l m hab _ ih =>
    rw [List.find?_cons, List.find?_cons, hp a b hab]
    cases p a with
    | true => exact .some hab
    | false => exact ih

theorem forall₂_getD {α : Type} {R : α → α → Prop} {l m : List α} (h : List.Forall₂ R l m) {d : α} (hd : R d d) (n : Nat) :
    R (l.getD n d) (m.getD n d) := by
  induction h generalizing n with
  | nil => simpa using hd
  | cons hab _ ih =>
    cases n with
    | zero => exact hab
    | succ n => exact ih n

/-! ### Slots -/

theorem sound_slots {s : State} (h : s.sound = true) : s.disp.slots.length = 64 := by
  have hz := (sizesOk_iff s).1 (Bool.and_eq_true_iff.1 h).2
  simp only [State.sizes, partSizes, List.cons.injEq] at hz
  tauto

theorem State.setSlot_slot_self {s : State} {k : Nat} (h : k < s.disp.slots.length) (f : SlotState → SlotState) :
    (s.setSlot k f).slot k = f (s.slot k) := modifyAt_getD_self h f {}

theorem State.setSlot_slot_ne (s : State) {k j : Nat} (h : j ≠ k) (f : SlotState → SlotState) : (s.setSlot k f).slot j = s.slot j :=
  modifyAt_getD_ne _ h f {}

@[simp] theorem State.setSlot_streams (s : State) (k : Nat) (f : SlotState → SlotState) :
    (s.setSlot k f).disp.streams = s.disp.streams := rfl

@[simp] theorem State.setStream_slots (s : State) (id : Nat) (f : Stream → Stream) : (s.setStream id f).disp.slots = s.disp.slots := rfl

@[simp] theorem State.setStream_slot (s : State) (id k : Nat) (f : Stream → Stream) : (s.setStream id f).slot k = s.slot k := rfl

/-! ### Streams -/

theorem State.stream?_id {s : State} {id : Nat} {x : Stream} (h : s.stream? id = some x) : x.id = id := by
  simpa using List.find?_some h

theorem State.open?_id {s : State} {id : Nat} {x : Stream} (h : s.open? id = some x) : x.id = id := by
  have := List.find?_some h
  simp only [Bool.and_eq_true, beq_iff_eq] at this
  exact this.1

theorem State.open?_mem {s : State} {id : Nat} {x : Stream} (h : s.open? id = some x) : x ∈ s.disp.streams :=
  List.mem_of_find?_eq_some h

/-- The first stream of a number is the open one where it is not CLOSED. -/
theorem State.open?_of_stream? {s : State} {id : Nat} {x : Stream} (h : s.stream? id = some x) (hc : x.state ≠ .closed) :
    s.open? id = some x := by
  simp only [State.stream?, State.open?, List.find?_eq_some_iff_append] at h ⊢
  obtain ⟨hid, as, bs, hl, hn⟩ := h
  refine ⟨by simp [hid, hc, bne_iff_ne], as, bs, hl, fun a ha => ?_⟩
  have := hn a ha
  simp only [Bool.not_eq_true'] at this
  simp [this]

theorem State.stream?_of_open? {s : State} {id : Nat} {x : Stream} (h : s.open? id = some x) : ∃ y, s.stream? id = some y := by
  have hx := State.open?_id h
  have : (s.stream? id).isSome := by
    simp only [State.stream?, List.find?_isSome]
    exact ⟨x, State.open?_mem h, by simp [hx]⟩
  exact Option.isSome_iff_exists.1 this

/-- Where every stream of a number is open, the first of them is the open one. -/
theorem State.open?_eq_stream? {s : State} {id : Nat} (h : ∀ x ∈ s.disp.streams, x.id = id → x.state ≠ .closed) :
    s.open? id = s.stream? id := by
  cases hs : s.stream? id with
  | some x => exact State.open?_of_stream? hs (h x (List.mem_of_find?_eq_some hs) (State.stream?_id hs))
  | none =>
    simp only [State.stream?, State.open?, List.find?_eq_none] at hs ⊢
    intro x hx
    simp [hs x hx]

theorem State.open?_of_all_closed {s : State} {id : Nat} (h : ∀ x ∈ s.disp.streams, x.id = id → x.state = .closed) :
    s.open? id = none := by
  simp only [State.open?, List.find?_eq_none, Bool.and_eq_true, beq_iff_eq, bne_iff_ne]
  exact fun x hx hid => hid.2 (h x hx hid.1)

theorem State.streamState_of_open? {s : State} {id : Nat} {x : Stream} (h : s.open? id = some x) : s.streamState id = x.state := by
  simp [State.streamState, h]

theorem State.setStream_stream? (s : State) (id : Nat) {f : Stream → Stream} (hf : ∀ x, (f x).id = x.id) :
    (s.setStream id f).stream? id = (s.stream? id).map f := by
  simp only [State.stream?, State.setStream]
  induction s.disp.streams with
  | nil => rfl
  | cons x l ih =>
    by_cases hx : x.id = id
    · simp [hx, hf]
    · simp [hx, ih]

theorem State.setStream_stream?_ne (s : State) {id j : Nat} (h : j ≠ id) {f : Stream → Stream} (hf : ∀ x, (f x).id = x.id) :
    (s.setStream id f).stream? j = s.stream? j := by
  simp only [State.stream?, State.setStream]
  induction s.disp.streams with
  | nil => rfl
  | cons x l ih =>
    by_cases hx : x.id = id
    · have hj : id ≠ j := h.symm
      simp [hx, hf, hj, ih]
    · by_cases hj : x.id = j
      · simp [hj, h]
      · simp [hx, hj, ih]

/-- A stream of the number that setStream names has been through its function. -/
theorem State.mem_setStream {s : State} {id : Nat} {f : Stream → Stream} {y : Stream}
    (h : y ∈ (s.setStream id f).disp.streams) (hy : y.id = id) : ∃ x ∈ s.disp.streams, x.id = id ∧ y = f x := by
  simp only [State.setStream, List.mem_map] at h
  obtain ⟨x, hx, e⟩ := h
  by_cases hid : x.id = id
  · rw [if_pos hid] at e
    exact ⟨x, hx, hid, e.symm⟩
  · rw [if_neg hid] at e
    exact absurd (e ▸ hy) hid

/-! ### Frames -/

/-- A relation between an entry of the dispatcher before an operation and the same entry after it, which chains of operations
keep. -/
structure Drift (α : Type) where
  rel : α → α → Prop
  refl : ∀ a, rel a a
  trans : ∀ {a b c}, rel a b → rel b c → rel a c

/-- The entry is as it was. -/
def Drift.same {α : Type} : Drift α := ⟨Eq, fun _ => rfl, Eq.trans⟩

/-- Nothing is said of the entry. -/
def Drift.any {α : Type} : Drift α := ⟨fun _ _ => True, fun _ => trivial, fun _ _ => trivial⟩

/-- A part of the entry is as it was. -/
def Drift.keeps {α β : Type} (p : α → β) : Drift α := ⟨fun a b => p b = p a, fun _ => rfl, fun h g => g.trans h⟩

/-- Both relations hold. -/
def Drift.and {α : Type} (D E : Drift α) : Drift α :=
  ⟨fun a b => D.rel a b ∧ E.rel a b, fun a => ⟨D.refl a, E.refl a⟩, fun h g => ⟨D.trans h.1 g.1, E.trans h.2 g.2⟩⟩

/-- The fuses are as they were, and slots and streams have gone by their relations. -/
structure Frame (Q : Drift SlotState) (R : Drift Stream) (s t : State) : Prop where
  fuses : t.fuses = s.fuses
  slots : List.Forall₂ Q.rel s.disp.slots t.disp.slots
  streams : List.Forall₂ R.rel s.disp.streams t.disp.streams

/-- A frame of an operation that writes no byte of memory and no granule's state. -/
structure Quiet (Q : Drift SlotState) (R : Drift Stream) (s t : State) : Prop extends Frame Q R s t where
  mem : t.mem = s.mem
  gran : t.gran = s.gran

section
variable {Q Q' : Drift SlotState} {R R' : Drift Stream} {s t u : State}

theorem Frame.of_disp (hf : t.fuses = s.fuses) (hd : t.disp = s.disp) : Frame Q R s t where
  fuses := hf
  slots := by rw [hd]; exact List.forall₂_same.2 fun x _ => Q.refl x
  streams := by rw [hd]; exact List.forall₂_same.2 fun x _ => R.refl x

theorem Frame.refl : Frame Q R s s := .of_disp rfl rfl

theorem Frame.trans (h : Frame Q R s t) (g : Frame Q R t u) : Frame Q R s u where
  fuses := g.fuses.trans h.fuses
  slots := forall₂_trans (R := Q.rel) Q.trans h.slots g.slots
  streams := forall₂_trans (R := R.rel) R.trans h.streams g.streams

theorem Frame.mono (h : Frame Q R s t) (hQ : ∀ a b, Q.rel a b → Q'.rel a b) (hR : ∀ a b, R.rel a b → R'.rel a b) :
    Frame Q' R' s t where
  fuses := h.fuses
  slots := h.slots.imp fun a b hab => hQ a b hab
  streams := h.streams.imp fun a b hab => hR a b hab

theorem Quiet.of_disp (hf : t.fuses = s.fuses) (hd : t.disp = s.disp) (hm : t.mem = s.mem) (hg : t.gran = s.gran) : Quiet Q R s t :=
  ⟨.of_disp hf hd, hm, hg⟩

theorem Quiet.refl : Quiet Q R s s := .of_disp rfl rfl rfl rfl

theorem Quiet.trans (h : Quiet Q R s t) (g : Quiet Q R t u) : Quiet Q R s u :=
  ⟨h.toFrame.trans g.toFrame, g.mem.trans h.mem, g.gran.trans h.gran⟩

theorem Quiet.mono (h : Quiet Q R s t) (hQ : ∀ a b, Q.rel a b → Q'.rel a b) (hR : ∀ a b, R.rel a b → R'.rel a b) : Quiet Q' R' s t :=
  ⟨h.toFrame.mono hQ hR, h.mem, h.gran⟩

theorem foldl_quiet {α : Type} {f : State → α → State} (hf : ∀ s a, Quiet Q R s (f s a)) (l : List α) (s : State) :
    Quiet Q R s (l.foldl f s) := by
  induction l generalizing s with
  | nil => exact .refl
  | cons a l ih => exact (hf s a).trans (ih _)

theorem foldl_frame_of {α : Type} {f : State → α → State} (hf : ∀ s a, Frame Q R s (f s a)) (l : List α) (s : State) :
    Frame Q R s (l.foldl f s) := by
  induction l generalizing s with
  | nil => exact .refl
  | cons a l ih => exact (hf s a).trans (ih _)

theorem Access.frame (h : Access s t) : Frame Q R s t := .of_disp h.fuses h.disp

theorem Frame.slot (h : Frame Q R s t) (k : Nat) : Q.rel (s.slot k) (t.slot k) := forall₂_getD h.slots (Q.refl _) k

theorem Frame.slots_length (h : Frame Q R s t) : t.disp.slots.length = s.disp.slots.length := h.slots.length_eq.symm

/-- A stream is found after as before, where a frame keeps the streams' numbers. -/
theorem Frame.stream? (h : Frame Q R s t) (hR : ∀ a b, R.rel a b → b.id = a.id) (id : Nat) :
    Option.Rel R.rel (s.stream? id) (t.stream? id) :=
  forall₂_find? h.streams fun a b hab => by rw [hR a b hab]

theorem Frame.stream?_some (h : Frame Q R s t) (hR : ∀ a b, R.rel a b → b.id = a.id) {id : Nat} {x : Stream}
    (hx : s.stream? id = some x) : ∃ y, t.stream? id = some y ∧ R.rel x y := by
  have := h.stream? hR id
  rw [hx] at this
  cases ht : t.stream? id with
  | none => rw [ht] at this; cases this
  | some y => rw [ht] at this; cases this with | some r => exact ⟨y, rfl, r⟩

/-- Every stream after comes from one before. -/
theorem Frame.mem_stream (h : Frame Q R s t) {y : Stream} (hy : y ∈ t.disp.streams) : ∃ x ∈ s.disp.streams, R.rel x y := by
  obtain ⟨i, hi, rfl⟩ := List.mem_iff_getElem.1 hy
  have hl := h.streams.length_eq
  exact ⟨s.disp.streams[i], List.getElem_mem _, h.streams.get (by omega) hi⟩

theorem setStream_quiet {id : Nat} {f : Stream → Stream} (hf : ∀ x, x.id = id → R.rel x (f x)) : Quiet Q R s (s.setStream id f) where
  fuses := rfl
  slots := List.forall₂_same.2 fun x _ => Q.refl x
  streams := by
    simp only [State.setStream, List.forall₂_map_right_iff]
    refine List.forall₂_same.2 fun x _ => ?_
    split
    · exact hf x ‹_›
    · exact R.refl x
  mem := rfl
  gran := rfl

theorem setSlot_quiet {k : Nat} {f : SlotState → SlotState} (hf : ∀ x, Q.rel x (f x)) : Quiet Q R s (s.setSlot k f) where
  fuses := rfl
  slots := forall₂_modifyAt Q.refl _ _ hf
  streams := List.forall₂_same.2 fun x _ => R.refl x
  mem := rfl
  gran := rfl

end

end Sys2Proof.Machine
end

section
/-! SUPPORT. What the stream engines, the fabric and the counters leave as it was (chapters 3, 13 and 14): memory, the fill map,
fuses and slots, and of every stream all but the blocks that it holds and waits for on tiles (R73). -/

namespace Sys2Proof.Machine

/-- A stream without its holds on tiles. -/
def Stream.bare (x : Stream) : Stream := { x with holds := [] }

/-- What the stream engines keep. Equations `(f s).contents = s.contents` rewrite through a chain of calls. -/
def State.contents (s : State) : List Host.Cell × List (Nat × Gran) × Fuses × List SlotState × List Stream :=
  (s.mem, s.gran, s.fuses, s.disp.slots, s.disp.streams.map Stream.bare)

theorem foldl_contents {α : Type} {f : State → α → State} (hf : ∀ s a, (f s a).contents = s.contents) (l : List α) (s : State) :
    (l.foldl f s).contents = s.contents := by
  induction l generalizing s with
  | nil => rfl
  | cons a t ih => exact (ih _).trans (hf s a)

/-- A state that takes memory, fill map, fuses and the dispatcher's slots and streams from s. -/
theorem State.contents_with {s : State} {pending tick freeCtr resp out regs srst leaks fillWords fenLines sram hbms fens tiles dies
    assigns still power banks trust cutOff opened peers halts movers residents serials binds tables sets reeds fab host ext} :
    ({ pending, tick, freeCtr, resp, out, regs, srst, leaks, mem := s.mem, gran := s.gran, fillWords, fenLines, sram, hbms, fens, tiles,
       dies, assigns, still, power, fuses := s.fuses, banks, trust, cutOff,
       disp := { slots := s.disp.slots, streams := s.disp.streams, opened, peers, halts, movers, residents, serials, binds },
       tables, sets, reeds, fab, host, ext } : State).contents = s.contents := rfl

/-- A state that takes memory, fill map, fuses and the whole dispatcher from s. -/
theorem State.contents_with_disp {s : State} {pending tick freeCtr resp out regs srst leaks fillWords fenLines sram hbms fens tiles
    dies assigns still power banks trust cutOff tables sets reeds fab host ext} :
    ({ pending, tick, freeCtr, resp, out, regs, srst, leaks, mem := s.mem, gran := s.gran, fillWords, fenLines, sram, hbms, fens, tiles,
       dies, assigns, still, power, fuses := s.fuses, banks, trust, cutOff, disp := s.disp, tables, sets, reeds, fab, host, ext }
       : State).contents = s.contents := rfl

theorem setStream_contents (s : State) (id : Nat) {f : Stream → Stream} (hf : ∀ x, (f x).bare = x.bare) :
    (s.setStream id f).contents = s.contents := by
  have h : (s.setStream id f).disp.streams.map Stream.bare = s.disp.streams.map Stream.bare := by
    simp only [State.setStream, List.map_map]
    refine List.map_congr_left fun x _ => ?_
    simp only [Function.comp_apply]
    split
    · exact hf x
    · rfl
  simp only [State.contents, h]
  rfl

/-- What a stream drifts by where only its blocks may have changed. -/
def bareDrift : Drift Stream := .keeps Stream.bare

theorem quiet_of_contents {s t : State} (h : t.contents = s.contents) : Quiet .same bareDrift s t := by
  simp only [State.contents, Prod.mk.injEq] at h
  obtain ⟨hm, hg, hf, hs, hx⟩ := h
  refine ⟨⟨hf, ?_, ?_⟩, hm, hg⟩
  · rw [hs]; exact List.forall₂_same.2 fun x _ => rfl
  · have he : List.Forall₂ Eq (s.disp.streams.map Stream.bare) (t.disp.streams.map Stream.bare) := by
      rw [hx]
      exact List.forall₂_same.2 fun x _ => rfl
    exact (List.forall₂_map_right_iff.1 (List.forall₂_map_left_iff.1 he)).imp fun a b e => e.symm

/-! ### Registers, counters and triggers (chapter 14) -/

theorem setReg_contents (s : State) (k : Nat) (v : Word) : (s.setReg k v).contents = s.contents := rfl

theorem bumpField_contents (s : State) (k lo w n : Nat) : (bumpField s k lo w n).contents = s.contents := by
  obtain ⟨c, v, e⟩ := bumpField_eq s k lo w n
  rw [e]
  rfl

theorem bump_contents (s : State) (k n : Nat) : (bump s k n).contents = s.contents := by
  unfold bump
  split
  · exact bumpField_contents ..
  · rfl

theorem raiseInt_contents (s : State) (page n : Nat) : (raiseInt s page n).contents = s.contents := rfl

theorem recordTrigger_contents (s : State) (src : Nat) : (recordTrigger s src).contents = s.contents := by
  unfold recordTrigger
  split
  · simp only [bump_contents, setReg_contents]
  · rfl

theorem errorTrigger_contents (s : State) (c : Nat) : (errorTrigger s c).contents = s.contents := by
  simp only [errorTrigger, apply_ite State.contents, recordTrigger_contents, ite_self]

theorem firstEvent_contents (s : State) (page off v : Nat) : (firstEvent s page off v).contents = s.contents := by
  simp only [firstEvent, apply_ite State.contents, raiseInt_contents, setReg_contents, ite_self]

theorem noteErr_contents (s : State) (page off status stream stage op : Nat) :
    (noteErr s page off status stream stage op).contents = s.contents := by
  simp only [noteErr, firstEvent_contents]

theorem ringFault_contents (s : State) (cause : Nat) (ref : RingRef) (completion : Bool) :
    (ringFault s cause ref completion).contents = s.contents := by
  simp only [ringFault, apply_ite State.contents, errorTrigger_contents, firstEvent_contents, ite_self]

theorem countReject_contents (s : State) (status : Nat) : (countReject s status).contents = s.contents := by
  simp only [countReject, apply_ite State.contents, bump_contents, ite_self]

/-! ### The fabric (chapter 13) -/

theorem countHop_contents (s : State) (hop n : Nat) : (countHop s hop n).contents = s.contents := by
  simp only [countHop, apply_ite State.contents, bump_contents, ite_self]

theorem sendPacket_contents (s : State) (o : PacketOf) (lane : Nat) (route : List Nat) (flits : Nat) :
    (sendPacket s o lane route flits).contents = s.contents := by
  unfold sendPacket
  split <;> simp only [countHop_contents, State.contents_with_disp]

/-! ### The stream engines of a tile (R66 to R73) -/

theorem setMover_contents (s : State) (t : Nat) (f : Mover → Mover) : (s.setMover t f).contents = s.contents := rfl

theorem setFeed_contents (s : State) (t : Nat) (g : Feed) (f : Feed → Feed) : (s.setFeed t g f).contents = s.contents := rfl

theorem setHold_contents (s : State) (t id : Nat) (f : Hold → Hold) : (s.setHold t id f).contents = s.contents :=
  setStream_contents _ _ fun _ => rfl

theorem pumpTile_contents (s : State) (t : Nat) : (pumpTile s t).contents = s.contents := by
  simp only [pumpTile, foldl_contents, sendPacket_contents, setMover_contents, implies_true]

theorem issueGroup_contents (s : State) (t : Nat) (g : Group) : (issueGroup s t g).contents = s.contents := by
  simp only [issueGroup, pumpTile_contents, setMover_contents]

theorem openGroup_contents (s : State) (t : Nat) (g : Group) (merge : Bool) : (openGroup s t g merge).contents = s.contents := by
  simp only [openGroup, issueGroup_contents, setMover_contents, apply_ite State.contents, ite_self]
  split <;> simp only [issueGroup_contents, apply_ite State.contents, ite_self, foldl_contents, implies_true]

theorem openTransfer_contents (s : State) (t stream : Nat) (write : Bool) (addr len : Nat) :
    (openTransfer s t stream write addr len).contents = s.contents := by
  simp only [openTransfer]
  split
  · rfl
  · split <;> simp only [apply_ite State.contents, issueGroup_contents, bump_contents, setMover_contents, openGroup_contents, ite_self]

theorem beginBlock_contents (s : State) (t : Nat) (f : Feed) (extra : Bool) : (beginBlock s t f extra).contents = s.contents := by
  simp only [beginBlock]
  split <;> simp only [setFeed_contents, openTransfer_contents]

theorem giveBlocks_contents (s : State) (t id n : Nat) : (giveBlocks s t id n).contents = s.contents := by
  have hw (s : State) (fab : Fab) (g : Stream → List Hold) :
      ({ s with fab := fab, disp := { s.disp with streams := s.disp.streams.map fun x => { x with holds := g x } } } : State).contents
        = s.contents := by
    simp only [State.contents, List.map_map]
    rfl
  simp only [giveBlocks]
  split <;> simp only [beginBlock_contents, hw, setHold_contents]

theorem grantWaiters_contents (s : State) (t : Nat) : (grantWaiters s t).contents = s.contents := by
  refine foldl_contents (fun s w => ?_) _ _
  split
  · simp only [apply_ite State.contents, giveBlocks_contents, ite_self]
  · rfl

theorem releaseBlocks_contents (s : State) (t id n : Nat) : (releaseBlocks s t id n).contents = s.contents := by
  simp only [releaseBlocks, apply_ite State.contents, grantWaiters_contents, State.contents_with_disp, setHold_contents, ite_self]

theorem endFeeds_contents (s : State) (t id idx i : Nat) : (endFeeds s t id idx i).contents = s.contents := by
  simp only [endFeeds, releaseBlocks_contents, setMover_contents]

theorem writeBack_contents (s : State) (t id addr len : Nat) : (writeBack s t id addr len).contents = s.contents := by
  simp only [writeBack, foldl_contents, openTransfer_contents, implies_true]

theorem writeBackAll_contents (s : State) (tiles : List Nat) (id addr len : Nat) :
    (writeBackAll s tiles id addr len).contents = s.contents := by
  simp only [writeBackAll, foldl_contents, writeBack_contents, implies_true]

theorem dropReads_contents (s : State) (t id : Nat) : (dropReads s t id).contents = s.contents := rfl

/-- A stream that leaves tiles, and those that take its blocks there, change by their holds alone (R72, R73). -/
theorem leaveTiles_contents (s : State) (id : Nat) : (leaveTiles s id).contents = s.contents := by
  have hs (f : Stream → List Hold) : (s.setStream id fun x => { x with holds := f x }).contents = s.contents :=
    setStream_contents _ _ fun _ => rfl
  simp only [leaveTiles, foldl_contents, grantWaiters_contents, dropReads_contents, State.contents_with_disp, hs, implies_true]

theorem freeResidents_contents (s : State) (id : Nat) : (freeResidents s id).contents = s.contents := by
  simp only [freeResidents, leaveTiles_contents, State.contents_with]

/-! ### What a batch that ends lets go of on Culvert engines, Reedbeds and tiles -/

theorem setCulv_contents (s : State) (k : Nat) (f : Culv → Culv) : (s.setCulv k f).contents = s.contents := rfl

theorem pieceBack_contents (s : State) (w : Window) : (pieceBack s w).contents = s.contents := by
  simp only [pieceBack, moveLive, pruneLive, apply_ite State.contents, setCulv_contents, ite_self]

theorem dropCommands_contents (s : State) (k : Nat) (mine : Window → Bool) : (dropCommands s k mine).contents = s.contents := by
  simp only [dropCommands, foldl_contents, pieceBack_contents, setCulv_contents, implies_true]

theorem dropWindows_contents (s : State) (id idx : Nat) : (dropWindows s id idx).contents = s.contents := by
  simp only [dropWindows, foldl_contents, dropCommands_contents, implies_true]

theorem dropKeys_contents (s : State) (id idx : Nat) : (dropKeys s id idx).contents = s.contents := rfl

theorem releaseSwitch_contents (s : State) (id idx : Nat) : (releaseSwitch s id idx).contents = s.contents := rfl

theorem endUnit_contents (s : State) (a : Assign) : (endUnit s a).contents = s.contents := by
  simp only [endUnit, apply_ite State.contents, endFeeds_contents, ite_self]

theorem batchCount_contents (s : State) (x : Stream) (b : Batch) : (batchCount s x b).1.contents = s.contents := by
  simp only [batchCount]
  (repeat' split) <;> rfl

theorem noteStage_contents (s : State) (c : Ctx) (recs : List (List Byte)) (status : Nat) :
    (noteStage s c recs status).contents = s.contents := by
  simp only [noteStage, noteReed]
  (repeat' split) <;> simp only [firstEvent_contents, noteErr_contents]

end Sys2Proof.Machine
end

section
/-! SUPPORT. Control records (R34, R48, R56): what taking one, completing one and refusing those behind it leave as it was, and how
a control command goes by its checks. -/

namespace Sys2Proof.Machine

/-! ### What becomes of a control ring's slot alone -/

/-- t is s but for records and completions of slot k's control rings, and counters: no turn of SCOMP_RING has left it. -/
structure CtlOnly (k : Nat) (s t : State) : Prop where
  mem : t.mem = s.mem
  gran : t.gran = s.gran
  fuses : t.fuses = s.fuses
  tables : t.tables = s.tables
  length : t.disp.slots.length = s.disp.slots.length
  streams : t.disp.streams = s.disp.streams
  others : ∀ j, j ≠ k → t.slot j = s.slot j
  session : t.session k = s.session k
  scomp : ∃ more, (t.slot k).scomp = (s.slot k).scomp.map fun o => { o with turns := o.turns ++ more }

theorem CtlOnly.refl (k : Nat) (s : State) : CtlOnly k s s := by
  refine ⟨rfl, rfl, rfl, rfl, rfl, rfl, fun _ _ => rfl, rfl, [], ?_⟩
  cases (s.slot k).scomp <;> simp

theorem CtlOnly.trans {k : Nat} {s t u : State} (h : CtlOnly k s t) (g : CtlOnly k t u) : CtlOnly k s u := by
  obtain ⟨l, hl⟩ := h.scomp
  obtain ⟨m, hm⟩ := g.scomp
  refine ⟨g.mem.trans h.mem, g.gran.trans h.gran, g.fuses.trans h.fuses, g.tables.trans h.tables, g.length.trans h.length,
    g.streams.trans h.streams, fun j hj => (g.others j hj).trans (h.others j hj), g.session.trans h.session, l ++ m, ?_⟩
  rw [hm, hl, Option.map_map]
  congr 1
  funext o
  simp [List.append_assoc]

theorem CtlOnly.of_disp (k : Nat) {s t : State} (hm : t.mem = s.mem) (hg : t.gran = s.gran) (hf : t.fuses = s.fuses)
    (ht : t.tables = s.tables) (hd : t.disp = s.disp) : CtlOnly k s t := by
  have h := CtlOnly.refl k s
  have hs (j : Nat) : t.slot j = s.slot j := by simp only [State.slot, hd]
  exact ⟨hm, hg, hf, ht, by rw [hd], by rw [hd], fun j _ => hs j, by simp only [State.session, hs], by rw [hs]; exact h.scomp⟩

theorem CtlOnly.setSlot {k : Nat} {s : State} (hk : k < s.disp.slots.length) {f : SlotState → SlotState} {more : List Turn}
    (hsess : ∀ x, (f x).session = x.session)
    (hscomp : ∀ x, (f x).scomp = x.scomp.map fun o => { o with turns := o.turns ++ more }) : CtlOnly k s (s.setSlot k f) where
  mem := rfl
  gran := rfl
  fuses := rfl
  tables := rfl
  length := modifyAt_length ..
  streams := rfl
  others := fun _ hj => State.setSlot_slot_ne s hj f
  session := by rw [State.session, State.setSlot_slot_self hk, hsess, State.session]
  scomp := ⟨more, by rw [State.setSlot_slot_self hk, hscomp]⟩

theorem map_turns_nil (o : Option RingOut) : o = o.map fun o => { o with turns := o.turns ++ [] } := by
  cases o <;> simp

theorem countReject_eq (s : State) (status : Nat) : ∃ c l, countReject s status = { s with freeCtr := c, regs := l } := by
  unfold countReject
  split
  · obtain h | ⟨c, v, h⟩ := bump_cases s (pgDisp + 0x428) 1
    · exact ⟨s.freeCtr, s.regs, h⟩
    · exact ⟨c, _, h⟩
  · exact ⟨s.freeCtr, s.regs, rfl⟩

theorem countReject_ctlOnly (k : Nat) (s : State) (status : Nat) : CtlOnly k s (countReject s status) := by
  obtain ⟨c, l, h⟩ := countReject_eq s status
  rw [h]
  exact .of_disp k rfl rfl rfl rfl rfl

theorem dropRec_ctlOnly {k : Nat} {s : State} (hk : k < s.disp.slots.length) :
    CtlOnly k s (s.setRingIn (.ctl k) fun x => { x with recs := x.recs.drop 1 }) :=
  .setSlot hk (fun _ => rfl) fun x => map_turns_nil x.scomp

theorem inflight_ctlOnly {k : Nat} {s : State} (hk : k < s.disp.slots.length) (f : List Rec → List Rec) :
    CtlOnly k s (s.setSlot k fun x => { x with inflight := f x.inflight }) :=
  .setSlot hk (fun _ => rfl) fun x => map_turns_nil x.scomp

theorem endCtl_ctlOnly {k : Nat} {s : State} (hk : k < s.disp.slots.length) (r : Rec) (status detail count aux : Nat) (a : After) :
    CtlOnly k s (endCtl s k r status detail count aux a) :=
  .setSlot hk (fun _ => rfl) fun _ => rfl

theorem takeCtl_ctlOnly {k : Nat} {s : State} (hk : k < s.disp.slots.length) (r : Rec) : CtlOnly k s (takeCtl s k r) := by
  have h := dropRec_ctlOnly hk
  exact h.trans (inflight_ctlOnly (h.length ▸ hk) fun l => l ++ [r])

theorem rejectFront_ctlOnly (n : Nat) {k : Nat} {s : State} (hk : k < s.disp.slots.length) :
    CtlOnly k s (rejectFront s (.ctl k) n) := by
  induction n generalizing s with
  | zero => exact .refl k s
  | succ n ih =>
    simp only [rejectFront]
    split
    · rename_i r l _
      split
      · exact .refl k s
      · have h := (dropRec_ctlOnly hk).trans (countReject_ctlOnly k _ stBadOpcode)
        have h := h.trans (inflight_ctlOnly (h.length ▸ hk) fun l => l ++ [r])
        have h := h.trans (endCtl_ctlOnly (h.length ▸ hk) r stBadOpcode 0 0 0 .nothing)
        exact h.trans (ih (h.length ▸ hk))
    · exact .refl k s

theorem settle_ctlOnly {k : Nat} {s : State} (hk : k < s.disp.slots.length) : CtlOnly k s (settle s (.ctl k)) :=
  rejectFront_ctlOnly _ hk

theorem CtlOnly.stream? {k : Nat} {s t : State} (h : CtlOnly k s t) (id : Nat) : t.stream? id = s.stream? id := by
  simp only [State.stream?, h.streams]

theorem CtlOnly.open? {k : Nat} {s t : State} (h : CtlOnly k s t) (id : Nat) : t.open? id = s.open? id := by
  simp only [State.open?, h.streams]

theorem CtlOnly.streamState {k : Nat} {s t : State} (h : CtlOnly k s t) (id : Nat) : t.streamState id = s.streamState id := by
  simp only [State.streamState, h.open?]

theorem CtlOnly.othersKept {k : Nat} {s t : State} (h : CtlOnly k s t) (id : Nat) : OthersKept s t id := fun j _ => h.stream? j

theorem CtlOnly.scomp_isSome {k : Nat} {s t : State} (h : CtlOnly k s t) (hs : (s.slot k).scomp.isSome = true) :
    (t.slot k).scomp.isSome = true := by
  obtain ⟨more, e⟩ := h.scomp
  rw [e, Option.isSome_map, hs]

/-! ### Completions of control records -/

theorem CompletesWith.completes {t : State} {k : Nat} {r : Rec} {status count aux : Nat}
    (h : CompletesWith t k r status count aux) : Completes t k r status count := by
  obtain ⟨o, ho, u, hu, hi, c, hc, hst, htag, hop, hstr, hcnt, _⟩ := h
  exact ⟨o, ho, u, hu, hi, c, hc, hst, htag, hop, hstr, hcnt⟩

/-- A completion that waits for its turn goes on waiting. -/
theorem CompletesWith.ctlOnly {s t : State} {k : Nat} {r : Rec} {status count aux : Nat}
    (h : CompletesWith s k r status count aux) (g : CtlOnly k s t) : CompletesWith t k r status count aux := by
  obtain ⟨o, ho, u, hu, rest⟩ := h
  obtain ⟨more, e⟩ := g.scomp
  have ho : (s.slot k).scomp = some o := ho
  rw [ho] at e
  exact ⟨_, e, u, List.mem_append_left _ hu, rest⟩

/-- A completion that waits for its turn goes on waiting. -/
theorem Completes.ctlOnly {s t : State} {k : Nat} {r : Rec} {status count : Nat} (h : Completes s k r status count)
    (g : CtlOnly k s t) : Completes t k r status count := by
  obtain ⟨o, ho, u, hu, rest⟩ := h
  obtain ⟨more, e⟩ := g.scomp
  have ho : (s.slot k).scomp = some o := ho
  rw [ho] at e
  exact ⟨_, e, u, List.mem_append_left _ hu, rest⟩

/-- A record that completes has its completion in SCOMP_RING, behind the others (R56). -/
theorem endCtl_completesWith {s : State} {k : Nat} (hk : k < s.disp.slots.length) (hs : (s.slot k).scomp.isSome = true) (r : Rec)
    (status detail count aux : Nat) (a : After) : CompletesWith (endCtl s k r status detail count aux a) k r status count aux := by
  obtain ⟨o, ho⟩ := Option.isSome_iff_exists.1 hs
  refine ⟨{ o with turns := o.turns ++ [{ idx := r.idx, comp := some (r.comp status detail count aux 0), after := a }] }, ?_, _,
    List.mem_append_right _ (List.mem_singleton_self _), rfl, _, rfl, rfl, rfl, rfl, rfl, rfl, rfl⟩
  change ((s.setSlot k _).slot k).scomp = _
  rw [State.setSlot_slot_self hk, ho]
  rfl

/-! ### How a control command goes (R48) -/

theorem pickFail_nil : pickFail [] = none := rfl

theorem pickFail_singleton (f : Fail) : pickFail [f] = some f := rfl

section
variable {s : State} {k op : Nat} {r : Rec} {aux : State → Nat} {checks : Rec → State → State × List Fail} {act : Rec → State → State}

/-- A record whose checks pass has its effect, and the records behind it may be refused. -/
theorem startCtl_acts (hf : frontCtl s k op = some r) (hc : pickFail (checks r (takeCtl s k r)).2 = none) :
    startCtl s k op aux checks act = settle (act r (checks r (takeCtl s k r)).1) (.ctl k) := by
  simp only [startCtl, hf, hc]

/-- A record that fails a check completes with the check's status, and the records behind it may be refused. -/
theorem startCtl_refused {f : Fail} (hf : frontCtl s k op = some r) (hc : pickFail (checks r (takeCtl s k r)).2 = some f) :
    startCtl s k op aux checks act = settle (endCtl (countReject (checks r (takeCtl s k r)).1 f.status) k r f.status f.detail 0
      (aux (checks r (takeCtl s k r)).1) .nothing) (.ctl k) := by
  simp only [startCtl, hf, hc]

end

/-- A refusal completes the record, in its turn, and is all that happens. -/
theorem refuse_ctlOnly {s : State} {k : Nat} (hk : k < s.disp.slots.length) (r : Rec) (st status detail aux : Nat) :
    CtlOnly k s (settle (endCtl (countReject s st) k r status detail 0 aux .nothing) (.ctl k)) := by
  have h := countReject_ctlOnly k s st
  have h := h.trans (endCtl_ctlOnly (h.length ▸ hk) r status detail 0 aux .nothing)
  exact h.trans (settle_ctlOnly (h.length ▸ hk))

theorem refuse_completesWith {s : State} {k : Nat} (hk : k < s.disp.slots.length) (hs : (s.slot k).scomp.isSome = true) (r : Rec)
    (st status detail aux : Nat) :
    CompletesWith (settle (endCtl (countReject s st) k r status detail 0 aux .nothing) (.ctl k)) k r status 0 aux := by
  have h := countReject_ctlOnly k s st
  have hk' := h.length ▸ hk
  have hc := endCtl_completesWith hk' (h.scomp_isSome hs) r status detail 0 aux .nothing
  exact hc.ctlOnly (settle_ctlOnly ((endCtl_ctlOnly hk' r status detail 0 aux .nothing).length ▸ hk'))

/-- A record that completes as it takes effect, once the records behind it have been refused. -/
theorem endCtl_settled {s : State} {k : Nat} (hk : k < s.disp.slots.length) (hs : (s.slot k).scomp.isSome = true) (r : Rec)
    (status detail count aux : Nat) (a : After) :
    CtlOnly k s (settle (endCtl s k r status detail count aux a) (.ctl k))
      ∧ CompletesWith (settle (endCtl s k r status detail count aux a) (.ctl k)) k r status count aux := by
  have h := endCtl_ctlOnly hk r status detail count aux a
  have g := settle_ctlOnly (h.length ▸ hk)
  exact ⟨h.trans g, (endCtl_completesWith hk hs r status detail count aux a).ctlOnly g⟩

end Sys2Proof.Machine
end

section
/-! SUPPORT. Slots and sessions (R26, R37 to R42). -/

namespace Sys2Proof.Machine

/-! ### Operations that leave the dispatcher alone -/

/-- What the dispatcher holds, and the fuses. Equations `(f s).contract = s.contract` rewrite through a chain of calls. -/
def State.contract (s : State) : Disp × Fuses := (s.disp, s.fuses)

theorem Access.contract {s t : State} (h : Access s t) : t.contract = s.contract := by
  rw [State.contract, h.disp, h.fuses, State.contract]

theorem frame_of_contract {Q : Drift SlotState} {R : Drift Stream} {s t : State} (h : t.contract = s.contract) : Frame Q R s t :=
  .of_disp (congrArg Prod.snd h) (congrArg Prod.fst h)

theorem foldl_contract {α : Type} {f : State → α → State} (hf : ∀ s a, (f s a).contract = s.contract) (l : List α) (s : State) :
    (l.foldl f s).contract = s.contract := by
  induction l generalizing s with
  | nil => rfl
  | cons a t ih => exact (ih _).trans (hf s a)

/-- A state that takes the dispatcher and the fuses from s. -/
theorem State.contract_with {s : State} {pending tick freeCtr resp out regs srst leaks mem gran fillWords fenLines sram hbms fens
    tiles dies assigns still power banks trust cutOff tables sets reeds fab host ext} :
    ({ pending, tick, freeCtr, resp, out, regs, srst, leaks, mem, gran, fillWords, fenLines, sram, hbms, fens, tiles, dies, assigns,
       still, power, fuses := s.fuses, banks, trust, cutOff, disp := s.disp, tables, sets, reeds, fab, host, ext } : State).contract
      = s.contract := rfl

theorem bump_contract (s : State) (k n : Nat) : (bump s k n).contract = s.contract := (bump_reads s k n).contract

theorem freeSlotAt_contract (s : State) (r : Replica) : (freeSlotAt s r).contract = s.contract := by
  simp only [freeSlotAt, apply_ite State.contract, (devDiscard_access ..).contract, ite_self]

theorem setCulv_contract (s : State) (k : Nat) (f : Culv → Culv) : (s.setCulv k f).contract = s.contract := by
  simp only [State.setCulv, State.contract_with]

theorem dropPacket_contract (s : State) (o : PacketOf) : (dropPacket s o).contract = s.contract := by
  simp only [dropPacket, State.contract_with]

theorem unregister_contract (s : State) (id : Nat) : (unregister s id).contract = s.contract := by
  simp only [unregister, State.contract_with, foldl_contract, dropPacket_contract, setCulv_contract, bump_contract,
    freeSlotAt_contract, implies_true]

theorem releaseSet_contract (s : State) (id : Nat) : (releaseSet s id).contract = s.contract := by
  unfold releaseSet
  split <;> rfl

/-- Tables and rule sets that are released leave the directory, and nothing of the dispatcher (R124, R226). -/
theorem releaseTables_contract (s : State) : (releaseTables s).contract = s.contract := by
  simp only [releaseTables, foldl_contract, releaseSet_contract, unregister_contract, implies_true]

/-! ### OWNER of a slot (R25, R26) -/

/-- The word of a slot's OWNER lies in the Fen memory of die 0, at the start of a line. -/
theorem placeOf_ownerAddr {slot : Nat} (h : slot < 64) : placeOf (ownerAddr slot) = .fen 0 (slot * 512) := by
  have ha : ownerAddr slot = 0x40000000000 + slot * 512 := rfl
  rw [ha]
  unfold placeOf
  rw [if_neg (by omega), if_neg (by omega), if_pos (by omega)]
  simp only [Place.fen.injEq]
  omega

theorem fenKey_ownerAddr (slot : Nat) : fenKey 0 (slot * 512) = ownerAddr slot := by
  simp only [fenKey, ownerAddr, slotAddr, slotTable]

/-- OWNER is one piece. -/
theorem piecesOf_ownerAddr {slot : Nat} (h : slot < 64) : piecesOf (ownerAddr slot) 8 = [(ownerAddr slot, 8)] := by
  have hm : slot * 512 % 64 = 0 := by omega
  simp [piecesOf, pieces, pieceRoom, placeOf_ownerAddr h, hm]

theorem wakeDieBy_active {s : State} {d : Nat} (src : Nat) (h : (s.die d).power = .active) :
    wakeDieBy s d src = s.setDie d fun x => { x with lastUse := s.tick } := by
  simp only [wakeDieBy, h]

/-- A die that is ACTIVE goes on serving its Fen memory when it is touched. -/
theorem touchDie_fenServes {s : State} {d : Nat} (h : (s.die d).power = .active) : fenServes (touchDie s d) d = fenServes s d := by
  have hp : ((touchDie s d).die d).power = (s.die d).power := by
    rw [touchDie, wakeDieBy_active 2 h]
    exact modifyAt_getD_proj DieState.power (f := fun x => { x with lastUse := s.tick }) (fun _ => rfl) ..
  have hf : (touchDie s d).fen d = s.fen d := by rw [touchDie, wakeDieBy_active 2 h]; rfl
  have hc : (touchDie s d).cutOff = s.cutOff := (touchDie_reads s d).cutOff
  simp only [fenServes, dieServes, hp, hf, hc]

/-- What a snoop leaves as it was where no line of the host cores' cache is dirty (R455). -/
theorem snoop_clean (s : State) (a n : Nat) (write device : Bool) (hc : s.clean = true) :
    (snoop s a n write device).gran = s.gran ∧ (snoop s a n write device).fenLines = s.fenLines
      ∧ (snoop s a n write device).dies = s.dies ∧ (snoop s a n write device).fens = s.fens := by
  have hb (k n : Nat) : (bump s k n).gran = s.gran ∧ (bump s k n).fenLines = s.fenLines ∧ (bump s k n).dies = s.dies
      ∧ (bump s k n).fens = s.fens := by
    obtain h | ⟨c, v, h⟩ := bump_cases s k n <;> rw [h] <;> exact ⟨rfl, rfl, rfl, rfl⟩
  unfold snoop
  split
  · exact ⟨rfl, rfl, rfl, rfl⟩
  · rename_i o x e
    have hx : x.dirty = [] := by
      obtain ⟨key, _, h⟩ := Option.bind_eq_some_iff.1 e
      obtain ⟨y, hy, hp⟩ := Option.map_eq_some_iff.1 h
      cases hp
      exact clean_sector hc (List.mem_of_find?_eq_some hy)
    dsimp only
    split
    · exact ⟨rfl, rfl, rfl, rfl⟩
    · cases device <;> cases write <;> simp [hx, State.putSector, hb]

/-- A slot's OWNER can be read and written at once: no cached line is dirty, die 0 is ACTIVE and serves its Fen memory, and the
line holds no wrong symbol. -/
structure OwnerReady (slot : Nat) (s : State) : Prop where
  clean : s.clean = true
  power : (s.die 0).power = .active
  serves : fenServes s 0 = true
  line : s.fenLine (ownerAddr slot / 64) = .good

/-- Reaching die 0 and the snoop change neither memory nor the fill map, and leave OWNER as ready as it was. -/
theorem OwnerReady.reach {slot : Nat} {s : State} (h : OwnerReady slot s) (a n : Nat) (write : Bool) :
    let u := snoop (touchDie s 0) a n write true
    OwnerReady slot u ∧ u.mem = s.mem ∧ u.gran = s.gran := by
  have ht := touchDie_reads s 0
  have hc := ht.clean h.clean
  obtain ⟨hgran, hlines, hdies, hfens⟩ := snoop_clean (touchDie s 0) a n write true hc
  have hr := ht.trans (snoop_reads (touchDie s 0) a n write true)
  have hw : touchDie s 0 = s.setDie 0 fun x => { x with lastUse := s.tick } := wakeDieBy_active 2 h.power
  refine ⟨⟨hr.clean h.clean, ?_, ?_, ?_⟩, hr.mem h.clean, ?_⟩
  · rw [State.die, hdies, hw]
    exact (modifyAt_getD_proj DieState.power (f := fun x => { x with lastUse := s.tick }) (fun _ => rfl) ..).trans h.power
  · have hcut := (snoop_reads (touchDie s 0) a n write true).cutOff
    have hu : fenServes (snoop (touchDie s 0) a n write true) 0 = fenServes (touchDie s 0) 0 := by
      simp only [fenServes, dieServes, State.die, State.fen, hdies, hfens, hcut]
      rfl
    exact hu.trans ((touchDie_fenServes h.power).trans h.serves)
  · rw [State.fenLine, hlines, hw]
    exact h.line
  · rw [hgran, hw]
    rfl

/-- What a read of OWNER gives, and that it leaves the word as ready as it was. -/
theorem read64_owner {slot : Nat} {s : State} (hslot : slot < 64) (h : OwnerReady slot s) :
    (read64 s (ownerAddr slot)).2 = .ok (leNat (memBytes s.mem (ownerAddr slot) 8))
      ∧ OwnerReady slot (read64 s (ownerAddr slot)).1 ∧ (read64 s (ownerAddr slot)).1.gran = s.gran := by
  obtain ⟨hu, hmem, hgran⟩ := h.reach (ownerAddr slot) 8 false
  have hline : fenKey 0 0 / 64 + slot * 512 / 64 = ownerAddr slot / 64 := by
    simp only [fenKey, ownerAddr, slotAddr, slotTable]
    omega
  have hp : readPiece s (ownerAddr slot) 8
      = (snoop (touchDie s 0) (ownerAddr slot) 8 false true, .ok (memBytes s.mem (ownerAddr slot) 8)) := by
    simp only [readPiece, placeOf_ownerAddr hslot, hu.serves, if_true, fenCheck, hline, hu.line, fenKey_ownerAddr, hmem]
  simp only [read64, devRead, piecesOf_ownerAddr hslot, List.foldl_cons, List.foldl_nil, hp, List.nil_append]
  exact ⟨trivial, hu, hgran⟩

/-- A write of OWNER changes its eight bytes, and no granule's state. -/
theorem write64_owner {slot : Nat} {s : State} (hslot : slot < 64) (h : OwnerReady slot s) (v : Nat) :
    (write64 s (ownerAddr slot) v).1.mem = memPut s.mem (ownerAddr slot) (natLE 8 v) ∧ (write64 s (ownerAddr slot) v).1.gran = s.gran := by
  obtain ⟨hu, hmem, hgran⟩ := h.reach (ownerAddr slot) 8 true
  have hlen : (natLE 8 v).length = 8 := natLE_length 8 v
  have hline : fenKey 0 0 / 64 + slot * 512 / 64 = ownerAddr slot / 64 := by
    simp only [fenKey, ownerAddr, slotAddr, slotTable]
    omega
  have hmod : slot * 512 % 64 = 0 := by omega
  have hat : ownerAddr slot / 64 * 64 + 0 = ownerAddr slot := by
    simp only [ownerAddr, slotAddr, slotTable]
    omega
  generalize hw : snoop (touchDie s 0) (ownerAddr slot) 8 true true = u at hu hmem hgran
  obtain ⟨c, l, hb⟩ : ∃ c l, bump u (pgFen 0 + 0x430) 1 = { u with freeCtr := c, regs := l } := by
    obtain hb | ⟨c, v, hb⟩ := bump_cases u (pgFen 0 + 0x430) 1
    · exact ⟨u.freeCtr, u.regs, hb⟩
    · exact ⟨c, _, hb⟩
  have hg : State.fenLine { u with freeCtr := c, regs := l } (ownerAddr slot / 64) = .good := hu.line
  have hp : writePiece s (ownerAddr slot) (natLE 8 v) false = fenPatch u 0 (slot * 512 / 64) 0 (natLE 8 v) false := by
    simp only [writePiece, placeOf_ownerAddr hslot, hlen, hw, hu.serves, if_true, hmod]
  have hf : fenPatch u 0 (slot * 512 / 64) 0 (natLE 8 v) false
      = ({ State.setFenLine { u with freeCtr := c, regs := l } (ownerAddr slot / 64) .good with
          mem := memPut u.mem (ownerAddr slot) (natLE 8 v) }, none) := by
    simp only [fenPatch, hline, hlen, hb, fenCheck, hg, hat]
    rfl
  have hd : write64 s (ownerAddr slot) v = writePiece s (ownerAddr slot) (natLE 8 v) false := by
    have ht : (natLE 8 v).take 8 = natLE 8 v := List.take_of_length_le (by rw [hlen])
    simp only [write64, devWrite, devWriteP, hlen, piecesOf_ownerAddr hslot, List.foldl_cons, List.foldl_nil, Nat.sub_self,
      List.drop_zero, ht]
  rw [hd, hp, hf, ← hmem, ← hgran]
  exact ⟨rfl, rfl⟩

end Sys2Proof.Machine
end

section
/-! PROOFS. O33: a slot is claimed by one client, and its session opens and closes (R26, R37 to R42). -/

namespace Sys2Proof.Machine

/-! ### A word written and read -/

theorem leNat_natLE (n : Nat) {v : Nat} (h : v < 256 ^ n) : leNat (natLE n v) = v := by
  induction n generalizing v with
  | zero => simp only [natLE, leNat]; omega
  | succ n ih =>
    have hd : v / 256 < 256 ^ n := by
      rw [pow_succ] at h
      exact Nat.div_lt_of_lt_mul (by omega)
    simp only [natLE, leNat, ih hd, BitVec.toNat_ofNat]
    omega

theorem memBytes_eq_map (m : List Host.Cell) (a n : Nat) : memBytes m a n = (List.range n).map fun i => memGet m (a + i) := by
  induction n generalizing a with
  | zero => rfl
  | succ n ih =>
    rw [memBytes, ih, List.range_succ_eq_map, List.map_cons, List.map_map]
    congr 1
    exact List.map_congr_left fun i _ => by simp only [Function.comp, Nat.succ_eq_add_one]; congr 1; omega

theorem memBytes_memPut {m : List Host.Cell} (h : Memory.wf m = true) (a : Nat) (bs : List Byte) :
    memBytes (memPut m a bs) a bs.length = bs := by
  rw [memBytes_eq_map]
  refine List.ext_getElem (by simp) fun i hi hj => ?_
  rw [List.getElem_map, List.getElem_range]
  exact memGet_put_inside h hj

theorem storesOk_mem {s : State} (h : s.storesOk = true) : Memory.wf s.mem = true := by
  simp only [State.storesOk, Bool.and_eq_true] at h
  tauto

/-- A compare-and-swap of OWNER: what it reads, and what it writes where it found 0 (R26). -/
theorem slotClaim_owner {slot tag : Nat} {s : State} (hslot : slot < 64) (ht : tag ≠ 0) (h : OwnerReady slot s) :
    let v := leNat (memBytes s.mem (ownerAddr slot) 8)
    let t := slotClaim slot tag s
    t.resp = .word (BitVec.ofNat 64 v) ∧ t.mem = (if v = 0 then memPut s.mem (ownerAddr slot) (natLE 8 tag) else s.mem)
      ∧ t.disp = s.disp ∧ t.gran = s.gran := by
  obtain ⟨hv, hr, hg⟩ := read64_owner hslot h
  have ha := read64_reads s (ownerAddr slot)
  generalize hrd : read64 s (ownerAddr slot) = r at hv hr hg ha
  obtain ⟨u, w⟩ := r
  cases hv
  obtain ⟨hm, hwg⟩ := write64_owner hslot hr tag
  have hw := write64_access u (ownerAddr slot) tag
  have hmem := ha.mem h.clean
  have hc : ¬ (64 ≤ slot ∨ tag = 0) := by omega
  dsimp only
  simp only [slotClaim, if_neg hc, hrd]
  split
  · exact ⟨rfl, by rw [answer_mem, hm, hmem], by rw [answer_disp, hw.disp, ha.disp], by rw [answer_gran, hwg, hg]⟩
  · exact ⟨rfl, by rw [answer_mem, hmem], by rw [answer_disp, ha.disp], by rw [answer_gran, hg]⟩

/-! ### The level that answers (R37) -/

/-- The answer is the highest implemented level of the proposal: the levels are tried from the highest down. -/
theorem answerLevel_highest {floor lo hi l : Nat} (h : answerLevel floor lo hi = some l) :
    l ∈ implementedLevels ∧ max lo floor ≤ l ∧ l ≤ hi ∧ ∀ m ∈ implementedLevels, max lo floor ≤ m → m ≤ hi → m ≤ l := by
  have hsorted : implementedLevels.reverse.Pairwise (· ≥ ·) := by decide
  obtain ⟨hl, above, below, hsplit, hnone⟩ := List.find?_eq_some_iff_append.1 h
  have hin : l ∈ implementedLevels := List.mem_reverse.1 (List.mem_of_find?_eq_some h)
  obtain ⟨hfloor, hhi⟩ := of_decide_eq_true hl
  refine ⟨hin, hfloor, hhi, fun m hm hmf hmh => ?_⟩
  have hm : m ∈ above ++ l :: below := hsplit ▸ List.mem_reverse.2 hm
  rw [hsplit] at hsorted
  obtain hm | hm := List.mem_append.1 hm
  · exact absurd (hnone m hm) (by simp [hmf, hmh])
  · obtain rfl | hm := List.mem_cons.1 hm
    · exact le_rfl
    · exact (List.pairwise_cons.1 (List.pairwise_append.1 hsorted).2.1).1 m hm

/-! ### OPEN_SESSION and CLOSE_SESSION -/

/-- s with a session open on a slot. -/
def sessionOpened (s : State) (slot : Nat) (x : Session) : State :=
  let s := s.setSlot slot fun k => { k with session := some x }
  { s with disp := { s.disp with serials := s.disp.serials + 1 } }

theorem sessionOpened_slot_self {s : State} {slot : Nat} (h : slot < s.disp.slots.length) (x : Session) :
    (sessionOpened s slot x).slot slot = { s.slot slot with session := some x } := State.setSlot_slot_self h _

theorem sessionOpened_slot_ne (s : State) {slot k : Nat} (h : k ≠ slot) (x : Session) : (sessionOpened s slot x).slot k = s.slot k :=
  State.setSlot_slot_ne s h _

theorem sessionOpened_length (s : State) (slot : Nat) (x : Session) :
    (sessionOpened s slot x).disp.slots.length = s.disp.slots.length := modifyAt_length ..

section
variable {slot : Nat} {s : State} {r : Rec} (hk : slot < s.disp.slots.length) (hf : frontCtl s slot 0x01 = some r)
  (hscomp : (s.slot slot).scomp.isSome = true) (hcommon : commonFails r slot false 40 = []) (hno : noStreamFails r = [])
  (hfl : r.n 28 4 < 3) (hses : s.session slot = none)
include hk hf hscomp hcommon hno hfl hses

/-- OPEN_SESSION that fails its level checks completes with the check's status, and opens nothing. -/
theorem openSession_refused {status : Nat}
    (hc : failIf (decide (r.n 26 2 < r.n 24 2)) stBadField 0xFF
      ++ failIf (decide (r.n 24 2 ≤ r.n 26 2) && (answerLevel s.fuses.floor (r.n 24 2) (r.n 26 2)).isNone) stLevel 0xFF
      = [{ status := status, off := 0xFF }]) :
    (openSession slot s).session slot = none ∧ CompletesWith (openSession slot s) slot r status 0 (s.fuses.floor * 65536 + 0x0202)
      ∧ (openSession slot s).mem = s.mem := by
  have ht := takeCtl_ctlOnly hk r
  have hk' := ht.length ▸ hk
  have h4 : ¬ 4 ≤ r.n 28 4 := by omega
  have h3 : r.n 28 4 ≠ 3 := by omega
  have hfails := congrArg pickFail hc
  rw [pickFail_singleton] at hfails
  rw [openSession, startCtl_refused hf (f := { status := status, off := 0xFF })]
  · have h := refuse_ctlOnly hk' r status status { status := status, off := 0xFF : Fail }.detail (sessionAux (takeCtl s slot r))
    have hc := refuse_completesWith hk' (ht.scomp_isSome hscomp) r status status { status := status, off := 0xFF : Fail }.detail
      (sessionAux (takeCtl s slot r))
    refine ⟨(h.session.trans ht.session).trans hses, ?_, h.mem.trans ht.mem⟩
    rw [sessionAux, ht.fuses] at hc
    simp only [pureChecks, sessionAux, ht.fuses]
    exact hc
  · simp only [pureChecks, hcommon, hno, ht.session, hses, ht.fuses, h4, h3, failIf, decide_false, beq_iff_eq, if_false,
      Option.isSome_none, List.nil_append, List.append_nil, Bool.false_eq_true] at hfails ⊢
    exact hfails

/-- OPEN_SESSION at a level that answers opens the session and completes with it in COUNT. -/
theorem openSession_opens (hle : r.n 24 2 ≤ r.n 26 2) {l : Nat} (hl : answerLevel s.fuses.floor (r.n 24 2) (r.n 26 2) = some l) :
    let t := openSession slot s
    ∃ x, t.session slot = some x ∧ x.level = l ∧ x.flags = r.n 28 4 ∧ x.quotaHbm = r.n 32 4 ∧ x.quotaFen = r.n 36 4
      ∧ CompletesWith t slot r stDone l (s.fuses.floor * 65536 + 0x0202) ∧ t.mem = s.mem ∧ t.disp.streams = s.disp.streams
      ∧ ∀ k, k ≠ slot → t.slot k = s.slot k := by
  have ht := takeCtl_ctlOnly hk r
  have hk' := ht.length ▸ hk
  have h4 : ¬ 4 ≤ r.n 28 4 := by omega
  have h3 : r.n 28 4 ≠ 3 := by omega
  have hlt : ¬ r.n 26 2 < r.n 24 2 := by omega
  dsimp only
  rw [openSession, startCtl_acts hf]
  · simp only [pureChecks, ht.fuses, hl, Option.getD_some]
    generalize hx : (⟨l, r.n 28 4, (takeCtl s slot r).disp.serials + 1, r.n 32 4, r.n 36 4, 0, 0⟩ : Session) = x
    have hself := sessionOpened_slot_self hk' x
    have hku := (sessionOpened_length (takeCtl s slot r) slot x).symm ▸ hk'
    obtain ⟨h, hc⟩ := endCtl_settled hku (by rw [hself]; exact ht.scomp_isSome hscomp) r stDone 0 l (s.fuses.floor * 65536 + 0x0202)
      .nothing
    have haux : sessionAux (sessionOpened (takeCtl s slot r) slot x) = s.fuses.floor * 65536 + 0x0202 := by
      rw [← ht.fuses]
      rfl
    rw [← haux] at h hc ⊢
    refine ⟨x, h.session.trans (by rw [State.session, hself]), by rw [← hx], by rw [← hx], by rw [← hx], by rw [← hx], hc,
      h.mem.trans ht.mem, h.streams.trans ht.streams, fun k hne => ?_⟩
    exact (h.others k hne).trans ((sessionOpened_slot_ne _ hne x).trans (ht.others k hne))
  · simp [pureChecks, hcommon, hno, ht.session, hses, ht.fuses, h4, h3, hlt, hl, failIf, pickFail_nil]

end

/-- CLOSE_SESSION with no open stream closes the session and completes. -/
theorem closeSession_closes {slot : Nat} {s : State} {r : Rec} (hk : slot < s.disp.slots.length) (hf : frontCtl s slot 0x02 = some r)
    (hscomp : (s.slot slot).scomp.isSome = true) (hcommon : commonFails r slot false 24 = []) (hno : noStreamFails r = [])
    (hses : (s.session slot).isSome = true) (hstr : streamsOf s slot = []) :
    let t := closeSession slot s
    t.session slot = none ∧ Completes t slot r stDone 0 ∧ t.disp.streams = s.disp.streams := by
  have ht := takeCtl_ctlOnly hk r
  have hk' := ht.length ▸ hk
  have hstr' : streamsOf (takeCtl s slot r) slot = [] := by rw [streamsOf, ht.streams]; exact hstr
  dsimp only
  rw [closeSession, startCtl_acts hf]
  · simp only [pureChecks]
    have hlen := modifyAt_length (takeCtl s slot r).disp.slots slot fun k => { k with session := none }
    generalize hv : (takeCtl s slot r).setSlot slot (fun k => { k with session := none }) = u
    have hku : slot < u.disp.slots.length := by rw [← hv]; exact hlen ▸ hk'
    have hsu : (u.slot slot).scomp.isSome = true := by
      rw [← hv, State.setSlot_slot_self hk']
      exact ht.scomp_isSome hscomp
    have hses : u.session slot = none := by rw [← hv, State.session, State.setSlot_slot_self hk']
    have he := endCtl_ctlOnly hku r stDone 0 0 0 .freeOwner
    have hc := (endCtl_completesWith hku hsu r stDone 0 0 0 .freeOwner).completes
    have hd : (releaseTables (endCtl u slot r stDone 0 0 0 .freeOwner)).disp = (endCtl u slot r stDone 0 0 0 .freeOwner).disp :=
      congrArg Prod.fst (releaseTables_contract _)
    have hkr : slot < (releaseTables (endCtl u slot r stDone 0 0 0 .freeOwner)).disp.slots.length := by
      rw [hd, he.length]
      exact hku
    have h := settle_ctlOnly hkr
    refine ⟨?_, ?_, ?_⟩
    · rw [h.session, State.session, State.slot, hd]
      exact he.session.trans hses
    · refine Completes.ctlOnly ?_ h
      simp only [Completes, State.ringOut, State.slot, hd] at hc ⊢
      exact hc
    · rw [h.streams, hd, he.streams, ← hv, State.setSlot_streams, ht.streams]
  · simp [pureChecks, hcommon, hno, sessionFails, ht.session, Option.isSome_iff_ne_none.1 hses, hstr', failIf, pickFail_nil]

/-- Settles O33, by what a read and a write of OWNER do, and by the checks of each record. -/
theorem slotsAndSessionsOpenAndClose : Obligations.SlotsAndSessionsOpenAndClose := by
  refine ⟨fun slot tag s hs hslot ht htag hclean hpow hserves hline => ?_, fun floor lo hi l => answerLevel_highest,
    fun slot s r hs hslot hf hscomp hcommon hno hfl hses => ?_, fun slot s r hs hslot hf hscomp hcommon hno hses hstr => ?_⟩
  · have hwf := storesOk_mem (sound_storesOk hs)
    obtain ⟨hresp, hmem, hdisp, hgran⟩ := slotClaim_owner hslot ht ⟨hclean, hpow, hserves, hline⟩
    refine ⟨slotClaim slot tag s, rfl, hresp, fun hz => ?_, fun hz => by rw [hmem, if_neg hz], fun a ha => ?_, hdisp, hgran⟩
    · have hput := memBytes_memPut hwf (ownerAddr slot) (natLE 8 tag)
      rw [natLE_length] at hput
      rw [hmem, if_pos hz, hput, leNat_natLE 8 (by omega)]
    · rw [State.byteAt, hmem, State.byteAt]
      split
      · exact memGet_put_outside hwf (by rw [natLE_length]; exact ha)
      · rfl
  · have hk : slot < s.disp.slots.length := by rw [sound_slots hs]; exact hslot
    refine ⟨fun hle l hl => ?_, fun hle hl => ?_, fun hlt => ?_⟩
    · obtain ⟨x, h⟩ := openSession_opens hk hf hscomp hcommon hno hfl hses hle hl
      exact ⟨_, x, rfl, h⟩
    · have hlt : ¬ r.n 26 2 < r.n 24 2 := by omega
      exact ⟨_, rfl, openSession_refused hk hf hscomp hcommon hno hfl hses (by simp [failIf, hlt, hle, hl])⟩
    · have hle : ¬ r.n 24 2 ≤ r.n 26 2 := by omega
      exact ⟨_, rfl, openSession_refused hk hf hscomp hcommon hno hfl hses (by simp [failIf, hlt, hle])⟩
  · have hk : slot < s.disp.slots.length := by rw [sound_slots hs]; exact hslot
    exact ⟨_, rfl, closeSession_closes hk hf hscomp hcommon hno hses hstr⟩

end Sys2Proof.Machine
end

section
/-! PROOFS. O36: RUN, PAUSE, RESUME and DRAIN act by the state of the stream (R46, R49). -/

namespace Sys2Proof.Machine

/-! ### Streams that take a state -/

theorem State.setStream_setStream (s : State) (id : Nat) {f : Stream → Stream} (hf : ∀ x, (f x).id = x.id) (g : Stream → Stream) :
    (s.setStream id f).setStream id g = s.setStream id fun x => g (f x) := by
  have h (x : Stream) : (if (if x.id = id then f x else x).id = id then g (if x.id = id then f x else x) else if x.id = id then f x else x)
      = if x.id = id then g (f x) else x := by
    by_cases hx : x.id = id <;> simp [hx, hf]
  simp only [State.setStream, List.map_map]
  congr 2
  exact List.map_congr_left fun x _ => h x

/-- A stream that is given an open state is the open one of its number. -/
theorem State.setStream_opens {s : State} {id : Nat} {f : Stream → Stream} (hf : ∀ x, (f x).id = x.id)
    (hst : ∀ x, (f x).state ≠ .closed) {x : Stream} (hx : s.open? id = some x) : ∃ y, (s.setStream id f).open? id = some (f y) := by
  obtain ⟨y, hy⟩ := State.stream?_of_open? hx
  refine ⟨y, ?_⟩
  rw [State.open?_eq_stream?, State.setStream_stream? s id hf, hy, Option.map_some]
  intro z hz hid
  obtain ⟨w, _, _, rfl⟩ := State.mem_setStream hz hid
  exact hst w

theorem setState_eq_setStream (s : State) (id : Nat) {st : SState} (h : st = .running ∨ st = .paused ∨ st = .draining) :
    setState s id st = s.setStream id fun x => { x with state := st, dirty := true } := if_pos h

theorem setState_bound (s : State) (id : Nat) :
    setState s id .bound = freeResidents (s.setStream id fun x => { x with state := .bound, dirty := true }) id := rfl

/-- The open stream of a number is found after as before, where a frame keeps numbers and states. -/
theorem Frame.open?_some {Q : Drift SlotState} {R : Drift Stream} {s t : State} (h : Frame Q R s t)
    (hR : ∀ a b, R.rel a b → b.id = a.id ∧ b.state = a.state) {id : Nat} {x : Stream} (hx : s.open? id = some x) :
    ∃ y, t.open? id = some y ∧ R.rel x y := by
  have hrel : Option.Rel R.rel (s.open? id) (t.open? id) := forall₂_find? h.streams fun a b hab => by
    obtain ⟨hid, hst⟩ := hR a b hab
    rw [hid, hst]
  rw [hx] at hrel
  cases ht : t.open? id with
  | none => rw [ht] at hrel; cases hrel
  | some y => rw [ht] at hrel; cases hrel with | some r => exact ⟨y, rfl, r⟩

theorem bareDrift_id {a b : Stream} (h : bareDrift.rel a b) : b.id = a.id :=
  congrArg Stream.id (a₁ := b.bare) (a₂ := a.bare) h

theorem bareDrift_state {a b : Stream} (h : bareDrift.rel a b) : b.state = a.state :=
  congrArg Stream.state (a₁ := b.bare) (a₂ := a.bare) h

/-! ### Stream commands (R47, R48) -/

section
variable {slot op : Nat} {s : State} {r : Rec} {x : Stream} {p : SState → Bool} {act : Rec → State → State}

/-- A stream command that passes its checks has its effect. -/
theorem streamCmd_acts (hk : slot < s.disp.slots.length) (hf : frontCtl s slot op = some r) (hx : s.open? r.stream = some x)
    (hown : x.session = slot) (hnum : r.stream < 1024) (hcommon : commonFails r slot false 24 = []) (hses : (s.session slot).isSome = true)
    (hclosing : x.closing = false) (hp : p x.state = true) :
    streamCmd s slot op p act = settle (act r (takeCtl s slot r)) (.ctl slot) := by
  have ht := takeCtl_ctlOnly hk r
  refine startCtl_acts hf ?_
  simp [pureChecks, hcommon, streamFails, sessionFails, stateFails, ht.session, ht.open?, hx, hown, hclosing, hp,
    Option.isSome_iff_ne_none.1 hses, failIf, pickFail_nil, Nat.not_le.2 hnum]

/-- A stream command in a state that does not allow it completes WRONG_STATE, and changes no stream. -/
theorem streamCmd_wrongState (hk : slot < s.disp.slots.length) (hscomp : (s.slot slot).scomp.isSome = true)
    (hf : frontCtl s slot op = some r) (hx : s.open? r.stream = some x) (hown : x.session = slot) (hnum : r.stream < 1024)
    (hcommon : commonFails r slot false 24 = []) (hses : (s.session slot).isSome = true) (hp : p x.state = false) :
    let t := streamCmd s slot op p act
    t.disp.streams = s.disp.streams ∧ Completes t slot r stWrongState 0 ∧ t.mem = s.mem := by
  have ht := takeCtl_ctlOnly hk r
  have hk' := ht.length ▸ hk
  dsimp only
  rw [streamCmd, startCtl_refused hf (f := { status := stWrongState, off := 0xFF })]
  · have h := refuse_ctlOnly hk' r stWrongState stWrongState { status := stWrongState, off := 0xFF : Fail }.detail 0
    have hc := refuse_completesWith hk' (ht.scomp_isSome hscomp) r stWrongState stWrongState
      { status := stWrongState, off := 0xFF : Fail }.detail 0
    exact ⟨h.streams.trans ht.streams, hc.completes, h.mem.trans ht.mem⟩
  · simp [pureChecks, hcommon, streamFails, sessionFails, stateFails, ht.session, ht.open?, hx, hown, hp,
      Option.isSome_iff_ne_none.1 hses, failIf, pickFail_singleton, Nat.not_le.2 hnum]

end

/-! ### What the commands keep -/

/-- Of memory and fuses nothing has changed, and of the streams other than one no more than their blocks on tiles. -/
structure BlocksOnly (id : Nat) (s t : State) : Prop where
  others : OthersButBlocks s t id
  mem : t.mem = s.mem
  fuses : t.fuses = s.fuses

theorem BlocksOnly.trans {id : Nat} {s t u : State} (h : BlocksOnly id s t) (g : BlocksOnly id t u) : BlocksOnly id s u :=
  ⟨fun j hj => (g.others j hj).trans (h.others j hj), g.mem.trans h.mem, g.fuses.trans h.fuses⟩

theorem CtlOnly.blocksOnly {k : Nat} {s t : State} (h : CtlOnly k s t) (id : Nat) : BlocksOnly id s t :=
  ⟨fun j _ => by rw [h.stream?], h.mem, h.fuses⟩

theorem setStream_blocksOnly (s : State) (id : Nat) {f : Stream → Stream} (hf : ∀ x, (f x).id = x.id) :
    BlocksOnly id s (s.setStream id f) :=
  ⟨fun j hj => by rw [State.setStream_stream?_ne s hj hf], rfl, rfl⟩

theorem freeResidents_blocksOnly (s : State) (id : Nat) : BlocksOnly id s (freeResidents s id) := by
  have h := quiet_of_contents (freeResidents_contents s id)
  refine ⟨fun j _ => ?_, h.mem, h.fuses⟩
  have hrel := h.stream? (fun _ _ => bareDrift_id) j
  generalize s.stream? j = a at hrel ⊢
  generalize (freeResidents s id).stream? j = b at hrel ⊢
  cases hrel with
  | none => rfl
  | some hab => exact congrArg some hab

/-- A stream that takes a state and a change besides, and the completion of the record that asked it. -/
theorem change_settled {slot : Nat} {s : State} {r : Rec} {x : Stream} (hk : slot < s.disp.slots.length)
    (hscomp : (s.slot slot).scomp.isSome = true) (hx : s.open? r.stream = some x) {f : Stream → Stream} (hf : ∀ x, (f x).id = x.id)
    (hst : ∀ x, (f x).state ≠ .closed) :
    let t := settle (endCtl ((takeCtl s slot r).setStream r.stream f) slot r stDone 0 0 0 .nothing) (.ctl slot)
    ∃ y, t.open? r.stream = some (f y) ∧ Completes t slot r stDone 0 ∧ BlocksOnly r.stream s t := by
  have ht := takeCtl_ctlOnly hk r
  have hk' := ht.length ▸ hk
  obtain ⟨y, hy⟩ := State.setStream_opens hf hst (s := takeCtl s slot r) ((ht.open? _).trans hx)
  obtain ⟨h, hc⟩ := endCtl_settled (s := (takeCtl s slot r).setStream r.stream f) hk' (ht.scomp_isSome hscomp) r stDone 0 0 0 .nothing
  exact ⟨y, (h.open? _).trans hy, hc.completes,
    ((ht.blocksOnly _).trans (setStream_blocksOnly _ _ hf)).trans (h.blocksOnly _)⟩

theorem releaseHeld_state (b : Batch) : (releaseHeld b).state ≠ .held := by
  unfold releaseHeld
  split
  · simp
  · assumption

theorem holdQueued_state (b : Batch) : (holdQueued b).state ≠ .queued := by
  unfold holdQueued
  split
  · simp
  · assumption

section
variable {slot : Nat} {s : State} {r : Rec} {x : Stream} (hk : slot < s.disp.slots.length) (hscomp : (s.slot slot).scomp.isSome = true)
  (hx : s.open? r.stream = some x)
include hk hscomp hx

/-- A stream that starts running is RUNNING with no batch held. -/
theorem startRunning_settled :
    let t := settle (endCtl (startRunning (takeCtl s slot r) r.stream) slot r stDone 0 0 0 .nothing) (.ctl slot)
    ∃ y, t.open? r.stream = some y ∧ y.state = .running ∧ (∀ b ∈ y.batches, b.state ≠ .held) ∧ Completes t slot r stDone 0
      ∧ BlocksOnly r.stream s t := by
  have h := change_settled hk hscomp hx (f := fun x => { x with
    state := .running, dirty := true, batches := x.batches.map releaseHeld, slots := x.slots.map (restartTimer (takeCtl s slot r).tick) })
    (fun _ => rfl) fun _ => by simp
  rw [startRunning, setState_eq_setStream _ _ (.inl rfl), State.setStream_setStream]
  · obtain ⟨y, hy, rest⟩ := h
    refine ⟨_, hy, rfl, fun b hb => ?_, rest⟩
    obtain ⟨c, _, rfl⟩ := List.mem_map.1 hb
    exact releaseHeld_state c
  · exact fun _ => rfl

/-- PAUSE leaves the stream PAUSED with no batch queued. -/
theorem pause_settled :
    let t := settle (endCtl ((setState (takeCtl s slot r) r.stream .paused).setStream r.stream fun x =>
      { x with batches := x.batches.map holdQueued }) slot r stDone 0 0 0 .nothing) (.ctl slot)
    ∃ y, t.open? r.stream = some y ∧ y.state = .paused ∧ (∀ b ∈ y.batches, b.state ≠ .queued) ∧ Completes t slot r stDone 0
      ∧ BlocksOnly r.stream s t := by
  have h := change_settled hk hscomp hx (f := fun x => { x with
    state := .paused, dirty := true, batches := x.batches.map holdQueued }) (fun _ => rfl) fun _ => by simp
  rw [setState_eq_setStream _ _ (.inr (.inl rfl)), State.setStream_setStream]
  · obtain ⟨y, hy, rest⟩ := h
    refine ⟨_, hy, rfl, fun b hb => ?_, rest⟩
    obtain ⟨c, _, rfl⟩ := List.mem_map.1 hb
    exact holdQueued_state c
  · exact fun _ => rfl

/-- A stream with nothing outstanding is BOUND once it is drained: it leaves its tiles (R277). -/
theorem drainEmpty_settled :
    let t := settle (endCtl (setState (takeCtl s slot r) r.stream .bound) slot r stDone 0 0 0 .nothing) (.ctl slot)
    t.streamState r.stream = .bound ∧ Completes t slot r stDone 0 ∧ BlocksOnly r.stream s t := by
  have ht := takeCtl_ctlOnly hk r
  have hk' := ht.length ▸ hk
  obtain ⟨y, hy⟩ := State.setStream_opens (f := fun x => { x with state := .bound, dirty := true }) (fun _ => rfl) (fun _ => by simp)
    ((ht.open? _).trans hx)
  have hb := (ht.blocksOnly r.stream).trans (setStream_blocksOnly (takeCtl s slot r) r.stream
    (f := fun x => { x with state := .bound, dirty := true }) fun _ => rfl)
  rw [setState_bound]
  generalize hu : (takeCtl s slot r).setStream r.stream (fun x => { x with state := .bound, dirty := true }) = u at hy hb
  have hq := quiet_of_contents (freeResidents_contents u r.stream)
  obtain ⟨z, hz, hyz⟩ := hq.open?_some (fun _ _ hab => ⟨bareDrift_id hab, bareDrift_state hab⟩) hy
  have hslots : slot < u.disp.slots.length := by rw [← hu]; exact hk'
  have hsome : ((freeResidents u r.stream).slot slot).scomp.isSome = true := by
    have hsame : u.slot slot = (freeResidents u r.stream).slot slot := hq.slot slot
    rw [← hsame, ← hu]
    exact ht.scomp_isSome hscomp
  obtain ⟨h, hc⟩ := endCtl_settled (hq.slots_length.symm ▸ hslots) hsome r stDone 0 0 0 .nothing
  refine ⟨?_, hc.completes, (hb.trans (freeResidents_blocksOnly u r.stream)).trans (h.blocksOnly _)⟩
  rw [h.streamState, State.streamState_of_open? hz]
  exact bareDrift_state hyz

omit hscomp in
/-- A stream with batches outstanding is DRAINING. -/
theorem drain_settled :
    let t := settle ((setState (takeCtl s slot r) r.stream .draining).setStream r.stream fun x => { x with drain := some (slot, r.idx, 0) })
      (.ctl slot)
    t.streamState r.stream = .draining ∧ BlocksOnly r.stream s t := by
  have ht := takeCtl_ctlOnly hk r
  have hk' := ht.length ▸ hk
  obtain ⟨y, hy⟩ := State.setStream_opens (f := fun x => { x with state := .draining, dirty := true, drain := some (slot, r.idx, 0) })
    (fun _ => rfl) (fun _ => by simp) ((ht.open? _).trans hx)
  rw [setState_eq_setStream _ _ (.inr (.inr rfl)), State.setStream_setStream]
  · have h := settle_ctlOnly (s := (takeCtl s slot r).setStream r.stream fun x =>
      { x with state := .draining, dirty := true, drain := some (slot, r.idx, 0) }) hk'
    have hb := setStream_blocksOnly (takeCtl s slot r) r.stream
      (f := fun x => { x with state := .draining, dirty := true, drain := some (slot, r.idx, 0) }) fun _ => rfl
    refine ⟨?_, ((ht.blocksOnly _).trans hb).trans (h.blocksOnly _)⟩
    rw [h.streamState, State.streamState_of_open? hy]
  · exact fun _ => rfl

end

/-- Settles O36, by the checks of a stream command and by what each leaves of its stream. -/
theorem streamCommandsByState : Obligations.StreamCommandsByState := by
  refine ⟨fun slot s r x hs hslot hscomp hx hown hclosing hnum hcommon hses => ?_,
    fun slot s r x hs hslot hscomp hx hown hnum hcommon hses => ?_⟩ <;>
  have hk : slot < s.disp.slots.length := by rw [sound_slots hs]; exact hslot
  · have acts {op : Nat} {p : SState → Bool} {act : Rec → State → State} (hf : frontCtl s slot op = some r) (hp : p x.state = true) :=
      streamCmd_acts (act := act) hk hf hx hown hnum hcommon hses hclosing hp
    have hx' := ((takeCtl_ctlOnly hk r).open? r.stream).trans hx
    refine ⟨fun hf hst => ?_, fun hf hst => ?_, fun hf hst => ?_, fun hf hst hb => ?_, fun hf hst hb => ?_⟩
    · obtain ⟨y, hy, hrun, hheld, hc, hkept⟩ := startRunning_settled hk hscomp hx
      refine ⟨_, y, rfl, ?_⟩
      rw [runStream, acts hf (by simp [hst])]
      exact ⟨hy, hrun, hheld, hc, hkept.others, hkept.mem, hkept.fuses⟩
    · obtain ⟨y, hy, hpau, hq, hc, hkept⟩ := pause_settled hk hscomp hx
      refine ⟨_, y, rfl, ?_⟩
      rw [pauseStream, acts hf (by simp [hst])]
      exact ⟨hy, hpau, hq, hc, hkept.others, hkept.mem, hkept.fuses⟩
    · obtain ⟨y, hy, hrun, hheld, hc, hkept⟩ := startRunning_settled hk hscomp hx
      refine ⟨_, y, rfl, ?_⟩
      rw [resumeStream, acts hf (by simp [hst])]
      exact ⟨hy, hrun, hheld, hc, hkept.others, hkept.mem, hkept.fuses⟩
    · obtain ⟨hbound, hc, hkept⟩ := drainEmpty_settled hk hscomp hx
      refine ⟨_, rfl, ?_⟩
      rw [drainStream, acts hf (by simp [hst])]
      simp only [hx', hb, List.isEmpty_nil, if_true]
      exact ⟨hbound, hc, hkept.others, hkept.mem, hkept.fuses⟩
    · obtain ⟨hdrain, hkept⟩ := drain_settled hk hx
      refine ⟨_, rfl, ?_⟩
      rw [drainStream, acts hf (by simp [hst])]
      simp only [hx', List.isEmpty_iff, hb, if_false]
      exact ⟨hdrain, hkept.others, hkept.mem, hkept.fuses⟩
  · have refused {op : Nat} {p : SState → Bool} {act : Rec → State → State} (hf : frontCtl s slot op = some r) (hp : p x.state = false) :=
      streamCmd_wrongState (act := act) hk hscomp hf hx hown hnum hcommon hses hp
    refine ⟨fun hf hst => ⟨_, rfl, refused hf (by simp [hst])⟩, fun hf hst => ⟨_, rfl, refused hf (by simp [hst])⟩,
      fun hf hst => ⟨_, rfl, refused hf (by simp [hst])⟩, fun hf hst => ⟨_, rfl, refused hf (by simp [hst])⟩,
      fun hf hst hst' => ⟨_, rfl, refused hf (by simp [hst, hst'])⟩, fun hf hst => ⟨_, rfl, refused hf ?_⟩⟩
    obtain h | h | h := hst <;> simp [h]

end Sys2Proof.Machine
end

section
/-! SUPPORT. What the checks of records read (R59, R61, R533): memory is read, and nothing of it or of the dispatcher changes. -/

namespace Sys2Proof.Machine

theorem fst_reads {α : Type} {s u : State} {p : State × α} {a : α} (e : p = (u, a)) (h : Reads s p.1) : Reads s u := by
  rw [e] at h
  exact h

theorem foldl_fst_reads {α β : Type} {f : State × β → α → State × β} (hf : ∀ p a, Reads p.1 (f p a).1) (l : List α) (p : State × β) :
    Reads p.1 (l.foldl f p).1 := by
  induction l generalizing p with
  | nil => exact .refl _
  | cons a t ih => exact (hf p a).trans (ih _)

theorem andThen_reads {α β : Type} {s : State} {r : Res α} {f : State → α → Res β} (h : Reads s r.1) (hf : ∀ s a, Reads s (f s a).1) :
    Reads s (andThen r f).1 := by
  unfold andThen
  split
  · exact h.trans (hf ..)
  · exact h

theorem readMem_reads (s : State) (a n : Nat) : Reads s (readMem s a n).1 := by
  unfold readMem
  split <;> rename_i e <;> exact fst_reads e (devRead_reads s a n)

theorem readHeader_reads (s : State) (addr kind off : Nat) : Reads s (readHeader s addr kind off).1 := by
  unfold readHeader
  split
  · exact .refl s
  · split
    · exact .refl s
    · split <;> rename_i e <;> exact fst_reads e (devRead_reads s addr 64)

theorem openStreamChecks_reads (slot : Nat) (r : Rec) (s : State) : Reads s (openStreamChecks slot r s).1 :=
  (readHeader_reads s (r.n 24 8) 0 24).trans (readHeader_reads _ (r.n 32 8) 1 32)

/-! ### Plans and the blocks of their stages -/

theorem readWord32_reads (s : State) (a : Nat) : Reads s (readWord32 s a).1 :=
  andThen_reads (readMem_reads s a 4) fun s _ => .refl s

theorem trieStep_reads (t : Trie) (s : State) (st c : Nat) : Reads s (trieStep t s st c).1 := by
  refine andThen_reads (readWord32_reads ..) fun s base => ?_
  dsimp only
  split
  · exact andThen_reads (readWord32_reads ..) fun s _ => .refl s
  · exact .refl s

theorem trieWalk_reads (t : Trie) (s : State) (st : Nat) (bs : List Byte) : Reads s (trieWalk t s st bs).1 := by
  induction bs generalizing s st with
  | nil => exact .refl s
  | cons b bs ih =>
    refine andThen_reads (trieStep_reads ..) fun s n => ?_
    cases n with
    | none => exact .refl s
    | some n => exact ih s n

theorem readWant_reads (s : State) (w : Want) : Reads s (readWant s w).1 := by
  unfold readWant
  split
  · exact .refl s
  · split <;> rename_i e <;> exact fst_reads e (devRead_reads ..)

theorem readMore_reads (s : State) (r : List Byte) (b : Blocks) : Reads s (readMore s r b).1 := by
  have program : Reads s (if blockAt b 48 = [] ∨ 256 < fieldN (blockAt b 48) 0 2 ∨ 64 < fieldN (blockAt b 48) 2 1 then
      ((s, [], []) : State × List Fail × Blocks) else readWant s (304, 48, fieldN r 48 8, progBytes (blockAt b 48))).1 := by
    split
    · exact .refl s
    · exact readWant_reads ..
  simp only [readMore]
  split
  · exact program
  · exact program
  · split
    · exact .refl s
    · split <;> rename_i e <;> exact fst_reads e (trieWalk_reads ..)
  · exact .refl s

theorem readBlocks_reads (s : State) (r : List Byte) : Reads s (readBlocks s r).1 :=
  (foldl_fst_reads (f := fun (a : State × List Fail × Blocks) w => match readWant a.1 w with
    | (s, f, b) => (s, a.2.1 ++ f, a.2.2 ++ b)) (fun p w => readWant_reads p.1 w) (wants r) (s, [], [])).trans (readMore_reads ..)

theorem bindStage_reads (w : Binder) (plan : List (List Byte)) (tilesMax : Nat) (s : State) (d : Draft) (i : Nat) (r : List Byte) :
    Reads s (bindStage w plan tilesMax s d i r).1 := by
  simp only [bindStage]
  split
  · exact .refl s
  · exact readBlocks_reads s r

theorem bindStages_reads (w : Binder) (plan : List (List Byte)) (tilesMax : Nat) (s : State) (d : Draft) (i : Nat)
    (l : List (List Byte)) : Reads s (bindStages w plan tilesMax s d i l).1 := by
  induction l generalizing s d i with
  | nil => exact .refl s
  | cons r t ih => exact (bindStage_reads w plan tilesMax s d i r).trans (ih ..)

theorem readPlan_reads (n : Nat) (s : State) (a i : Nat) : Reads s (readPlan n s a i).1 := by
  induction n generalizing s a i with
  | zero => exact .refl s
  | succ n ih =>
    unfold readPlan
    split <;> rename_i e
    · exact fst_reads e (devRead_reads s a 256)
    · exact (fst_reads e (devRead_reads s a 256)).trans (ih ..)

theorem checkPlan_reads (slot : Nat) (r : Rec) (x : Stream) (s : State) : Reads s (checkPlan slot r x s).1 :=
  (readPlan_reads (r.n 32 1) s (r.n 24 8) 0).trans (bindStages_reads ..)

/-- The checks of a BIND_PLAN read the plan, and change nothing. -/
theorem bindChecks_reads (slot : Nat) (r : Rec) (s : State) : Reads s (bindChecks slot r s).1 := by
  simp only [bindChecks]
  split
  · exact .refl s
  · exact checkPlan_reads ..

/-! ### Descriptors of batches -/

theorem readDescList_reads (n : Nat) (s : State) (a : Nat) : Reads s (readDescList n s a).1 := by
  induction n generalizing s a with
  | zero => exact .refl s
  | succ n ih =>
    unfold readDescList
    split <;> rename_i e <;> exact (fst_reads e (devRead_reads s a 64)).trans (ih ..)

theorem readDescs_reads (s : State) (addr n off : Nat) : Reads s (readDescs s addr n off).1 := by
  unfold readDescs
  split
  · exact .refl s
  · split
    · exact .refl s
    · exact readDescList_reads ..

theorem batchFails_reads (s : State) (p : Option Plan) (level rows inAddr nIn outAddr nOut : Nat) :
    Reads s (batchFails s p level rows inAddr nIn outAddr nOut).1 :=
  (readDescs_reads s inAddr nIn 24).trans (readDescs_reads _ outAddr nOut 40)

end Sys2Proof.Machine
end

section
/-! PROOFS. O35: OPEN_STREAM leaves a stream IDLE and BIND_PLAN leaves it BOUND, or says why not (R43, R46, R48, R59). -/

namespace Sys2Proof.Machine

/-! ### Drifts of slots and streams -/

/-- A slot's SCOMP_RING and its records in progress are as they were. -/
def ctlDrift : Drift SlotState := .keeps fun k => (k.scomp, k.inflight)

/-- A stream's number is as it was. -/
def numberDrift : Drift Stream := .keeps Stream.id

/-- A stream's number, state and plan are as they were. -/
def planDrift : Drift Stream := .keeps fun x => (x.id, x.state, x.plan)

theorem planDrift_id {a b : Stream} (h : planDrift.rel a b) : b.id = a.id := congrArg Prod.fst h

theorem planDrift_bound {p : Plan} {a b : Stream} (h : planDrift.rel a b) (ha : a.state = .bound ∧ a.plan = some p) :
    b.state = .bound ∧ b.plan = some p := by
  have h : (b.id, b.state, b.plan) = (a.id, a.state, a.plan) := h
  simp only [Prod.mk.injEq] at h
  obtain ⟨_, hst, hpl⟩ := h
  exact ⟨hst.trans ha.1, hpl.trans ha.2⟩

theorem Frame.scomp {R : Drift Stream} {s t : State} (h : Frame ctlDrift R s t) (k : Nat) : (t.slot k).scomp = (s.slot k).scomp :=
  congrArg Prod.fst (h.slot k)

theorem Frame.inflight {R : Drift Stream} {s t : State} (h : Frame ctlDrift R s t) (k : Nat) :
    (t.slot k).inflight = (s.slot k).inflight := congrArg Prod.snd (h.slot k)

theorem frame_of_contents {Q : Drift SlotState} {R : Drift Stream} (hR : ∀ a b, bareDrift.rel a b → R.rel a b) {s t : State}
    (h : t.contents = s.contents) : Frame Q R s t :=
  (quiet_of_contents h).toFrame.mono (fun a b hab => by cases hab; exact Q.refl a) hR

theorem bare_keeps {β : Type} {p : Stream → β} (hp : ∀ x, p x.bare = p x) (a b : Stream) (h : bareDrift.rel a b) : p b = p a := by
  rw [← hp b, ← hp a]
  exact congrArg p h

/-- Charges and returns of a session change no more of a slot than its session. -/
theorem charge_frame {R : Drift Stream} (s : State) (slot hbm fen : Nat) : Frame ctlDrift R s (charge s slot hbm fen) :=
  (setSlot_quiet fun _ => rfl).toFrame

theorem uncharge_frame {R : Drift Stream} (s : State) (slot hbm fen : Nat) : Frame ctlDrift R s (uncharge s slot hbm fen) :=
  (setSlot_quiet fun _ => rfl).toFrame

theorem setState_frame {R : Drift Stream} {Q : Drift SlotState} (hbare : ∀ a b, bareDrift.rel a b → R.rel a b) (s : State) (id : Nat)
    {st : SState} (hR : ∀ x, x.id = id → R.rel x { x with state := st, dirty := true }) : Frame Q R s (setState s id st) := by
  have h : Frame Q R s (s.setStream id fun x => { x with state := st, dirty := true }) := (setStream_quiet hR).toFrame
  simp only [setState]
  split
  · exact h
  · exact h.trans (frame_of_contents hbare (freeResidents_contents ..))

/-! ### The first stream of a number -/

/-- The first stream of a number, which commands and records of that number mean, and what it satisfies. -/
def State.FirstIs (s : State) (id : Nat) (P : Stream → Prop) : Prop := ∃ x, s.stream? id = some x ∧ P x

section
variable {s t : State} {id : Nat} {P P' : Stream → Prop}

theorem State.FirstIs.frame {Q : Drift SlotState} {R : Drift Stream} (h : s.FirstIs id P) (g : Frame Q R s t)
    (hid : ∀ a b, R.rel a b → b.id = a.id) (hP : ∀ a b, R.rel a b → P a → P' b) : t.FirstIs id P' := by
  obtain ⟨x, hx, hpx⟩ := h
  obtain ⟨y, hy, hxy⟩ := g.stream?_some hid hx
  exact ⟨y, hy, hP x y hxy hpx⟩

theorem State.FirstIs.setStream {f : Stream → Stream} (h : s.FirstIs id P) (hid : ∀ x, (f x).id = x.id)
    (hP : ∀ x, P x → P' (f x)) : (s.setStream id f).FirstIs id P' := by
  obtain ⟨x, hx, hpx⟩ := h
  exact ⟨f x, by rw [State.setStream_stream? s id hid, hx, Option.map_some], hP x hpx⟩

theorem State.FirstIs.of_streams (h : s.FirstIs id P) (g : t.disp.streams = s.disp.streams) : t.FirstIs id P := by
  simpa only [State.FirstIs, State.stream?, g] using h

theorem State.FirstIs.mono (h : s.FirstIs id P) (hP : ∀ x, P x → P' x) : s.FirstIs id P' := by
  obtain ⟨x, hx, hpx⟩ := h
  exact ⟨x, hx, hP x hpx⟩

/-- The first stream of a number gives the state of that number where it is open. -/
theorem State.FirstIs.streamState {st : SState} (h : s.FirstIs id fun x => x.state = st) (hst : st ≠ .closed) : s.streamState id = st := by
  obtain ⟨x, hx, rfl⟩ := h
  exact State.streamState_of_open? (State.open?_of_stream? hx hst)

end

/-! ### OPEN_STREAM -/

/-- s with one stream in the place of those of its number. -/
def streamOpened (s : State) (x : Stream) : State :=
  let s := { s with disp := { s.disp with
    streams := (s.disp.streams.filter fun (y : Stream) => y.id != x.id) ++ [x]
    opened := s.disp.opened + 1 } }
  s.setStream x.id fun x => { x with state := .idle }

theorem streamOpened_streams (s : State) (x : Stream) : (streamOpened s x).disp.streams
    = (s.disp.streams.filter fun y => y.id != x.id) ++ [{ x with state := .idle }] := by
  have h (y : Stream) (hy : y ∈ s.disp.streams.filter fun y => y.id != x.id) :
      (if y.id = x.id then { y with state := .idle } else y) = y := if_neg (by simpa using (List.mem_filter.1 hy).2)
  simp only [streamOpened, State.setStream, List.map_append, List.map_congr_left h, List.map_id', List.map_cons, List.map_nil, if_true]

theorem streamOpened_stream? (s : State) (x : Stream) : (streamOpened s x).stream? x.id = some { x with state := .idle } := by
  rw [State.stream?, streamOpened_streams, List.find?_append]
  have hn : (s.disp.streams.filter fun y => y.id != x.id).find? (·.id == x.id) = none := by
    rw [List.find?_eq_none]
    intro y hy
    simpa using (List.mem_filter.1 hy).2
  simp [hn]

theorem streamOpened_stream?_ne (s : State) (x : Stream) {j : Nat} (hj : j ≠ x.id) : (streamOpened s x).stream? j = s.stream? j := by
  simp only [State.stream?, streamOpened_streams, List.find?_append, List.find?_filter]
  have hx : (x.id == j) = false := by simpa using hj.symm
  have hp : (fun y : Stream => !decide (y.id = x.id) && decide (y.id = j)) = fun y => y.id == j := by
    funext y
    by_cases hy : y.id = j <;> simp [hy, hj]
  simp [hx, hp]

/-- OPEN_STREAM of a number whose checks pass: the new stream is IDLE, and no other has changed. -/
theorem openStream_opens {slot : Nat} {s : State} {r : Rec} (hclean : s.clean = true) (hk : slot < s.disp.slots.length)
    (hf : frontCtl s slot 0x10 = some r) (hscomp : (s.slot slot).scomp.isSome = true)
    (hc : pickFail (openStreamChecks slot r (takeCtl s slot r)).2 = none) :
    let t := openStream slot s
    let x := newStream (openStreamChecks slot r (takeCtl s slot r)).1 slot r
    t.stream? r.stream = some { x with state := .idle } ∧ Completes t slot r stDone 0 ∧ OthersKept s t r.stream ∧ t.mem = s.mem
      ∧ t.fuses = s.fuses := by
  have ht := takeCtl_ctlOnly hk r
  have hr := openStreamChecks_reads slot r (takeCtl s slot r)
  dsimp only
  rw [openStream, startCtl_acts hf hc]
  generalize openStreamChecks slot r (takeCtl s slot r) = found at hr
  obtain ⟨u, fs⟩ := found
  have hu : u.disp.slots = (takeCtl s slot r).disp.slots := by rw [hr.disp]
  have hk' : slot < u.disp.slots.length := by rw [hu]; exact ht.length ▸ hk
  have hs : (u.slot slot).scomp.isSome = true := by rw [State.slot, hu]; exact ht.scomp_isSome hscomp
  obtain ⟨h, hdone⟩ := endCtl_settled (s := streamOpened u (newStream u slot r)) hk' hs r stDone 0 0 0 .nothing
  refine ⟨(h.stream? _).trans (streamOpened_stream? u (newStream u slot r)), hdone.completes, fun j hj => ?_, ?_, ?_⟩
  · refine ((h.stream? j).trans (streamOpened_stream?_ne u (newStream u slot r) hj)).trans ?_
    rw [State.stream?, hr.disp]
    exact ht.stream? j
  · exact h.mem.trans ((hr.mem hclean).trans ht.mem)
  · exact h.fuses.trans (hr.fuses.trans ht.fuses)

/-! ### BIND_PLAN that fails a check -/

theorem bindPlan_eq {slot : Nat} {peers : List PeerAnswer} {s : State} {r : Rec} (hf : frontCtl s slot 0x11 = some r) :
    bindPlan slot peers s = settle (bindGo slot peers r (takeCtl s slot r)) (.ctl slot) := startCtl_acts hf pickFail_nil

theorem bindPlan_refused {slot : Nat} {peers : List PeerAnswer} {s : State} {r : Rec} (hclean : s.clean = true)
    (hk : slot < s.disp.slots.length) (hf : frontCtl s slot 0x11 = some r) (hscomp : (s.slot slot).scomp.isSome = true) {f : Fail}
    (hc : pickFail (bindChecks slot r (takeCtl s slot r)).2.1 = some f) :
    let t := bindPlan slot peers s
    (∀ j, t.stream? j = s.stream? j) ∧ Completes t slot r f.status 0 ∧ t.tables = s.tables ∧ t.mem = s.mem := by
  have ht := takeCtl_ctlOnly hk r
  have hr := bindChecks_reads slot r (takeCtl s slot r)
  dsimp only
  rw [bindPlan_eq hf]
  simp only [bindGo, hc]
  generalize bindChecks slot r (takeCtl s slot r) = found at hr
  obtain ⟨u, fs, got⟩ := found
  have hu : u.disp.slots = (takeCtl s slot r).disp.slots := by rw [hr.disp]
  have hk' : slot < u.disp.slots.length := by rw [hu]; exact ht.length ▸ hk
  have hs : (u.slot slot).scomp.isSome = true := by rw [State.slot, hu]; exact ht.scomp_isSome hscomp
  have h := refuse_ctlOnly hk' r f.status f.status f.detail (mostTiles ((got.map (·.2)).getD []))
  refine ⟨fun j => ?_, (refuse_completesWith hk' hs r ..).completes, h.tables.trans (hr.tables.trans ht.tables),
    h.mem.trans ((hr.mem hclean).trans ht.mem)⟩
  rw [h.stream?, State.stream?, hr.disp]
  exact ht.stream? j

/-! ### BIND_PLAN that passes -/

theorem with_binds_frame {Q : Drift SlotState} {R : Drift Stream} (s : State) (b : List (Nat × Nat × Nat × Nat × Nat)) :
    Frame Q R s { s with disp := { s.disp with binds := b } } where
  fuses := rfl
  slots := List.forall₂_same.2 fun x _ => Q.refl x
  streams := List.forall₂_same.2 fun x _ => R.refl x

theorem freeBinds_frame {Q : Drift SlotState} {R : Drift Stream} (s : State) (id : Nat) : Frame Q R s (freeBinds s id) :=
  with_binds_frame ..

theorem with_tables_frame {Q : Drift SlotState} {R : Drift Stream} (s : State) (t : Tables) (l : List RuleSet) :
    Frame Q R s { s with tables := t, sets := l } := .of_disp rfl rfl

theorem freePlan_frame (s : State) (x : Stream) : Frame ctlDrift numberDrift s (freePlan s x) :=
  (uncharge_frame ..).trans (setStream_quiet fun _ _ => rfl).toFrame

theorem sizeSlough_frame {R : Drift Stream} (hR : ∀ x n, R.rel x { x with slough := n }) (s : State) (x : Stream) (n : Nat) :
    Frame ctlDrift R s (sizeSlough s x n) := by
  unfold sizeSlough
  split
  · exact .refl
  · exact ((uncharge_frame ..).trans (charge_frame ..)).trans (setStream_quiet fun y _ => hR y n).toFrame

theorem setTable_contract (s : State) (id : Nat) (f : TableEnt → TableEnt) : (s.setTable id f).contract = s.contract := by
  simp only [State.setTable, State.contract_with]

theorem trackTable_contract (s : State) (id : Nat) : (trackTable s id).contract = s.contract := by
  unfold trackTable
  split
  · rfl
  · refine foldl_contract (fun s k => ?_) _ s
    split
    · exact setCulv_contract ..
    · exact setTable_contract ..

/-- What a bound plan is made of. -/
def boundPlan (r : Rec) (d : Draft) (plan : List (List Byte)) : Plan :=
  ⟨plan, r.n 33 1, r.n 34 1, r.n 35 1, d.tables, d.blocks⟩

/-- A stream as the bind leaves it, before it takes its state. -/
def takesPlan (r : Rec) (d : Draft) (plan : List (List Byte)) (x : Stream) : Stream :=
  { x with
    plan := some (boundPlan r d plan)
    cache := cacheMib plan
    cached := []
    charged := (0, boundBytes plan)
    cursor := bindCursor plan
    epochBad := 0
    badEpoch := (bindCursor plan).1
    cursorBy := none }

/-- A bind frees and charges, and then its stream takes the plan and is BOUND. -/
theorem adoptPlan_split (slot : Nat) (r : Rec) (x : Stream) (d : Draft) (plan : List (List Byte)) (s : State) :
    ∃ u, Frame ctlDrift numberDrift s u
      ∧ adoptPlan slot r x d plan s = releaseTables (setState (u.setStream x.id (takesPlan r d plan)) x.id .bound) := by
  refine ⟨_, ?_, rfl⟩
  have hslough := ((freePlan_frame s x).trans (sizeSlough_frame (fun _ _ => rfl) (freePlan s x) x
    (sloughBytes x plan (r.n 33 1) (r.n 35 1))))
  have hfree := hslough.trans (frame_of_contents (bare_keeps fun _ => rfl) (freeResidents_contents _ x.id))
  have hbinds := hfree.trans (freeBinds_frame _ x.id)
  refine Frame.trans ?_ (with_binds_frame _ _)
  refine Frame.trans ?_ (charge_frame ..)
  refine Frame.trans ?_ (frame_of_contract (foldl_contract trackTable_contract _ _))
  exact hbinds.trans (with_tables_frame _ _ _)

theorem setBound_firstIs {s : State} {id : Nat} {f : Stream → Stream} {p : Plan} {x : Stream} (hx : s.stream? id = some x)
    (hid : ∀ x, (f x).id = x.id) (hp : ∀ x, (f x).plan = some p) :
    (setState (s.setStream id f) id .bound).FirstIs id fun x => x.state = .bound ∧ x.plan = some p := by
  rw [setState_bound, State.setStream_setStream s id hid]
  have h : s.FirstIs id fun _ => True := ⟨x, hx, trivial⟩
  have h := h.setStream (f := fun x => { f x with state := .bound, dirty := true }) hid (P' := fun x => x.state = .bound ∧ x.plan = some p)
    fun x _ => ⟨rfl, hp x⟩
  exact h.frame (Q := .any) (frame_of_contents (R := planDrift) (bare_keeps fun _ => rfl) (freeResidents_contents _ id))
    (fun _ _ => planDrift_id) fun _ _ hab h => planDrift_bound hab h

theorem setBatch_frame {Q : Drift SlotState} {R : Drift Stream} (hR : ∀ x bs, R.rel x { x with batches := bs }) (s : State) (id idx : Nat)
    (f : Batch → Batch) : Frame Q R s (s.setBatch id idx f) := (setStream_quiet fun x _ => hR x _).toFrame

theorem giveTurn_frame {Q : Drift SlotState} {R : Drift Stream} (hR : ∀ x o, R.rel x { x with cring := o }) (s : State) (id idx : Nat)
    (c : Comp) (a : After) : Frame Q R s (giveTurn s (.comp id) idx c a) := (setStream_quiet fun x _ => hR x _).toFrame

theorem recheckOne_frame (id : Nat) (x : Stream) (p : Plan) (s : State) (b : Batch) : Frame ctlDrift planDrift s (recheckOne id x p s b) := by
  have hr : Frame ctlDrift planDrift s _ := (batchFails_reads s (some p) (s.level x.session) b.rows b.inAddr b.inDesc.length b.outAddr
    b.outDesc.length).toAccess.frame
  simp only [recheckOne]
  split
  · exact hr.trans (setBatch_frame (fun _ _ => rfl) ..)
  · refine Frame.trans ?_ (giveTurn_frame (fun _ _ => rfl) ..)
    refine Frame.trans ?_ (frame_of_contents (bare_keeps fun _ => rfl) (countReject_contents ..))
    refine Frame.trans ?_ (setBatch_frame (fun _ _ => rfl) ..)
    exact hr.trans (frame_of_contents (bare_keeps fun _ => rfl) (batchCount_contents ..))

theorem recheckHeld_frame (s : State) (id : Nat) : Frame ctlDrift planDrift s (recheckHeld s id) := by
  unfold recheckHeld
  split
  · exact .refl
  · split
    · exact .refl
    · exact foldl_frame_of (recheckOne_frame id _ _) _ s

/-- A stream that adopts a plan is BOUND to it once its held batches have been checked again. -/
theorem adoptPlan_bound {slot : Nat} {r : Rec} {x : Stream} {d : Draft} {plan : List (List Byte)} {s : State} {y : Stream}
    (hy : s.stream? x.id = some y) :
    let t := recheckHeld (adoptPlan slot r x d plan s) x.id
    (t.FirstIs x.id fun x => x.state = .bound ∧ x.plan = some (boundPlan r d plan)) ∧ Frame ctlDrift numberDrift s t := by
  obtain ⟨u, hu, heq⟩ := adoptPlan_split slot r x d plan s
  obtain ⟨z, hz, _⟩ := hu.stream?_some (fun _ _ hab => hab) hy
  have hb := setBound_firstIs (f := takesPlan r d plan) hz (fun _ => rfl) fun _ => rfl
  have hrel : Frame ctlDrift planDrift _ (adoptPlan slot r x d plan s) := heq ▸ frame_of_contract (releaseTables_contract _)
  have hlast := hrel.trans (recheckHeld_frame (adoptPlan slot r x d plan s) x.id)
  have hset : Frame ctlDrift numberDrift u (setState (u.setStream x.id (takesPlan r d plan)) x.id .bound) :=
    Frame.trans (setStream_quiet fun _ _ => rfl).toFrame (setState_frame (bare_keeps fun _ => rfl) _ _ fun _ _ => rfl)
  exact ⟨hb.frame hlast (fun _ _ => planDrift_id) fun _ _ hab h => planDrift_bound hab h,
    (hu.trans hset).trans (hlast.mono (fun _ _ h => h) fun _ _ => planDrift_id)⟩

/-- BIND_PLAN that passes its checks and names no peer leaves its stream BOUND to the plan as read. -/
theorem bindPlan_binds {slot : Nat} {peers : List PeerAnswer} {s : State} {r : Rec} (hk : slot < s.disp.slots.length)
    (hf : frontCtl s slot 0x11 = some r) (hscomp : (s.slot slot).scomp.isSome = true) {x : Stream} {d : Draft} {plan : List (List Byte)}
    (hc : pickFail (bindChecks slot r (takeCtl s slot r)).2.1 = none)
    (hplan : (bindChecks slot r (takeCtl s slot r)).2.2 = some (d, plan)) (hx : s.open? r.stream = some x)
    (hpeers : remotesOf plan d.blocks = []) :
    let t := bindPlan slot peers s
    (t.FirstIs r.stream fun x => x.state = .bound ∧ x.plan = some (boundPlan r d plan)) ∧ Completes t slot r stDone (r.n 32 1) := by
  have ht := takeCtl_ctlOnly hk r
  have hr := bindChecks_reads slot r (takeCtl s slot r)
  have hid := State.open?_id hx
  dsimp only
  rw [bindPlan_eq hf]
  generalize hfound : bindChecks slot r (takeCtl s slot r) = found at hr hc hplan
  obtain ⟨u, fs, got⟩ := found
  cases hplan
  have hopen : u.open? r.stream = some x := by rw [State.open?, hr.disp]; exact (ht.open? _).trans hx
  obtain ⟨y, hy⟩ := State.stream?_of_open? hopen
  obtain ⟨hb, hframe⟩ := adoptPlan_bound (slot := slot) (r := r) (d := d) (plan := plan) (hid ▸ hy)
  have hu : u.disp.slots = (takeCtl s slot r).disp.slots := by rw [hr.disp]
  have hlen : slot < u.disp.slots.length := by rw [hu]; exact ht.length ▸ hk
  have hs : ((recheckHeld (adoptPlan slot r x d plan u) x.id).slot slot).scomp.isSome = true := by
    rw [hframe.scomp, State.slot, hu]
    exact ht.scomp_isSome hscomp
  obtain ⟨h, hdone⟩ := endCtl_settled (hframe.slots_length.symm ▸ hlen) hs r stDone 0 (r.n 32 1)
    (mostTiles (((some (d, plan)).map (·.2)).getD [])) .nothing
  simp only [bindGo, hfound, hc, hopen, hpeers, List.foldl_nil]
  exact ⟨hid ▸ hb.of_streams h.streams, hdone.completes⟩

/-- Settles O35, by what the checks read, and by what is left of a stream that is opened or takes a plan. -/
theorem openStreamAndBind : Obligations.OpenStreamAndBind := by
  refine ⟨fun slot s r hs hclean hslot hf hscomp hc => ?_, fun slot peers s r hs hclean hslot hf hscomp => ⟨fun f hc => ?_,
    fun x d plan hc hplan hx _ hpeers => ?_⟩⟩ <;>
  have hk : slot < s.disp.slots.length := by rw [sound_slots hs]; exact hslot
  · obtain ⟨hx, hdone, hothers, hmem, hfuses⟩ := openStream_opens hclean hk hf hscomp hc
    have ho := State.open?_of_stream? hx (by simp)
    exact ⟨_, _, rfl, State.streamState_of_open? ho, hx, rfl, rfl, rfl, rfl, rfl, rfl, rfl, rfl, rfl, hdone, hothers, hmem, hfuses⟩
  · obtain ⟨hstreams, hdone, htables, hmem⟩ := bindPlan_refused hclean hk hf hscomp hc
    exact ⟨bindPlan slot peers s, rfl, hstreams _, hdone, fun j _ => hstreams j, htables, hmem⟩
  · obtain ⟨hb, hdone⟩ := bindPlan_binds (peers := peers) hk hf hscomp hc hplan hx hpeers
    obtain ⟨y, hy, _, hp⟩ := id hb
    exact ⟨_, y, _, rfl, (hb.mono fun _ h => h.1).streamState (by simp), hy, hp, rfl, rfl, rfl, hdone⟩

end Sys2Proof.Machine
end

section
/-! PROOFS. O37: RESET_STREAM and CLOSE_STREAM leave the stream IDLE or closed, and complete (R46, R49, R50). -/

namespace Sys2Proof.Machine

/-! ### What unwinding a stream keeps of it -/

/-- What a reset or a close, as it goes on, does not undo: the records that wait for it, a plan that is unbound, transfer slots
that are empty, a ring that is not in overrun, and no batch and no turn where there was none. -/
structure Unwound (a b : Stream) : Prop where
  id : b.id = a.id
  waits : b.resetWait = a.resetWait
  closing : b.closing = a.closing
  plan : a.plan = none → b.plan = none
  slots : a.slots = List.replicate 16 {} → b.slots = List.replicate 16 {}
  overrun : a.overrun = false → b.overrun = false
  batches : a.batches = [] → b.batches = []
  turns : a.cring.turns = [] → b.cring.turns = []

theorem Unwound.refl (a : Stream) : Unwound a a := ⟨rfl, rfl, rfl, fun h => h, fun h => h, fun h => h, fun h => h, fun h => h⟩

theorem Unwound.trans {a b c : Stream} (h : Unwound a b) (g : Unwound b c) : Unwound a c :=
  ⟨g.id.trans h.id, g.waits.trans h.waits, g.closing.trans h.closing, g.plan ∘ h.plan, g.slots ∘ h.slots, g.overrun ∘ h.overrun,
    g.batches ∘ h.batches, g.turns ∘ h.turns⟩

def unwinds : Drift Stream := ⟨Unwound, Unwound.refl, Unwound.trans⟩

theorem setStream_unwinds {Q : Drift SlotState} {s : State} {id : Nat} {f : Stream → Stream} (hf : ∀ x, Unwound x (f x)) :
    Frame Q unwinds s (s.setStream id f) := (setStream_quiet fun x _ => hf x).toFrame

theorem Frame.numbers {s t : State} (h : Frame ctlDrift unwinds s t) : Frame ctlDrift numberDrift s t :=
  h.mono (fun _ _ h => h) fun _ _ h => h.id

theorem bare_unwound (a b : Stream) (h : bareDrift.rel a b) : Unwound a b where
  id := bareDrift_id h
  waits := bare_keeps (fun _ => rfl) a b h
  closing := bare_keeps (fun _ => rfl) a b h
  plan := fun ha => (bare_keeps (p := Stream.plan) (fun _ => rfl) a b h).trans ha
  slots := fun ha => (bare_keeps (p := Stream.slots) (fun _ => rfl) a b h).trans ha
  overrun := fun ha => (bare_keeps (p := Stream.overrun) (fun _ => rfl) a b h).trans ha
  batches := fun ha => (bare_keeps (p := Stream.batches) (fun _ => rfl) a b h).trans ha
  turns := fun ha => (bare_keeps (p := fun x => x.cring.turns) (fun _ => rfl) a b h).trans ha

/-! ### The steps of a reset and of a close -/

theorem freePlan_unwinds (s : State) (x : Stream) : Frame ctlDrift unwinds s (freePlan s x) :=
  (uncharge_frame ..).trans (setStream_unwinds fun _ => ⟨rfl, rfl, rfl, fun _ => rfl, fun h => h, fun h => h, fun h => h, fun h => h⟩)

/-- The plan of a stream is unbound: its first stream has none. -/
theorem unbindPlan_frame (s : State) (id : Nat) : Frame ctlDrift unwinds s (unbindPlan s id) := by
  unfold unbindPlan
  split
  · exact .refl
  · refine Frame.trans ?_ (frame_of_contract (releaseTables_contract _))
    refine Frame.trans ?_ (freeBinds_frame ..)
    exact (freePlan_unwinds ..).trans (frame_of_contents bare_unwound (freeResidents_contents ..))

theorem unbindPlan_plan {s : State} {id : Nat} {x : Stream} (hx : s.stream? id = some x) :
    (unbindPlan s id).FirstIs id fun y => y.plan = none := by
  have hid := State.stream?_id hx
  have hfree : (freePlan s x).FirstIs id fun y => y.plan = none := by
    have h : (uncharge s x.session (x.charged.1 + x.cache * 2 ^ 20) x.charged.2).FirstIs x.id fun _ => True := ⟨x, hid ▸ hx, trivial⟩
    rw [← hid]
    exact h.setStream (fun _ => rfl) fun _ _ => rfl
  have hres := hfree.frame (frame_of_contents (Q := .any) (R := unwinds) bare_unwound (freeResidents_contents _ id)) (fun _ _ => Unwound.id)
    fun _ _ => Unwound.plan
  simp only [unbindPlan, hx]
  refine (State.FirstIs.of_streams (t := freeBinds (freeResidents (freePlan s x) id) id) hres rfl).of_streams ?_
  exact congrArg (fun p : Disp × Fuses => p.1.streams) (releaseTables_contract _)

theorem giveTurn_unwinds {Q : Drift SlotState} (s : State) (id idx : Nat) (c : Comp) (a : After) :
    Frame Q unwinds s (giveTurn s (.comp id) idx c a) :=
  setStream_unwinds fun _ => ⟨rfl, rfl, rfl, fun h => h, fun h => h, fun h => h, fun h => h, fun h => by simp [h]⟩

theorem endRearm_frame {Q : Drift SlotState} (s : State) (id : Nat) (d : SlotDesc) (status flags : Nat) :
    Frame Q unwinds s (endRearm s id d status flags) := by
  unfold endRearm
  split
  · exact giveTurn_unwinds ..
  · exact .refl

theorem endRearms_frame {Q : Drift SlotState} (s : State) (id : Nat) (l : List SlotDesc) (status flags : Nat) :
    Frame Q unwinds s (l.foldl (fun s d => endRearm s id d status flags) s) :=
  foldl_frame_of (fun s d => endRearm_frame s id d status flags) l s

theorem stopShadows_frame {Q : Drift SlotState} (s : State) (id : Nat) : Frame Q unwinds s (stopShadows s id) := by
  unfold stopShadows
  split
  · exact .refl
  · exact (endRearms_frame s id _ stStopped 0).trans
      (setStream_unwinds fun _ => ⟨rfl, rfl, rfl, fun h => h, fun h => by simp [h], fun h => h, fun h => h, fun h => h⟩)

theorem clearSlots_frame {Q : Drift SlotState} (s : State) (id : Nat) : Frame Q unwinds s (clearSlots s id) := by
  refine (stopShadows_frame s id).trans ?_
  simp only [clearSlots]
  split
  · exact .refl
  · exact (endRearms_frame _ id _ stDone 0).trans
      (setStream_unwinds fun _ => ⟨rfl, rfl, rfl, fun h => h, fun _ => rfl, fun h => h, fun h => h, fun h => h⟩)

theorem clearSlots_slots {s : State} {id : Nat} {P : Stream → Prop} (h : s.FirstIs id P) :
    (clearSlots s id).FirstIs id fun y => y.slots = List.replicate 16 {} := by
  have hs : (stopShadows s id).FirstIs id fun _ => True :=
    h.frame (stopShadows_frame (Q := .any) s id) (fun _ _ => Unwound.id) fun _ _ _ _ => trivial
  have ⟨x, hx, _⟩ := hs
  simp only [clearSlots, hx]
  refine State.FirstIs.setStream (P := fun _ => True) ?_ (fun _ => rfl) fun _ _ => rfl
  exact hs.frame (endRearms_frame (Q := .any) _ id _ stDone 0) (fun _ _ => Unwound.id) fun _ _ _ _ => trivial

theorem ringFault_frame {Q : Drift SlotState} (s : State) (cause : Nat) (ref : RingRef) (completion : Bool) :
    Frame Q unwinds s (ringFault s cause ref completion) := frame_of_contents bare_unwound (ringFault_contents ..)

theorem setStreamRing_frame {Q : Drift SlotState} (s : State) (id : Nat) (f : RingIn → RingIn) :
    Frame Q unwinds s (s.setRingIn (.stream id) f) :=
  setStream_unwinds fun _ => ⟨rfl, rfl, rfl, fun h => h, fun h => h, fun h => h, fun h => h, fun h => h⟩

/-- HEAD and TAIL of a stream's ring are written, or owed (R32). -/
theorem writeHeads_frame {Q : Drift SlotState} (s : State) (id : Nat) : Frame Q unwinds s (writeHeads s (.stream id)) := by
  unfold writeHeads
  split
  · exact .refl
  · rename_i r _
    have h : Frame Q unwinds s _ := ((write64_access s (r.addr + 16) r.head).trans (write64_access _ (r.addr + 24) r.tail)).frame
    dsimp only
    split
    · exact h.trans (setStreamRing_frame ..)
    · exact (h.trans (setStreamRing_frame ..)).trans (ringFault_frame ..)

/-- A stream's ring whose records are skipped up to a WATCH value. -/
def skipTo (w : Nat) (x : Stream) : Stream :=
  { x with
    ring := { x.ring with
      head := w
      tail := w
      stopped := false }
    overrun := false }

/-- A skip reads WATCH, and sets HEAD and TAIL to what it read, or to TAIL. -/
theorem skipRing_split {s : State} {id : Nat} {x : Stream} (hx : s.stream? id = some x) :
    ∃ u w, Frame .same unwinds s u ∧ skipRing s id = writeHeads (u.setStream id (skipTo w)) (.stream id) := by
  have hr := read64_reads s (x.ring.addr + 48)
  simp only [skipRing, hx]
  split <;> rename_i e <;> rw [e] at hr
  · exact ⟨_, _, hr.toAccess.frame, rfl⟩
  · exact ⟨_, _, hr.toAccess.frame.trans (ringFault_frame ..), rfl⟩

theorem same_frame {Q : Drift SlotState} {R : Drift Stream} {s t : State} (h : Frame .same R s t) : Frame Q R s t :=
  h.mono (fun a _ hab => by cases hab; exact Q.refl a) fun _ _ hab => hab

theorem skipRing_frame {Q : Drift SlotState} (s : State) (id : Nat) : Frame Q unwinds s (skipRing s id) := by
  cases hx : s.stream? id with
  | none => simp only [skipRing, hx]; exact .refl
  | some x =>
    obtain ⟨u, w, hu, heq⟩ := skipRing_split hx
    rw [heq]
    refine ((same_frame hu).trans ?_).trans (writeHeads_frame _ id)
    exact setStream_unwinds fun _ => ⟨rfl, rfl, rfl, fun h => h, fun h => h, fun _ => rfl, fun h => h, fun h => h⟩

theorem skipRing_overrun {s : State} {id : Nat} {P : Stream → Prop} (h : s.FirstIs id P) :
    (skipRing s id).FirstIs id fun y => y.overrun = false := by
  obtain ⟨x, hx, hp⟩ := h
  obtain ⟨u, w, hu, heq⟩ := skipRing_split hx
  rw [heq]
  have hfirst : s.FirstIs id fun _ => True := ⟨x, hx, trivial⟩
  have hskip : (u.setStream id (skipTo w)).FirstIs id fun y => y.overrun = false :=
    (hfirst.frame (P' := fun _ => True) hu (fun _ _ => Unwound.id) fun _ _ _ _ => trivial).setStream (fun _ => rfl) fun _ _ => rfl
  exact hskip.frame (writeHeads_frame (Q := .any) _ id) (fun _ _ => Unwound.id) fun _ _ => Unwound.overrun

theorem setState_unwinds {Q : Drift SlotState} (s : State) (id : Nat) (st : SState) : Frame Q unwinds s (setState s id st) :=
  setState_frame bare_unwound s id fun x _ => (⟨rfl, rfl, rfl, fun h => h, fun h => h, fun h => h, fun h => h, fun h => h⟩ :
    Unwound x { x with state := st, dirty := true })

theorem setState_idle {s : State} {id : Nat} {P : Stream → Prop} (h : s.FirstIs id P) :
    (setState s id .idle).FirstIs id fun y => y.state = .idle := by
  have hs : (s.setStream id fun x => { x with state := .idle, dirty := true }).FirstIs id fun y => y.state = .idle :=
    h.setStream (fun _ => rfl) fun _ _ => rfl
  exact hs.frame (frame_of_contents (Q := .any) (R := bareDrift) (fun _ _ h => h) (freeResidents_contents _ id)) (fun _ _ => bareDrift_id)
    fun _ _ g hst => (bareDrift_state g).trans hst

/-! ### A reset or a close that may be complete -/

theorem endLate_streams (s : State) (slot idx status count : Nat) (a : After) :
    (endLate s slot idx status count a).disp.streams = s.disp.streams := by
  unfold endLate
  split <;> rfl

theorem endLate_frame {R : Drift Stream} (s : State) (slot idx status count : Nat) (a : After) :
    Frame .any R s (endLate s slot idx status count a) := by
  unfold endLate
  split
  · exact (setSlot_quiet fun _ => trivial).toFrame
  · exact .refl

/-- A record in progress that ends late completes. -/
theorem endLate_completesWith {s : State} {slot : Nat} (hk : slot < s.disp.slots.length) (hs : (s.slot slot).scomp.isSome = true) {r : Rec}
    (hr : inflightRec s slot r.idx = some r) (status count : Nat) (a : After) :
    CompletesWith (endLate s slot r.idx status count a) slot r status count 0 := by
  simp only [endLate, hr]
  exact endCtl_completesWith hk hs ..

/-- The completions that are due, where no stream closes, change no stream. -/
theorem resetProgress_streams {s : State} {id : Nat} {x : Stream} (hx : s.stream? id = some x) (hw : ∀ w ∈ x.resetWait, w.2.2 = false) :
    (resetProgress s id).disp.streams
      = (s.setStream id fun x => { x with resetWait := x.resetWait.filter fun w => owedBy x w.2.2 }).disp.streams := by
  have hfold (l : List (Nat × Nat × Bool)) (hl : ∀ w ∈ l, w.2.2 = false) (s : State) :
      (l.foldl (fun s w => endLate (if w.2.2 then setState s id .closed else s) w.1 w.2.1 stDone 0 .nothing) s).disp.streams
        = s.disp.streams := by
    induction l generalizing s with
    | nil => rfl
    | cons w t ih =>
      rw [List.foldl_cons, ih (fun w h => hl w (List.mem_cons_of_mem _ h)), endLate_streams, hl w List.mem_cons_self]
      rfl
  simp only [resetProgress, hx]
  exact hfold _ (fun w h => hw w (List.mem_filter.1 h).1) _

/-- A stream's number, plan and close are as they were. -/
def closingDrift : Drift Stream := .keeps fun x => (x.id, x.closing, x.plan)

theorem resetProgress_frame (s : State) (id : Nat) : Frame .any closingDrift s (resetProgress s id) := by
  unfold resetProgress
  split
  · exact .refl
  · refine (setStream_quiet fun _ _ => rfl).toFrame.trans (foldl_frame_of (fun s w => ?_) _ _)
    refine Frame.trans ?_ (endLate_frame ..)
    split
    · exact setState_frame (bare_keeps fun _ => rfl) s id fun _ _ => rfl
    · exact .refl

/-- One record waits for a stream that owes nothing: it completes, and a stream that closes is closed. -/
theorem resetProgress_one {s : State} {id slot idx : Nat} {closes : Bool} {x : Stream} (hx : s.stream? id = some x)
    (hw : x.resetWait = [(slot, idx, closes)]) (hb : x.batches = []) (ht : x.cring.turns = []) :
    let u := s.setStream id fun x => { x with resetWait := x.resetWait.filter fun w => owedBy x w.2.2 }
    resetProgress s id = endLate (if closes then setState u id .closed else u) slot idx stDone 0 .nothing := by
  simp [resetProgress, hx, hw, owedBy, hb, ht]

theorem State.FirstIs.elim {s : State} {id : Nat} {P : Stream → Prop} (h : s.FirstIs id P) {x : Stream} (hx : s.stream? id = some x) :
    P x := by
  obtain ⟨y, hy, hp⟩ := h
  rw [hx] at hy
  cases hy
  exact hp

/-- A closed number has no open stream. -/
theorem setState_closed (s : State) (id : Nat) : (setState s id .closed).streamState id = .closed := by
  have h : Frame .any bareDrift (s.setStream id fun x => { x with state := .closed, dirty := true }) (setState s id .closed) :=
    frame_of_contents (fun _ _ h => h) (freeResidents_contents _ id)
  rw [State.streamState, State.open?_of_all_closed]
  · rfl
  · intro y hy hid
    obtain ⟨x, hx, hxy⟩ := h.mem_stream hy
    obtain ⟨z, _, _, rfl⟩ := State.mem_setStream hx ((bareDrift_id hxy).symm.trans hid)
    exact bareDrift_state hxy

/-- A record that starts is the one in progress by its index, where no other is. -/
theorem inflightRec_takeCtl {s : State} {slot : Nat} (hk : slot < s.disp.slots.length) {r : Rec}
    (h : ∀ q ∈ (s.slot slot).inflight, q.idx ≠ r.idx) : inflightRec (takeCtl s slot r) slot r.idx = some r := by
  have hin : ((takeCtl s slot r).slot slot).inflight = (s.slot slot).inflight ++ [r] := by
    have hk' := (dropRec_ctlOnly (s := s) hk).length ▸ hk
    change (((s.setRingIn (.ctl slot) _).setSlot slot _).slot slot).inflight = _
    rw [State.setSlot_slot_self hk']
    change ((s.setSlot slot _).slot slot).inflight ++ [r] = _
    rw [State.setSlot_slot_self hk]
  have hn : (s.slot slot).inflight.find? (·.idx == r.idx) = none := by
    rw [List.find?_eq_none]
    intro q hq
    simpa using h q hq
  simp [inflightRec, hin, hn]

section
variable {s u : State} {slot : Nat} {r : Rec} {closes : Bool} {x : Stream}

/-- The record of a reset or a close, which waits for a stream that owes nothing, completes. -/
theorem resetProgress_completes (hk : slot < s.disp.slots.length) (hscomp : (s.slot slot).scomp.isSome = true)
    (hr : inflightRec s slot r.idx = some r) (hu : Frame ctlDrift numberDrift s u) (hx : u.stream? r.stream = some x)
    (hw : x.resetWait = [(slot, r.idx, closes)]) (hb : x.batches = []) (ht : x.cring.turns = []) :
    CompletesWith (resetProgress u r.stream) slot r stDone 0 0
      ∧ (closes = true → (resetProgress u r.stream).streamState r.stream = .closed) := by
  rw [resetProgress_one hx hw hb ht]
  have hset : Frame ctlDrift numberDrift s
      (u.setStream r.stream fun x => { x with resetWait := x.resetWait.filter fun w => owedBy x w.2.2 }) :=
    hu.trans (setStream_quiet fun _ _ => rfl).toFrame
  generalize u.setStream r.stream (fun x => { x with resetWait := x.resetWait.filter fun w => owedBy x w.2.2 }) = v at hset
  have hv : Frame ctlDrift numberDrift s (if closes then setState v r.stream .closed else v) := by
    split
    · exact hset.trans (setState_frame (bare_keeps fun _ => rfl) _ _ fun _ _ => rfl)
    · exact hset
  refine ⟨endLate_completesWith (hv.slots_length.symm ▸ hk) (by rw [hv.scomp]; exact hscomp) ?_ .., ?_⟩
  · rw [inflightRec, hv.inflight]
    exact hr
  · rintro rfl
    rw [State.streamState, State.open?, endLate_streams]
    exact setState_closed v r.stream

end

section
variable {s u : State} {slot : Nat} {r : Rec} {x : Stream} (hk : slot < s.disp.slots.length) (hscomp : (s.slot slot).scomp.isSome = true)
  (hu : Frame ctlDrift numberDrift (takeCtl s slot r) u) (hx : u.stream? r.stream = some x)
include hk hu

/-- What the end of a reset or a close, and refusals of the records behind it, keep. -/
theorem progress_ctlOnly : CtlOnly slot (resetProgress u r.stream) (settle (resetProgress u r.stream) (.ctl slot)) :=
  settle_ctlOnly (by rw [(resetProgress_frame u r.stream).slots_length, hu.slots_length, (takeCtl_ctlOnly hk r).length]; exact hk)

theorem progress_fuses : (settle (resetProgress u r.stream) (.ctl slot)).fuses = s.fuses :=
  (progress_ctlOnly hk hu).fuses.trans ((resetProgress_frame u r.stream).fuses.trans (hu.fuses.trans (takeCtl_ctlOnly hk r).fuses))

include hscomp hx

theorem progress_completes (hin : ∀ q ∈ (s.slot slot).inflight, q.idx ≠ r.idx) {closes : Bool} (hw : x.resetWait = [(slot, r.idx, closes)])
    (hb : x.batches = []) (ht : x.cring.turns = []) :
    Completes (settle (resetProgress u r.stream) (.ctl slot)) slot r stDone 0
      ∧ (closes = true → (settle (resetProgress u r.stream) (.ctl slot)).streamState r.stream = .closed) := by
  have htake := takeCtl_ctlOnly hk r
  have h := progress_ctlOnly hk hu
  obtain ⟨hc, hclosed⟩ := resetProgress_completes (htake.length ▸ hk) (htake.scomp_isSome hscomp) (inflightRec_takeCtl hk hin) hu hx hw
    hb ht
  exact ⟨hc.completes.ctlOnly h, fun e => (h.streamState _).trans (hclosed e)⟩

end

/-! ### RESET_STREAM -/

/-- A stream on its way to IDLE (R50). -/
def resetting (s : State) (id : Nat) : State := setState (skipRing (clearSlots (unbindPlan s id) id) id) id .idle

theorem resetting_frame (s : State) (id : Nat) : Frame ctlDrift unwinds s (resetting s id) :=
  (((unbindPlan_frame s id).trans (clearSlots_frame _ id)).trans (skipRing_frame _ id)).trans (setState_unwinds _ id .idle)

theorem resetting_stream {s : State} {id : Nat} {x : Stream} (hx : s.stream? id = some x) :
    ∃ y, (resetting s id).stream? id = some y ∧ Unwound x y ∧ y.state = .idle ∧ y.plan = none ∧ y.slots = List.replicate 16 {}
      ∧ y.overrun = false := by
  have hclear : Frame .any unwinds _ _ := clearSlots_frame (unbindPlan s id) id
  have hskip : Frame .any unwinds _ _ := skipRing_frame (clearSlots (unbindPlan s id) id) id
  have hidle : Frame .any unwinds _ _ := setState_unwinds (skipRing (clearSlots (unbindPlan s id) id) id) id .idle
  have hplan := unbindPlan_plan hx
  have hslots := clearSlots_slots hplan
  have hover := skipRing_overrun hslots
  obtain ⟨y, hy, hxy⟩ := (resetting_frame s id).stream?_some (fun _ _ => Unwound.id) hx
  refine ⟨y, hy, hxy, (setState_idle hover).elim hy, ?_, ?_, ?_⟩
  · exact (hplan.frame ((hclear.trans hskip).trans hidle) (fun _ _ => Unwound.id) fun _ _ => Unwound.plan).elim hy
  · exact (hslots.frame (hskip.trans hidle) (fun _ _ => Unwound.id) fun _ _ => Unwound.slots).elim hy
  · exact (hover.frame hidle (fun _ _ => Unwound.id) fun _ _ => Unwound.overrun).elim hy

/-- A stream whose reset has started, but for the completions that it owes. -/
def resetAsked (slot idx : Nat) (x : Stream) : Stream :=
  { x with
    resetWait := x.resetWait ++ [(slot, idx, false)]
    cursorBy := none }

/-- A reset stream is IDLE, and its record completes where the stream owes no completion. -/
theorem reset_settled {slot : Nat} {s : State} {r : Rec} {x : Stream} (hk : slot < s.disp.slots.length)
    (hscomp : (s.slot slot).scomp.isSome = true) (hx : s.stream? r.stream = some x) (hwait : ∀ w ∈ x.resetWait, w.2.2 = false)
    (hin : ∀ q ∈ (s.slot slot).inflight, q.idx ≠ r.idx) {t : State}
    (ht : t = settle (resetProgress ((resetting (takeCtl s slot r) r.stream).setStream r.stream (resetAsked slot r.idx)) r.stream)
      (.ctl slot)) :
    (∃ y, t.stream? r.stream = some y ∧ y.state = .idle ∧ y.plan = none ∧ y.slots = List.replicate 16 {} ∧ y.overrun = false)
      ∧ t.fuses = s.fuses ∧ (x.batches = [] → x.cring.turns = [] → x.resetWait = [] → Completes t slot r stDone 0) := by
  obtain ⟨y, hy, hxy, hidle, hplan, hslots, hover⟩ := resetting_stream (((takeCtl_ctlOnly hk r).stream? _).trans hx)
  have hu := (resetting_frame (takeCtl s slot r) r.stream).numbers.trans
    (setStream_quiet (id := r.stream) (f := resetAsked slot r.idx) fun _ _ => rfl).toFrame
  have huy := State.setStream_stream? (resetting (takeCtl s slot r) r.stream) r.stream (f := resetAsked slot r.idx) fun _ => rfl
  rw [hy, Option.map_some] at huy
  generalize (resetting (takeCtl s slot r) r.stream).setStream r.stream (resetAsked slot r.idx) = u at ht hu huy
  subst ht
  refine ⟨?_, progress_fuses hk hu, fun hb htn hw => ?_⟩
  · have hstreams := resetProgress_streams huy fun w hw => by
      obtain hw | hw := List.mem_append.1 hw
      · exact hwait w (hxy.waits ▸ hw)
      · rw [List.mem_singleton.1 hw]
    have hfirst : u.FirstIs r.stream fun z => z.state = .idle ∧ z.plan = none ∧ z.slots = List.replicate 16 {} ∧ z.overrun = false :=
      ⟨_, huy, hidle, hplan, hslots, hover⟩
    refine State.FirstIs.of_streams (State.FirstIs.of_streams ?_ hstreams) (progress_ctlOnly hk hu).streams
    exact hfirst.setStream (f := fun x => { x with resetWait := x.resetWait.filter fun w => owedBy x w.2.2 }) (fun _ => rfl)
      fun _ h => h
  · have hone : (resetAsked slot r.idx y).resetWait = [(slot, r.idx, false)] := by
      simp only [resetAsked, hxy.waits, hw, List.nil_append]
    exact (progress_completes hk hscomp hu huy hin hone (hxy.batches hb) (hxy.turns htn)).1

/-! ### CLOSE_STREAM -/

theorem stopOne_frame {Q : Drift SlotState} (id : Nat) (s : State) (b : Batch) : Frame Q unwinds s (stopOne id s b) := by
  unfold stopOne
  split
  · exact .refl
  · rename_i x _
    have hcount : Frame Q unwinds s (batchCount s x b).1 := frame_of_contents bare_unwound (batchCount_contents s x b)
    have hset : Frame Q unwinds _ ((batchCount s x b).1.setBatch id b.idx fun b => { b with state := .done, stopped := true }) :=
      setStream_unwinds fun _ => ⟨rfl, rfl, rfl, fun h => h, fun h => h, fun h => h, fun h => by simp [h], fun h => h⟩
    exact (hcount.trans hset).trans (giveTurn_unwinds ..)

theorem stopUnstarted_frame {Q : Drift SlotState} (s : State) (id : Nat) : Frame Q unwinds s (stopUnstarted s id) := by
  unfold stopUnstarted
  split
  · exact .refl
  · exact foldl_frame_of (stopOne_frame id) _ s

theorem freeSlough_frame (s : State) (id : Nat) : Frame ctlDrift unwinds s (freeSlough s id) := by
  unfold freeSlough
  split
  · exact .refl
  · exact sizeSlough_frame (fun x n => (⟨rfl, rfl, rfl, fun h => h, fun h => h, fun h => h, fun h => h, fun h => h⟩ :
      Unwound x { x with slough := n })) ..

/-- A stream on its way to be closed (R46, R76). -/
def closingDown (s : State) (id : Nat) : State := freeSlough (unbindPlan (clearSlots (stopUnstarted s id) id) id) id

theorem closingDown_frame (s : State) (id : Nat) : Frame ctlDrift unwinds s (closingDown s id) :=
  (((stopUnstarted_frame s id).trans (clearSlots_frame _ id)).trans (unbindPlan_frame _ id)).trans (freeSlough_frame _ id)

theorem closingDown_stream {s : State} {id : Nat} {x : Stream} (hx : s.stream? id = some x) :
    ∃ y, (closingDown s id).stream? id = some y ∧ Unwound x y ∧ y.plan = none := by
  have hclear : Frame .any unwinds _ _ := (stopUnstarted_frame s id).trans (clearSlots_frame _ id)
  obtain ⟨z, hz, _⟩ := hclear.stream?_some (fun _ _ => Unwound.id) hx
  obtain ⟨y, hy, hxy⟩ := (closingDown_frame s id).stream?_some (fun _ _ => Unwound.id) hx
  exact ⟨y, hy, hxy, ((unbindPlan_plan hz).frame (freeSlough_frame _ id) (fun _ _ => Unwound.id) fun _ _ => Unwound.plan).elim hy⟩

/-- A stream whose close has started: its unread records are dropped, and turns of records not started with them. -/
def closeAsked (slot idx : Nat) (x : Stream) : Stream :=
  { x with
    ring := { x.ring with recs := [] }
    cring := { x.cring with turns := x.cring.turns.filter fun t => t.comp.isSome || x.batches.any (·.idx == t.idx) }
    resetWait := x.resetWait ++ [(slot, idx, true)]
    closing := true }

theorem closingDrift_closing {a b : Stream} (h : closingDrift.rel a b) (ha : a.closing = true ∧ a.plan = none) :
    b.closing = true ∧ b.plan = none := by
  have h : (b.id, b.closing, b.plan) = (a.id, a.closing, a.plan) := h
  simp only [Prod.mk.injEq] at h
  obtain ⟨_, hc, hpl⟩ := h
  exact ⟨hc.trans ha.1, hpl.trans ha.2⟩

/-- A stream that closes has no plan, and is closed at once where it owes no completion. -/
theorem close_settled {slot : Nat} {s : State} {r : Rec} {x : Stream} (hk : slot < s.disp.slots.length)
    (hscomp : (s.slot slot).scomp.isSome = true) (hx : s.stream? r.stream = some x)
    (hin : ∀ q ∈ (s.slot slot).inflight, q.idx ≠ r.idx) {t : State}
    (ht : t = settle (resetProgress ((closingDown (takeCtl s slot r) r.stream).setStream r.stream (closeAsked slot r.idx)) r.stream)
      (.ctl slot)) :
    (t.FirstIs r.stream fun y => y.closing = true ∧ y.plan = none) ∧ t.fuses = s.fuses
      ∧ (x.batches = [] → x.cring.turns = [] → x.resetWait = [] → t.streamState r.stream = .closed ∧ Completes t slot r stDone 0) := by
  obtain ⟨y, hy, hxy, hplan⟩ := closingDown_stream (((takeCtl_ctlOnly hk r).stream? _).trans hx)
  have hu := (closingDown_frame (takeCtl s slot r) r.stream).numbers.trans
    (setStream_quiet (id := r.stream) (f := closeAsked slot r.idx) fun _ _ => rfl).toFrame
  have huy := State.setStream_stream? (closingDown (takeCtl s slot r) r.stream) r.stream (f := closeAsked slot r.idx) fun _ => rfl
  rw [hy, Option.map_some] at huy
  generalize (closingDown (takeCtl s slot r) r.stream).setStream r.stream (closeAsked slot r.idx) = u at ht hu huy
  subst ht
  have hclosing : u.FirstIs r.stream fun y => y.closing = true ∧ y.plan = none := ⟨_, huy, rfl, hplan⟩
  refine ⟨?_, progress_fuses hk hu, fun hb htn hw => ?_⟩
  · exact (hclosing.frame (resetProgress_frame u r.stream) (fun _ _ hab => congrArg Prod.fst hab)
      fun _ _ => closingDrift_closing).of_streams (progress_ctlOnly hk hu).streams
  · have hone : (closeAsked slot r.idx y).resetWait = [(slot, r.idx, true)] := by
      simp only [closeAsked, hxy.waits, hw, List.nil_append]
    have hturns : (closeAsked slot r.idx y).cring.turns = [] := by simp only [closeAsked, hxy.turns htn, List.filter_nil]
    obtain ⟨hc, hclosed⟩ := progress_completes hk hscomp hu huy hin hone (hxy.batches hb) hturns
    exact ⟨hclosed rfl, hc⟩

/-- Settles O37, by what each step of a reset or a close leaves of its stream, and by what is due when none is owed. -/
theorem resetAndCloseStream : Obligations.ResetAndCloseStream := by
  intro slot s r x hs hslot hscomp hx hown hnum hcommon hses hclosing hwait hin
  have hk : slot < s.disp.slots.length := by rw [sound_slots hs]; exact hslot
  have acts {op : Nat} {p : SState → Bool} {act : Rec → State → State} (hf : frontCtl s slot op = some r) (hst : x.state ≠ .closed)
      (hp : p x.state = true) :=
    streamCmd_acts (act := act) hk hf (State.open?_of_stream? hx hst) hown hnum hcommon hses hclosing hp
  refine ⟨fun hf hst => ?_, fun hf hst => ?_⟩
  · have heq : resetStream slot s = _ := acts hf (by obtain h | h := hst <;> simp [h]) (by obtain h | h := hst <;> simp [h])
    obtain ⟨⟨y, hy, hidle, rest⟩, hfuses, hdone⟩ := reset_settled hk hscomp hx hwait hin heq
    obtain ⟨hplan, hslots, hover⟩ := rest
    exact ⟨_, y, rfl, State.FirstIs.streamState ⟨y, hy, hidle⟩ (by simp), hy, hplan, hslots, hover, hfuses, hdone⟩
  · have heq : closeStream slot s = _ := acts hf (by obtain h | h | h | h := hst <;> simp [h])
      (by obtain h | h | h | h := hst <;> simp [h])
    obtain ⟨hfirst, hfuses, hdone⟩ := close_settled hk hscomp hx hin heq
    exact ⟨_, rfl, fun y hy => hfirst.elim hy, hfuses, hdone⟩

end Sys2Proof.Machine
end

section
/-! SUPPORT. Turns of completion rings (R32, R56): what gives them their completions, what refuses the front records of a stream's
ring, and what a status block's writing changes. -/

namespace Sys2Proof.Machine

/-! ### Turns -/

/-- A turn after a completion has been given to the open turns of an index. -/
def Turn.given (idx : Nat) (c : Comp) (a : After) (t : Turn) : Turn :=
  if t.idx = idx ∧ t.comp.isNone then { t with comp := some c, after := a } else t

@[simp] theorem Turn.given_idx (idx : Nat) (c : Comp) (a : After) (t : Turn) : (t.given idx c a).idx = t.idx := by
  unfold Turn.given
  split <;> rfl

/-- A turn that has its completion keeps it. -/
theorem Turn.given_of_isSome (idx : Nat) (c : Comp) (a : After) {t : Turn} (h : t.comp.isSome = true) : t.given idx c a = t :=
  if_neg fun hn => by simp [Option.isNone_iff_eq_none.1 hn.2] at h

theorem Turn.given_self {idx : Nat} (c : Comp) (a : After) {t : Turn} (hi : t.idx = idx) (h : t.comp = none) :
    t.given idx c a = { t with comp := some c, after := a } := if_pos ⟨hi, by rw [h]; rfl⟩

/-- A ring whose open turns of an index have been given a completion. -/
def RingOut.given (idx : Nat) (c : Comp) (a : After) (o : RingOut) : RingOut := { o with turns := o.turns.map (Turn.given idx c a) }

theorem giveTurn_eq (s : State) (id idx : Nat) (c : Comp) (a : After) :
    giveTurn s (.comp id) idx c a = s.setStream id fun x => { x with cring := x.cring.given idx c a } := rfl

theorem RingOut.given_idxs (idx : Nat) (c : Comp) (a : After) (o : RingOut) :
    (o.given idx c a).turns.map (·.idx) = o.turns.map (·.idx) := by
  simp only [RingOut.given, List.map_map]
  exact List.map_congr_left fun t _ => Turn.given_idx ..

/-! ### One stream -/

/-- A stream of one number has gone by a relation, and others are as they were. -/
def Drift.only (id : Nat) (R : Drift Stream) : Drift Stream where
  rel a b := b.id = a.id ∧ (a.id = id → R.rel a b) ∧ (a.id ≠ id → b = a)
  refl a := ⟨rfl, fun _ => R.refl a, fun _ => rfl⟩
  trans := fun {a b c} ⟨h1, h2, h3⟩ ⟨g1, g2, g3⟩ => ⟨g1.trans h1, fun e => R.trans (h2 e) (g2 (h1.trans e)), fun e => by
    rw [g3 (h1 ▸ e), h3 e]⟩

theorem Frame.othersKept {Q : Drift SlotState} {R : Drift Stream} {id : Nat} {s t : State} (h : Frame Q (R.only id) s t) :
    OthersKept s t id := by
  intro j hj
  have hrel := h.stream? (fun a b hab => hab.1) j
  generalize hs : s.stream? j = a at hrel
  generalize t.stream? j = b at hrel
  cases hrel with
  | none => rfl
  | some hab => rw [hab.2.2 (by rw [State.stream?_id hs]; exact hj)]

theorem Frame.only_first {Q : Drift SlotState} {R : Drift Stream} {id : Nat} {s t : State} (h : Frame Q (R.only id) s t)
    {x : Stream} (hx : s.stream? id = some x) : ∃ y, t.stream? id = some y ∧ R.rel x y := by
  obtain ⟨y, hy, hxy⟩ := h.stream?_some (fun a b hab => hab.1) hx
  exact ⟨y, hy, hxy.2.1 (State.stream?_id hx)⟩

theorem setStream_only {Q : Drift SlotState} {R : Drift Stream} {s : State} {id : Nat} {f : Stream → Stream} (hid : ∀ x, (f x).id = x.id)
    (hf : ∀ x, x.id = id → R.rel x (f x)) : Quiet Q (R.only id) s (s.setStream id f) :=
  setStream_quiet fun x hx => ⟨hid x, fun _ => hf x hx, fun hn => absurd hx hn⟩

/-! ### Refusals on a stream's ring (R33) -/

/-- A relation that allows records to leave a stream's ring and its open turns to be given completions. -/
structure AllowsRecords (id : Nat) (R : Drift Stream) : Prop where
  ring : ∀ (x : Stream) (r : RingIn), x.id = id → R.rel x { x with ring := r }
  turn : ∀ (x : Stream) (idx : Nat) (c : Comp) (a : After), x.id = id → R.rel x { x with cring := x.cring.given idx c a }

/-- Counters and the error registers are outside the dispatcher. -/
theorem countReject_quiet {Q : Drift SlotState} {R : Drift Stream} (s : State) (status : Nat) : Quiet Q R s (countReject s status) := by
  obtain ⟨c, l, h⟩ := countReject_eq s status
  rw [h]
  exact .of_disp rfl rfl rfl rfl

theorem endRec_quiet {Q : Drift SlotState} {R : Drift Stream} {id : Nat} (hR : AllowsRecords id R) (s : State) (r : Rec)
    (status detail count aux : Nat) : Quiet Q R s (endRec s id r status detail count aux) :=
  setStream_quiet fun x hx => hR.turn x r.idx _ _ hx

theorem setStreamRing_quiet {Q : Drift SlotState} {R : Drift Stream} {id : Nat} (hR : AllowsRecords id R) (s : State) (f : RingIn → RingIn) :
    Quiet Q R s (s.setRingIn (.stream id) f) := setStream_quiet fun x hx => hR.ring x _ hx

theorem rejectFront_quiet {Q : Drift SlotState} {R : Drift Stream} {id : Nat} (hR : AllowsRecords id R) (n : Nat) (s : State) :
    Quiet Q R s (rejectFront s (.stream id) n) := by
  induction n generalizing s with
  | zero => exact .refl
  | succ n ih =>
    simp only [rejectFront]
    split
    · split
      · exact .refl
      · refine Quiet.trans ?_ (ih _)
        exact ((setStreamRing_quiet hR ..).trans (countReject_quiet ..)).trans (endRec_quiet hR ..)
    · exact .refl

/-- Records at the front of a stream's ring that it does not take complete in their turns, and nothing else happens. -/
theorem settle_quiet {Q : Drift SlotState} {R : Drift Stream} {id : Nat} (hR : AllowsRecords id R) (s : State) :
    Quiet Q R s (settle s (.stream id)) := rejectFront_quiet hR ..

/-! ### Status blocks (R45) -/

/-- A relation that allows what a stream does besides its command ring and completions: blocks on tiles. -/
def AllowsBlocks (R : Drift Stream) : Prop := ∀ a b, bareDrift.rel a b → R.rel a b

theorem quiet_blocks {Q : Drift SlotState} {R : Drift Stream} (hR : AllowsBlocks R) {s t : State} (h : t.contents = s.contents) :
    Quiet Q R s t := (quiet_of_contents h).mono (fun a _ hab => by cases hab; exact Q.refl a) hR

theorem ringFault_quiet {Q : Drift SlotState} {R : Drift Stream} (s : State) (cause : Nat) (ref : RingRef) (completion : Bool) :
    Quiet Q R s (ringFault s cause ref completion) := by
  have hd : (ringFault s cause ref completion).disp = s.disp := by
    simp only [ringFault]
    split
    · rfl
    · rw [(errorTrigger_reads ..).disp, (firstEvent_reads ..).disp]
  have hc := quiet_of_contents (ringFault_contents s cause ref completion)
  exact .of_disp hc.fuses hd hc.mem hc.gran

theorem writeStatus_frame {Q : Drift SlotState} {R : Drift Stream} (s : State) {x : Stream}
    (hR : ∀ y, y.id = x.id → R.rel y { y with dirty := false }) : Frame Q R s (writeStatus s x).1 := by
  have hw : Frame Q R s _ := (devWrite_access s x.statusAddr (statusBlock x)).frame
  unfold writeStatus
  split
  · split <;> rename_i u _ e <;> rw [e] at hw
    · exact hw.trans (setStream_quiet hR).toFrame
    · exact hw.trans (ringFault_quiet u 0x05 (.stream x.id) false).toFrame
  · exact .refl

theorem writeStatuses_frame {Q : Drift SlotState} {R : Drift Stream} (s : State) (ids : List Nat)
    (hR : ∀ y, y.id ∈ ids → R.rel y { y with dirty := false }) : Frame Q R s (writeStatuses s ids).1 := by
  unfold writeStatuses
  generalize hp : (s, true) = p
  have hs : s = p.1 := by rw [← hp]
  rw [hs]
  clear hp hs
  induction ids generalizing p with
  | nil => exact .refl
  | cons id t ih =>
    rw [List.foldl_cons]
    refine Frame.trans ?_ (ih (fun y hy => hR y (List.mem_cons_of_mem _ hy)) _)
    split
    · exact .refl
    · rename_i x hx
      have hw : Frame Q R p.1 (writeStatus p.1 x).1 :=
        writeStatus_frame p.1 fun y hy => hR y (by rw [hy, State.stream?_id hx]; exact List.mem_cons_self)
      generalize writeStatus p.1 x = q at hw
      exact hw

end Sys2Proof.Machine
end

section
/-! PROOFS. O38: a delivered completion takes its turn and raises WATCH by 1; a failed delivery waits (R32, R42, R531). -/

namespace Sys2Proof.Machine

/-! ### Rings that grow -/

/-- A completion ring whose WATCH is as it was, and whose turns are, with others perhaps behind them. -/
def RingOut.Grew (o q : RingOut) : Prop := q.watch = o.watch ∧ o.turns.map (·.idx) <+: q.turns.map (·.idx)

theorem RingOut.Grew.refl (o : RingOut) : o.Grew o := ⟨rfl, List.prefix_refl _⟩

theorem RingOut.Grew.trans {o p q : RingOut} (h : o.Grew p) (g : p.Grew q) : o.Grew q := ⟨g.1.trans h.1, h.2.trans g.2⟩

theorem RingOut.grew_of_turns {o q : RingOut} (hw : q.watch = o.watch) (ht : q.turns.map (·.idx) = o.turns.map (·.idx)) : o.Grew q :=
  ⟨hw, by rw [ht]⟩

/-- What the answering of records keeps of a slot. -/
structure SlotState.Grew (a b : SlotState) : Prop where
  lastWatch : b.lastWatch = a.lastWatch
  haltSeq : b.haltSeq = a.haltSeq
  scomp : Option.Rel RingOut.Grew a.scomp b.scomp

theorem optionRel_refl {α : Type} {R : α → α → Prop} (h : ∀ a, R a a) (o : Option α) : Option.Rel R o o := by
  cases o with
  | none => exact .none
  | some a => exact .some (h a)

theorem optionRel_trans {α : Type} {R : α → α → Prop} (ht : ∀ {a b c}, R a b → R b c → R a c) {o p q : Option α}
    (h : Option.Rel R o p) (g : Option.Rel R p q) : Option.Rel R o q := by
  cases h with
  | none => exact g
  | some hab => cases g with | some hbc => exact .some (ht hab hbc)

def slotGrows : Drift SlotState where
  rel := SlotState.Grew
  refl _ := ⟨rfl, rfl, optionRel_refl RingOut.Grew.refl _⟩
  trans h g := ⟨g.lastWatch.trans h.lastWatch, g.haltSeq.trans h.haltSeq, optionRel_trans (R := RingOut.Grew) (fun h g => h.trans g) h.scomp g.scomp⟩

/-- What the answering of records keeps of a stream: no batch comes back. -/
structure Stream.Grew (a b : Stream) : Prop where
  id : b.id = a.id
  cring : a.cring.Grew b.cring
  batches : ∀ i, (∀ c ∈ a.batches, c.idx ≠ i) → ∀ c ∈ b.batches, c.idx ≠ i

def streamGrows : Drift Stream where
  rel := Stream.Grew
  refl _ := ⟨rfl, .refl _, fun _ h => h⟩
  trans h g := ⟨g.id.trans h.id, h.cring.trans g.cring, fun i hi => g.batches i (h.batches i hi)⟩

theorem streamGrows_blocks : AllowsBlocks streamGrows := fun a b h => by
  have hc : b.cring = a.cring := bare_keeps (p := Stream.cring) (fun _ => rfl) a b h
  have hb : b.batches = a.batches := bare_keeps (p := Stream.batches) (fun _ => rfl) a b h
  exact ⟨bareDrift_id h, hc ▸ .refl _, fun _ h => hb ▸ h⟩

theorem streamGrows_records (id : Nat) : AllowsRecords id streamGrows where
  ring _ _ _ := ⟨rfl, .refl _, fun _ h => h⟩
  turn _ _ _ _ _ := ⟨rfl, RingOut.grew_of_turns rfl (RingOut.given_idxs ..), fun _ h => h⟩

/-- A change of a stream that leaves its completion ring, and takes batches from it at most. -/
theorem setStream_grows {Q : Drift SlotState} {s : State} {id : Nat} {f : Stream → Stream}
    (hf : ∀ x, (f x).id = x.id ∧ (f x).cring = x.cring ∧ ∀ c ∈ (f x).batches, c ∈ x.batches) :
    Quiet Q streamGrows s (s.setStream id f) :=
  setStream_quiet fun x _ => by
    obtain ⟨hid, hc, hb⟩ := hf x
    exact ⟨hid, hc ▸ .refl _, fun i h c hcb => h c (hb c hcb)⟩

/-- A completion ring is found after as before. -/
theorem Frame.ringOut {s t : State} (h : Frame slotGrows streamGrows s t) {r : CompRef} {o : RingOut} (ho : s.ringOut r = some o) :
    ∃ q, t.ringOut r = some q ∧ o.Grew q := by
  cases r with
  | scomp k =>
    have hgrew : (s.slot k).Grew (t.slot k) := h.slot k
    have hrel := hgrew.scomp
    have ho : (s.slot k).scomp = some o := ho
    rw [ho] at hrel
    generalize hq : (t.slot k).scomp = p at hrel
    cases hrel with
    | some hg => exact ⟨_, hq, hg⟩
  | comp id =>
    obtain ⟨x, hx, rfl⟩ := Option.map_eq_some_iff.1 ho
    obtain ⟨y, hy, hxy⟩ := h.stream?_some (fun _ _ h => h.id) hx
    exact ⟨y.cring, by rw [State.ringOut, hy, Option.map_some], hxy.cring⟩

theorem ringOut_scomp_lt {s : State} {k : Nat} {o : RingOut} (h : s.ringOut (.scomp k) = some o) : k < s.disp.slots.length := by
  by_contra hk
  have hd : s.slot k = {} := List.getD_eq_default _ _ (by omega)
  have h : (s.slot k).scomp = some o := h
  rw [hd] at h
  cases h

theorem ringOut_setRingOut {s : State} {r : CompRef} {o : RingOut} (h : s.ringOut r = some o) (f : RingOut → RingOut) :
    (s.setRingOut r f).ringOut r = some (f o) := by
  cases r with
  | scomp k =>
    change ((s.setSlot k _).slot k).scomp = _
    have hk := ringOut_scomp_lt h
    have h : (s.slot k).scomp = some o := h
    rw [State.setSlot_slot_self hk, h, Option.map_some]
  | comp id =>
    obtain ⟨x, hx, rfl⟩ := Option.map_eq_some_iff.1 h
    change ((s.setStream id _).stream? id).map _ = _
    rw [State.setStream_stream? s id (f := fun x => { x with cring := f x.cring }) fun _ => rfl, hx]
    rfl

/-! ### Delivery (R32, R45) -/

theorem bump_quiet {Q : Drift SlotState} {R : Drift Stream} (s : State) (k n : Nat) : Quiet Q R s (bump s k n) := by
  obtain h | ⟨c, v, h⟩ := bump_cases s k n <;> rw [h] <;> exact .of_disp rfl rfl rfl rfl

theorem sendMsix_contents (s : State) (v : Nat) : (sendMsix s v).contents = s.contents := by
  simp only [sendMsix, apply_ite State.contents, bump_contents, State.contents_with_disp, ite_self]

theorem sendSig_contents (s : State) (n : Nat) : (sendSig s n).contents = s.contents := by
  simp only [sendSig, writeMsi, apply_ite State.contents, bump_contents, firstEvent_contents, State.contents_with_disp, ite_self]

theorem raiseSignal_contents (s : State) (route : Nat) : (raiseSignal s route).contents = s.contents := by
  unfold raiseSignal
  split
  · exact sendSig_contents ..
  · simp only [apply_ite State.contents, sendMsix_contents, ite_self]
  · rfl

/-- A ring whose front turn has been written: WATCH is past it. -/
def RingOut.past (o : RingOut) : RingOut :=
  { o with
    watch := o.watch + 1
    owedWatch := false
    turns := o.turns.drop 1 }

/-- An entry that is written: WATCH goes past it, and its signal is raised. -/
theorem advanceWatch_some {s : State} {r : CompRef} {o : RingOut} {t v : Turn} (h : (advanceWatch s r o t).2 = some v) :
    v = t ∧ ∃ w, Access s w ∧ (advanceWatch s r o t).1.contents = (w.setRingOut r RingOut.past).contents := by
  have hw := write64_access s (o.addr + 48) (o.watch + 1)
  unfold advanceWatch at h ⊢
  generalize write64 s (o.addr + 48) (o.watch + 1) = p at h hw ⊢
  obtain ⟨w, _ | e⟩ := p
  · refine ⟨(Option.some.inj h).symm, w, hw, ?_⟩
    dsimp only
    rw [apply_ite State.contents, raiseSignal_contents, ite_self]
    rfl
  · cases h

theorem writeEntry_some {s : State} {r : CompRef} {o : RingOut} {t v : Turn} {c : Comp} (h : (writeEntry s r o t c).2 = some v) :
    ∃ w, Access s w ∧ writeEntry s r o t c = advanceWatch w r o t := by
  have hr := (read64_reads s (o.addr + 16)).toAccess
  unfold writeEntry at h ⊢
  generalize read64 s (o.addr + 16) = p at h hr ⊢
  obtain ⟨u, _ | head⟩ := p
  · cases h
  · dsimp only at h ⊢
    have hw := devWrite_access u (o.base + o.watch % 2 ^ o.log2 * 32)
      (compBytes c (1 - o.watch / 2 ^ o.log2 % 2) (u.tick % 2 ^ 32))
    by_cases hroom : head + 2 ^ o.log2 ≤ o.watch
    · rw [if_pos hroom] at h
      cases h
    · rw [if_neg hroom] at h ⊢
      generalize devWrite u _ _ = q at h hw ⊢
      obtain ⟨w, _ | e⟩ := q
      · exact ⟨w, hr.trans hw, rfl⟩
      · cases h

theorem countTurn_frame (s : State) (r : CompRef) (t : Turn) : Frame slotGrows streamGrows s (countTurn s r t) := by
  unfold countTurn
  split
  · split
    · exact .refl
    · refine Frame.trans (Quiet.toFrame (setStream_quiet fun x _ => ?_)) (setStream_grows ?_).toFrame
      · have hturns (l : List Turn) : (match l with
            | u :: l => { u with counted := true } :: l
            | [] => []).map Turn.idx = l.map Turn.idx := by cases l <;> rfl
        exact ⟨rfl, RingOut.grew_of_turns rfl (hturns _), fun _ h => h⟩
      · exact fun _ => ⟨rfl, rfl, fun _ h => h⟩
  · exact .refl

/-- A delivery that is done: the front turn's entry is written, after what it changes in status blocks. -/
theorem deliver_some {s : State} {r : CompRef} {o : RingOut} {t v : Turn} {rest : List Turn} (ho : s.ringOut r = some o)
    (ht : o.turns = t :: rest) (h : (deliver s r).2 = some v) :
    v = t ∧ ∃ w, Frame slotGrows streamGrows s w ∧ (deliver s r).1.contents = (w.setRingOut r RingOut.past).contents := by
  have hcount := countTurn_frame s r t
  simp only [deliver, ho, ht] at h ⊢
  split at h
  · cases h
  · rename_i c hc
    by_cases howed : o.owedWatch = true
    · rw [if_pos howed] at h ⊢
      obtain ⟨hv, w, hw, heq⟩ := advanceWatch_some h
      exact ⟨hv, w, hcount.trans hw.frame, heq⟩
    · rw [if_neg howed] at h ⊢
      have hst : Frame slotGrows streamGrows _ _ := writeStatuses_frame (countTurn s r t) (turnStreams (countTurn s r t) r t)
        fun y _ => ⟨rfl, .refl _, fun _ h => h⟩
      generalize writeStatuses (countTurn s r t) (turnStreams (countTurn s r t) r t) = p at h hst ⊢
      obtain ⟨u, _ | _⟩ := p
      · cases h
      · obtain ⟨w, hw, hadv⟩ := writeEntry_some h
        dsimp only at h ⊢
        rw [hadv] at h ⊢
        obtain ⟨hv, w', hw', heq⟩ := advanceWatch_some h
        exact ⟨hv, w', (hcount.trans hst).trans (hw.frame.trans hw'.frame), heq⟩

theorem contents_quiet_grows {s t : State} (h : t.contents = s.contents) : Quiet slotGrows streamGrows s t :=
  quiet_blocks streamGrows_blocks h

/-- Where the front turn is delivered, the turn has left the ring and WATCH is past it. -/
theorem deliver_posts {s : State} {r : CompRef} {o : RingOut} {t v : Turn} {rest : List Turn} (ho : s.ringOut r = some o)
    (ht : o.turns = t :: rest) (h : (deliver s r).2 = some v) :
    (∃ q, (deliver s r).1.ringOut r = some q ∧ q.watch = o.watch + 1 ∧ rest.map (·.idx) <+: q.turns.map (·.idx))
      ∧ (deliver s r).1.fuses = s.fuses := by
  obtain ⟨_, w, hw, heq⟩ := deliver_some ho ht h
  have hlast : Frame slotGrows streamGrows _ _ := (contents_quiet_grows heq).toFrame
  obtain ⟨p, hp, hop⟩ := hw.ringOut ho
  obtain ⟨q, hq, hpq⟩ := hlast.ringOut (ringOut_setRingOut hp RingOut.past)
  refine ⟨⟨q, hq, ?_, ?_⟩, hlast.fuses.trans (Eq.trans ?_ hw.fuses)⟩
  · rw [hpq.1, RingOut.past, hop.1]
  · have hpast : rest.map (·.idx) <+: (p.turns.drop 1).map (·.idx) := by
      have := hop.2.drop 1
      rwa [ht, ← List.map_drop, ← List.map_drop] at this
    exact hpast.trans hpq.2
  · cases r <;> rfl

theorem setRingOut_scomp_kept {s : State} {r : CompRef} (f : RingOut → RingOut) (k : Nat) :
    ((s.setRingOut r f).slot k).lastWatch = (s.slot k).lastWatch ∧ ((s.setRingOut r f).slot k).haltSeq = (s.slot k).haltSeq := by
  have h : Frame (.keeps fun x => (x.lastWatch, x.haltSeq)) .any s (s.setRingOut r f) := by
    cases r with
    | scomp j => exact (setSlot_quiet fun _ => rfl).toFrame
    | comp id => exact (setStream_quiet fun _ _ => trivial).toFrame
  exact Prod.mk.inj (h.slot k)

theorem deliver_keeps {s : State} {r : CompRef} {o : RingOut} {t v : Turn} {rest : List Turn} (ho : s.ringOut r = some o)
    (ht : o.turns = t :: rest) (h : (deliver s r).2 = some v) (k : Nat) :
    ((deliver s r).1.slot k).lastWatch = (s.slot k).lastWatch ∧ ((deliver s r).1.slot k).haltSeq = (s.slot k).haltSeq
      ∧ (deliver s r).1.disp.slots.length = s.disp.slots.length := by
  obtain ⟨_, w, hw, heq⟩ := deliver_some ho ht h
  have hlast : Frame slotGrows streamGrows _ _ := (contents_quiet_grows heq).toFrame
  have hset := setRingOut_scomp_kept (s := w) (r := r) RingOut.past k
  have hws : (w.slot k).lastWatch = (s.slot k).lastWatch ∧ (w.slot k).haltSeq = (s.slot k).haltSeq := by
    have hg : (s.slot k).Grew (w.slot k) := hw.slot k
    exact ⟨hg.lastWatch, hg.haltSeq⟩
  have hl : ((w.setRingOut r RingOut.past).slot k).Grew ((deliver s r).1.slot k) := hlast.slot k
  refine ⟨hl.lastWatch.trans (hset.1.trans hws.1), hl.haltSeq.trans (hset.2.trans hws.2), ?_⟩
  rw [hlast.slots_length, ← hw.slots_length]
  cases r with
  | scomp j => exact modifyAt_length ..
  | comp id => rfl

/-! ### What follows a completion on a stream's ring -/

theorem pushTurn_scomp_quiet (s : State) (k : Nat) (t : Turn) : Quiet slotGrows streamGrows s (pushTurn s (.scomp k) t) :=
  setSlot_quiet fun x => by
    refine ⟨rfl, rfl, ?_⟩
    cases x.scomp with
    | none => exact .none
    | some o => exact .some ⟨rfl, by simp⟩

theorem endLate_quiet (s : State) (slot idx status count : Nat) (a : After) :
    Quiet slotGrows streamGrows s (endLate s slot idx status count a) := by
  unfold endLate
  split
  · exact pushTurn_scomp_quiet ..
  · exact .refl

theorem setState_grows (s : State) (id : Nat) (st : SState) : Quiet slotGrows streamGrows s (setState s id st) := by
  have h : Quiet slotGrows streamGrows s (s.setStream id fun x => { x with state := st, dirty := true }) :=
    setStream_grows fun _ => ⟨rfl, rfl, fun _ h => h⟩
  simp only [setState]
  split
  · exact h
  · exact h.trans (contents_quiet_grows (freeResidents_contents ..))

theorem resetProgress_quiet (s : State) (id : Nat) : Quiet slotGrows streamGrows s (resetProgress s id) := by
  unfold resetProgress
  split
  · exact .refl
  · refine Quiet.trans (setStream_grows (id := id) (f := fun x => { x with resetWait := x.resetWait.filter fun w => owedBy x w.2.2 })
      fun _ => ⟨rfl, rfl, fun _ h => h⟩) (foldl_quiet (fun s w => ?_) _ _)
    refine Quiet.trans ?_ (endLate_quiet ..)
    split
    · exact setState_grows ..
    · exact .refl

theorem answerHalt_quiet (s : State) (h : HaltOp) : Quiet slotGrows streamGrows s (answerHalt s h) := by
  unfold answerHalt
  split
  · exact pushTurn_scomp_quiet ..
  · exact Quiet.trans (foldl_quiet (fun s k => pushTurn_scomp_quiet ..) _ s) (.of_disp rfl rfl rfl rfl)

theorem haltProgress_quiet (s : State) : Quiet slotGrows streamGrows s (haltProgress s) := by
  simp only [haltProgress]
  generalize hl : s.disp.halts.filter (fun h => !(h.done s && s.fab.phase == .none)) = left
  have hdrop : Quiet slotGrows streamGrows s { s with disp := { s.disp with halts := left } } := contents_quiet_grows rfl
  have h := hdrop.trans (foldl_quiet answerHalt_quiet (s.disp.halts.filter fun h => h.done s && s.fab.phase == .none) _)
  split
  · exact h.trans (.of_disp rfl rfl rfl rfl)
  · exact h

/-- A batch whose completion is written has left its stream (R46). -/
def batchGone (s : State) (id idx : Nat) : State :=
  let s : State := if (s.batch? id idx).any (·.inFlight) then { s with power := { s.power with lastWork := s.tick } } else s
  s.setStream id fun x => { x with
    batches := x.batches.filter (·.idx != idx)
    drain := x.drain.map fun d => (d.1, d.2.1, d.2.2 + 1)
    dirty := true }

/-- A DRAIN ends where its stream has no batch left (R46). -/
def drainEnds (s : State) (id : Nat) : State :=
  match s.stream? id with
  | none => s
  | some x => match x.drain with
    | some (slot, rix, n) =>
      if x.state = .draining ∧ x.batches.isEmpty then
        endLate (setState (s.setStream id fun x => { x with drain := none }) id .bound) slot rix stDone n .nothing
      else s
    | none => s

theorem batchPosted_eq (s : State) (id idx : Nat) : batchPosted s id idx = drainEnds (batchGone s id idx) id := rfl

theorem batchGone_quiet (s : State) (id idx : Nat) : Quiet slotGrows streamGrows s (batchGone s id idx) := by
  have hwork : Quiet slotGrows streamGrows s
      (if (s.batch? id idx).any (·.inFlight) then { s with power := { s.power with lastWork := s.tick } } else s) := by
    split
    · exact .of_disp rfl rfl rfl rfl
    · exact .refl
  refine hwork.trans (setStream_grows ?_)
  exact fun _ => ⟨rfl, rfl, fun _ h => (List.mem_filter.1 h).1⟩

theorem batchGone_batches (s : State) (id idx : Nat) {y : Stream} (hy : (batchGone s id idx).stream? id = some y) :
    ∀ b ∈ y.batches, b.idx ≠ idx := by
  obtain ⟨x, _, _, rfl⟩ := State.mem_setStream (List.mem_of_find?_eq_some hy) (State.stream?_id hy)
  intro b hb
  simpa using (List.mem_filter.1 hb).2

theorem drainEnds_quiet (s : State) (id : Nat) : Quiet slotGrows streamGrows s (drainEnds s id) := by
  unfold drainEnds
  split
  · exact .refl
  · split
    · split
      · refine Quiet.trans (Quiet.trans (setStream_grows ?_) (setState_grows ..)) (endLate_quiet ..)
        exact fun _ => ⟨rfl, rfl, fun _ h => h⟩
      · exact .refl
    · exact .refl

/-- What the end of a turn on a stream's ring keeps, whatever follows from it. -/
theorem afterPost_comp_quiet (s : State) (id : Nat) (t : Turn) : Quiet slotGrows streamGrows s (afterPost s (.comp id) t) := by
  have hend (u : State) : Quiet slotGrows streamGrows u (settle (haltProgress (resetProgress u id)) (.stream id)) :=
    ((resetProgress_quiet u id).trans (haltProgress_quiet _)).trans (settle_quiet (streamGrows_records id) _)
  simp only [afterPost]
  split
  · exact Quiet.trans (batchPosted_eq .. ▸ (batchGone_quiet ..).trans (drainEnds_quiet ..)) (hend _)
  · exact hend s

/-- A batch whose completion has been posted is no longer in flight. -/
theorem afterPost_comp_batches (s : State) (id : Nat) {t : Turn} (ht : t.after = .batchEnd) {y : Stream}
    (hy : (afterPost s (.comp id) t).stream? id = some y) : ∀ b ∈ y.batches, b.idx ≠ t.idx := by
  simp only [afterPost, ht, batchPosted_eq] at hy
  have hend := (((drainEnds_quiet (batchGone s id t.idx) id).trans (resetProgress_quiet _ id)).trans (haltProgress_quiet _)).trans
    (settle_quiet (streamGrows_records id) _)
  have hrel := hend.stream? (fun _ _ h => h.id) id
  rw [hy] at hrel
  generalize hx : (batchGone s id t.idx).stream? id = p at hrel
  cases hrel with
  | some hg => exact hg.batches t.idx (batchGone_batches s id t.idx hx)

/-! ### What follows a completion on a slot's ring -/

/-- The MC's HALT has one answer fewer to come (R364). -/
def haltPosted (s : State) (k : Nat) : State :=
  let left := s.fab.mcPosts.filter (· != k)
  { s with fab := { s.fab with
      mcPosts := left
      mcDone := left.isEmpty
      mcBusy := !left.isEmpty || s.fab.holdAsked } }

/-- A closed stream leaves the dispatcher once CLOSE_STREAM's completion is written. -/
def closedGone (s : State) (k : Nat) (t : Turn) : State :=
  if (t.comp.map (·.opcode)).getD 0 = 0x17 then { s with disp := { s.disp with
    streams := s.disp.streams.filter fun x => !(x.state == .closed && x.session == k && some x.id == t.comp.map (·.stream)) } } else s

theorem closedGone_keeps (s : State) (k : Nat) (t : Turn) :
    (closedGone s k t).disp.slots = s.disp.slots ∧ (closedGone s k t).mem = s.mem ∧ (closedGone s k t).gran = s.gran
      ∧ (closedGone s k t).fuses = s.fuses := by
  unfold closedGone
  split <;> exact ⟨rfl, rfl, rfl, rfl⟩

theorem afterPost_scomp_eq (s : State) (k : Nat) (t : Turn) :
    afterPost s (.scomp k) t =
      let u := s.setSlot k fun x => { x with inflight := x.inflight.filter (·.idx != t.idx) }
      settle (closedGone (match t.after with
        | .freeOwner => freeSlot u k
        | .mcHalt => haltPosted u k
        | _ => u) k t) (.ctl k) := rfl

/-- What comes before the records behind a posted one are looked at again. -/
theorem afterPost_scomp_split (s : State) (k : Nat) {t : Turn} (ht : t.after ≠ .freeOwner) :
    ∃ v, afterPost s (.scomp k) t = settle (closedGone v k t) (.ctl k)
      ∧ v.disp = (s.setSlot k fun x => { x with inflight := x.inflight.filter (·.idx != t.idx) }).disp
      ∧ v.mem = s.mem ∧ v.gran = s.gran ∧ v.fuses = s.fuses := by
  rw [afterPost_scomp_eq]
  cases h : t.after with
  | freeOwner => exact absurd h ht
  | mcHalt => exact ⟨_, rfl, rfl, rfl, rfl, rfl⟩
  | nothing => exact ⟨_, rfl, rfl, rfl, rfl, rfl⟩
  | batchEnd => exact ⟨_, rfl, rfl, rfl, rfl, rfl⟩

/-- A slot's ring after a completion that does not free the slot: other turns may have joined it. -/
theorem afterPost_scomp {s : State} {k : Nat} {t : Turn} (ht : t.after ≠ .freeOwner) {o : RingOut} (ho : s.ringOut (.scomp k) = some o) :
    let u := afterPost s (.scomp k) t
    (∃ q, u.ringOut (.scomp k) = some q ∧ o.Grew q) ∧ u.mem = s.mem ∧ u.gran = s.gran ∧ u.fuses = s.fuses := by
  have hk := ringOut_scomp_lt ho
  obtain ⟨v, heq, hdisp, hmem, hgran, hfuses⟩ := afterPost_scomp_split s k ht
  obtain ⟨hslots, hm, hg, hf⟩ := closedGone_keeps v k t
  have hin := inflight_ctlOnly hk fun l => l.filter (·.idx != t.idx)
  rw [hdisp] at hslots
  have hkm : k < (closedGone v k t).disp.slots.length := by rw [hslots, hin.length]; exact hk
  have hscomp : ((closedGone v k t).slot k).scomp = (s.slot k).scomp := by
    have hself := State.setSlot_slot_self hk fun x => { x with inflight := x.inflight.filter (·.idx != t.idx) }
    rw [State.slot, hslots]
    exact (congrArg SlotState.scomp hself :)
  have h := settle_ctlOnly hkm
  obtain ⟨more, hmore⟩ := h.scomp
  have ho : (s.slot k).scomp = some o := ho
  rw [hscomp, ho, Option.map_some] at hmore
  dsimp only
  rw [heq]
  exact ⟨⟨_, hmore, rfl, by simp⟩, h.mem.trans (hm.trans hmem), h.gran.trans (hg.trans hgran), h.fuses.trans (hf.trans hfuses)⟩

/-- With no control ring there is nothing to refuse. -/
theorem settle_of_no_ctl {s : State} {k : Nat} (h : (s.slot k).ctl = none) : settle s (.ctl k) = s := by
  simp only [settle, State.ringIn, h, Option.map_none, Option.getD_none, rejectFront]

/-- CLOSE_SESSION's completion frees its slot (R42). -/
theorem afterPost_frees {s : State} {k : Nat} (hk : k < s.disp.slots.length) {t : Turn} (ht : t.after = .freeOwner) :
    (afterPost s (.scomp k) t).slot k = { lastWatch := (s.slot k).lastWatch, haltSeq := (s.slot k).haltSeq }
      ∧ (afterPost s (.scomp k) t).fuses = s.fuses := by
  rw [afterPost_scomp_eq]
  simp only [ht]
  have hin := inflight_ctlOnly hk fun l => l.filter (·.idx != t.idx)
  have hself := State.setSlot_slot_self hk fun x => { x with inflight := x.inflight.filter (·.idx != t.idx) }
  generalize s.setSlot k (fun x => { x with inflight := x.inflight.filter (·.idx != t.idx) }) = u at hin hself
  have hw := write64_access u (ownerAddr k) 0
  obtain ⟨hslots, _, _, hf⟩ := closedGone_keeps (freeSlot u k) k t
  have hfree : (freeSlot u k).slot k = { lastWatch := (s.slot k).lastWatch, haltSeq := (s.slot k).haltSeq } := by
    have hkw : k < (write64 u (ownerAddr k) 0).1.disp.slots.length := by rw [hw.disp, hin.length]; exact hk
    have hsame : (write64 u (ownerAddr k) 0).1.slot k = u.slot k := by rw [State.slot, hw.disp]; rfl
    change ((write64 u (ownerAddr k) 0).1.setSlot k _).slot k = _
    rw [State.setSlot_slot_self hkw, hsame, hself]
  have hslot : (closedGone (freeSlot u k) k t).slot k = (freeSlot u k).slot k := by rw [State.slot, hslots]; rfl
  rw [settle_of_no_ctl (by rw [hslot, hfree]), hslot, hf]
  exact ⟨hfree, hw.fuses.trans hin.fuses⟩

/-! ### COMPLETION_POST and DELIVERY_RETRY -/

section
variable {s : State} {r : CompRef} {o : RingOut} {u : Turn} {rest : List Turn} (ho : s.ringOut r = some o) (ht : o.turns = u :: rest)
  (hd : (deliver s r).2 = some u)

include hd in
theorem postTurn_eq : postTurn s r = afterPost (deliver s r).1 r u := by
  unfold postTurn
  generalize deliver s r = p at hd ⊢
  obtain ⟨t, v⟩ := p
  cases hd
  rfl

include ho ht hd

/-- A turn that is delivered, and does not free its slot. -/
theorem postTurn_posts (hfree : u.after ≠ .freeOwner) :
    let t := postTurn s r
    (∃ q, t.ringOut r = some q ∧ q.watch = o.watch + 1 ∧ rest.map (·.idx) <+: q.turns.map (·.idx))
      ∧ (∀ id, r = .comp id → u.after = .batchEnd → ∀ y, t.stream? id = some y → ∀ b ∈ y.batches, b.idx ≠ u.idx)
      ∧ t.mem = (deliver s r).1.mem ∧ t.gran = (deliver s r).1.gran ∧ t.fuses = s.fuses := by
  obtain ⟨⟨q, hq, hwatch, hpre⟩, hfuses⟩ := deliver_posts ho ht hd
  dsimp only
  rw [postTurn_eq hd]
  cases r with
  | comp id =>
    have h := afterPost_comp_quiet (deliver s (.comp id)).1 id u
    obtain ⟨p, hp, hqp⟩ := h.ringOut hq
    refine ⟨⟨p, hp, hqp.1.trans hwatch, hpre.trans hqp.2⟩, fun j hj hend y hy => ?_, h.mem, h.gran, h.fuses.trans hfuses⟩
    cases hj
    exact afterPost_comp_batches _ id hend hy
  | scomp k =>
    obtain ⟨⟨p, hp, hqp⟩, hmem, hgran, hf⟩ := afterPost_scomp hfree hq
    exact ⟨⟨p, hp, hqp.1.trans hwatch, hpre.trans hqp.2⟩, fun _ hj => absurd hj (by simp), hmem, hgran, hf.trans hfuses⟩

end

theorem completionPost_eq {s : State} {r : CompRef} {o : RingOut} (ho : s.ringOut r = some o) (hr : o.retry = none) :
    completionPost r s = postTurn s r := by
  simp only [completionPost, ho, hr, Option.isSome_none, Bool.false_eq_true, if_false]

/-- A front turn that has its completion is tried again. -/
theorem redeliver_eq {s : State} {r : CompRef} {o : RingOut} {u : Turn} {rest : List Turn} (ho : s.ringOut r = some o)
    (ht : o.turns = u :: rest) (hu : u.comp.isSome = true) :
    redeliver s r = postTurn (s.setRingOut r fun o => { o with retry := none }) r := by
  have hagain := ringOut_setRingOut ho fun o => { o with retry := none }
  obtain ⟨c, hc⟩ := Option.isSome_iff_exists.1 hu
  simp only [redeliver, hagain, Option.bind_some, ht, List.head?_cons, hc]

theorem deliver_comp {s : State} {r : CompRef} {o : RingOut} {u v : Turn} {rest : List Turn} (ho : s.ringOut r = some o)
    (ht : o.turns = u :: rest) (h : (deliver s r).2 = some v) : u.comp.isSome = true := by
  by_contra hn
  have hn : u.comp = none := by simpa using hn
  simp only [deliver, ho, ht, hn] at h
  cases h

/-- Settles O38, by what a delivery writes and by what follows a completion on each kind of ring. -/
theorem completionsArePosted : Obligations.CompletionsArePosted := by
  intro r s o u rest hs ho ht
  refine ⟨fun hr hd hfree => ⟨_, rfl, ?_⟩, fun k hk hk64 hr hd hfree => ⟨_, rfl, ?_⟩, fun q hr => ?_,
    fun q hr hnow hheads hfree hd => ⟨_, rfl, ?_⟩⟩
  · rw [completionPost_eq ho hr]
    exact postTurn_posts ho ht hd hfree
  · subst hk
    obtain ⟨hwatch, hseq, hlen⟩ := deliver_keeps ho ht hd k
    obtain ⟨hslot, hfuses⟩ := afterPost_frees (s := (deliver s (.scomp k)).1) (hlen.symm ▸ ringOut_scomp_lt ho) hfree
    rw [completionPost_eq ho hr, postTurn_eq hd, hslot, hwatch, hseq]
    exact ⟨rfl, hfuses.trans (deliver_posts ho ht hd).2⟩
  · change Host.Outcome.next (completionPost r s) = _
    simp only [completionPost, ho, hr, Option.isSome_some, if_true]
  · have hagain := ringOut_setRingOut ho fun o => { o with retry := none }
    have hdue : deliveryDue s r = true := by simp only [deliveryDue, ho, hr, Option.any_some, hnow]
    have hretry : deliveryRetry r s = postTurn (s.setRingOut r fun o => { o with retry := none }) r := by
      simp only [deliveryRetry, hheads, Bool.false_eq_true, if_false, hdue, if_true]
      exact redeliver_eq ho ht (deliver_comp hagain ht hd)
    rw [hretry]
    obtain ⟨hring, hbatch, hmem, hgran, hfuses⟩ := postTurn_posts hagain ht hd hfree
    refine ⟨hring, hbatch, hmem, hgran, hfuses.trans ?_⟩
    cases r <;> rfl

end Sys2Proof.Machine
end

section
/-! PROOFS. O40: a record arrives or finds no space; silence counts a stall; a late arrival is counted (R54, R81, R82, R475). -/

namespace Sys2Proof.Machine

/-! ### Status blocks that are kept (R45, R531) -/

/-- A stream without the marks of a status block that is still to be written. -/
def Stream.unmarked (x : Stream) : Stream := { x with dirty := false, cring := { x.cring with retry := none } }

theorem unmarked_keeps {β : Type} {p : Stream → β} (hp : ∀ x, p x.unmarked = p x) {a b : Stream} (h : b.unmarked = a.unmarked) :
    p b = p a := by
  rw [← hp b, ← hp a, h]

/-- The writing of a stream's status block changes no more of the dispatcher than that stream's marks. -/
theorem keepStatus_frame {Q : Drift SlotState} (s : State) (id : Nat) :
    Frame Q (.only id (.keeps Stream.unmarked)) s (keepStatus s id) := by
  have hw : Frame Q (.only id (.keeps Stream.unmarked)) s (writeStatuses s [id]).1 :=
    writeStatuses_frame s [id] fun y hy => ⟨rfl, fun _ => rfl, fun hn => absurd (List.mem_singleton.1 hy) hn⟩
  unfold keepStatus
  generalize writeStatuses s [id] = p at hw ⊢
  obtain ⟨u, _ | _⟩ := p
  · refine hw.trans (setStream_only ?_ ?_).toFrame
    · exact fun _ => rfl
    · exact fun _ _ => rfl
  · exact hw

theorem keepStatus_stream {s : State} {id : Nat} {x : Stream} (hx : s.stream? id = some x) :
    ∃ y, (keepStatus s id).stream? id = some y ∧ y.unmarked = x.unmarked :=
  (keepStatus_frame (Q := .any) s id).only_first hx

theorem keepStatus_othersKept (s : State) (id : Nat) : OthersKept s (keepStatus s id) id := (keepStatus_frame (Q := .any) s id).othersKept

theorem OthersKept.trans {s t u : State} {id : Nat} (h : OthersKept s t id) (g : OthersKept t u id) : OthersKept s u id :=
  fun j hj => (g j hj).trans (h j hj)

theorem setStream_othersKept (s : State) (id : Nat) {f : Stream → Stream} (hf : ∀ x, (f x).id = x.id) :
    OthersKept s (s.setStream id f) id := fun _ hj => State.setStream_stream?_ne s hj hf

theorem stream?_of_streams {s t : State} (h : t.disp.streams = s.disp.streams) (id : Nat) : t.stream? id = s.stream? id := by
  simp only [State.stream?, h]

theorem othersKept_of_streams {s t : State} (h : t.disp.streams = s.disp.streams) (id : Nat) : OthersKept s t id :=
  fun j _ => stream?_of_streams h j

/-! ### Transfer slots -/

theorem setTSlot_stream? {s : State} {id k : Nat} {x : Stream} (hx : s.stream? id = some x) (f : TSlot → TSlot) :
    (s.setTSlot id k f).stream? id = some { x with slots := modifyAt x.slots k f } :=
  (State.setStream_stream? s id (f := fun x => { x with slots := modifyAt x.slots k f }) fun _ => rfl).trans (by rw [hx, Option.map_some])

theorem modifyAt_slot {x : Stream} {k : Nat} (hk : k < x.slots.length) (f : TSlot → TSlot) :
    ({ x with slots := modifyAt x.slots k f } : Stream).slot k = f (x.slot k) := modifyAt_getD_self hk f {}

theorem setTSlot_othersKept (s : State) (id k : Nat) (f : TSlot → TSlot) : OthersKept s (s.setTSlot id k f) id :=
  setStream_othersKept s id fun _ => rfl

/-! ### Arrivals (R475, R538) -/

/-- A record that a slot holds as it arrived, whole and within 65,536 bytes; what its store met stands in its fault. -/
def arrivedRec (x : Stream) (k : Nat) (d : SlotDesc) (origin data : List Byte) (fault : Nat) : Arrived :=
  { data := data, origin := origin, at_ := placeAt (x.slot k) d, desc := d.idx, fault := fault }

/-- A slot that has taken a whole record. -/
def takesRec (a : Arrived) (tick : Nat) (t : TSlot) : TSlot :=
  { t with
    part := none
    whole := t.whole ++ [a]
    lastByte := tick
    stalled := false }

theorem claim_none {s : State} {id k : Nat} {x : Stream} (hx : s.stream? id = some x) (h : waitingRecv x s.tick k = none) :
    claim s id k = s := by
  simp [claim, hx, h]

theorem wakeForWrite_reads (s : State) (a : Nat) : Reads (dispatcherWakes s) (wakeForWrite s a) := by
  simp only [wakeForWrite]
  split
  · exact foldl_reads _ (fun s d => by
      split
      · exact wakeDieBy_reads ..
      · exact .refl s) _ _
  · exact .refl _

theorem waitingRecv_congr {x y : Stream} (hb : y.batches = x.batches) (hp : y.plan = x.plan) (tick k : Nat) :
    waitingRecv y tick k = waitingRecv x tick k := by
  have hst (i : Nat) : y.stage i = x.stage i := by simp only [Stream.stage, hp]
  have hexp (u : StageRun) : runExpired y tick u = runExpired x tick u := by
    unfold runExpired
    split
    · rw [hst]
    · rfl
  simp only [waitingRecv, hb, hst, hexp]

section
variable {s : State} {id k : Nat} {x : Stream} {d : SlotDesc} (origin data : List Byte) (hx : s.stream? id = some x)
  (ho : s.open? id = some x) (hs : (x.slot k).shadow = none) (hp : (x.slot k).part = none) (ha : (x.slot k).active = some d)
  (ht : takesRecords x = true) (hn : data.length ≤ 65536)
include hx ho hs hp ha ht hn

/-- Where a whole record has room, its bytes are stored as they can be, and then its slot holds it. -/
theorem arrive_whole (hr : placeAt (x.slot k) d + data.length ≤ landingBytes d) :
    ∃ (w : State) (fault : Nat), w.disp = s.disp ∧ w.fuses = s.fuses ∧ w.tick = s.tick ∧ (arrive s id k origin data true).1
      = promote (claim (w.setTSlot id k (takesRec (arrivedRec x k d origin data fault) s.tick)) id k) id k := by
  have h1 : ¬ 65536 < data.length := by omega
  have h2 : ¬ landingBytes d < placeAt (x.slot k) d + data.length := by omega
  have hwake := wakeForWrite_reads s ((Desc.of d.bytes).addr + placeAt (x.slot k) d)
  have hw := hwake.toAccess.trans (devWrite_access _ ((Desc.of d.bytes).addr + placeAt (x.slot k) d) data)
  simp only [arrive, hx, hp, promote_no_shadow hx hs, ho, ha, ht, h1, h2, Option.isNone_none, if_true, Option.getD_none, Bool.not_true,
    Bool.false_eq_true, if_false, List.length_nil, Nat.zero_add, Nat.add_zero, decide_false, Bool.or_false, Bool.not_false,
    Bool.and_false, List.nil_append]
  generalize devWrite (wakeForWrite s ((Desc.of d.bytes).addr + placeAt (x.slot k) d)) _ data = w at hw ⊢
  exact ⟨w.1, (w.2.map MemErr.status).getD 0, hw.disp, hw.fuses, hw.tick, rfl⟩

/-- A whole record with no room leaves its slot without a partial record. -/
theorem arrive_full (hr : ¬ placeAt (x.slot k) d + data.length ≤ landingBytes d) :
    arrive s id k origin data true = (s.setTSlot id k fun t => { t with part := none }, .noSpace) := by
  have h1 : ¬ 65536 < data.length := by omega
  have h2 : landingBytes d < placeAt (x.slot k) d + data.length := by omega
  simp only [arrive, hx, hp, promote_no_shadow hx hs, ho, ha, ht, h1, h2, Option.isNone_none, if_true, Option.getD_none, Bool.not_true,
    Bool.false_eq_true, if_false, List.length_nil, Nat.zero_add, Nat.add_zero, decide_false, decide_true, Bool.or_false, Bool.not_false,
    Bool.and_true]

/-- A record that has room is held in its slot, behind those that came before it. -/
theorem recordArrival_holds (hk : k < x.slots.length) (hr : placeAt (x.slot k) d + data.length ≤ landingBytes d)
    (hwait : waitingRecv x s.tick k = none) (hkind : fieldN origin 0 1 ≠ 3) :
    ∃ y fault, let t := recordArrival id k origin data true s
      t.stream? id = some y ∧ (y.slot k).whole = (x.slot k).whole ++ [arrivedRec x k d origin data fault] ∧ (y.slot k).part = none
        ∧ OthersKept s t id ∧ t.fuses = s.fuses := by
  obtain ⟨w, fault, hdisp, hfuses, htick, heq⟩ := arrive_whole origin data hx ho hs hp ha ht hn hr
  have htaken := arrive_taken origin data true hx ho hs hp ha ht hn hr
  have hwx : w.stream? id = some x := (stream?_of_streams (congrArg Disp.streams hdisp) id).trans hx
  have hy := setTSlot_stream? (k := k) hwx (takesRec (arrivedRec x k d origin data fault) s.tick)
  have hslot := modifyAt_slot hk (takesRec (arrivedRec x k d origin data fault) s.tick)
  rw [claim_none hy (by rw [waitingRecv_congr rfl rfl]; exact (congrArg (waitingRecv x · k) htick).trans hwait), promote_no_shadow hy (by rw [hslot]; exact hs)] at heq
  have hrec : recordArrival id k origin data true s = (arrive s id k origin data true).1 := by
    simp only [recordArrival, hkind, false_and, if_false]
    generalize arrive s id k origin data true = p at htaken
    obtain ⟨t, c⟩ := p
    cases htaken
    rfl
  refine ⟨{ x with slots := modifyAt x.slots k (takesRec (arrivedRec x k d origin data fault) s.tick) }, fault, ?_⟩
  dsimp only
  rw [hrec, heq]
  refine ⟨hy, by rw [hslot]; rfl, by rw [hslot]; rfl, ?_, hfuses⟩
  exact (othersKept_of_streams (congrArg Disp.streams hdisp) id).trans (setTSlot_othersKept _ id k _)

/-- A record with no room is answered receiver-not-ready. -/
theorem recordArrival_refused (hk : k < x.slots.length) (hr : ¬ placeAt (x.slot k) d + data.length ≤ landingBytes d)
    (hkind : fieldN origin 0 1 ≠ 3) :
    ∃ y, let t := recordArrival id k origin data true s
      t.stream? id = some y ∧ (y.slot k).whole = (x.slot k).whole
        ∧ t.out = .nak (fieldN origin 1 1) (fieldN origin 8 4) 0x20 :: s.out ∧ t.mem = s.mem ∧ OthersKept s t id := by
  have heq := arrive_full origin data hx ho hs hp ha ht hn hr
  have hslot := modifyAt_slot hk fun t => { t with part := none }
  simp only [recordArrival, hkind, false_and, if_false, heq]
  exact ⟨_, setTSlot_stream? hx _, by rw [hslot], rfl, rfl, setTSlot_othersKept _ id k _⟩

end

/-! ### Stalls and late arrivals -/

theorem stallCounted_stream {s : State} {id : Nat} (k : Nat) {x : Stream} (hx : s.stream? id = some x) :
    (stallCounted s id k).stream? id = some { x with
      slots := modifyAt x.slots k fun t => { t with stalled := true }
      stalls := (x.stalls + 1) % 2 ^ 32
      dirty := true } :=
  (State.setStream_stream? _ id (f := fun x => { x with stalls := (x.stalls + 1) % 2 ^ 32, dirty := true }) fun _ => rfl).trans
    (by rw [setTSlot_stream? hx, Option.map_some])

theorem stallCounted_othersKept (s : State) (id k : Nat) : OthersKept s (stallCounted s id k) id :=
  (setTSlot_othersKept _ id k _).trans (setStream_othersKept _ id fun _ => rfl)

theorem lateCounted_streams (s : State) (id : Nat) :
    (lateCounted s id).disp.streams = (s.setStream id fun x => { x with late := (x.late + 1) % 2 ^ 32, dirty := true }).disp.streams :=
  congrArg (·.1.streams) (bump_contract (s.setStream id fun x => { x with late := (x.late + 1) % 2 ^ 32, dirty := true }) (pgDisp + 0x430) 1)

theorem lateCounted_stream {s : State} {id : Nat} {x : Stream} (hx : s.stream? id = some x) :
    (lateCounted s id).stream? id = some { x with late := (x.late + 1) % 2 ^ 32, dirty := true } := by
  rw [stream?_of_streams (lateCounted_streams s id)]
  exact (State.setStream_stream? s id (f := fun x => { x with late := (x.late + 1) % 2 ^ 32, dirty := true }) fun _ => rfl).trans
    (by rw [hx, Option.map_some])

theorem lateCounted_othersKept (s : State) (id : Nat) : OthersKept s (lateCounted s id) id :=
  (setStream_othersKept s id (f := fun x => { x with late := (x.late + 1) % 2 ^ 32, dirty := true }) fun _ => rfl).trans
    (othersKept_of_streams (lateCounted_streams s id) id)

/-- Settles O40, by where the bytes of a record go, and by what a count leaves to its status block. -/
theorem recordsArriveStallAndComeLate : Obligations.RecordsArriveStallAndComeLate := by
  refine ⟨fun id k origin data s x d _ ho hx hlen hk hp hs ha ht hn hkind => ⟨fun hr hwait => ?_, fun hr => ?_⟩,
    fun id k s x _ ho hx hlen hk hp hst hrun hdue => ?_, fun id idx i s x _ ho hx hb hop => ?_⟩
  · obtain ⟨y, fault, hy, hwhole, hpart, hothers, hfuses⟩ :=
      recordArrival_holds origin data hx ho hs hp ha ht hn (hlen ▸ hk) hr hwait hkind
    exact ⟨_, y, _, rfl, hy, hwhole, rfl, rfl, rfl, rfl, rfl, hpart, hothers, hfuses⟩
  · obtain ⟨y, h⟩ := recordArrival_refused origin data hx ho hs hp ha ht hn (hlen ▸ hk) hr hkind
    exact ⟨_, y, rfl, h⟩
  · have heq : stallExpiry id k s = keepStatus (stallCounted s id k) id := by
      simp only [stallExpiry, ho]
      refine if_pos ?_
      obtain h | h := hrun <;> simp [hp, hst, h, hdue]
    obtain ⟨y, hy, hsame⟩ := keepStatus_stream (stallCounted_stream k hx)
    refine ⟨_, y, rfl, (congrArg (State.stream? · id) heq).trans hy, (unmarked_keeps (p := Stream.stalls) (fun _ => rfl) hsame).trans rfl, ?_,
      (unmarked_keeps (p := Stream.state) (fun _ => rfl) hsame).trans rfl, ?_, congrArg State.mem heq⟩
    · have hslots : y.slots = _ := unmarked_keeps (p := Stream.slots) (fun _ => rfl) hsame
      rw [Stream.slot, hslots]
      exact congrArg TSlot.stalled (modifyAt_slot (hlen ▸ hk) fun t => { t with stalled := true })
    · exact heq ▸ (stallCounted_othersKept s id k).trans (keepStatus_othersKept _ id)
  · have heq : lateArrival id idx i s = keepStatus (lateCounted s id) id := by
      simp only [lateArrival, ho, hb, Option.bind_none, Bool.or_false, beq_iff_eq, hop, if_false]
      rfl
    obtain ⟨y, hy, hsame⟩ := keepStatus_stream (lateCounted_stream hx)
    exact ⟨_, y, rfl, (congrArg (State.stream? · id) heq).trans hy, (unmarked_keeps (p := Stream.late) (fun _ => rfl) hsame).trans rfl,
      (unmarked_keeps (p := Stream.batches) (fun _ => rfl) hsame).trans rfl,
      heq ▸ (lateCounted_othersKept s id).trans (keepStatus_othersKept _ id), congrArg State.mem heq⟩

end Sys2Proof.Machine
end

section
/-! SUPPORT. How a batch ends (R49, R55 to R57): what it held goes back, its turn receives its completion, and a stream that is put
in FAULTED stops its other batches. -/

namespace Sys2Proof.Machine

/-! ### Relations that the end of a batch keeps -/

/-- The first stream of a number, where there is one, satisfies a condition. -/
def State.FirstHas (s : State) (id : Nat) (P : Stream → Prop) : Prop := ∀ x, s.stream? id = some x → P x

theorem State.FirstHas.frame {s t : State} {id : Nat} {P : Stream → Prop} {Q : Drift SlotState} {R : Drift Stream} (h : s.FirstHas id P)
    (g : Frame Q R s t) (hR : ∀ a b, R.rel a b → b.id = a.id ∧ (P a → P b)) : t.FirstHas id P := by
  intro y hy
  have hrel := g.stream? (fun a b hab => (hR a b hab).1) id
  rw [hy] at hrel
  generalize hx : s.stream? id = p at hrel
  cases hrel with
  | some hab => exact (hR _ _ hab).2 (h _ hx)

theorem State.FirstIs.has {s : State} {id : Nat} {P : Stream → Prop} (h : s.FirstIs id P) : s.FirstHas id P := fun _ hx => h.elim hx

/-- A relation that allows what the end of a batch does to its stream, where the stream satisfies a condition. -/
structure AllowsEnd (id : Nat) (R : Drift Stream) (P : Stream → Prop) : Prop where
  keeps : ∀ a b, R.rel a b → b.id = a.id ∧ (P a → P b)
  blocks : AllowsBlocks R
  batches : ∀ (x : Stream) (l : List Batch), R.rel x { x with batches := l }
  cursor : ∀ (x : Stream) (c : Nat × Nat), R.rel x { x with cursor := c, cursorBy := none }
  whole : ∀ (x : Stream) (f : TSlot → List Arrived), R.rel x { x with slots := x.slots.map fun t => { t with whole := f t } }
  rearmed : ∀ s k, s.FirstHas id P → Quiet .any R s (rearmProgress s id k)

section
variable {id : Nat} {R : Drift Stream} {P : Stream → Prop} (A : AllowsEnd id R P)
include A

theorem setBatch_quiet {Q : Drift SlotState} (s : State) (i idx : Nat) (f : Batch → Batch) : Quiet Q R s (s.setBatch i idx f) :=
  setStream_quiet fun x _ => A.batches x _

theorem cursorGiveUp_quiet {Q : Drift SlotState} (s : State) (idx : Nat) : Quiet Q R s (cursorGiveUp s id idx) := by
  unfold cursorGiveUp
  split
  · exact .refl
  · refine setStream_quiet fun x _ => ?_
    split
    · exact A.cursor x _
    · exact R.refl x

theorem rearms_quiet (l : List Nat) {s : State} (h : s.FirstHas id P) : Quiet .any R s (l.foldl (fun s k => rearmProgress s id k) s) := by
  induction l generalizing s with
  | nil => exact .refl
  | cons k l ih =>
    have hk := A.rearmed s k h
    exact hk.trans (ih (h.frame hk.toFrame A.keeps))

theorem freeTaken_quiet {s : State} (h : s.FirstHas id P) (idx : Nat) : Quiet .any R s (freeTaken s id idx) := by
  have hset : Quiet .any R s (s.setStream id fun x => { x with
      slots := x.slots.map fun t => { t with whole := t.whole.filter fun a => (a.taker.map (·.1)) != some idx } }) :=
    setStream_quiet fun x _ => A.whole x fun t => t.whole.filter fun a => (a.taker.map (·.1)) != some idx
  exact hset.trans (rearms_quiet A _ (h.frame hset.toFrame A.keeps))

omit A in
theorem with_power_quiet {Q : Drift SlotState} (s : State) (p : Power) : Quiet Q R s { s with power := p } := .of_disp rfl rfl rfl rfl

omit A in
theorem with_assigns_quiet {Q : Drift SlotState} (s : State) (l : List Assign) : Quiet Q R s { s with assigns := l } :=
  .of_disp rfl rfl rfl rfl

omit A in
theorem uncharge_quiet (s : State) (slot hbm fen : Nat) : Quiet .any R s (uncharge s slot hbm fen) := setSlot_quiet fun _ => trivial

omit A in
theorem setTile_quiet {Q : Drift SlotState} (s : State) (k : Nat) (f : TileState → TileState) : Quiet Q R s (s.setTile k f) :=
  .of_disp rfl rfl rfl rfl

theorem endUnits_quiet (l : List Assign) (s : State) : Quiet .any R s (l.foldl endUnit s) :=
  foldl_quiet (fun s a => quiet_blocks A.blocks (endUnit_contents s a)) l s

/-- What a batch held is released. -/
theorem releaseBatch_quiet {s : State} (h : s.FirstHas id P) (idx : Nat) : Quiet .any R s (releaseBatch s id idx) := by
  unfold releaseBatch
  split
  · rename_i x b _ _
    have hkeys : Quiet .any R s (dropKeys (dropWindows s id idx) id idx) :=
      quiet_blocks A.blocks (by rw [dropKeys_contents, dropWindows_contents])
    have hswitch : Quiet .any R s (if b.state = .committed then dropKeys (dropWindows s id idx) id idx
        else releaseSwitch (dropKeys (dropWindows s id idx) id idx) id idx) := by
      split
      · exact hkeys
      · exact hkeys.trans (quiet_blocks A.blocks (releaseSwitch_contents ..))
    have hcursor := hswitch.trans (cursorGiveUp_quiet A _ idx)
    have htaken := hcursor.trans (freeTaken_quiet A (h.frame hcursor.toFrame A.keeps) idx)
    have hcharge := htaken.trans (uncharge_quiet _ x.session (b.stagingBytes + (b.runs.map (·.spill)).sum) 0)
    dsimp only
    refine Quiet.trans ?_ (quiet_blocks A.blocks (leaveTiles_contents _ id))
    refine Quiet.trans ?_ (with_power_quiet _ _)
    refine Quiet.trans ?_ (setBatch_quiet A _ id idx _)
    refine Quiet.trans ?_ (foldl_quiet (fun s t => setTile_quiet ..) _ _)
    refine Quiet.trans ?_ (with_assigns_quiet _ _)
    exact hcharge.trans (endUnits_quiet A _ _)
  · exact .refl

/-- A batch that has ended, but for its completion. -/
def batchEnded (s : State) (id idx status : Nat) : State :=
  let s := (releaseBatch s id idx).setBatch id idx fun b => { b with state := .done }
  let s := if status = stPoison then errorTrigger s 2 else s
  if 0x10 ≤ status ∧ status ≤ 0x13 then bump s (pgDisp + 0x428) 1 else s

theorem batchEnded_quiet {s : State} (h : s.FirstHas id P) (idx status : Nat) : Quiet .any R s (batchEnded s id idx status) := by
  have hset := (releaseBatch_quiet A h idx).trans (setBatch_quiet A _ id idx fun b => { b with state := .done })
  have htrigger : Quiet .any R s (if status = stPoison then
      errorTrigger ((releaseBatch s id idx).setBatch id idx fun b => { b with state := .done }) 2
      else (releaseBatch s id idx).setBatch id idx fun b => { b with state := .done }) := by
    split
    · exact hset.trans (quiet_blocks A.blocks (errorTrigger_contents ..))
    · exact hset
  unfold batchEnded
  dsimp only
  split
  · exact htrigger.trans (bump_quiet ..)
  · exact htrigger

end

/-! ### The end of a batch -/

/-- A batch that ends: what it held is released, and then its turn receives its completion. -/
theorem finishBatch_eq {s : State} {id idx : Nat} {x : Stream} {b : Batch} (hx : s.stream? id = some x) (hb : s.batch? id idx = some b)
    (hst : b.state ≠ .done) (status detail : Nat) :
    ∃ c, c.status = status ∧ c.stream = x.id
      ∧ finishBatch s id idx status detail = giveTurn (batchEnded (batchCount s x b).1 id idx status) (.comp id) idx c .batchEnd := by
  refine ⟨batchComp x b status (if status ≤ stPartial then 0 else detail) (batchCount s x b).2.1 (batchCount s x b).2.2
    ((if b.subst then flSubst else 0) + (if b.state = .committed then flCommitted else 0)), rfl, rfl, ?_⟩
  simp only [finishBatch, hx, hb, if_neg hst]
  rfl

/-! ### A turn that waits, and a turn that is answered -/

/-- A turn of a stream's completion ring that waits goes on waiting. -/
def turnWaits (idx : Nat) : Drift Stream where
  rel a b := b.id = a.id ∧ (TurnWaits a idx → TurnWaits b idx)
  refl _ := ⟨rfl, fun h => h⟩
  trans h g := ⟨g.1.trans h.1, fun w => g.2 (h.2 w)⟩

/-- A turn that has its completion stays in its ring with it. -/
def turnsKept : Drift Stream where
  rel a b := b.id = a.id ∧ ∀ u ∈ a.cring.turns, u.comp.isSome = true → u ∈ b.cring.turns
  refl _ := ⟨rfl, fun _ h _ => h⟩
  trans h g := ⟨g.1.trans h.1, fun u hu hs => g.2 u (h.2 u hu hs) hs⟩

theorem turnWaits_congr {idx : Nat} {a b : Stream} (hid : b.id = a.id) (hc : b.cring = a.cring) (hs : b.slots = a.slots) :
    (turnWaits idx).rel a b := ⟨hid, fun h => by
  unfold TurnWaits at h ⊢
  rw [hc, hs]
  exact h⟩

theorem turnsKept_congr {a b : Stream} (hid : b.id = a.id) (hc : b.cring = a.cring) : turnsKept.rel a b :=
  ⟨hid, fun _ hu _ => hc ▸ hu⟩

theorem giveTurn_turnsKept {Q : Drift SlotState} (s : State) (id idx : Nat) (c : Comp) (a : After) :
    Quiet Q turnsKept s (giveTurn s (.comp id) idx c a) :=
  setStream_quiet fun _ _ => ⟨rfl, fun u hu hs => List.mem_map.2 ⟨u, hu, Turn.given_of_isSome idx c a hs⟩⟩

theorem endRearm_turnsKept {Q : Drift SlotState} (s : State) (id : Nat) (d : SlotDesc) (status flags : Nat) :
    Quiet Q turnsKept s (endRearm s id d status flags) := by
  unfold endRearm
  split
  · exact giveTurn_turnsKept ..
  · exact .refl

/-- The completion of another turn leaves a turn waiting. -/
theorem giveTurn_turnWaits {Q : Drift SlotState} {idx : Nat} (s : State) (id : Nat) {j : Nat} (hj : j ≠ idx) (c : Comp) (a : After) :
    Quiet Q (turnWaits idx) s (giveTurn s (.comp id) j c a) :=
  setStream_quiet fun x _ => ⟨rfl, fun ⟨⟨u, hu, hi, hc⟩, hd⟩ =>
    ⟨⟨u.given j c a, List.mem_map_of_mem hu, (Turn.given_idx ..).trans hi, by
      rw [Turn.given, if_neg fun h => hj (h.1.symm.trans hi)]
      exact hc⟩, hd⟩⟩

theorem endRearm_turnWaits {Q : Drift SlotState} {idx : Nat} (s : State) (id : Nat) {d : SlotDesc} (hd : d.idx ≠ idx)
    (status flags : Nat) : Quiet Q (turnWaits idx) s (endRearm s id d status flags) := by
  unfold endRearm
  split
  · exact giveTurn_turnWaits s id hd ..
  · exact .refl

theorem mem_modifyAt {α : Type} {l : List α} {n : Nat} {f : α → α} {y : α} (h : y ∈ modifyAt l n f) : y ∈ l ∨ ∃ x ∈ l, y = f x := by
  induction l generalizing n with
  | nil => exact .inl h
  | cons a t ih =>
    cases n with
    | zero =>
      obtain rfl | h := List.mem_cons.1 h
      · exact .inr ⟨a, List.mem_cons_self, rfl⟩
      · exact .inl (List.mem_cons_of_mem _ h)
    | succ n =>
      obtain rfl | h := List.mem_cons.1 h
      · exact .inl List.mem_cons_self
      · obtain h | ⟨x, hx, rfl⟩ := ih h
        · exact .inl (List.mem_cons_of_mem _ h)
        · exact .inr ⟨x, List.mem_cons_of_mem _ hx, rfl⟩

/-- Every descriptor of a slot carries an index that it carried before. -/
def DescsFrom (t u : TSlot) : Prop :=
  ∀ d ∈ u.old ++ u.active.toList ++ u.shadow.toList, ∃ e ∈ t.old ++ t.active.toList ++ t.shadow.toList, e.idx = d.idx

/-- A change of a slot that brings no descriptor of a new index leaves a turn waiting. -/
theorem setTSlot_turnWaits {Q : Drift SlotState} {idx : Nat} (s : State) (id k : Nat) {f : TSlot → TSlot} (hf : ∀ t, DescsFrom t (f t)) :
    Quiet Q (turnWaits idx) s (s.setTSlot id k f) :=
  setStream_quiet fun x _ => ⟨rfl, fun ⟨ht, hd⟩ => ⟨ht, fun q hq d hdq => by
    obtain hq | ⟨t, htx, rfl⟩ := mem_modifyAt hq
    · exact hd q hq d hdq
    · obtain ⟨e, he, hi⟩ := hf t d hdq
      exact hi ▸ hd t htx e he⟩⟩

theorem foldl_quiet_mem {α : Type} {Q : Drift SlotState} {R : Drift Stream} {f : State → α → State} {l : List α}
    (hf : ∀ s, ∀ a ∈ l, Quiet Q R s (f s a)) (s : State) : Quiet Q R s (l.foldl f s) := by
  induction l generalizing s with
  | nil => exact .refl
  | cons a l ih => exact (hf s a List.mem_cons_self).trans (ih (fun s b hb => hf s b (List.mem_cons_of_mem _ hb)) _)

theorem rearmProgress_turnsKept (s : State) (id k : Nat) : Quiet .any turnsKept s (rearmProgress s id k) := by
  unfold rearmProgress
  split
  · exact .refl
  · dsimp only
    refine Quiet.trans (foldl_quiet (fun s d => endRearm_turnsKept s id d stDone 0) _ s) (setStream_quiet fun x _ => ?_)
    exact turnsKept_congr rfl rfl

theorem TurnWaits.slot {x : Stream} {idx : Nat} (h : TurnWaits x idx) (k : Nat) :
    ∀ d ∈ (x.slot k).old ++ (x.slot k).active.toList ++ (x.slot k).shadow.toList, d.idx ≠ idx := by
  by_cases hk : k < x.slots.length
  · refine h.2 (x.slot k) ?_
    rw [Stream.slot, List.getD_eq_getElem _ _ hk]
    exact List.getElem_mem hk
  · rw [Stream.slot, List.getD_eq_default _ _ (by omega)]
    simp

/-- A slot whose descriptors have had their completions: those replaced are forgotten, the active one waits no more. -/
theorem descsFrom_completed (t : TSlot) (due : SlotDesc → Bool) :
    DescsFrom t { t with
      old := t.old.filter fun d => !(due d)
      active := t.active.map fun d => if due d then { d with waits := false } else d } := by
  intro d hd
  simp only [List.mem_append, Option.mem_toList] at hd ⊢
  obtain (hd | hd) | hd := hd
  · exact ⟨d, .inl (.inl (List.mem_filter.1 hd).1), rfl⟩
  · obtain ⟨e, he, rfl⟩ := Option.map_eq_some_iff.1 hd
    refine ⟨e, .inl (.inr he), ?_⟩
    split <;> rfl
  · exact ⟨d, .inr hd, rfl⟩

/-- A REARM that completes has another turn than a batch of its stream. -/
theorem rearmProgress_turnWaits {idx : Nat} (s : State) (id k : Nat) (h : s.FirstHas id (TurnWaits · idx)) :
    Quiet .any (turnWaits idx) s (rearmProgress s id k) := by
  unfold rearmProgress
  split
  · exact .refl
  · rename_i x hx
    have hw := (h x hx).slot k
    refine Quiet.trans (foldl_quiet_mem (fun s d hd => endRearm_turnWaits s id (hw d ?_) stDone 0) s)
      (setTSlot_turnWaits _ id k fun t => descsFrom_completed t _)
    exact List.mem_append_left _ (List.mem_filter.1 hd).1

theorem turnsKept_blocks : AllowsBlocks turnsKept := fun a b h =>
  turnsKept_congr (bareDrift_id h) (bare_keeps (p := Stream.cring) (fun _ => rfl) a b h)

theorem turnWaits_blocks (idx : Nat) : AllowsBlocks (turnWaits idx) := fun a b h =>
  turnWaits_congr (bareDrift_id h) (bare_keeps (p := Stream.cring) (fun _ => rfl) a b h) (bare_keeps (p := Stream.slots) (fun _ => rfl) a b h)

/-- The end of a batch keeps the turns that have their completions. -/
theorem turnsKept_allowsEnd (id : Nat) : AllowsEnd id turnsKept fun _ => True where
  keeps _ _ h := ⟨h.1, fun _ => trivial⟩
  blocks := turnsKept_blocks
  batches _ _ := turnsKept_congr rfl rfl
  cursor _ _ := turnsKept_congr rfl rfl
  whole _ _ := turnsKept_congr rfl rfl
  rearmed s k _ := rearmProgress_turnsKept s id k

/-- What a batch held goes back before its turn is answered. -/
theorem turnWaits_allowsEnd (id idx : Nat) : AllowsEnd id (turnWaits idx) (TurnWaits · idx) where
  keeps _ _ h := h
  blocks := turnWaits_blocks idx
  batches _ _ := turnWaits_congr rfl rfl rfl
  cursor _ _ := turnWaits_congr rfl rfl rfl
  whole _ f := ⟨rfl, fun ⟨ht, hd⟩ => ⟨ht, fun q hq d hdq => by
    obtain ⟨t, htx, rfl⟩ := List.mem_map.1 hq
    exact hd t htx d hdq⟩⟩
  rearmed s k h := rearmProgress_turnWaits s id k h

/-! ### Streams that are put in FAULTED (R55) -/

theorem setStream_turnsKept {Q : Drift SlotState} (s : State) (id : Nat) {f : Stream → Stream} (hid : ∀ x, (f x).id = x.id)
    (hc : ∀ x, (f x).cring = x.cring) : Quiet Q turnsKept s (s.setStream id f) :=
  setStream_quiet fun x _ => turnsKept_congr (hid x) (hc x)

theorem contents_turnsKept {Q : Drift SlotState} {s t : State} (h : t.contents = s.contents) : Quiet Q turnsKept s t :=
  quiet_blocks turnsKept_blocks h

theorem setState_turnsKept {Q : Drift SlotState} (s : State) (id : Nat) (st : SState) : Quiet Q turnsKept s (setState s id st) := by
  have h : Quiet Q turnsKept s (s.setStream id fun x => { x with state := st, dirty := true }) :=
    setStream_turnsKept s id (fun _ => rfl) fun _ => rfl
  simp only [setState]
  split
  · exact h
  · exact h.trans (contents_turnsKept (freeResidents_contents ..))

theorem finishBatch_turnsKept (s : State) (id idx status detail : Nat) : Quiet .any turnsKept s (finishBatch s id idx status detail) := by
  cases hx : s.stream? id with
  | none => simp only [finishBatch, hx]; exact .refl
  | some x =>
    cases hb : s.batch? id idx with
    | none => simp only [finishBatch, hx, hb]; exact .refl
    | some b =>
      by_cases hst : b.state = .done
      · simp only [finishBatch, hx, hb, hst, if_true]
        exact .refl
      · obtain ⟨c, _, _, heq⟩ := finishBatch_eq hx hb hst status detail
        rw [heq]
        have hcount : Quiet .any turnsKept s (batchCount s x b).1 := contents_turnsKept (batchCount_contents s x b)
        exact (hcount.trans (batchEnded_quiet (turnsKept_allowsEnd id) (fun _ _ => trivial) idx status)).trans (giveTurn_turnsKept ..)

theorem stopStarted_turnsKept (id : Nat) (s : State) (b : Batch) : Quiet .any turnsKept s (stopStarted s id b) := by
  have hset : Quiet .any turnsKept s (s.setBatch id b.idx fun b => { b with stopped := true }) :=
    setBatch_quiet (turnsKept_allowsEnd id) s id b.idx _
  unfold stopStarted
  split
  · exact hset
  · exact hset.trans (finishBatch_turnsKept ..)

theorem stopOne_turnsKept (id : Nat) (s : State) (b : Batch) : Quiet .any turnsKept s (stopOne id s b) := by
  unfold stopOne
  split
  · exact .refl
  · rename_i x _
    have hcount : Quiet .any turnsKept s (batchCount s x b).1 := contents_turnsKept (batchCount_contents s x b)
    exact (hcount.trans (setBatch_quiet (turnsKept_allowsEnd id) _ id b.idx _)).trans (giveTurn_turnsKept ..)

theorem stopUnstarted_turnsKept (s : State) (id : Nat) : Quiet .any turnsKept s (stopUnstarted s id) := by
  unfold stopUnstarted
  split
  · exact .refl
  · exact foldl_quiet (stopOne_turnsKept id) _ s

theorem stopDrain_turnsKept (s : State) (id : Nat) : Quiet .any turnsKept s (stopDrain s id) := by
  have hlate (u : State) (slot idx n : Nat) : Quiet .any turnsKept u (endLate u slot idx stStopped n .nothing) := by
    unfold endLate
    split
    · exact setSlot_quiet fun _ => trivial
    · exact .refl
  unfold stopDrain
  split
  · refine Quiet.trans (setStream_turnsKept s id ?_ ?_) (hlate ..)
    · exact fun _ => rfl
    · exact fun _ => rfl
  · exact .refl

theorem faultStream_turnsKept (s : State) (id status stage : Nat) : Quiet .any turnsKept s (faultStream s id status stage) := by
  unfold faultStream
  split
  · exact .refl
  · refine Quiet.trans ?_ (stopDrain_turnsKept ..)
    refine Quiet.trans ?_ (stopUnstarted_turnsKept ..)
    refine Quiet.trans ?_ (foldl_quiet (stopStarted_turnsKept id) _ _)
    exact (setState_turnsKept ..).trans (setStream_turnsKept _ id (fun _ => rfl) fun _ => rfl)

/-! ### Stages that become ready (R86) -/

/-- A batch without the ticks at which its stages became ready. -/
def Batch.unready (b : Batch) : Batch := { b with runs := b.runs.map fun r => { r with readyAt := none } }

/-- A stream without the ticks at which its batches' stages became ready. -/
def Stream.unready (x : Stream) : Stream := { x with batches := x.batches.map Batch.unready }

/-- Of a stage only its tick changes as it becomes ready. -/
theorem readied_unready (x : Stream) (idx i tick : Nat) :
    Stream.unready { x with batches := x.batches.map fun b => if b.idx = idx then { b with runs := b.runs.map fun r =>
      if r.ix = i then (if r.readyAt.isNone then { r with readyAt := some tick } else r) else r } else b } = x.unready := by
  have hrun (r : StageRun) : { (if r.ix = i then (if r.readyAt.isNone then { r with readyAt := some tick } else r) else r) with
      readyAt := none } = { r with readyAt := none } := by
    split
    · split <;> rfl
    · rfl
  have hbatch (b : Batch) : Batch.unready (if b.idx = idx then { b with runs := b.runs.map fun r =>
      if r.ix = i then (if r.readyAt.isNone then { r with readyAt := some tick } else r) else r } else b) = b.unready := by
    split
    · simp only [Batch.unready, List.map_map, Function.comp_def, hrun]
    · rfl
  simp only [Stream.unready, List.map_map, Function.comp_def, hbatch]

/-- A batch's next stage is marked with the tick where it has become ready. -/
def readyStep (id : Nat) (x : Stream) (p : Plan) (s : State) (b : Batch) : State :=
  if b.stopped || !(b.state == .started || b.state == .committed) then s
  else match nextStage p b with
    | some i => if roleOk x p b.idx i then
        s.setRun id b.idx i fun r => if r.readyAt.isNone then { r with readyAt := some s.tick } else r else s
    | none => s

theorem refreshReady_eq {s : State} {id : Nat} {x : Stream} {p : Plan} (hx : s.stream? id = some x) (hp : x.plan = some p) :
    refreshReady s id = x.batches.foldl (readyStep id x p) s := by
  simp only [refreshReady, hx, hp]
  rfl

/-- What becomes ready is marked, and nothing else changes. -/
def Readied (id : Nat) (s t : State) : Prop :=
  Quiet .same (.only id (.keeps Stream.unready)) s t ∧ ∃ d, t = { s with disp := d }

theorem Readied.refl (id : Nat) (s : State) : Readied id s s := ⟨.refl, s.disp, rfl⟩

theorem Readied.trans {id : Nat} {s t u : State} (h : Readied id s t) (g : Readied id t u) : Readied id s u := by
  obtain ⟨hq, d, rfl⟩ := h
  obtain ⟨gq, e, rfl⟩ := g
  exact ⟨hq.trans gq, e, rfl⟩

theorem readyStep_readied (id : Nat) (x : Stream) (p : Plan) (s : State) (b : Batch) : Readied id s (readyStep id x p s b) := by
  unfold readyStep
  split
  · exact .refl id s
  · split
    · split
      · refine ⟨setStream_only ?_ ?_, _, rfl⟩
        · exact fun _ => rfl
        · exact fun y _ => readied_unready y ..
      · exact .refl id s
    · exact .refl id s

theorem refreshReady_readied (s : State) (id : Nat) : Readied id s (refreshReady s id) := by
  have hfold (x : Stream) (p : Plan) (l : List Batch) (s : State) : Readied id s (l.foldl (readyStep id x p) s) := by
    induction l generalizing s with
    | nil => exact .refl id s
    | cons b l ih => exact (readyStep_readied id x p s b).trans (ih _)
  cases hx : s.stream? id with
  | none => simp only [refreshReady, hx]; exact .refl id s
  | some x =>
    cases hp : x.plan with
    | none => simp only [refreshReady, hx, hp]; exact .refl id s
    | some p => rw [refreshReady_eq hx hp]; exact hfold x p _ s

theorem unready_keeps {β : Type} {p : Stream → β} (hp : ∀ x, p x.unready = p x) {a b : Stream} (h : b.unready = a.unready) :
    p b = p a := by
  rw [← hp b, ← hp a, h]

theorem Readied.turnsKept {id : Nat} {s t : State} (h : Readied id s t) : Quiet .any turnsKept s t :=
  h.1.mono (fun _ _ _ => trivial) fun a b ⟨hid, hat, hne⟩ => by
    by_cases ha : a.id = id
    · exact turnsKept_congr hid (unready_keeps (p := Stream.cring) (fun _ => rfl) (hat ha))
    · exact hne ha ▸ Machine.turnsKept.refl a

/-! ### A batch that completes -/

/-- A turn of a stream's completion ring has its completion, with a status. -/
def TurnAnswered (id idx status : Nat) (x : Stream) : Prop :=
  ∃ u ∈ x.cring.turns, u.idx = idx ∧ ∃ c, u.comp = some c ∧ c.status = status ∧ c.stream = id

theorem answered_iff {s : State} {id idx status : Nat} : Answered s id idx status ↔ s.FirstIs id (TurnAnswered id idx status) := by
  constructor
  · rintro ⟨o, ho, rest⟩
    obtain ⟨x, hx, rfl⟩ := Option.map_eq_some_iff.1 ho
    exact ⟨x, hx, rest⟩
  · rintro ⟨x, hx, rest⟩
    exact ⟨x.cring, by rw [State.ringOut, hx, Option.map_some], rest⟩

/-- A turn that is answered stays so. -/
theorem Answered.kept {s t : State} {id idx status : Nat} {Q : Drift SlotState} (h : Answered s id idx status)
    (g : Frame Q turnsKept s t) : Answered t id idx status := by
  rw [answered_iff] at h ⊢
  exact h.frame g (fun _ _ hab => hab.1) fun _ _ hab ⟨u, hu, hi, c, hc, rest⟩ => ⟨u, hab.2 u hu (by rw [hc]; rfl), hi, c, hc, rest⟩

/-- An open turn that receives its completion is answered. -/
theorem giveTurn_answers {s : State} {id idx : Nat} (h : s.FirstIs id fun x => ∃ u ∈ x.cring.turns, u.idx = idx ∧ u.comp = none) {c : Comp}
    (hc : c.stream = id) (a : After) : Answered (giveTurn s (.comp id) idx c a) id idx c.status := by
  rw [answered_iff, giveTurn_eq]
  refine h.setStream (fun _ => rfl) fun x ⟨u, hu, hi, hn⟩ => ⟨u.given idx c a, List.mem_map_of_mem hu, ?_, c, ?_, rfl, hc⟩
  · exact (Turn.given_idx ..).trans hi
  · rw [Turn.given_self c a hi hn]

/-- A batch that ends completes with its status, and no memory is written. -/
theorem endBatch_answers {s : State} {id idx : Nat} {x : Stream} {b : Batch} (hx : s.stream? id = some x) (hb : s.batch? id idx = some b)
    (hst : b.state ≠ .done) (hw : TurnWaits x idx) (status detail : Nat) :
    Answered (endBatch s id idx status detail) id idx status ∧ (endBatch s id idx status detail).mem = s.mem
      ∧ (endBatch s id idx status detail).fuses = s.fuses := by
  obtain ⟨c, hc, hcs, heq⟩ := finishBatch_eq hx hb hst status detail
  have hfirst : s.FirstIs id (TurnWaits · idx) := ⟨x, hx, hw⟩
  have hcount : Quiet .any (turnWaits idx) s (batchCount s x b).1 := quiet_blocks (turnWaits_blocks idx) (batchCount_contents s x b)
  have hcounted := hfirst.frame hcount.toFrame (fun _ _ h => h.1) fun _ _ h => h.2
  have hended := hcount.trans (batchEnded_quiet (turnWaits_allowsEnd id idx) hcounted.has idx status)
  have hwaits := hfirst.frame hended.toFrame (fun _ _ h => h.1) fun _ _ h => h.2
  have hans := giveTurn_answers (hwaits.mono fun _ h => h.1) (hcs.trans (State.stream?_id hx)) .batchEnd
  rw [← heq, hc] at hans
  have hgive : Quiet .any .any s (finishBatch s id idx status detail) := by
    rw [heq]
    exact (hended.mono (fun _ _ _ => trivial) fun _ _ _ => trivial).trans (setStream_quiet fun _ _ => trivial)
  have hrest : Quiet .any turnsKept (finishBatch s id idx status detail) (endBatch s id idx status detail) := by
    simp only [endBatch, hx]
    refine Quiet.trans ?_ (refreshReady_readied _ id).turnsKept
    split
    · exact faultStream_turnsKept ..
    · exact .refl
  exact ⟨hans.kept hrest.toFrame, hrest.mem.trans hgive.mem, hrest.fuses.trans hgive.fuses⟩

end Sys2Proof.Machine
end

section
/-! PROOFS. O41: a batch is accepted or refused, and starts or finds no room (R46, R48, R76, R84). -/

namespace Sys2Proof.Machine

/-! ### SUBMIT_BATCH -/

theorem submitChecks_reads (x : Stream) (r : Rec) (s : State) : Reads s (submitChecks x r s).1 := by
  have h := batchFails_reads s x.plan (s.level x.session) (r.n 36 4) (r.n 24 8) (r.n 32 2) (r.n 40 8) (r.n 34 2)
  unfold submitChecks
  generalize batchFails s x.plan (s.level x.session) (r.n 36 4) (r.n 24 8) (r.n 32 2) (r.n 40 8) (r.n 34 2) = p at h ⊢
  exact h

theorem takeRec_stream? {s : State} {id : Nat} {x : Stream} (hx : s.stream? id = some x) :
    (takeRec s id).stream? id = some { x with ring := { x.ring with recs := x.ring.recs.drop 1 } } :=
  (State.setStream_stream? s id (f := fun x => { x with ring := { x.ring with recs := x.ring.recs.drop 1 } }) fun _ => rfl).trans
    (by rw [hx, Option.map_some])

theorem takeRec_othersKept (s : State) (id : Nat) : OthersKept s (takeRec s id) id := setStream_othersKept s id fun _ => rfl

theorem acceptBatch_stream? {s : State} {id : Nat} {x : Stream} (hx : s.stream? id = some x) (b : Batch) :
    (acceptBatch s id b).stream? id = some { x with batches := x.batches ++ [b], dirty := x.dirty || b.state == .held } :=
  (State.setStream_stream? s id (f := fun x => { x with batches := x.batches ++ [b], dirty := x.dirty || b.state == .held })
    fun _ => rfl).trans (by rw [hx, Option.map_some])

theorem acceptBatch_othersKept (s : State) (id : Nat) (b : Batch) : OthersKept s (acceptBatch s id b) id :=
  setStream_othersKept s id fun _ => rfl

/-- What records that leave a stream's ring keep of the stream: its batches and state, and turns that have their completions. -/
def batchesKept : Drift Stream := turnsKept.and (.keeps fun x => (x.batches, x.state))

theorem batchesKept_records (id : Nat) : AllowsRecords id (Drift.only id batchesKept) where
  ring _ _ hx := ⟨rfl, fun _ => ⟨turnsKept_congr rfl rfl, rfl⟩, fun hn => absurd hx hn⟩
  turn _ idx c a hx := ⟨rfl, fun _ => ⟨⟨rfl, fun u hu hs => List.mem_map.2 ⟨u, hu, Turn.given_of_isSome idx c a hs⟩⟩, rfl⟩,
    fun hn => absurd hx hn⟩

/-- After a record has been taken, those behind it may be refused: batches and state stay. -/
theorem settle_stream {s : State} {id : Nat} {x : Stream} (hx : s.stream? id = some x) :
    (∃ y, (settle s (.stream id)).stream? id = some y ∧ y.batches = x.batches ∧ y.state = x.state)
      ∧ OthersKept s (settle s (.stream id)) id ∧ (settle s (.stream id)).mem = s.mem ∧ (settle s (.stream id)).fuses = s.fuses := by
  have h : Quiet .any (Drift.only id batchesKept) s (settle s (.stream id)) := settle_quiet (batchesKept_records id) s
  obtain ⟨y, hy, _, hsame⟩ := h.only_first hx
  obtain ⟨hb, hst⟩ := Prod.mk.inj hsame
  exact ⟨⟨y, hy, hb, hst⟩, h.othersKept, h.mem, h.fuses⟩

theorem settle_answered {s : State} {id idx status : Nat} (h : Answered s id idx status) :
    Answered (settle s (.stream id)) id idx status := by
  have hq : Quiet .any (Drift.only id batchesKept) s (settle s (.stream id)) := settle_quiet (batchesKept_records id) s
  refine h.kept (hq.toFrame.mono (Q' := .any) (R' := turnsKept) (fun _ _ h => h) fun a b ⟨hid, hat, hne⟩ => ?_)
  by_cases ha : a.id = id
  · exact (hat ha).1
  · exact hne ha ▸ turnsKept.refl a

section
variable {id : Nat} {s : State} {x : Stream} {r : Rec} (hf : frontRec s id 0x20 = some (x, r)) (hx : s.stream? id = some x)
include hf hx

/-- A batch that is accepted joins its stream. -/
theorem submitBatch_accepts (hc : pickFail (submitChecks x r (takeRec s id)).2.1 = none) :
    let found := submitChecks x r (takeRec s id)
    let b := newBatch x r found.2.2.1 found.2.2.2
    ∃ y, (submitBatch id s).stream? id = some y ∧ y.batches = x.batches ++ [b] ∧ y.state = x.state ∧ OthersKept s (submitBatch id s) id
      ∧ (submitBatch id s).mem = (keepStatus (acceptBatch found.1 id b) id).mem ∧ (submitBatch id s).fuses = s.fuses := by
  have hr := submitChecks_reads x r (takeRec s id)
  dsimp only
  simp only [submitBatch, hf, hc]
  generalize submitChecks x r (takeRec s id) = found at hr
  obtain ⟨u, fs, ins, outs⟩ := found
  have hstreams : u.disp.streams = (takeRec s id).disp.streams := by rw [hr.disp]
  have hu := acceptBatch_stream? ((stream?_of_streams hstreams id).trans (takeRec_stream? hx)) (newBatch x r ins outs)
  obtain ⟨y, hy, hsame⟩ := keepStatus_stream hu
  obtain ⟨⟨z, hz, hzb, hzs⟩, hothers, hmem, hfuses⟩ := settle_stream hy
  have hkeep : (keepStatus (acceptBatch u id (newBatch x r ins outs)) id).fuses = u.fuses :=
    (keepStatus_frame (Q := .any) (acceptBatch u id (newBatch x r ins outs)) id).fuses
  refine ⟨z, hz, hzb.trans ((unmarked_keeps (p := Stream.batches) (fun _ => rfl) hsame).trans rfl),
    hzs.trans ((unmarked_keeps (p := Stream.state) (fun _ => rfl) hsame).trans rfl), ?_, hmem, hfuses.trans (hkeep.trans hr.fuses)⟩
  refine OthersKept.trans ?_ hothers
  refine OthersKept.trans ?_ (keepStatus_othersKept _ id)
  refine OthersKept.trans ?_ (acceptBatch_othersKept u id _)
  exact (takeRec_othersKept s id).trans (othersKept_of_streams hstreams id)

/-- A batch that fails a check is refused in its turn, with the check's status. -/
theorem submitBatch_refuses (hclean : s.clean = true) {f : Fail} (hc : pickFail (submitChecks x r (takeRec s id)).2.1 = some f)
    (hid : r.stream = id) (hturn : ∃ u ∈ x.cring.turns, u.idx = r.idx ∧ u.comp = none) :
    ∃ y, (submitBatch id s).stream? id = some y ∧ y.batches = x.batches ∧ Answered (submitBatch id s) id r.idx f.status
      ∧ OthersKept s (submitBatch id s) id ∧ (submitBatch id s).mem = s.mem := by
  have hr := submitChecks_reads x r (takeRec s id)
  simp only [submitBatch, hf, hc]
  generalize submitChecks x r (takeRec s id) = found at hr
  obtain ⟨u, fs, ins, outs⟩ := found
  dsimp only at hr ⊢
  have hreject : Quiet .any .same u (countReject u f.status) := countReject_quiet ..
  have hstreams : (countReject u f.status).disp.streams = (takeRec s id).disp.streams := by
    obtain ⟨c, l, h⟩ := countReject_eq u f.status
    rw [h, ← congrArg Disp.streams hr.disp]
  have hux := (stream?_of_streams hstreams id).trans (takeRec_stream? hx)
  have hgive := State.setStream_stream? (countReject u f.status) id
    (f := fun x => { x with cring := x.cring.given r.idx (r.comp f.status f.detail 0 0 0) .nothing }) fun _ => rfl
  rw [hux, Option.map_some] at hgive
  obtain ⟨⟨z, hz, hzb, _⟩, hothers, hmem, _⟩ := settle_stream hgive
  have hans := giveTurn_answers (s := countReject u f.status) (id := id) (idx := r.idx) ⟨_, hux, hturn⟩
    (c := r.comp f.status f.detail 0 0 0) hid .nothing
  refine ⟨z, hz, hzb, settle_answered hans, ?_, hmem.trans (hreject.mem.trans (hr.mem hclean))⟩
  refine OthersKept.trans ?_ hothers
  refine OthersKept.trans ?_ (setStream_othersKept _ id fun _ => rfl)
  exact (takeRec_othersKept s id).trans (othersKept_of_streams hstreams id)

end

/-! ### The start of a batch -/

theorem State.batch?_eq {s : State} {id : Nat} {x : Stream} (hx : s.stream? id = some x) (idx : Nat) :
    s.batch? id idx = x.batches.find? (·.idx == idx) := by rw [State.batch?, hx, Option.bind_some]

theorem find?_map_idx {f : Batch → Batch} (hf : ∀ b, (f b).idx = b.idx) (l : List Batch) (idx : Nat) :
    (l.map fun b => if b.idx = idx then f b else b).find? (·.idx == idx) = (l.find? (·.idx == idx)).map f := by
  induction l with
  | nil => rfl
  | cons b l ih =>
    by_cases hb : b.idx = idx
    · simp [hb, hf]
    · simp [hb, ih]

theorem setBatch_stream? {s : State} {id : Nat} {x : Stream} (hx : s.stream? id = some x) (idx : Nat) (f : Batch → Batch) :
    (s.setBatch id idx f).stream? id = some { x with batches := x.batches.map fun b => if b.idx = idx then f b else b } :=
  (State.setStream_stream? s id (f := fun x => { x with batches := x.batches.map fun b => if b.idx = idx then f b else b })
    fun _ => rfl).trans (by rw [hx, Option.map_some])

theorem setBatch_batch? {s : State} {id idx : Nat} {b : Batch} (hb : s.batch? id idx = some b) {f : Batch → Batch}
    (hf : ∀ b, (f b).idx = b.idx) : (s.setBatch id idx f).batch? id idx = some (f b) := by
  obtain ⟨x, hx, hb⟩ := Option.bind_eq_some_iff.1 hb
  rw [State.batch?_eq (setBatch_stream? hx idx f), find?_map_idx hf, hb, Option.map_some]

theorem setBatch_othersKept (s : State) (id idx : Nat) (f : Batch → Batch) : OthersKept s (s.setBatch id idx f) id :=
  setStream_othersKept s id fun _ => rfl

/-- A batch as it starts: every stage of the plan to run. -/
def Batch.begun (tick staging place stages : Nat) (pins : List (Nat × Nat)) (b : Batch) : Batch := { b with
  state := .started
  start := tick
  pins := pins
  stagingBytes := staging
  stagingAddr := place % 0x9900000 * 4096
  runs := (List.range stages).map fun i => { ix := i } }

/-- The state in which a batch has started, before its stages are looked at. -/
def batchBegun (s : State) (id idx staging stages : Nat) (pins : List (Nat × Nat)) : State :=
  let s := dispatcherWakes ((takeFree s).1.setBatch id idx (Batch.begun s.tick staging (takeFree s).2 stages pins))
  { s with power := { s.power with dev := .active, lastWork := s.tick } }

theorem batchBegun_stream? {s : State} {id : Nat} {x : Stream} (hx : s.stream? id = some x) (idx staging stages : Nat)
    (pins : List (Nat × Nat)) : (batchBegun s id idx staging stages pins).stream? id = some { x with
      batches := x.batches.map fun b => if b.idx = idx then b.begun s.tick staging (takeFree s).2 stages pins else b } :=
  setBatch_stream? (s := (takeFree s).1) hx idx _

theorem batchBegun_batch? {s : State} {id idx : Nat} {b : Batch} (hb : s.batch? id idx = some b) (staging stages : Nat)
    (pins : List (Nat × Nat)) :
    (batchBegun s id idx staging stages pins).batch? id idx = some (b.begun s.tick staging (takeFree s).2 stages pins) :=
  setBatch_batch? (s := (takeFree s).1) hb fun _ => rfl

theorem batchBegun_othersKept (s : State) (id idx staging stages : Nat) (pins : List (Nat × Nat)) :
    OthersKept s (batchBegun s id idx staging stages pins) id := setBatch_othersKept (takeFree s).1 id idx _

theorem unready_runs (b : Batch) : b.unready.runs.map (·.ix) = b.runs.map (·.ix) := by
  simp only [Batch.unready, List.map_map, Function.comp_def]

/-- As stages become ready, a batch changes by no more than the ticks of that. -/
theorem Readied.batch? {s t : State} {id idx : Nat} {b : Batch} (h : Readied id s t) (hb : s.batch? id idx = some b) :
    ∃ c, t.batch? id idx = some c ∧ c.unready = b.unready := by
  obtain ⟨x, hx, hbx⟩ := Option.bind_eq_some_iff.1 hb
  obtain ⟨y, hy, hxy⟩ := h.1.only_first hx
  have hfind (z : Stream) : z.unready.batches.find? (·.idx == idx) = (z.batches.find? (·.idx == idx)).map Batch.unready := by
    simp only [Stream.unready, List.find?_map]
    rfl
  have hsame := (hfind y).symm.trans ((congrArg (fun z : Stream => z.batches.find? (·.idx == idx)) hxy).trans (hfind x))
  rw [hbx, Option.map_some] at hsame
  obtain ⟨c, hc, hcb⟩ := Option.map_eq_some_iff.1 hsame
  exact ⟨c, by rw [State.batch?_eq hy, hc], hcb⟩

section
variable {id staging : Nat} {s : State} {x : Stream} {p : Plan} {b : Batch} (ho : s.open? id = some x) (hx : s.stream? id = some x)
  (hp : x.plan = some p) (hb : x.batches.find? (·.state == .queued) = some b) (hmay : mayStart x p b = true)
include ho hx hp hb hmay

/-- A batch whose staging area fits starts. -/
theorem batchStart_starts (hfits : quotaFits s x.session staging 0 = true) :
    ∃ c, (batchStart id staging s).batch? id b.idx = some c ∧ c.state = .started ∧ c.start = s.tick ∧ c.pins = pinsOf s p
      ∧ c.stagingBytes = staging ∧ c.runs.map (·.ix) = List.range p.stages.length ∧ (batchStart id staging s).power.lastWork = s.tick
      ∧ (batchStart id staging s).power.dev = .active ∧ OthersKept s (batchStart id staging s) id
      ∧ (batchStart id staging s).mem = s.mem ∧ (batchStart id staging s).fuses = s.fuses := by
  have heq : batchStart id staging s
      = refreshReady (batchBegun (charge s x.session staging 0) id b.idx staging p.stages.length (pinsOf s p)) id := by
    simp only [batchStart, ho, hp, hb, hmay, hfits, Bool.not_true, Bool.false_eq_true, if_false, if_true]
    rfl
  obtain ⟨d, hd⟩ : ∃ d, s.batch? id b.idx = some d := by
    have hsome : (x.batches.find? (·.idx == b.idx)).isSome := by
      rw [List.find?_isSome]
      exact ⟨b, List.mem_of_find?_eq_some hb, beq_self_eq_true _⟩
    rw [State.batch?_eq hx]
    exact Option.isSome_iff_exists.1 hsome
  have hbegun := batchBegun_batch? (s := charge s x.session staging 0) hd staging p.stages.length (pinsOf s p)
  have hothers := batchBegun_othersKept (charge s x.session staging 0) id b.idx staging p.stages.length (pinsOf s p)
  have hready := refreshReady_readied (batchBegun (charge s x.session staging 0) id b.idx staging p.stages.length (pinsOf s p)) id
  rw [heq]
  obtain ⟨c, hc, hsame⟩ := hready.batch? hbegun
  obtain ⟨hq, e, he⟩ := hready
  have hpower := congrArg State.power he
  refine ⟨c, hc, (congrArg Batch.state hsame :), (congrArg Batch.start hsame :), (congrArg Batch.pins hsame :),
    (congrArg Batch.stagingBytes hsame :), ?_, congrArg Power.lastWork hpower, congrArg Power.dev hpower, ?_, hq.mem, hq.fuses⟩
  · rw [← unready_runs, hsame, unready_runs]
    simp only [Batch.begun, List.map_map, Function.comp_def, List.map_id']
  · exact OthersKept.trans hothers hq.othersKept

/-- A batch whose staging area does not fit completes NO_SPACE. -/
theorem batchStart_noSpace (hfits : quotaFits s x.session staging 0 = false) (hw : TurnWaits x b.idx)
    (hfirst : s.batch? id b.idx = some b) :
    Answered (batchStart id staging s) id b.idx stNoSpace ∧ (batchStart id staging s).mem = s.mem := by
  have heq : batchStart id staging s = endBatch (batchBegun s id b.idx 0 p.stages.length (pinsOf s p)) id b.idx stNoSpace 0xFF := by
    simp only [batchStart, ho, hp, hb, hmay, hfits, Bool.not_true, Bool.false_eq_true, if_false]
    rfl
  obtain ⟨hans, hmem, _⟩ := endBatch_answers (batchBegun_stream? hx b.idx 0 p.stages.length (pinsOf s p))
    (batchBegun_batch? hfirst 0 p.stages.length (pinsOf s p)) (by simp [Batch.begun]) hw stNoSpace 0xFF
  rw [heq]
  exact ⟨hans, hmem⟩

end

/-- Settles O41: a batch is accepted in its turn or refused in it; the batch that may start begins, or ends for want of space. -/
theorem batchesAreAcceptedAndStart : Obligations.BatchesAreAcceptedAndStart := by
  refine ⟨fun id s x r _ hclean hf hx => ⟨fun hc => ?_, fun f hc hid hturn => ?_⟩,
    fun id staging s x p b _ ho hx hp hb hmay => ⟨fun hfits => ?_, fun hfits hw hfirst => ?_⟩⟩
  · obtain ⟨y, hy, hbatches, hstate, hothers, hmem, hfuses⟩ := submitBatch_accepts hf hx hc
    exact ⟨_, y, rfl, hy, hbatches, rfl, hstate, hothers, hmem, hfuses⟩
  · obtain ⟨y, hy, rest⟩ := submitBatch_refuses hf hx hclean hc hid hturn
    exact ⟨_, y, rfl, hy, rest⟩
  · obtain ⟨c, rest⟩ := batchStart_starts ho hx hp hb hmay hfits
    exact ⟨_, c, rfl, rest⟩
  · exact ⟨_, rfl, batchStart_noSpace ho hx hp hb hmay hfits hw hfirst⟩

end Sys2Proof.Machine
end

section
/-! PROOFS. O43: a batch commits and completes, ends for want of space, or runs out of time (R52 to R54, R64, R183). -/

namespace Sys2Proof.Machine

/-! ### A batch that is under way -/

/-- A stream has a batch, whose turn of the completion ring waits. -/
def BatchWaits (b : Batch) (x : Stream) : Prop := x.batches.find? (·.idx == b.idx) = some b ∧ TurnWaits x b.idx

/-- The first stream of a number has a batch under way. -/
def State.Underway (s : State) (id : Nat) (b : Batch) : Prop := s.FirstIs id (BatchWaits b)

theorem State.Underway.bare {s t : State} {id : Nat} {b : Batch} {Q : Drift SlotState} (h : s.Underway id b)
    (g : Frame Q bareDrift s t) : t.Underway id b := by
  refine h.frame g (fun _ _ hab => bareDrift_id hab) fun a c hac ⟨hb, hw⟩ => ⟨?_, ?_⟩
  · rw [bare_keeps (p := Stream.batches) (fun _ => rfl) a c hac, hb]
  · exact (turnWaits_blocks b.idx a c hac).2 hw

theorem State.Underway.setBatch {s : State} {id : Nat} {b : Batch} (h : s.Underway id b) {f : Batch → Batch}
    (hf : ∀ b, (f b).idx = b.idx) : (s.setBatch id b.idx f).Underway id (f b) := by
  refine State.FirstIs.setStream h (f := fun x => { x with batches := x.batches.map fun c => if c.idx = b.idx then f c else c })
    (fun _ => rfl) fun x ⟨hb, hw⟩ => ⟨?_, ?_⟩
  · rw [hf, find?_map_idx hf, hb, Option.map_some]
  · rw [hf]
    exact hw

/-- As stages become ready, a batch stays under way. -/
theorem State.Underway.readied {s t : State} {id : Nat} {b : Batch} (h : s.Underway id b) (g : Readied id s t) :
    ∃ c, c.unready = b.unready ∧ t.Underway id c := by
  obtain ⟨x, hx, hb, hw⟩ := h
  obtain ⟨y, hy, hxy⟩ := g.1.only_first hx
  obtain ⟨c, hc, hcb⟩ := g.batch? ((State.batch?_eq hx b.idx).trans hb)
  have hidx : c.idx = b.idx := (congrArg Batch.idx hcb :)
  refine ⟨c, hcb, y, hy, ?_, ?_⟩
  · rw [hidx, ← State.batch?_eq hy, hc]
  · rw [hidx]
    exact (turnWaits_congr (unready_keeps (p := Stream.id) (fun _ => rfl) hxy) (unready_keeps (p := Stream.cring) (fun _ => rfl) hxy)
      (unready_keeps (p := Stream.slots) (fun _ => rfl) hxy)).2 hw

/-- A batch under way that ends completes with its status. -/
theorem State.Underway.ends {s : State} {id : Nat} {b : Batch} (h : s.Underway id b) (hst : b.state ≠ .done) (status detail : Nat) :
    Answered (endBatch s id b.idx status detail) id b.idx status ∧ (endBatch s id b.idx status detail).mem = s.mem
      ∧ (endBatch s id b.idx status detail).fuses = s.fuses := by
  obtain ⟨x, hx, hb, hw⟩ := h
  exact endBatch_answers hx ((State.batch?_eq hx b.idx).trans hb) hst hw status detail

/-! ### What the commit point writes -/

theorem commitRequests_contents (x : Stream) (b : Batch) (s : State) (q : Nat × Nat × Nat × Col) :
    (commitRequests x b s q).contents = s.contents := by
  simp only [commitRequests, writeBackAll_contents, apply_ite State.contents, ite_self]

theorem commitWrite_frame {Q : Drift SlotState} {R : Drift Stream} (a : State × Nat) (addr : Nat) (data : List Byte) :
    Frame Q R a.1 (commitWrite a addr data).1 := by
  have hwake : Frame Q R a.1 (dispatcherWakes a.1) := .of_disp rfl rfl
  exact hwake.trans ((wakeForWrite_reads a.1 addr).toAccess.trans (devWrite_access ..)).frame

theorem validBits_frame {Q : Drift SlotState} {R : Drift Stream} (s : State) (y : Col) : Frame Q R s (validBits s y).1 := by
  unfold validBits
  dsimp only
  split
  · exact .refl
  · exact .of_disp rfl rfl

theorem writeOut_frame {Q : Drift SlotState} {R : Drift Stream} (b : Batch) (a : State × Nat) (q : Nat × Nat × Nat × Col) :
    Frame Q R a.1 (writeOut b a q).1 := by
  unfold writeOut
  dsimp only
  refine Frame.trans ?_ (commitWrite_frame ..)
  refine Frame.trans ?_ (commitWrite_frame ..)
  have hdata := commitWrite_frame (Q := Q) (R := R) a (Desc.of (b.outDesc.getD q.2.2.1 [])).addr q.2.2.2.data
  generalize commitWrite a (Desc.of (b.outDesc.getD q.2.2.1 [])).addr q.2.2.2.data = u at hdata
  have hoffs : Frame Q R a.1 (if (Desc.of (b.outDesc.getD q.2.2.1 [])).type_ = 0x0E then
      commitWrite u (Desc.of (b.outDesc.getD q.2.2.1 [])).offs (q.2.2.2.offsets.flatMap (natLE 4)) else u).1 := by
    split
    · exact hdata.trans (commitWrite_frame ..)
    · exact hdata
  generalize (if (Desc.of (b.outDesc.getD q.2.2.1 [])).type_ = 0x0E then
      commitWrite u (Desc.of (b.outDesc.getD q.2.2.1 [])).offs (q.2.2.2.offsets.flatMap (natLE 4)) else u) = v at hoffs
  split
  · exact hoffs
  · exact (hoffs.trans (validBits_frame v.1 q.2.2.2)).trans (commitWrite_frame ((validBits v.1 q.2.2.2).1, v.2) ..)

/-- What the commit point writes, with the first fault of it. -/
def committed (x : Stream) (p : Plan) (b : Batch) (s : State) : State × Nat :=
  (committedOuts p b).foldl (writeOut b) ((committedOuts p b).foldl (commitRequests x b) s, 0)

theorem committed_frame (x : Stream) (p : Plan) (b : Batch) (s : State) : Frame .same bareDrift s (committed x p b s).1 := by
  have hout (l : List (Nat × Nat × Nat × Col)) (a : State × Nat) : Frame .same bareDrift a.1 (l.foldl (writeOut b) a).1 := by
    induction l generalizing a with
    | nil => exact .refl
    | cons q l ih => exact (writeOut_frame b a q).trans (ih _)
  have hreq : Frame .same bareDrift s ((committedOuts p b).foldl (commitRequests x b) s) :=
    (quiet_of_contents (foldl_contents (commitRequests_contents x b) _ s)).toFrame
  exact hreq.trans (hout _ (_, 0))

/-! ### The commit point -/

theorem unready_finished (b : Batch) : b.unready.runs.map (·.finished) = b.runs.map (·.finished) := by
  simp only [Batch.unready, List.map_map, Function.comp_def]

theorem all_finished_unready {b c : Batch} (h : c.unready = b.unready) (hb : b.runs.all (·.finished) = true) :
    c.runs.all (·.finished) = true := by
  have hmap := (unready_finished c).symm.trans ((congrArg (fun b : Batch => b.runs.map (·.finished)) h).trans (unready_finished b))
  have hall (b : Batch) : b.runs.all (·.finished) = (b.runs.map (·.finished)).all id := by rw [List.all_map]; rfl
  rw [hall, hmap, ← hall, hb]

/-- A batch past its commit point that has nothing left to do completes DONE. -/
theorem batchProgress_done {s : State} {id : Nat} {b : Batch} (h : s.Underway id b) (hst : b.state = .committed)
    (hstop : b.stopped = false) (hruns : b.runs.all (·.finished) = true) (hfail : b.failure = none) (hsel : b.select = none)
    (hsearch : b.searching = 0) : batchProgress s id b.idx = endBatch s id b.idx stDone 0 := by
  obtain ⟨x, hx, hb, _⟩ := h
  have hbatch := (State.batch?_eq hx b.idx).trans hb
  simp [batchProgress, hx, hbatch, hst, hstop, hruns, hfail, hsel, hsearch]

theorem mayCommit_started {s : State} {x : Stream} {p : Plan} {b : Batch} (h : mayCommit s x p b = true) :
    b.state = .started ∧ b.stopped = false := by
  simp only [mayCommit, Bool.and_eq_true, beq_iff_eq, Bool.not_eq_true'] at h
  obtain ⟨⟨⟨⟨hst, hstop⟩, _⟩, _⟩, _⟩ := h
  exact ⟨hst, hstop⟩

section
variable {id : Nat} {s : State} {x : Stream} {p : Plan} {b : Batch} (ho : s.open? id = some x) (hx : s.stream? id = some x)
  (hp : x.plan = some p) (hs : x.batches.find? (·.state == .started) = some b) (hb : s.batch? id b.idx = some b)
  (hmay : mayCommit s x p b = true) (hw : TurnWaits x b.idx)
include ho hx hp hs hb hmay hw

omit ho hp hs hmay in
theorem underway_of_batch? : s.Underway id b := ⟨x, hx, (State.batch?_eq hx b.idx).symm.trans hb, hw⟩

omit hb hw hx in
theorem commitPoint_eq : commitPoint id s = commitBatch x p b s := by
  simp only [commitPoint, ho, hp, hs, hmay, if_true]

/-- A batch whose results fit commits them and, with nothing left to send, completes DONE. -/
theorem commitPoint_done
    (hfit : (committedOuts p b).find? (fun q => !(outFits (Desc.of (b.outDesc.getD q.2.2.1 [])) q.2.2.2)) = none)
    (hfault : (committed x p b s).2 = 0) (hupd : b.updates = []) (hruns : b.runs.all (·.finished) = true) (hfail : b.failure = none)
    (hsel : b.select = none) (hsearch : b.searching = 0) :
    Answered (commitPoint id s) id b.idx stDone ∧ (commitPoint id s).mem = (committed x p b s).1.mem
      ∧ (commitPoint id s).fuses = s.fuses := by
  have hframe := committed_frame x p b s
  have heq : commitPoint id s = batchProgress (refreshReady
      ((committed x p b s).1.setBatch id b.idx fun b => { b with state := .committed }) id) id b.idx := by
    rw [commitPoint_eq ho hp hs hmay]
    unfold committed at hfault
    simp only [commitBatch, hfit, hupd, List.foldl_nil, hfault, if_true, State.stream?_id hx]
    rfl
  have hbegun := ((underway_of_batch? hx hb hw).bare hframe).setBatch (f := fun b => { b with state := .committed }) fun _ => rfl
  have hready := refreshReady_readied ((committed x p b s).1.setBatch id b.idx fun b => { b with state := .committed }) id
  obtain ⟨c, hsame, hc⟩ := hbegun.readied hready
  have hidx : c.idx = b.idx := (congrArg Batch.idx hsame :)
  have hstate : c.state = .committed := (congrArg Batch.state hsame :)
  have hdone := batchProgress_done hc hstate ((congrArg Batch.stopped hsame :).trans (mayCommit_started hmay).2)
    (all_finished_unready hsame hruns) ((congrArg Batch.failure hsame :).trans hfail) ((congrArg Batch.select hsame :).trans hsel)
    ((congrArg Batch.searching hsame :).trans hsearch)
  obtain ⟨hans, hmem, hfuses⟩ := hc.ends (by rw [hstate]; decide) stDone 0
  rw [← hdone, hidx] at hans hmem hfuses
  rw [heq]
  exact ⟨hans, hmem.trans hready.1.mem, hfuses.trans (hready.1.fuses.trans hframe.fuses)⟩

/-- A batch with a result that does not fit its buffer ends with NO_SPACE. -/
theorem commitPoint_noSpace {q : Nat × Nat × Nat × Col}
    (hfit : (committedOuts p b).find? (fun q => !(outFits (Desc.of (b.outDesc.getD q.2.2.1 [])) q.2.2.2)) = some q) :
    Answered (commitPoint id s) id b.idx stNoSpace ∧ (commitPoint id s).mem = s.mem ∧ (commitPoint id s).fuses = s.fuses := by
  rw [commitPoint_eq ho hp hs hmay]
  simp only [commitBatch, hfit, State.stream?_id hx]
  have hnote := quiet_of_contents (noteStage_contents s (mkCtx s x p b q.1 (((b.runs.find? (·.ix == q.1)).map (·.pages)).getD []))
    (planRecs p q.1) stNoSpace)
  obtain ⟨hans, hmem, hfuses⟩ := ((underway_of_batch? hx hb hw).bare hnote.toFrame).ends
    (by rw [(mayCommit_started hmay).1]; decide) stNoSpace ((q.1 + 1) * 256 + outOff q.2.1)
  exact ⟨hans, hmem.trans hnote.mem, hfuses.trans hnote.fuses⟩

end

/-! ### The limits of time -/

/-- Settles O43: what the commit point writes leaves the batch under way, and a batch under way that ends completes with its
status. -/
theorem batchesCommitOrTimeOut : Obligations.BatchesCommitOrTimeOut := by
  refine ⟨fun id s x p b _ ho hx hp hs hb hmay hw => ⟨fun hfit hfault hupd hruns hfail hsel hsearch => ?_, fun q hfit => ?_⟩,
    fun id idx s x b _ ho hx hb hst hstop hw => ⟨fun hpast => ?_, fun i u hu hfin hexp hcame => ?_⟩⟩
  · exact ⟨_, rfl, commitPoint_done ho hx hp hs hb hmay hw hfit hfault hupd hruns hfail hsel hsearch⟩
  · exact ⟨_, rfl, commitPoint_noSpace ho hx hp hs hb hmay hw hfit⟩
  · refine ⟨_, rfl, ?_⟩
    simp only [deadlineExpiry, ho, hb, hst, hstop, hpast]
    obtain ⟨hans, hmem, _⟩ := endBatch_answers hx hb (by rw [hst]; decide) hw stTimeout _
    exact ⟨hans, hmem⟩
  · refine ⟨_, rfl, ?_⟩
    simp only [stageTimeout, ho, hb, hu, hst, hstop, hfin, hexp, hcame]
    obtain ⟨hans, hmem, _⟩ := endBatch_answers hx hb (by rw [hst]; decide) hw stTimeout _
    exact ⟨hans, hmem⟩

end Sys2Proof.Machine
end

section
/-! PROOFS. O59: root-port accesses, device requests and NVMe queues (R44, R476, R482, R491; logs 64 and 65). -/

namespace Sys2Proof.Machine

/-! ### Accesses to the registers of pages other than a tile's -/

theorem wakeForAccess_of_cls {s : State} {k : Nat} (h : keyCls k ≠ 8) : wakeForAccess s k = s := by
  rw [wakeForAccess, if_neg fun hk => h hk.1]

theorem regAccess_through {s : State} {who : Agent} {k : Nat} (hg : regGate s who k = .through) (hk : keyCls k ≠ 8) (h : Instr)
    (go : State → State) : regAccess s who k h go = go s := by
  simp only [regAccess, hg, wakeForAccess_of_cls hk]

/-! ### Indirect accesses (R482, R490) -/

/-- A failed access reads all ones, and reaches nothing. -/
theorem indirectFails_gives (s : State) : (indirectFails s).2 = BitVec.allOnes 64 ∧ (indirectFails s).1.out = s.out
    ∧ (indirectFails s).1.mem = s.mem ∧ (indirectFails s).1.disp = s.disp := by
  have hreads := firstEvent_reads (takeFreeBits s 63).1 pgPcie 0x440 (takeFreeBits s 63).2
  have hquiet := quiet_of_contents (firstEvent_contents (takeFreeBits s 63).1 pgPcie 0x440 (takeFreeBits s 63).2)
  exact ⟨rfl, hreads.out, hquiet.mem, hreads.disp⟩

/-- A write over a link that is up leaves as a request, whatever the device answers. -/
theorem indirect_write_leaves (s : State) (kind addr : Nat) (v : Word) :
    (indirect s true true kind addr v).1.out = .pcie kind addr (natLE 8 v.toNat) :: s.out
      ∧ (indirect s true true kind addr v).1.mem = s.mem ∧ (indirect s true true kind addr v).1.disp = s.disp := by
  have heq : indirect s true true kind addr v = match takeFree (putOut s (.pcie kind addr (natLE 8 v.toNat))) with
      | (s, 0) => indirectFails s
      | (s, _ + 1) => (s, v) := rfl
  rw [heq]
  split
  next t ht =>
    have hout : t = (takeFree (putOut s (.pcie kind addr (natLE 8 v.toNat)))).1 := by rw [ht]
    obtain ⟨_, ho, hm, hd⟩ := indirectFails_gives t
    subst hout
    exact ⟨ho, hm, hd⟩
  next t n ht =>
    have hout : t = (takeFree (putOut s (.pcie kind addr (natLE 8 v.toNat)))).1 := by rw [ht]
    subst hout
    exact ⟨rfl, rfl, rfl⟩

section
variable {s : State} {who : Agent} {k : Nat} (hen : pageEn s pgPcie = true) (hg : regGate s who k = .through) (hk : keyCls k ≠ 8)
  (h : Instr) (kind addr mask : Nat) (v : Word)
include hen hg hk

/-- An endpoint's accesses reach nothing. -/
theorem indirectAccess_endpoint (hroot : s.ext.pcieRoot = false) (write up : Bool) :
    indirectAccess who k h write up kind addr mask v s = { s with resp := if write then .done else .word (s.reg k) } := by
  simp only [indirectAccess, regAccess_through hg hk, hen, hroot, Bool.not_true, Bool.false_eq_true, if_false, Bool.not_false, if_true]
  rfl

/-- A root port's access is answered with what the link gives. -/
theorem indirectAccess_root (hroot : s.ext.pcieRoot = true) (write up : Bool) :
    indirectAccess who k h write up kind addr mask v s = answer (indirect s up write kind addr v).1
      (if write then .done else .word ((indirect s up write kind addr v).2 &&& wd mask)) := by
  simp only [indirectAccess, regAccess_through hg hk, hen, hroot, Bool.not_true, Bool.false_eq_true, if_false]

/-- With the link down a read gives all ones, and nothing leaves. -/
theorem indirectAccess_down (hroot : s.ext.pcieRoot = true) :
    (indirectAccess who k h false false kind addr mask v s).resp = .word (BitVec.allOnes 64 &&& wd mask)
      ∧ (indirectAccess who k h false false kind addr mask v s).out = s.out
      ∧ (indirectAccess who k h false false kind addr mask v s).mem = s.mem
      ∧ (indirectAccess who k h false false kind addr mask v s).disp = s.disp := by
  rw [indirectAccess_root hen hg hk h kind addr mask v hroot]
  obtain ⟨hones, hout, hmem, hdisp⟩ := indirectFails_gives s
  exact ⟨congrArg (fun w : Word => Resp.word (w &&& wd mask)) hones, hout, hmem, hdisp⟩

/-- With the link up a write leaves as a request. -/
theorem indirectAccess_up (hroot : s.ext.pcieRoot = true) :
    (indirectAccess who k h true true kind addr mask v s).resp = .done
      ∧ (indirectAccess who k h true true kind addr mask v s).out = .pcie kind addr (natLE 8 v.toNat) :: s.out
      ∧ (indirectAccess who k h true true kind addr mask v s).mem = s.mem
      ∧ (indirectAccess who k h true true kind addr mask v s).disp = s.disp := by
  rw [indirectAccess_root hen hg hk h kind addr mask v hroot]
  exact ⟨rfl, indirect_write_leaves s kind addr v⟩

end

/-! ### Requests of devices (R44, R482) -/

theorem aerReport_reads (e : LinkErrs) (s : State) : Reads s (aerReport e s) := by
  have hbump := bump_reads s (pgPcie + 0x438) e.ce
  simp only [aerReport]
  split
  · exact hbump.trans ((takeFreeBits_reads ..).trans (firstEvent_reads ..))
  · exact hbump

theorem inboundRequest_root {s : State} (hvin : s.power.vinGood = true) (hroot : s.ext.pcieRoot = true) (hup : s.ext.pcieUp ≠ 0)
    (write : Bool) (a : Nat) (bs : List Byte) (e : LinkErrs) :
    inboundRequest write a bs e s = inboundNow write a bs (aerReport e s) := by
  rw [inboundRequest, if_pos ⟨hvin, hroot, hup⟩]

/-- A write of a device to a place of R44 is stored as it can be. -/
theorem inboundNow_writes (s : State) {a : Nat} {bs : List Byte} (ha : inR44 a bs.length = true) :
    (inboundNow true a bs s).resp = .done ∧ (inboundNow true a bs s).mem = (devWrite (wakeForWrite s a) a bs).1.mem
      ∧ (inboundNow true a bs s).disp = s.disp := by
  simp only [inboundNow, ha, if_true]
  exact ⟨rfl, rfl, ((wakeForWrite_reads s a).toAccess.trans (devWrite_access ..)).disp⟩

/-- A read of a device from a place of R44 gives the bytes there. -/
theorem inboundNow_reads {s : State} {a : Nat} {bs d : List Byte} (hc : s.clean = true) (ha : inR44 a bs.length = true)
    (hd : (devRead s a bs.length).2 = .ok d) :
    (inboundNow false a bs s).resp = .data d ∧ (inboundNow false a bs s).mem = s.mem ∧ (inboundNow false a bs s).disp = s.disp := by
  have hreads := devRead_reads s a bs.length
  simp only [inboundNow, ha, if_true, Bool.false_eq_true, if_false]
  generalize devRead s a bs.length = r at hd hreads
  obtain ⟨u, _ | d'⟩ := r
  · cases hd
  · cases hd
    exact ⟨rfl, hreads.mem hc, hreads.disp⟩

/-- A request for any other place reaches no memory, and a read of one is answered Unsupported Request. -/
theorem inboundNow_elsewhere (s : State) {a : Nat} {bs : List Byte} (ha : inR44 a bs.length = false) (write : Bool) :
    (write = false → (inboundNow write a bs s).resp = .unsupported) ∧ (inboundNow write a bs s).mem = s.mem
      ∧ (inboundNow write a bs s).disp = s.disp := by
  have hmem : (bump s (pgPcie + 0x430) 1).mem = s.mem := (quiet_of_contents (bump_contents s (pgPcie + 0x430) 1)).mem
  have hdisp := (bump_reads s (pgPcie + 0x430) 1).disp
  simp only [inboundNow, ha, Bool.false_eq_true, if_false]
  cases write with
  | false => exact ⟨fun _ => rfl, hmem, hdisp⟩
  | true =>
    refine ⟨nofun, ?_⟩
    simp only [if_true]
    split
    · exact ⟨rfl, rfl⟩
    · exact ⟨hmem, hdisp⟩

/-! ### What moves records between slots and stages -/

/-- What the arrival and loss of records keep of a stream: its number, and what its stages still have to ask of a drive. -/
def Stream.asked (x : Stream) : Nat × List (Nat × List (Nat × List Nat)) :=
  (x.id, x.batches.map fun b => (b.idx, b.runs.map fun r => (r.ix, r.asked)))

def askedKept : Drift Stream := .keeps Stream.asked

/-- Records move within slots and to stages; memory, registers and what lies outside the part are as they were. -/
structure Moves (s t : State) : Prop extends Quiet .any askedKept s t where
  regs : t.regs = s.regs
  ext : t.ext = s.ext

theorem Moves.refl (s : State) : Moves s s := ⟨.refl, rfl, rfl⟩

theorem Moves.trans {s t u : State} (h : Moves s t) (g : Moves t u) : Moves s u :=
  ⟨h.toQuiet.trans g.toQuiet, g.regs.trans h.regs, g.ext.trans h.ext⟩

theorem foldl_moves {α : Type} {f : State → α → State} (hf : ∀ s a, Moves s (f s a)) (l : List α) (s : State) : Moves s (l.foldl f s) := by
  induction l generalizing s with
  | nil => exact .refl s
  | cons a l ih => exact (hf s a).trans (ih _)

theorem setStream_moves (s : State) (id : Nat) {f : Stream → Stream} (hf : ∀ x, (f x).asked = x.asked) : Moves s (s.setStream id f) :=
  ⟨setStream_quiet fun x _ => hf x, rfl, rfl⟩

theorem setTSlot_moves (s : State) (id k : Nat) (f : TSlot → TSlot) : Moves s (s.setTSlot id k f) :=
  setStream_moves s id (f := fun x => { x with slots := modifyAt x.slots k f }) fun _ => rfl

theorem endRearm_moves (s : State) (id : Nat) (d : SlotDesc) (status flags : Nat) : Moves s (endRearm s id d status flags) := by
  unfold endRearm
  split
  · refine setStream_moves s id ?_
    exact fun _ => rfl
  · exact .refl s

theorem rearmProgress_moves (s : State) (id k : Nat) : Moves s (rearmProgress s id k) := by
  unfold rearmProgress
  split
  · exact .refl s
  · exact (foldl_moves (fun s d => endRearm_moves s id d stDone 0) _ s).trans (setTSlot_moves ..)

theorem promote_moves (s : State) (id k : Nat) : Moves s (promote s id k) := by
  unfold promote
  split
  · exact .refl s
  · split
    · exact (setTSlot_moves ..).trans (rearmProgress_moves ..)
    · exact .refl s

/-- The first failure of a stage, kept. -/
def StageRun.fails (status : Nat) (r : StageRun) : StageRun :=
  match r.failure with
  | some _ => r
  | none => { r with failure := some (status, 0xFF) }

theorem StageRun.fails_asked (status : Nat) (r : StageRun) : (r.fails status).ix = r.ix ∧ (r.fails status).asked = r.asked := by
  unfold StageRun.fails
  split <;> exact ⟨rfl, rfl⟩

theorem StageRun.fails_failure (status : Nat) (r : StageRun) : (r.fails status).failure ≠ none := by
  unfold StageRun.fails
  split
  next e he => rw [he]; exact Option.some_ne_none e
  next => exact Option.some_ne_none _

theorem setRun_moves (s : State) (id idx i : Nat) {f : StageRun → StageRun} (hf : ∀ r, (f r).ix = r.ix ∧ (f r).asked = r.asked) :
    Moves s (s.setRun id idx i f) := by
  have hrun (r : StageRun) : ((if r.ix = i then f r else r).ix, (if r.ix = i then f r else r).asked) = (r.ix, r.asked) := by
    split
    · rw [(hf r).1, (hf r).2]
    · rfl
  refine setStream_moves s id fun x => ?_
  simp only [Stream.asked, List.map_map, Prod.mk.injEq, true_and]
  refine List.map_congr_left fun b _ => ?_
  simp only [Function.comp_apply]
  split
  · simp only [List.map_map, Function.comp_def, hrun]
  · rfl

theorem failRun_moves (s : State) (id idx i status : Nat) : Moves s (failRun s id idx i status) :=
  setRun_moves s id idx i (StageRun.fails_asked status)

theorem claim_moves (s : State) (id k : Nat) : Moves s (claim s id k) := by
  unfold claim
  split
  · exact .refl s
  · split
    · exact .refl s
    · dsimp only
      split
      · exact (setTSlot_moves ..).trans (failRun_moves ..)
      · exact setTSlot_moves ..

theorem tearSlot_moves (s : State) (id k : Nat) : Moves s (tearSlot s id k) := by
  unfold tearSlot
  split
  · exact .refl s
  · split
    · exact .refl s
    · dsimp only
      refine Moves.trans ?_ (promote_moves ..)
      split
      · exact (setTSlot_moves ..).trans (failRun_moves ..)
      · exact (setTSlot_moves ..).trans (setTSlot_moves ..)

theorem tearSource_moves (s : State) (src : Nat × Nat × Nat) : Moves s (tearSource s src) := by
  unfold tearSource
  split
  · exact tearSlot_moves ..
  · exact .refl s

/-! ### Stages after records have moved -/

theorem find?_fst {β γ : Type} {g : β → Nat} {h : β → γ} (l : List β) (n : Nat) :
    (l.map fun b => (g b, h b)).find? (·.1 == n) = (l.find? fun b => g b == n).map fun b => (g b, h b) := by
  rw [List.find?_map]
  rfl

/-- A stage asks the same of its drive after as before. -/
theorem Frame.run?_asked {s t : State} {Q : Drift SlotState} (h : Frame Q askedKept s t) {id idx i : Nat} {v : StageRun}
    (hv : t.run? id idx i = some v) : ∃ u, s.run? id idx i = some u ∧ u.asked = v.asked := by
  obtain ⟨c, hc, hcv⟩ := Option.bind_eq_some_iff.1 hv
  obtain ⟨y, hy, hyc⟩ := Option.bind_eq_some_iff.1 hc
  have hrel := h.stream? (fun a b (hab : b.asked = a.asked) => congrArg Prod.fst hab) id
  rw [hy] at hrel
  generalize hx : s.stream? id = o at hrel
  cases hrel with
  | @some x _ hxy =>
    have hbatches := congrArg (List.find? (·.1 == idx)) (congrArg Prod.snd hxy)
    simp only [Stream.asked, find?_fst, hyc, Option.map_some] at hbatches
    obtain ⟨b, hb, hbc⟩ := Option.map_eq_some_iff.1 hbatches.symm
    have hruns := congrArg (List.find? (·.1 == i)) (Prod.mk.inj hbc).2
    simp only [find?_fst, hcv, Option.map_some] at hruns
    obtain ⟨u, hu, huv⟩ := Option.map_eq_some_iff.1 hruns
    refine ⟨u, ?_, (Prod.mk.inj huv).2⟩
    rw [State.run?, State.batch?_eq hx, hb, Option.bind_some, hu]

/-- A stage that is set has been through its function. -/
theorem setRun_run? {s : State} {id idx i : Nat} {f : StageRun → StageRun} {v : StageRun} (hv : (s.setRun id idx i f).run? id idx i = some v) :
    ∃ r, v = f r := by
  obtain ⟨c, hc, hcv⟩ := Option.bind_eq_some_iff.1 hv
  obtain ⟨y, hy, hyc⟩ := Option.bind_eq_some_iff.1 hc
  obtain ⟨x, _, _, rfl⟩ := State.mem_setStream (List.mem_of_find?_eq_some hy) (State.stream?_id hy)
  have hidx : c.idx = idx := by simpa using List.find?_some hyc
  have hix : v.ix = i := by simpa using List.find?_some hcv
  obtain ⟨b, _, hb⟩ := List.mem_map.1 (List.mem_of_find?_eq_some hyc)
  by_cases hbi : b.idx = idx
  · rw [if_pos hbi] at hb
    subst hb
    obtain ⟨r, _, hr⟩ := List.mem_map.1 (List.mem_of_find?_eq_some hcv)
    by_cases hri : r.ix = i
    · exact ⟨r, by rw [← hr, if_pos hri]⟩
    · rw [if_neg hri] at hr
      exact absurd (hr ▸ hix) hri
  · rw [if_neg hbi] at hb
    exact absurd (hb ▸ hidx) hbi

/-- What a record's arrival changes: memory, where it is stored, and slots and stages, but not what lies outside the part. -/
structure Arrives (s t : State) : Prop extends Frame .any askedKept s t where
  ext : t.ext = s.ext

theorem Moves.arrives {s t : State} (h : Moves s t) : Arrives s t := ⟨h.toFrame, h.ext⟩

theorem Arrives.trans {s t u : State} (h : Arrives s t) (g : Arrives t u) : Arrives s u :=
  ⟨h.toFrame.trans g.toFrame, g.ext.trans h.ext⟩

theorem stored_arrives (s : State) (a : Nat) (data : List Byte) (big : Bool) :
    Arrives s (if big then (s, (none : Option MemErr)) else devWrite (wakeForWrite s a) a data).1 := by
  have hwake : Arrives s (dispatcherWakes s) := ⟨.of_disp rfl rfl, rfl⟩
  have hwrite := (wakeForWrite_reads s a).toAccess.trans (devWrite_access (wakeForWrite s a) a data)
  split
  · exact ⟨.refl, rfl⟩
  · exact hwake.trans ⟨hwrite.frame, hwrite.ext⟩

theorem arrive_arrives (s : State) (id k : Nat) (origin data : List Byte) (last : Bool) :
    Arrives s (arrive s id k origin data last).1 := by
  unfold arrive
  extract_lets u
  have hu : Moves s u := by
    unfold u
    split
    · split
      · exact promote_moves ..
      · exact .refl s
    · exact .refl s
  clear_value u
  refine hu.arrives.trans ?_
  split
  · exact (Moves.refl u).arrives
  next x _ =>
    extract_lets t
    split
    · exact (Moves.refl u).arrives
    next d _ =>
      split
      · exact (Moves.refl u).arrives
      · extract_lets old n big place w fault rc placed
        split
        · exact (setTSlot_moves ..).arrives
        · have hplaced : Arrives u placed := (stored_arrives u place data big).trans (setTSlot_moves w.1 id k _).arrives
          refine hplaced.trans ?_
          split
          · exact ((claim_moves ..).trans (promote_moves ..)).arrives
          · exact (Moves.refl placed).arrives

/-! ### NVMe queues (R476, R491) -/

theorem nvmeKey_cls {n : Nat} (hn : n < 16) : keyCls (nvmeKey n) ≠ 8 := by
  simp only [keyCls, nvmeKey, pgPcie, pageKey]
  omega

/-- A word whose EN is cleared. -/
theorem bit_putFld_top (w : Word) : bit (putFld w 63 63 0) 63 = false := by
  have hw := w.isLt
  simp only [bit, bitOf, putFld, putBits, bitsOf, Nat.shiftRight_eq_div_pow, BitVec.toNat_ofNat, beq_eq_false_iff_ne]
  omega

/-- The record of a first error leaves the registers of NVMe pairs. -/
theorem firstEvent_reg_nvmeKey {s : State} (hwf : cellsWf regReset s.regs = true) (n v : Nat) :
    (firstEvent s pgPcie 0x440 v).reg (nvmeKey n) = s.reg (nvmeKey n) := by
  have herr : nvmeKey n ≠ pgPcie + 0x440 := by simp only [nvmeKey]; omega
  have hint : nvmeKey n ≠ pgPcie + 0x20 := by simp only [nvmeKey]; omega
  unfold firstEvent
  split
  · rfl
  · exact (State.setReg_reg_other _ _ _ _ (State.setReg_wf s _ _ hwf) hint).trans (State.setReg_reg_other s _ _ _ hwf herr)

/-- A refusal is recorded, and the pair is left as its register was set. -/
theorem firstEvent_setReg_nvmeKey {s : State} (hwf : cellsWf regReset s.regs = true) (n v : Nat) (w : Word) :
    (firstEvent (s.setReg (nvmeKey n) w) pgPcie 0x440 v).reg (nvmeKey n) = w
      ∧ (firstEvent (s.setReg (nvmeKey n) w) pgPcie 0x440 v).mem = s.mem
      ∧ (firstEvent (s.setReg (nvmeKey n) w) pgPcie 0x440 v).disp = s.disp
      ∧ (firstEvent (s.setReg (nvmeKey n) w) pgPcie 0x440 v).ext = s.ext := by
  have hreads := firstEvent_reads (s.setReg (nvmeKey n) w) pgPcie 0x440 v
  have hquiet := quiet_of_contents (firstEvent_contents (s.setReg (nvmeKey n) w) pgPcie 0x440 v)
  exact ⟨(firstEvent_reg_nvmeKey (State.setReg_wf s _ w hwf) n v).trans (State.setReg_reg_self s _ w hwf), hquiet.mem, hreads.disp,
    hreads.ext⟩

section
variable {who : Agent} {n : Nat} {s : State} (hn : n < 16) (hg : regGate s who (nvmeKey n) = .through)
  (hen : pageEn s pgPcie = true) (v : Word)
include hn hg hen

/-- A write of a pair's register, where EN is refused. -/
theorem nvmeEnable_refused (h : bit (writtenReg s (nvmeKey n) v) 63 = true) (hwas : bit (s.reg (nvmeKey n)) 63 = false)
    (hq : queueOk s n (writtenReg s (nvmeKey n) v) = false) :
    nvmeEnable who n v s = firstEvent ((takeFreeBits (answer s .done) 63).1.setReg (nvmeKey n)
      (putFld (writtenReg s (nvmeKey n) v) 63 63 0)) pgPcie 0x440 (takeFreeBits (answer s .done) 63).2 := by
  have hanswer : queueOk (answer s .done) n (writtenReg s (nvmeKey n) v) = false := hq
  simp only [nvmeEnable, if_neg (Nat.not_le.2 hn), regAccess_through hg (nvmeKey_cls hn), hen, h, hwas, hanswer, Bool.not_true,
    Bool.not_false, Bool.and_self, Bool.false_eq_true, if_false, if_true]

/-- A write of a pair's register that is taken; one that clears EN withdraws the pair. -/
theorem nvmeEnable_taken (hok : bit (s.reg (nvmeKey n)) 63 = false → bit (writtenReg s (nvmeKey n) v) 63 = true
      → queueOk s n (writtenReg s (nvmeKey n) v) = true) :
    nvmeEnable who n v s = if bit (s.reg (nvmeKey n)) 63 = true ∧ bit (writtenReg s (nvmeKey n) v) 63 = false
      then nvmeTear ((answer s .done).setReg (nvmeKey n) (writtenReg s (nvmeKey n) v)) n
      else (answer s .done).setReg (nvmeKey n) (writtenReg s (nvmeKey n) v) := by
  have hanswer : (bit (writtenReg s (nvmeKey n) v) 63 && !(bit (s.reg (nvmeKey n)) 63)
      && !(queueOk (answer s .done) n (writtenReg s (nvmeKey n) v))) = false := by
    by_contra h
    simp only [Bool.not_eq_false, Bool.and_eq_true, Bool.not_eq_true'] at h
    obtain ⟨⟨hw, hwas⟩, hq⟩ := h
    exact Bool.false_ne_true (hq.symm.trans (hok hwas hw))
  simp only [nvmeEnable, if_neg (Nat.not_le.2 hn), regAccess_through hg (nvmeKey_cls hn), hen, hanswer, Bool.not_true,
    Bool.false_eq_true, if_false]
  simp only [Bool.and_eq_true, Bool.not_eq_true']

end

/-- A queue that is withdrawn has no read under way, and no register or memory changes. -/
theorem nvmeTear_ends (s : State) (n : Nat) :
    (∀ m ∈ (nvmeTear s n).ext.nvme, m.queue ≠ n) ∧ (nvmeTear s n).regs = s.regs ∧ (nvmeTear s n).mem = s.mem := by
  have hmoves : Moves { s with ext := { s.ext with nvme := s.ext.nvme.filter (·.queue != n) } } (nvmeTear s n) :=
    (tearSource_moves _ (2, n, 0)).trans (foldl_moves (fun s (m : NvmeRead) => failRun_moves s m.stream m.batch m.stage stTruncated) _ _)
  refine ⟨fun m hm => ?_, hmoves.regs, hmoves.mem⟩
  rw [hmoves.ext] at hm
  simpa using (List.mem_filter.1 hm).2

/-! ### Completions of NVMe reads -/

/-- A stage that has nothing left to ask of its queue asks nothing. -/
theorem nvmeNext_idle {s : State} {id idx i : Nat} (h : ∀ u, s.run? id idx i = some u → u.asked = []) : nvmeNext s id idx i = s := by
  unfold nvmeNext
  split
  next x u _ hu => simp only [h u hu]
  next => rfl

/-- A completion with an error ends its read and fails the stage that asked. -/
theorem nvmeCompletion_fails {q status : Nat} {s : State} {m : NvmeRead} (hm : s.ext.nvme.find? (·.queue == q) = some m)
    (hst : status ≠ 0) (data : List Byte) :
    (∀ y ∈ (nvmeCompletion q status data s).ext.nvme, y.queue ≠ q) ∧ (nvmeCompletion q status data s).mem = s.mem
      ∧ ∀ v, (nvmeCompletion q status data s).run? m.stream m.batch m.stage = some v → v.failure ≠ none := by
  obtain ⟨u, hu, heq⟩ : ∃ u, Moves { s with ext := { s.ext with nvme := s.ext.nvme.filter (·.queue != q) } } u
      ∧ nvmeCompletion q status data s = failRun u m.stream m.batch m.stage stCorrupt := by
    simp only [nvmeCompletion, hm, if_neg hst]
    refine ⟨_, ?_, rfl⟩
    split
    · exact setTSlot_moves ..
    · exact .refl _
  have hmoves := hu.trans (failRun_moves u m.stream m.batch m.stage stCorrupt)
  rw [heq]
  refine ⟨fun y hy => ?_, hmoves.mem, fun v hv => ?_⟩
  · rw [hmoves.ext] at hy
    simpa using (List.mem_filter.1 hy).2
  · obtain ⟨r, rfl⟩ := setRun_run? (f := StageRun.fails stCorrupt) hv
    exact StageRun.fails_failure stCorrupt r

/-- The reads under way after a completion of one. -/
def readsAfter (s : State) (m : NvmeRead) : List NvmeRead :=
  if m.left ≤ 1 then s.ext.nvme.filter (·.queue != m.queue)
  else s.ext.nvme.filter (·.queue != m.queue) ++ [{ m with left := m.left - 1 }]

/-- The data of a completion arrives, and where it was the last of its read the stage asks its next extent. -/
theorem nvmeArrives_cases (s : State) (m : NvmeRead) (data : List Byte) :
    ∃ t, Arrives { s with ext := { s.ext with nvme := readsAfter s m } } t
      ∧ (nvmeArrives s m data = t ∨ m.left ≤ 1 ∧ nvmeArrives s m data = nvmeNext t m.stream m.batch m.stage) := by
  have horigin (u : State) : Arrives u (nvmeOrigin u).1 := ⟨.of_disp rfl rfl, rfl⟩
  unfold nvmeArrives
  extract_lets src rest u
  have hu : { s with ext := { s.ext with nvme := readsAfter s m } } = u := rfl
  rw [hu]
  clear_value u
  split
  · exact ⟨u, (Moves.refl u).arrives, .inl rfl⟩
  · dsimp only
    split
    next hlast => exact ⟨_, (horigin _).trans (arrive_arrives ..), .inr ⟨hlast, rfl⟩⟩
    next => exact ⟨_, (horigin _).trans (arrive_arrives ..), .inl rfl⟩

/-- A completion that is no error brings its read nearer its end, where a last one has its stage ask nothing more. -/
theorem nvmeCompletion_arrives {q : Nat} {s : State} {m : NvmeRead} (hm : s.ext.nvme.find? (·.queue == q) = some m) (data : List Byte)
    (hidle : m.left ≤ 1 → ∀ u, s.run? m.stream m.batch m.stage = some u → u.asked = []) :
    (nvmeCompletion q 0 data s).ext.nvme = readsAfter s m ∧ (nvmeCompletion q 0 data s).fuses = s.fuses := by
  have heq : nvmeCompletion q 0 data s = nvmeArrives s m data := by simp only [nvmeCompletion, hm, if_true]
  obtain ⟨t, harrives, hdone⟩ := nvmeArrives_cases s m data
  have hnext (hlast : m.left ≤ 1) : nvmeNext t m.stream m.batch m.stage = t := nvmeNext_idle fun v hv => by
    obtain ⟨u, hu, huv⟩ := harrives.run?_asked hv
    exact huv ▸ hidle hlast u hu
  have hend : nvmeCompletion q 0 data s = t := by
    obtain h | ⟨hlast, h⟩ := hdone
    · exact heq.trans h
    · exact (heq.trans h).trans (hnext hlast)
  rw [hend]
  exact ⟨congrArg Ext.nvme harrives.ext, harrives.fuses⟩

/-- Settles O59: only a root port whose link is up sends, a device reaches what R44 lets it, and an NVMe read ends with its queue, with
an error or with its last completion. -/
theorem rootPortAndNvmeQueues : Obligations.RootPortAndNvmeQueues := by
  refine ⟨fun who v s _ hen => ?_, fun a bs e s _ hclean hvin hroot hup => ?_, fun who n v s hs hn hg hen => ?_,
    fun q status data s m _ hm => ?_⟩
  · have hcfg : keyCls (pgPcie + 0x418) ≠ 8 := by decide
    have hmmio : keyCls (pgPcie + 0x428) ≠ 8 := by decide
    refine ⟨fun hg hroot => ⟨?_, ?_⟩, fun hg hroot hup => ⟨_, rfl, ?_⟩, fun hg hroot hup => ⟨_, rfl, ?_⟩,
      fun hg hroot hup => ⟨_, rfl, ?_⟩, fun hg hroot hup => ⟨_, rfl, ?_⟩⟩
    · exact congrArg Host.Outcome.next (indirectAccess_endpoint hen hg hcfg _ _ _ _ _ hroot false _)
    · exact congrArg Host.Outcome.next (indirectAccess_endpoint hen hg hcfg _ _ _ _ _ hroot true _)
    · simp only [cfgData, hup]
      exact indirectAccess_down hen hg hcfg _ _ _ _ _ hroot
    · simp only [cfgData, hup]
      exact indirectAccess_up hen hg hcfg _ _ _ _ _ hroot
    · simp only [mmioData, hup, bne_self_eq_false]
      obtain ⟨hresp, hout, hmem, _⟩ := indirectAccess_down hen hg hmmio (.mmioDataAccess who false v) 0x12
        (s.reg (pgPcie + 0x420)).toNat (2 ^ 64 - 1) v hroot
      exact ⟨hresp, hout, hmem⟩
    · simp only [mmioData, bne_iff_ne.2 hup]
      exact indirectAccess_up hen hg hmmio _ _ _ _ _ hroot
  · have hreads := aerReport_reads e s
    have hdisp := hreads.disp
    have hmem := hreads.mem hclean
    have heq (write : Bool) : exec (.inboundDeviceRequest write a bs e) s = .next (inboundNow write a bs (aerReport e s)) :=
      congrArg Host.Outcome.next (inboundRequest_root hvin hroot hup write a bs e)
    refine ⟨fun ha => ?_, fun d ha hd => ?_, fun ha => ?_⟩
    · obtain ⟨hresp, hm, hd⟩ := inboundNow_writes (aerReport e s) ha
      exact ⟨_, heq true, hresp, hm, hd.trans hdisp⟩
    · obtain ⟨hresp, hm, hdd⟩ := inboundNow_reads (hreads.clean hclean) ha hd
      exact ⟨_, heq false, hresp, hm.trans hmem, hdd.trans hdisp⟩
    · obtain ⟨hresp, hm, hd⟩ := inboundNow_elsewhere (aerReport e s) ha false
      obtain ⟨_, hm', hd'⟩ := inboundNow_elsewhere (aerReport e s) ha true
      exact ⟨⟨_, heq false, hresp rfl, hm.trans hmem, hd.trans hdisp⟩, _, heq true, hm'.trans hmem, hd'.trans hdisp⟩
  · have hwf := sound_regs hs
    refine ⟨fun hwas hw hq => ⟨_, rfl, ?_⟩, fun hkeep hok => ⟨_, rfl, ?_⟩, fun hwas hw => ⟨_, rfl, ?_⟩⟩
    · rw [nvmeEnable_refused hn hg hen v hw hwas hq]
      obtain ⟨hreg, hrest⟩ := firstEvent_setReg_nvmeKey (s := (takeFreeBits (answer s .done) 63).1) hwf n
        (takeFreeBits (answer s .done) 63).2 (putFld (writtenReg s (nvmeKey n) v) 63 63 0)
      exact ⟨hreg.symm ▸ bit_putFld_top _, hrest⟩
    · rw [nvmeEnable_taken hn hg hen v hok, if_neg fun h => Bool.false_ne_true (h.2.symm.trans (hkeep h.1))]
      exact ⟨State.setReg_reg_self (answer s .done) _ _ hwf, rfl, rfl, rfl, rfl⟩
    · rw [nvmeEnable_taken hn hg hen v fun h => absurd (h.symm.trans hwas) Bool.false_ne_true, if_pos ⟨hwas, hw⟩]
      obtain ⟨hnone, hregs, hmem⟩ := nvmeTear_ends ((answer s .done).setReg (nvmeKey n) (writtenReg s (nvmeKey n) v)) n
      exact ⟨(congrArg (cellsGet regReset (nvmeKey n)) hregs).trans (State.setReg_reg_self (answer s .done) _ _ hwf), hnone, hmem⟩
  · refine ⟨fun hst => ⟨_, rfl, nvmeCompletion_fails hm hst data⟩, ?_, ?_⟩
    · rintro rfl hleft
      obtain ⟨hnvme, hfuses⟩ := nvmeCompletion_arrives hm data fun h => absurd h (by omega)
      refine ⟨_, rfl, ?_, hfuses⟩
      rw [hnvme, readsAfter, if_neg (by omega)]
      exact List.mem_append_right _ (List.mem_singleton.2 rfl)
    · rintro rfl hleft hidle
      obtain ⟨hnvme, hfuses⟩ := nvmeCompletion_arrives hm data fun _ => hidle
      refine ⟨_, rfl, fun y hy => ?_, hfuses⟩
      have hqueue : m.queue = q := by simpa using List.find?_some hm
      rw [hnvme, readsAfter, if_pos hleft, hqueue] at hy
      simpa using (List.mem_filter.1 hy).2

end Sys2Proof.Machine
end

section
/-! PROOFS. O39: a REARM's descriptor becomes active or waits in the shadow, and the end of a transfer makes the shadow active
(R77 to R79). -/

namespace Sys2Proof.Machine

/-! ### One slot of a stream -/

/-- A transfer slot that a stream has. -/
def State.tslot? (s : State) (id k : Nat) : Option TSlot := (s.stream? id).bind fun x => x.slots[k]?

theorem State.tslot?_iff {s : State} {id k : Nat} {q : TSlot} :
    s.tslot? id k = some q ↔ ∃ x, s.stream? id = some x ∧ x.slots[k]? = some q := Option.bind_eq_some_iff

theorem tslot?_slot {s : State} {id k : Nat} {q : TSlot} (h : s.tslot? id k = some q) {x : Stream} (hx : s.stream? id = some x) :
    x.slot k = q ∧ k < x.slots.length := by
  obtain ⟨y, hy, hq⟩ := State.tslot?_iff.1 h
  obtain rfl : x = y := Option.some.inj (hx.symm.trans hy)
  exact ⟨by rw [Stream.slot, List.getD_eq_getElem?_getD, hq, Option.getD_some], (List.getElem?_eq_some_iff.1 hq).1⟩

theorem modifyAt_getElem? {α : Type} (l : List α) (n : Nat) (f : α → α) : (modifyAt l n f)[n]? = l[n]?.map f := by
  induction l generalizing n with
  | nil => rfl
  | cons a l ih =>
    cases n with
    | zero => rfl
    | succ n => exact ih n

/-- Besides a slot of one stream no slot has changed, nor a stream but that one, nor memory, fuses and what lies outside the part. -/
structure OnSlot (id k : Nat) (s t : State) : Prop where
  others : OthersKept s t id
  mem : t.mem = s.mem
  fuses : t.fuses = s.fuses
  ext : t.ext = s.ext
  stream : ∀ x, s.stream? id = some x → ∃ y, t.stream? id = some y ∧ y.id = x.id ∧ y.plan = x.plan ∧ ∀ j, j ≠ k → y.slot j = x.slot j

theorem OnSlot.refl (id k : Nat) (s : State) : OnSlot id k s s :=
  ⟨fun _ _ => rfl, rfl, rfl, rfl, fun x hx => ⟨x, hx, rfl, rfl, fun _ _ => rfl⟩⟩

theorem OnSlot.trans {id k : Nat} {s t u : State} (h : OnSlot id k s t) (g : OnSlot id k t u) : OnSlot id k s u := by
  refine ⟨h.others.trans g.others, g.mem.trans h.mem, g.fuses.trans h.fuses, g.ext.trans h.ext, fun x hx => ?_⟩
  obtain ⟨y, hy, hid, hplan, hslots⟩ := h.stream x hx
  obtain ⟨z, hz, hid', hplan', hslots'⟩ := g.stream y hy
  exact ⟨z, hz, hid'.trans hid, hplan'.trans hplan, fun j hj => (hslots' j hj).trans (hslots j hj)⟩

theorem setStream_onSlot (s : State) (id k : Nat) {f : Stream → Stream} (hid : ∀ x, (f x).id = x.id) (hplan : ∀ x, (f x).plan = x.plan)
    (hslots : ∀ x j, j ≠ k → (f x).slot j = x.slot j) : OnSlot id k s (s.setStream id f) :=
  ⟨setStream_othersKept s id hid, rfl, rfl, rfl, fun x hx =>
    ⟨f x, by rw [State.setStream_stream? s id hid, hx, Option.map_some], hid x, hplan x, hslots x⟩⟩

theorem setTSlot_onSlot (s : State) (id k : Nat) (f : TSlot → TSlot) : OnSlot id k s (s.setTSlot id k f) :=
  setStream_onSlot s id k (f := fun x => { x with slots := modifyAt x.slots k f }) (fun _ => rfl) (fun _ => rfl)
    fun x _ hj => modifyAt_getD_ne x.slots hj f {}

theorem setTSlot_tslot? {s : State} {id k : Nat} {q : TSlot} (h : s.tslot? id k = some q) (f : TSlot → TSlot) :
    (s.setTSlot id k f).tslot? id k = some (f q) := by
  obtain ⟨x, hx, hq⟩ := State.tslot?_iff.1 h
  refine State.tslot?_iff.2 ⟨_, setTSlot_stream? hx f, ?_⟩
  rw [modifyAt_getElem?, hq, Option.map_some]

/-! ### What leaves every slot -/

/-- No slot of any stream has changed, nor more than of a stream's rings. -/
structure NoSlot (id : Nat) (s t : State) : Prop where
  onSlot : ∀ k, OnSlot id k s t
  tslot? : ∀ k, t.tslot? id k = s.tslot? id k

theorem NoSlot.refl (id : Nat) (s : State) : NoSlot id s s := ⟨fun k => .refl id k s, fun _ => rfl⟩

theorem NoSlot.trans {id : Nat} {s t u : State} (h : NoSlot id s t) (g : NoSlot id t u) : NoSlot id s u :=
  ⟨fun k => (h.onSlot k).trans (g.onSlot k), fun k => (g.tslot? k).trans (h.tslot? k)⟩

theorem NoSlot.of_disp (id : Nat) {s t : State} (hm : t.mem = s.mem) (hf : t.fuses = s.fuses) (he : t.ext = s.ext) (hd : t.disp = s.disp) :
    NoSlot id s t := by
  have hx (j : Nat) : t.stream? j = s.stream? j := stream?_of_streams (congrArg Disp.streams hd) j
  exact ⟨fun k => ⟨fun j _ => hx j, hm, hf, he, fun x h => ⟨x, (hx id).trans h, rfl, rfl, fun _ _ => rfl⟩⟩,
    fun k => congrArg (Option.bind · _) (hx id)⟩

theorem setStream_noSlot (s : State) (id : Nat) {f : Stream → Stream} (hid : ∀ x, (f x).id = x.id) (hplan : ∀ x, (f x).plan = x.plan)
    (hslots : ∀ x, (f x).slots = x.slots) : NoSlot id s (s.setStream id f) := by
  refine ⟨fun k => setStream_onSlot s id k hid hplan fun x j _ => by rw [Stream.slot, Stream.slot, hslots],
    fun k => ?_⟩
  rw [State.tslot?, State.tslot?, State.setStream_stream? s id hid, Option.bind_map]
  exact congrArg _ (funext fun x => by rw [Function.comp_apply, hslots])

theorem foldl_noSlot {α : Type} {id : Nat} {f : State → α → State} (hf : ∀ s a, NoSlot id s (f s a)) (l : List α) (s : State) :
    NoSlot id s (l.foldl f s) := by
  induction l generalizing s with
  | nil => exact .refl id s
  | cons a l ih => exact (hf s a).trans (ih _)

theorem giveTurn_noSlot (s : State) (id idx : Nat) (c : Comp) (a : After) : NoSlot id s (giveTurn s (.comp id) idx c a) := by
  rw [giveTurn_eq]
  refine setStream_noSlot s id ?_ ?_ ?_ <;> exact fun _ => rfl

theorem endRearm_noSlot (s : State) (id : Nat) (d : SlotDesc) (status flags : Nat) : NoSlot id s (endRearm s id d status flags) := by
  unfold endRearm
  split
  · exact giveTurn_noSlot ..
  · exact .refl id s

theorem takeRec_noSlot (s : State) (id : Nat) : NoSlot id s (takeRec s id) := by
  refine setStream_noSlot s id ?_ ?_ ?_ <;> exact fun _ => rfl

theorem countReject_noSlot (s : State) (id status : Nat) : NoSlot id s (countReject s status) := by
  obtain ⟨c, l, h⟩ := countReject_eq s status
  rw [h]
  exact .of_disp id rfl rfl rfl rfl

theorem setRingIn_noSlot (s : State) (id : Nat) (f : RingIn → RingIn) : NoSlot id s (s.setRingIn (.stream id) f) := by
  refine setStream_noSlot s id ?_ ?_ ?_ <;> exact fun _ => rfl

/-- Records at the front of a stream's ring that it does not take leave its slots. -/
theorem settle_noSlot (s : State) (id : Nat) : NoSlot id s (settle s (.stream id)) := by
  have hfront (n : Nat) : ∀ s : State, NoSlot id s (rejectFront s (.stream id) n) := by
    induction n with
    | zero => exact fun s => .refl id s
    | succ n ih =>
      intro s
      simp only [rejectFront]
      split
      · split
        · exact .refl id s
        · exact (((setRingIn_noSlot ..).trans (countReject_noSlot ..)).trans (giveTurn_noSlot ..)).trans (ih _)
      · exact .refl id s
  exact hfront _ s

theorem rearmChecks_reads (s : State) (x : Stream) (r : Rec) : Reads s (rearmChecks s x r).1 := by
  simp only [rearmChecks]
  split
  · exact .refl s
  · split
    · exact .refl s
    · split <;> rename_i e <;> exact fst_reads e (devRead_reads ..)

theorem Reads.noSlot {s t : State} (h : Reads s t) (hc : s.clean = true) (id : Nat) : NoSlot id s t :=
  .of_disp id (h.mem hc) h.fuses h.ext h.disp

/-! ### Descriptors become active (R77, R78) -/

/-- A slot whose descriptor is active, whether or not its REARM still waits, with none in its shadow. -/
def Activated (d : SlotDesc) (part : Option Arrived) (q : TSlot) : Prop :=
  q.shadow = none ∧ q.part = part ∧ ∃ w, q.active = some { d with waits := w }

/-- The completion of REARMs leaves a slot its descriptors. -/
theorem rearmProgress_slot {s : State} {id k : Nat} {q : TSlot} (h : s.tslot? id k = some q) {d : SlotDesc} (ha : q.active = some d) :
    OnSlot id k s (rearmProgress s id k)
      ∧ ∃ p, (rearmProgress s id k).tslot? id k = some p ∧ p.shadow = q.shadow ∧ p.part = q.part
        ∧ ∃ w, p.active = some { d with waits := w } := by
  obtain ⟨x, hx, hq⟩ := State.tslot?_iff.1 h
  simp only [rearmProgress, hx]
  refine ⟨?_, _, setTSlot_tslot? ?_ _, rfl, rfl, ?_⟩
  · exact (foldl_noSlot (fun s d => endRearm_noSlot s id d stDone 0) _ s).onSlot k |>.trans (setTSlot_onSlot ..)
  · exact (foldl_noSlot (fun s d => endRearm_noSlot s id d stDone 0) _ s).tslot? k |>.trans h
  · rw [ha, Option.map_some]
    split
    · exact ⟨false, rfl⟩
    · exact ⟨d.waits, rfl⟩

theorem activate_slot {s : State} {id k : Nat} {q : TSlot} (h : s.tslot? id k = some q) (d : SlotDesc) :
    let t := rearmProgress (s.setTSlot id k fun t => activate t (some d)) id k
    OnSlot id k s t ∧ ∃ p, t.tslot? id k = some p ∧ Activated d q.part p := by
  obtain ⟨hon, p, hp, hshadow, hpart, hactive⟩ := rearmProgress_slot (setTSlot_tslot? h fun t => activate t (some d)) rfl
  exact ⟨(setTSlot_onSlot ..).trans hon, p, hp, hshadow, hpart, hactive⟩

theorem slotBusy_congr {s t : State} {x y : Stream} {k : Nat} (he : t.ext = s.ext) (hid : y.id = x.id) (hplan : y.plan = x.plan)
    (hpart : (y.slot k).part = (x.slot k).part) : slotBusy t y k = slotBusy s x k := by
  have hstage (i : Nat) : y.stage i = x.stage i := by simp only [Stream.stage, hplan]
  simp only [slotBusy, State.msgs, he, hid, hstage, hpart]

section
variable {s : State} {id k : Nat} {x : Stream} (hx : s.stream? id = some x)
include hx

theorem promote_busy (hb : slotBusy s x k = true) : promote s id k = s := by
  simp [promote, hx, hb]

/-- The end of a transfer makes the shadow active. -/
theorem promote_activates (hk : k < x.slots.length) {d : SlotDesc} (hd : (x.slot k).shadow = some d) (hb : slotBusy s x k = false) :
    OnSlot id k s (promote s id k) ∧ ∃ p, (promote s id k).tslot? id k = some p ∧ Activated d (x.slot k).part p := by
  have hslot : s.tslot? id k = some (x.slot k) :=
    State.tslot?_iff.2 ⟨x, hx, by rw [Stream.slot, List.getD_eq_getElem _ _ hk, List.getElem?_eq_getElem hk]⟩
  have heq : promote s id k = rearmProgress (s.setTSlot id k fun t => activate t t.shadow) id k := by
    simp [promote, hx, hd, hb]
  have hset : (s.setTSlot id k fun t => activate t t.shadow).tslot? id k = some (activate (x.slot k) (some d)) := by
    rw [setTSlot_tslot? hslot, hd]
  obtain ⟨hon, p, hp, hshadow, hpart, hactive⟩ := rearmProgress_slot hset rfl
  rw [heq]
  exact ⟨(setTSlot_onSlot ..).trans hon, p, hp, hshadow, hpart, hactive⟩

end

/-! ### REARM -/

theorem pickFail_eq_none {l : List Fail} (h : pickFail l = none) : l = [] := by
  cases l with
  | nil => rfl
  | cons f l =>
    have hsome (l : List Fail) : ∀ g, l.foldl (fun m f => match m with
        | none => some f
        | some g => if g.before f then some g else some f) (some g) ≠ none := by
      induction l with
      | nil => exact fun g => Option.some_ne_none g
      | cons f l ih =>
        intro g
        rw [List.foldl_cons]
        dsimp only
        split <;> exact ih _
    exact absurd h (hsome l f)

/-- A REARM that passes its checks names one of the stream's slots. -/
theorem rearmChecks_slot {s : State} {x : Stream} {r : Rec} (h : pickFail (rearmChecks s x r).2 = none) : r.n 24 1 < 16 := by
  have hnil := pickFail_eq_none h
  by_contra hn
  have hfails : failIf (decide (15 < r.n 24 1)) stBadField 24 ≠ [] := by simp [failIf]; omega
  simp only [rearmChecks] at hnil
  split at hnil
  · simp [hfails] at hnil
  · split at hnil
    · simp [hfails] at hnil
    · split at hnil <;> simp [hfails] at hnil

/-- The descriptor that a REARM brings (R77, R78). -/
def rearmDesc (s : State) (r : Rec) : SlotDesc where
  bytes := peek s (r.n 32 8) 64
  gen := r.n 40 4
  idx := r.idx
  waits := true
  tag := r.tag
  signal := r.signal

theorem rearmDesc_congr {s t : State} (h : t.mem = s.mem) (r : Rec) : rearmDesc t r = rearmDesc s r := by
  simp only [rearmDesc, peek, h]

section
variable {s : State} {x : Stream} {r : Rec}

theorem rearmSlot_idle (hb : slotBusy s x (r.n 24 1) = false) : rearmSlot s x r
    = rearmProgress (s.setTSlot x.id (r.n 24 1) fun t => activate t (some (rearmDesc s r))) x.id (r.n 24 1) := by
  simp only [rearmSlot, hb, Bool.false_eq_true, if_false]
  rfl

theorem rearmSlot_waits (hb : slotBusy s x (r.n 24 1) = true) (hs : (x.slot (r.n 24 1)).shadow = none) : rearmSlot s x r
    = s.setTSlot x.id (r.n 24 1) fun t => { t with shadow := some (rearmDesc s r) } := by
  simp only [rearmSlot, hb, hs, if_true]
  rfl

theorem rearmSlot_replaces (hb : slotBusy s x (r.n 24 1) = true) {o : SlotDesc} (hs : (x.slot (r.n 24 1)).shadow = some o) :
    rearmSlot s x r = (endRearm s x.id o stDone flReplaced).setTSlot x.id (r.n 24 1) fun t =>
      { t with shadow := some { rearmDesc s r with replaced := some o.gen } } := by
  simp only [rearmSlot, hb, hs, if_true]
  rfl

end

/-- How a REARM, once it is taken and checked, meets its slot in a state u: as it was in s where a transfer is in flight. -/
structure MeetsSlot (id k : Nat) (s taken : State) (x : Stream) (u : State) (y : Stream) (q : TSlot) : Prop where
  stream : u.stream? id = some y
  number : y.id = id
  onSlot : OnSlot id k s u
  tslot : u.tslot? id k = some q
  slot : y.slot k = q
  busy : slotBusy u y k = slotBusy s x k
  asWas : slotBusy s x k = true → u = taken ∧ q = x.slot k

section
variable {id : Nat} {s : State} {x : Stream} {r : Rec} (hclean : s.clean = true) (hf : frontRec s id 0x21 = some (x, r))
  (hx : s.stream? id = some x) (hlen : x.slots.length = 16) (hc : pickFail (rearmChecks (takeRec s id) x r).2 = none)

/-- The state in which a REARM has been taken and checked. -/
def rearmTaken (id : Nat) (s : State) (x : Stream) (r : Rec) : State := (rearmChecks (takeRec s id) x r).1

include hf hc in
theorem rearmStream_acts {y : Stream} (hy : (promote (rearmTaken id s x r) id (r.n 24 1)).stream? id = some y) :
    rearmStream id s = settle (rearmSlot (promote (rearmTaken id s x r) id (r.n 24 1)) y r) (.stream id) := by
  simp only [rearmStream, hf]
  unfold rearmTaken at hy ⊢
  generalize rearmChecks (takeRec s id) x r = p at hc hy ⊢
  obtain ⟨u, fs⟩ := p
  dsimp only at hc hy ⊢
  rw [hc]
  dsimp only
  rw [hy]

include hx in
theorem rearmTaken_stream? :
    (rearmTaken id s x r).stream? id = some { x with ring := { x.ring with recs := x.ring.recs.drop 1 } } :=
  (stream?_of_streams (congrArg Disp.streams (rearmChecks_reads (takeRec s id) x r).disp) id).trans (takeRec_stream? hx)

include hclean in
theorem rearmTaken_noSlot : NoSlot id s (rearmTaken id s x r) :=
  (takeRec_noSlot s id).trans ((rearmChecks_reads (takeRec s id) x r).noSlot (s := takeRec s id) hclean id)

include hclean hx hlen hc in
/-- A REARM meets its slot as its transfer left it. -/
theorem rearm_meets : ∃ y q, MeetsSlot id (r.n 24 1) s (rearmTaken id s x r) x (promote (rearmTaken id s x r) id (r.n 24 1)) y q := by
  have hk : r.n 24 1 < x.slots.length := hlen ▸ rearmChecks_slot hc
  have htaken := rearmTaken_noSlot (x := x) (r := r) (id := id) hclean
  obtain ⟨v, hv, hvid, hvplan, -⟩ := (htaken.onSlot (r.n 24 1)).stream x hx
  have hslot : s.tslot? id (r.n 24 1) = some (x.slot (r.n 24 1)) :=
    State.tslot?_iff.2 ⟨x, hx, by rw [Stream.slot, List.getD_eq_getElem _ _ hk, List.getElem?_eq_getElem hk]⟩
  have htslot := (htaken.tslot? (r.n 24 1)).trans hslot
  obtain ⟨hvslot, hvk⟩ := tslot?_slot htslot hv
  have hbusy : slotBusy (rearmTaken id s x r) v (r.n 24 1) = slotBusy s x (r.n 24 1) :=
    slotBusy_congr (htaken.onSlot 0).ext hvid hvplan (by rw [hvslot])
  have stays {u : State} (h : u = rearmTaken id s x r) : ∃ y q, MeetsSlot id (r.n 24 1) s (rearmTaken id s x r) x u y q := by
    subst h
    exact ⟨v, _, hv, State.stream?_id hv, htaken.onSlot _, htslot, hvslot, hbusy, fun _ => ⟨rfl, rfl⟩⟩
  cases hb : slotBusy s x (r.n 24 1) with
  | true => exact stays (promote_busy hv (hbusy.trans hb))
  | false =>
    cases hd : (x.slot (r.n 24 1)).shadow with
    | none => exact stays (promote_no_shadow hv (hvslot ▸ hd))
    | some d =>
      obtain ⟨hon, p, hp, -, hpart, -⟩ := promote_activates hv hvk (hvslot ▸ hd) (hbusy.trans hb)
      obtain ⟨y, hy, hyid, hyplan, -⟩ := hon.stream v hv
      obtain ⟨hyslot, -⟩ := tslot?_slot hp hy
      refine ⟨y, p, hy, State.stream?_id hy, (htaken.onSlot _).trans hon, hp, hyslot, ?_, fun h => absurd (hb.symm.trans h) Bool.false_ne_true⟩
      rw [slotBusy_congr hon.ext hyid hyplan (by rw [hyslot, hpart]), hbusy]

include hx in
/-- What a REARM has made of its slot stands when the records behind it have been looked at. -/
theorem settled_slot {k : Nat} {t : State} (h : OnSlot id k s t) {p : TSlot} (hp : t.tslot? id k = some p) :
    ∃ y, (settle t (.stream id)).stream? id = some y ∧ y.slot k = p ∧ (∀ j, j ≠ k → y.slot j = x.slot j)
      ∧ OthersKept s (settle t (.stream id)) id ∧ (settle t (.stream id)).mem = s.mem ∧ (settle t (.stream id)).fuses = s.fuses := by
  have hsettle := settle_noSlot t id
  have hall := h.trans (hsettle.onSlot k)
  obtain ⟨y, hy, -, -, hslots⟩ := hall.stream x hx
  exact ⟨y, hy, (tslot?_slot ((hsettle.tslot? k).trans hp) hy).1, hslots, hall.others, hall.mem, hall.fuses⟩

include hx in
/-- The REARM of a replaced shadow completes. -/
theorem replaced_answered {o : SlotDesc} (hw : o.waits = true) (hturn : ∃ u ∈ x.cring.turns, u.idx = o.idx ∧ u.comp = none) (k : Nat)
    (f : TSlot → TSlot) :
    Answered (settle ((endRearm (rearmTaken id s x r) id o stDone flReplaced).setTSlot id k f) (.stream id)) id o.idx stDone := by
  have hgive := giveTurn_answers (s := rearmTaken id s x r) (id := id) (idx := o.idx) ⟨_, rearmTaken_stream? hx, hturn⟩
    (c := rearmComp id o o.tag o.signal stDone flReplaced) rfl .nothing
  rw [endRearm, if_pos hw]
  refine settle_answered (hgive.kept (Q := .any) (setStream_turnsKept _ id ?_ ?_).toFrame) <;> exact fun _ => rfl

end

/-- Settles O39: a REARM meets its slot as the transfer in flight on it left it, and what it makes of the slot stands. -/
theorem rearmActsOnItsSlot : Obligations.RearmActsOnItsSlot := by
  refine ⟨fun id s x r _ hclean hf hx hlen hc => ?_, fun id k s x d _ hx hlen hk hd => ⟨fun hb => ?_, fun hb => ?_⟩⟩
  · obtain ⟨y, q, hy, hid, hon, hq, hyq, hbusy, hasWas⟩ := rearm_meets hclean hx hlen hc
    have heq := rearmStream_acts hf hc hy
    have hdesc := rearmDesc_congr hon.mem r
    have idle (hb : slotBusy s x (r.n 24 1) = false) : ∃ t z, exec (.rearm id) s = .next t ∧ t.stream? id = some z
        ∧ Activated (rearmDesc s r) q.part (z.slot (r.n 24 1)) ∧ (∀ j, j ≠ r.n 24 1 → z.slot j = x.slot j) ∧ OthersKept s t id
        ∧ t.mem = s.mem ∧ t.fuses = s.fuses := by
      obtain ⟨hact, p, hp, hpd⟩ := activate_slot hq (rearmDesc s r)
      obtain ⟨z, hz, hzp, rest⟩ := settled_slot hx (hon.trans hact) hp
      refine ⟨_, z, congrArg Host.Outcome.next heq, ?_⟩
      rw [rearmSlot_idle (hbusy.trans hb), hid, hdesc]
      exact ⟨hz, hzp.symm ▸ hpd, rest⟩
    dsimp only
    refine ⟨fun hs hb => ?_, fun hs hb => ?_, fun o hs hb => ?_, fun o hs hb => ?_⟩
    · obtain ⟨t, z, ht, hz, ⟨-, -, w, hw⟩, rest⟩ := idle hb
      exact ⟨t, z, ht, hz, ⟨_, hw, rfl, rfl, rfl, rfl⟩, rest⟩
    · obtain ⟨-, rfl⟩ := hasWas hb
      obtain ⟨z, hz, hzp, rest⟩ := settled_slot hx (hon.trans (setTSlot_onSlot _ id _ fun t => { t with shadow := some (rearmDesc s r) }))
        (setTSlot_tslot? hq _)
      refine ⟨_, z, congrArg Host.Outcome.next heq, ?_⟩
      rw [rearmSlot_waits (hbusy.trans hb) (hyq ▸ hs), hid, hdesc, hzp]
      exact ⟨hz, ⟨rfl, _, rfl, ⟨rfl, rfl, rfl, rfl⟩, rfl⟩, rest⟩
    · obtain ⟨htaken, rfl⟩ := hasWas hb
      have hend := endRearm_noSlot (promote (rearmTaken id s x r) id (r.n 24 1)) id o stDone flReplaced
      obtain ⟨z, hz, hzp, hslots, hothers, hmem, hfuses⟩ := settled_slot hx ((hon.trans (hend.onSlot _)).trans (setTSlot_onSlot _ id _
        fun t => { t with shadow := some { rearmDesc s r with replaced := some o.gen } })) (setTSlot_tslot? ((hend.tslot? _).trans hq) _)
      refine ⟨_, z, congrArg Host.Outcome.next heq, ?_⟩
      rw [rearmSlot_replaces (hbusy.trans hb) (hyq ▸ hs), hid, hdesc, hzp]
      refine ⟨hz, ⟨rfl, ⟨_, rfl, ⟨rfl, rfl, rfl, rfl⟩, rfl⟩, fun hw hturn => ?_⟩, hslots, hothers, hmem, hfuses⟩
      rw [htaken]
      exact replaced_answered hx hw hturn ..
    · obtain ⟨t, z, ht, hz, ⟨hnone, -, w, hw⟩, rest⟩ := idle hb
      exact ⟨t, z, ht, hz, ⟨hnone, _, hw, rfl, rfl, rfl, rfl⟩, rest⟩
  · exact congrArg Host.Outcome.next (promote_busy hx hb)
  · obtain ⟨hon, p, hp, hnone, -, w, hw⟩ := promote_activates hx (hlen ▸ hk) hd hb
    obtain ⟨y, hy, -, -, hslots⟩ := hon.stream x hx
    rw [← (tslot?_slot hp hy).1] at hnone hw
    exact ⟨_, y, _, rfl, hy, hnone, hw, rfl, rfl, rfl, hslots, hon.others, hon.mem⟩

end Sys2Proof.Machine
end

section
/-! SUPPORT. What the stages of batches keep of the dispatcher (R86): which batches there are, in which state, which stages of them
have been issued, when and on which units, and the units that stages hold; in the order of the files of the model. -/

namespace Sys2Proof.Machine

/-- A batch's number and state, and a part of each of its stages. -/
abbrev Batch.runsBy {α : Type} (q : StageRun → α) (b : Batch) : Nat × BState × List (Nat × α) :=
  (b.idx, b.state, b.runs.map fun r => (r.ix, q r))

/-- A stream's number, and its batches by a part of their stages. -/
abbrev Stream.runsBy {α : Type} (q : StageRun → α) (x : Stream) : Nat × List (Nat × BState × List (Nat × α)) :=
  (x.id, x.batches.map (Batch.runsBy q))

/-- The batches of every stream by a part of their stages. -/
def State.runsBy {α : Type} (q : StageRun → α) (s : State) : List (Nat × List (Nat × BState × List (Nat × α))) :=
  s.disp.streams.map (Stream.runsBy q)

/-- What the issue of a stage settles: when it was issued, and the pages of its units. -/
abbrev StageRun.issue (r : StageRun) : Option Nat × List Nat := (r.issuedAt, r.pages)

/-- The fuses, the units that stages hold, and the batches by the issue of their stages. Equations `(f s).stages = s.stages` rewrite
through a chain of calls. -/
def State.stages (s : State) : Fuses × List Assign × List (Nat × List (Nat × BState × List (Nat × Option Nat × List Nat))) :=
  (s.fuses, s.assigns, s.runsBy StageRun.issue)

theorem foldl_stages {α : Type} {f : State → α → State} (hf : ∀ s a, (f s a).stages = s.stages) (l : List α) (s : State) :
    (l.foldl f s).stages = s.stages := by
  induction l generalizing s with
  | nil => rfl
  | cons a t ih => exact (ih _).trans (hf s a)

theorem foldl_fst_stages {α β : Type} {f : State × β → α → State × β} (hf : ∀ r a, (f r a).1.stages = r.1.stages) (l : List α)
    (r : State × β) : (l.foldl f r).1.stages = r.1.stages := by
  induction l generalizing r with
  | nil => rfl
  | cons a t ih => exact (ih _).trans (hf r a)

theorem fst_stages {α : Type} {p : State × α} {s t : State} {r : α} (e : p = (t, r)) (h : p.1.stages = s.stages) :
    t.stages = s.stages := by
  rw [← h, e]

/-- A state that takes the fuses, the units held and the streams from s. -/
theorem State.stages_with {s : State} {pending tick freeCtr resp out regs srst leaks mem gran fillWords fenLines sram hbms fens tiles
    dies still power banks trust cutOff slots opened peers halts movers residents serials binds tables sets reeds fab host ext} :
    ({ pending, tick, freeCtr, resp, out, regs, srst, leaks, mem, gran, fillWords, fenLines, sram, hbms, fens, tiles, dies,
       assigns := s.assigns, still, power, fuses := s.fuses, banks, trust, cutOff,
       disp := { slots, streams := s.disp.streams, opened, peers, halts, movers, residents, serials, binds },
       tables, sets, reeds, fab, host, ext } : State).stages = s.stages := rfl

/-- A state that takes the fuses, the units held and the whole dispatcher from s. -/
theorem State.stages_with_disp {s : State} {pending tick freeCtr resp out regs srst leaks mem gran fillWords fenLines sram hbms fens
    tiles dies still power banks trust cutOff tables sets reeds fab host ext} :
    ({ pending, tick, freeCtr, resp, out, regs, srst, leaks, mem, gran, fillWords, fenLines, sram, hbms, fens, tiles, dies,
       assigns := s.assigns, still, power, fuses := s.fuses, banks, trust, cutOff, disp := s.disp, tables, sets, reeds, fab, host, ext }
       : State).stages = s.stages := rfl

theorem Access.stages {s t : State} (h : Access s t) : t.stages = s.stages := by
  rw [State.stages, State.runsBy, h.fuses, h.assigns, h.disp, State.stages, State.runsBy]

theorem bump_stages (s : State) (k n : Nat) : (bump s k n).stages = s.stages := (bump_reads s k n).stages

theorem firstEvent_stages (s : State) (page off v : Nat) : (firstEvent s page off v).stages = s.stages :=
  (firstEvent_reads s page off v).stages

theorem takeFree_stages (s : State) : (takeFree s).1.stages = s.stages := rfl

theorem devRead_stages (s : State) (a n : Nat) : (devRead s a n).1.stages = s.stages := (devRead_reads s a n).stages

theorem devWrite_stages (s : State) (a : Nat) (bs : List Byte) : (devWrite s a bs).1.stages = s.stages := (devWrite_access s a bs).stages

theorem wakeDieBy_stages (s : State) (d src : Nat) : (wakeDieBy s d src).stages = s.stages := (wakeDieBy_reads s d src).stages

theorem readMem_stages (s : State) (a n : Nat) : (readMem s a n).1.stages = s.stages := (readMem_reads s a n).stages

theorem readWord32_stages (s : State) (a : Nat) : (readWord32 s a).1.stages = s.stages := (readWord32_reads s a).stages

theorem trieStep_stages (t : Trie) (s : State) (st c : Nat) : (trieStep t s st c).1.stages = s.stages := (trieStep_reads t s st c).stages

/-! ### Setters -/

theorem State.setTile_stages (s : State) (k : Nat) (f : TileState → TileState) : (s.setTile k f).stages = s.stages := rfl

theorem State.setReed_stages (s : State) (k : Nat) (f : Reed → Reed) : (s.setReed k f).stages = s.stages := rfl

theorem State.setCulv_stages (s : State) (k : Nat) (f : Culv → Culv) : (s.setCulv k f).stages = s.stages := rfl

theorem State.setMover_stages (s : State) (t : Nat) (f : Mover → Mover) : (s.setMover t f).stages = s.stages := rfl

theorem State.setFeed_stages (s : State) (t : Nat) (g : Feed) (f : Feed → Feed) : (s.setFeed t g f).stages = s.stages := rfl

theorem State.setQp_stages (s : State) (n : Nat) (f : Qp → Qp) : (s.setQp n f).stages = s.stages := rfl

theorem charge_stages (s : State) (slot hbm fen : Nat) : (charge s slot hbm fen).stages = s.stages := rfl

section
variable {α : Type} {q : StageRun → α} (s : State) (id idx i : Nat)

theorem State.setStream_runsBy {f : Stream → Stream} (hf : ∀ x, (f x).runsBy q = x.runsBy q) :
    (s.setStream id f).runsBy q = s.runsBy q := by
  simp only [State.runsBy, State.setStream, List.map_map]
  refine List.map_congr_left fun x _ => ?_
  simp only [Function.comp_apply]
  split
  · exact hf x
  · rfl

theorem State.setBatch_runsBy {f : Batch → Batch} (hf : ∀ b, (f b).runsBy q = b.runsBy q) :
    (s.setBatch id idx f).runsBy q = s.runsBy q := by
  refine State.setStream_runsBy s id fun x => ?_
  simp only [Stream.runsBy, List.map_map]
  refine congrArg _ (List.map_congr_left fun b _ => ?_)
  simp only [Function.comp_apply]
  split
  · exact hf b
  · rfl

theorem State.setRun_runsBy {f : StageRun → StageRun} (hf : ∀ r, ((f r).ix, q (f r)) = (r.ix, q r)) :
    (s.setRun id idx i f).runsBy q = s.runsBy q := by
  refine State.setBatch_runsBy s id idx fun b => ?_
  simp only [Batch.runsBy, List.map_map]
  refine congrArg _ (congrArg _ (List.map_congr_left fun r _ => ?_))
  simp only [Function.comp_apply]
  split
  · exact hf r
  · rfl

end

theorem State.setStream_stages (s : State) (id : Nat) {f : Stream → Stream}
    (hf : ∀ x, (f x).runsBy StageRun.issue = x.runsBy StageRun.issue) : (s.setStream id f).stages = s.stages := by
  rw [State.stages, State.setStream_runsBy s id hf]
  rfl

theorem State.setBatch_stages (s : State) (id idx : Nat) {f : Batch → Batch}
    (hf : ∀ b, (f b).runsBy StageRun.issue = b.runsBy StageRun.issue) : (s.setBatch id idx f).stages = s.stages := by
  rw [State.stages, State.setBatch_runsBy s id idx hf]
  rfl

theorem State.setRun_stages (s : State) (id idx i : Nat) {f : StageRun → StageRun}
    (hf : ∀ r, ((f r).ix, (f r).issue) = (r.ix, r.issue)) : (s.setRun id idx i f).stages = s.stages := by
  rw [State.stages, State.setRun_runsBy s id idx i hf]
  rfl

theorem StageRun.fails_issue (status : Nat) (r : StageRun) : ((r.fails status).ix, (r.fails status).issue) = (r.ix, r.issue) := by
  unfold StageRun.fails
  split <;> rfl

theorem failRun_stages (s : State) (id idx i status : Nat) : (failRun s id idx i status).stages = s.stages :=
  State.setRun_stages s id idx i (StageRun.fails_issue status)

theorem failRunAt_stages (s : State) (id idx i status off : Nat) : (failRunAt s id idx i status off).stages = s.stages :=
  State.setRun_stages s id idx i fun r => by split <;> rfl

theorem State.setHold_stages (s : State) (t id : Nat) (f : Hold → Hold) : (s.setHold t id f).stages = s.stages :=
  State.setStream_stages s id fun _ => rfl

theorem State.setTSlot_stages (s : State) (id k : Nat) (f : TSlot → TSlot) : (s.setTSlot id k f).stages = s.stages :=
  State.setStream_stages s id (f := fun x => { x with slots := modifyAt x.slots k f }) fun _ => rfl

theorem reserveFloor_stages (s : State) (x : Stream) (tiles : List Nat) : (reserveFloor s x tiles).stages = s.stages :=
  State.setStream_stages s x.id fun _ => rfl

theorem endRearm_stages (s : State) (id : Nat) (d : SlotDesc) (status flags : Nat) :
    (endRearm s id d status flags).stages = s.stages := by
  unfold endRearm
  split
  · rw [giveTurn_eq]
    exact State.setStream_stages s id fun _ => rfl
  · rfl

theorem stageUpdate_stages (s : State) (c : Ctx) (u : Update) : (stageUpdate s c u).stages = s.stages :=
  State.setBatch_stages s c.stream c.idx fun _ => rfl

/-! ### Results of operations, and what they read -/

theorem ok_stages {α : Type} (s : State) (a : α) : (ok s a).1.stages = s.stages := by
  simp only [ok]

theorem fail_stages {α : Type} (s : State) (status : Nat) : (fail s status : Res α).1.stages = s.stages := by
  simp only [fail]

theorem failAt_stages {α : Type} (s : State) (status off : Nat) : (failAt s status off : Res α).1.stages = s.stages := by
  simp only [failAt]

theorem andThen_stages {α β : Type} {f : State → α → Res β} (hf : ∀ s a, (f s a).1.stages = s.stages) (r : Res α) :
    (andThen r f).1.stages = r.1.stages := by
  unfold andThen
  split
  · exact hf ..
  · rfl

theorem must_stages {β : Type} {k : State → Res β} (hk : ∀ s, (k s).1.stages = s.stages) (s : State) (c : Bool) (status : Nat) :
    (must s c status k).1.stages = s.stages := by
  simp only [must, apply_ite Prod.fst, apply_ite State.stages, hk, fail_stages, ite_self]

theorem eachRes_stages {α β : Type} {f : State → α → Res β} (hf : ∀ s a, (f s a).1.stages = s.stages) (s : State) (l : List α) :
    (eachRes f s l).1.stages = s.stages := by
  induction l generalizing s with
  | nil => rfl
  | cons a t ih => simp only [eachRes, andThen_stages, ok_stages, ih, hf, implies_true]

theorem noteErr_stages (s : State) (page off status stream stage op : Nat) :
    (noteErr s page off status stream stage op).stages = s.stages := by
  simp only [noteErr, firstEvent_stages]

theorem loadCol_stages (s : State) (c : Col) : (loadCol s c).1.stages = s.stages := by
  simp only [loadCol]
  split
  · exact ok_stages ..
  · split
    · simp only [andThen_stages, apply_ite Prod.fst, apply_ite State.stages, readMem_stages, ok_stages, ite_self, implies_true]
    · split
      · refine (andThen_stages (fun s o => ?_) _).trans (readMem_stages ..)
        simp only [andThen_stages, apply_ite Prod.fst, apply_ite State.stages, readMem_stages, ok_stages, fail_stages, ite_self,
          implies_true]
      · simp only [andThen_stages, apply_ite Prod.fst, apply_ite State.stages, readMem_stages, ok_stages, ite_self, implies_true]

theorem loadAll_stages (s : State) (cs : List (Option Col)) : (loadAll s cs).1.stages = s.stages := by
  refine eachRes_stages (fun s c => ?_) _ _
  cases c <;> simp only [ok_stages, andThen_stages, loadCol_stages, implies_true]

/-! ### Packets and units -/

theorem countHop_stages (s : State) (hop n : Nat) : (countHop s hop n).stages = s.stages := by
  simp only [countHop, bump_stages, apply_ite State.stages, ite_self]

theorem sendPacket_stages (s : State) (of : PacketOf) (lane : Nat) (route : List Nat) (flits : Nat) :
    (sendPacket s of lane route flits).stages = s.stages := by
  unfold sendPacket
  split <;> simp only [countHop_stages, State.stages_with_disp]

theorem wakeTile_stages (s : State) (t : Nat) : (wakeTile s t).stages = s.stages := by
  unfold wakeTile
  split <;> simp only [State.setTile_stages]

theorem spread_stages (s : State) (pages : List Nat) (off : Nat) (counts : List Nat) :
    (spread s pages off counts).stages = s.stages := by
  simp only [spread, bump_stages, apply_ite State.stages, ite_self, foldl_stages, implies_true]

/-! ### Tokens and packed bytes -/

theorem longest_stages (t : Trie) (f : Nat) (s : State) (st : Nat) (bs : List Byte) (n : Nat) (best : Option (Nat × Nat)) :
    (longest t f s st bs n best).1.stages = s.stages := by
  induction f generalizing s st bs n best with
  | zero => simp only [longest, ok_stages]
  | succ f ih =>
    cases bs with
    | nil => rfl
    | cons b bs =>
      refine (andThen_stages (fun s next => ?_) _).trans (trieStep_stages ..)
      cases next with
      | none => rfl
      | some st =>
        simp only [andThen_stages, apply_ite Prod.fst, apply_ite State.stages, fail_stages, ih, readWord32_stages, ite_self,
          implies_true]

theorem matchWord_stages (t : Trie) (contLen unk : Nat) (unkChar : Bool) (off0 : Nat) (word : List Byte) (f : Nat) (s : State)
    (pos : Nat) (acc : List (Nat × Nat)) : (matchWord t contLen unk unkChar off0 word f s pos acc).1.stages = s.stages := by
  induction f generalizing s pos acc with
  | zero => rfl
  | succ f ih =>
    unfold matchWord
    split
    · rfl
    · refine (andThen_stages (fun s best => ?_) _).trans (longest_stages ..)
      split <;> simp only [apply_ite Prod.fst, apply_ite State.stages, ih, ok_stages, ite_self]

theorem wordTokens_stages (r : List Byte) (t : Trie) (s : State) (w : Word8) : (wordTokens r t s w).1.stages = s.stages := by
  simp only [wordTokens, ok_stages, matchWord_stages, apply_ite State.stages, apply_ite Prod.fst, ite_self]

theorem textTokens_stages (r : List Byte) (t : Trie) (page : Nat) (s : State) (text : List Byte) :
    (textTokens r t page s text).1.stages = s.stages := by
  simp only [textTokens, bump_stages, fail_stages, andThen_stages, eachRes_stages, wordTokens_stages, ok_stages,
    apply_ite State.stages, apply_ite Prod.fst, ite_self, implies_true]

theorem tokenRun_stages (c : Ctx) (ins : List (Option Col)) (s : State) : (tokenRun c ins s).1.stages = s.stages := by
  simp only [tokenRun, andThen_stages, eachRes_stages, textTokens_stages, ok_stages, fail_stages, apply_ite State.stages,
    apply_ite Prod.fst, ite_self, implies_true]

theorem countJob_stages (c : Ctx) (page : Nat) (s : State) (j : JobEnd) : (countJob c page s j).stages = s.stages := by
  simp only [countJob, bump_stages, noteErr_stages, apply_ite State.stages, ite_self]

theorem packRun_stages (c : Ctx) (ins : List (Option Col)) (s : State) : (packRun c ins s).1.stages = s.stages := by
  simp only [packRun]
  (repeat' split) <;> simp only [fail_stages, countJob_stages, ok_stages, foldl_stages, implies_true]

/-! ### Dense operators -/

theorem denseOut_stages (c : Ctx) (dims : List Nat) (rows : List (List Nat)) (s : State) :
    (denseOut c dims rows s).1.stages = s.stages := by
  simp only [denseOut, spread_stages, ok_stages]

theorem countMacs_stages (s : State) (pages : List Nat) (rows perRow : Nat) : (countMacs s pages rows perRow).stages = s.stages := by
  simp only [countMacs, State.setTile_stages, bump_stages, apply_ite State.stages, ite_self, foldl_stages, implies_true]

theorem countBusy_stages (s : State) (pages : List Nat) (ta tb rows cols depth : Nat) :
    (countBusy s pages ta tb rows cols depth).stages = s.stages := by
  simp only [countBusy, bump_stages, apply_ite State.stages, ite_self, foldl_stages, implies_true]

theorem freeBusy_stages (s : State) (c : Ctx) (ta tb : Nat) : (freeBusy s c ta tb).stages = s.stages := by
  simp only [freeBusy, bump_stages, apply_ite State.stages, ite_self, foldl_stages, implies_true]

theorem runMatmul_stages (c : Ctx) (ins : List (Option Col)) (s : State) : (runMatmul c ins s).1.stages = s.stages := by
  simp only [runMatmul, countMacs_stages, countBusy_stages, freeBusy_stages, denseOut_stages, apply_ite State.stages, ite_self]

theorem readWeights_stages (s : State) (r : List Byte) (b : Blocks) : (readWeights s r b).1.stages = s.stages := by
  simp only [readWeights, andThen_stages, loadCol_stages, ok_stages, readMem_stages, apply_ite State.stages, apply_ite Prod.fst,
    ite_self, implies_true]

theorem runLinear_stages (c : Ctx) (held : Option (Col × List Byte)) (ins : List (Option Col)) (s : State) :
    (runLinear c held ins s).1.stages = s.stages := by
  unfold runLinear
  split <;>
    simp only [ok_stages, andThen_stages, readMem_stages, readWeights_stages, countMacs_stages, countBusy_stages, denseOut_stages,
      apply_ite State.stages, apply_ite Prod.fst, ite_self, implies_true]

theorem runAttention_stages (c : Ctx) (ins : List (Option Col)) (s : State) : (runAttention c ins s).1.stages = s.stages := by
  simp only [runAttention, must_stages, freeBusy_stages, countMacs_stages, denseOut_stages, implies_true]

theorem runInteract_stages (c : Ctx) (ins : List (Option Col)) (s : State) : (runInteract c ins s).1.stages = s.stages := by
  simp only [runInteract, freeBusy_stages, countMacs_stages, denseOut_stages]

theorem runElementwise_stages (c : Ctx) (ins : List (Option Col)) (s : State) : (runElementwise c ins s).1.stages = s.stages := by
  simp only [runElementwise, denseOut_stages, must_stages, apply_ite State.stages, apply_ite Prod.fst, ite_self, implies_true]

theorem runNormLayer_stages (c : Ctx) (ins : List (Option Col)) (s : State) : (runNormLayer c ins s).1.stages = s.stages := by
  simp only [runNormLayer, denseOut_stages]

theorem runSoftmax_stages (c : Ctx) (ins : List (Option Col)) (s : State) : (runSoftmax c ins s).1.stages = s.stages := by
  simp only [runSoftmax, denseOut_stages]

theorem denseRun_stages (c : Ctx) (held : Option (Col × List Byte)) (ins : List (Option Col)) (s : State) :
    (denseRun c held ins s).1.stages = s.stages := by
  unfold denseRun
  split <;>
    simp only [andThen_stages, loadAll_stages, runMatmul_stages, runLinear_stages, runAttention_stages, runInteract_stages,
      runElementwise_stages, runNormLayer_stages, runSoftmax_stages, implies_true]

/-! ### Culverts -/

theorem placeReplicas_stages (k grans : Nat) (ps : List (Nat × Option Nat)) (n : Nat) (l : List Replica) (s : State) :
    (placeReplicas k grans ps n l s).1.stages = s.stages := by
  induction ps generalizing l s with
  | nil => rfl
  | cons p t ih =>
    unfold placeReplicas
    split
    · rfl
    · split
      · exact ih ..
      · dsimp only
        split <;> simp only [ih, bump_stages]

theorem fillReplicas_stages (s : State) (addr bytes : Nat) (new : List Replica) :
    (fillReplicas s addr bytes new).1.stages = s.stages := by
  unfold fillReplicas
  split <;> rename_i e <;> simp only [foldl_stages, devWrite_stages, fst_stages e (devRead_stages ..), implies_true]

theorem planReplicas_stages (s : State) (k table row n : Nat) : (planReplicas s k table row n).stages = s.stages := by
  simp only [planReplicas]
  split
  · simp only [apply_ite State.stages, State.setCulv_stages, bump_stages, fillReplicas_stages, placeReplicas_stages, ite_self]
  · rfl

theorem makeHot_stages (s : State) (k table row est : Nat) : (makeHot s k table row est).stages = s.stages := by
  simp only [makeHot, planReplicas_stages, State.setCulv_stages]

theorem heatWindow_stages (s : State) (k table : Nat) (rows : List (Nat × Nat)) : (heatWindow s k table rows).stages = s.stages := by
  unfold heatWindow
  split <;>
    simp only [State.setCulv_stages, bump_stages, makeHot_stages, apply_ite State.stages, apply_ite Prod.fst, ite_self, foldl_stages,
      foldl_fst_stages, implies_true]

theorem pruneLive_stages (s : State) (k table : Nat) : (pruneLive s k table).stages = s.stages := by
  simp only [pruneLive, State.setCulv_stages]

theorem moveLive_stages (s : State) (k table epoch : Nat) (out : Bool) : (moveLive s k table epoch out).stages = s.stages := by
  simp only [moveLive, State.setCulv_stages, pruneLive_stages, apply_ite State.stages, ite_self]

theorem dropReplica_stages (s : State) (k table row addr : Nat) : (dropReplica s k table row addr).stages = s.stages := by
  unfold dropReplica
  (repeat' split) <;> simp only [State.setCulv_stages]

theorem noteCulv_stages (s : State) (k status table stream pos : Nat) : (noteCulv s k status table stream pos).stages = s.stages := by
  simp only [noteCulv, firstEvent_stages]

theorem readCopy_stages (s : State) (t : TRec) (row home src : Nat) : (readCopy s t row home src).1.stages = s.stages := by
  unfold readCopy
  split
  · exact devRead_stages ..
  · split <;> rename_i e <;> simp only [devRead_stages, dropReplica_stages, fst_stages e (devRead_stages ..)]

theorem readRows_stages (s : State) (t : TRec) (es : List WinEntry) : (readRows s t es).1.stages = s.stages := by
  unfold readRows
  refine foldl_fst_stages (fun r q => ?_) _ _
  split
  · rfl
  · split <;> rename_i e <;> simp only [fst_stages e (readCopy_stages ..)]

theorem skipFails_stages {s t : State} {w : Window} {k : Nat} (h : skipFails s w k = some t) : t.stages = s.stages := by
  simp only [skipFails] at h
  split at h
  · split at h
    · cases h
      simp only [failRun_stages, noteCulv_stages]
    · cases h
  · cases h

theorem lookWindow_stages (s : State) (w : Window) (k : Nat) (engine : Bool) : (lookWindow s w k engine).stages = s.stages := by
  simp only [lookWindow]
  split
  · rename_i e
    simp only [skipFails_stages e, State.stages_with_disp]
  · split <;> rename_i e <;>
      simp only [failRun_stages, noteCulv_stages, State.setRun_stages, implies_true, StageRun.issue, apply_ite State.stages,
        bump_stages, fst_stages e (readRows_stages ..), heatWindow_stages, State.stages_with_disp, ite_self]

theorem sendCommand_stages (s : State) (k : Nat) (w : Window) : (sendCommand s k w).stages = s.stages := by
  simp only [sendCommand, State.setCulv_stages, State.setRun_stages, implies_true, StageRun.issue]

theorem pushCommands_stages (c : Ctx) (kind : WinKind) (k n : Nat) (s : State) (page : Nat) :
    (pushCommands c kind k n s page).stages = s.stages := by
  simp only [pushCommands, sendCommand_stages, apply_ite State.stages, ite_self, foldl_stages, implies_true]

theorem sendPiece_stages (s : State) (w : Window) (at_ : Option Nat) : (sendPiece s w at_).stages = s.stages := by
  have skipped (k : Nat) : ((skipFails s w k).getD s).stages = s.stages := by
    cases e : skipFails s w k with
    | none => rfl
    | some t => exact skipFails_stages e
  cases at_ <;>
    simp only [sendPiece, lookWindow_stages, failRun_stages, skipped, sendCommand_stages, moveLive_stages, apply_ite State.stages,
      ite_self]

theorem sendWindows_stages (s : State) (stream batch stage page : Nat) (rec_ : List Byte) (version : Nat) (kind : WinKind)
    (pool : List Nat) (xs : List RawIx) : (sendWindows s stream batch stage page rec_ version kind pool xs).stages = s.stages := by
  simp only [sendWindows, foldl_stages, sendPiece_stages, State.setRun_stages, StageRun.issue, implies_true]

theorem countNowhere_stages (c : Ctx) (ins : List (Option Col)) (s : State) : (countNowhere c ins s).stages = s.stages := by
  simp only [countNowhere, bump_stages, apply_ite State.stages, ite_self]

theorem lookupIssue_stages (c : Ctx) (recs : List (List Byte)) (pins : List (Nat × Nat)) (ins : List (Option Col)) (s : State) :
    (lookupIssue c recs pins ins s).stages = s.stages := by
  simp only [lookupIssue, failRun_stages, sendWindows_stages, countNowhere_stages, State.setRun_stages, StageRun.issue,
    apply_ite State.stages, ite_self, foldl_stages, implies_true]

theorem updateIssue_stages (c : Ctx) (recs : List (List Byte)) (ins : List (Option Col)) (s : State) :
    (updateIssue c recs ins s).stages = s.stages := by
  simp only [updateIssue, sendWindows_stages]

theorem lookupOut_stages (c : Ctx) (recs : List (List Byte)) (run : StageRun) (s : State) :
    (lookupOut c recs run s).1.stages = s.stages := by
  simp only [lookupOut, fail_stages, ok_stages, apply_ite State.stages, apply_ite Prod.fst, ite_self]

/-! ### Reedbeds -/

theorem noteReed_stages (s : State) (d status set_ stream bank : Nat) : (noteReed s d status set_ stream bank).stages = s.stages := by
  simp only [noteReed, firstEvent_stages]

theorem searchIssue_stages (c : Ctx) (setRec : List Byte) (ins : List (Option Col)) (s : State) :
    (searchIssue c setRec ins s).stages = s.stages := by
  simp only [searchIssue]
  split <;>
    simp only [failRun_stages, noteReed_stages, wakeDieBy_stages, State.setReed_stages, State.setRun_stages, implies_true,
      StageRun.issue, apply_ite State.stages, ite_self]

theorem searchOut_stages (c : Ctx) (setRec : List Byte) (run : StageRun) (s : State) :
    (searchOut c setRec run s).1.stages = s.stages := by
  simp only [searchOut, ok_stages]

theorem updateRecords_stages (c : Ctx) (setRec : List Byte) (ins : List (Option Col)) (s : State) :
    (updateRecords c setRec ins s).1.stages = s.stages := by
  simp only [updateRecords]
  (repeat' split) <;> simp only [fail_stages, noteReed_stages, ok_stages]

/-! ### The stream engines of a tile -/

theorem pumpTile_stages (s : State) (t : Nat) : (pumpTile s t).stages = s.stages := by
  simp only [pumpTile, sendPacket_stages, State.setMover_stages, foldl_stages, implies_true]

theorem issueGroup_stages (s : State) (t : Nat) (g : Group) : (issueGroup s t g).stages = s.stages := by
  simp only [issueGroup, pumpTile_stages, State.setMover_stages]

theorem openGroup_stages (s : State) (t : Nat) (g : Group) (merge : Bool) : (openGroup s t g merge).stages = s.stages := by
  simp only [openGroup, issueGroup_stages, State.setMover_stages, apply_ite State.stages, ite_self]
  split <;> simp only [issueGroup_stages, apply_ite State.stages, ite_self, foldl_stages, implies_true]

theorem openTransfer_stages (s : State) (t stream : Nat) (write : Bool) (addr len : Nat) :
    (openTransfer s t stream write addr len).stages = s.stages := by
  simp only [openTransfer]
  (repeat' split) <;> simp only [State.setMover_stages, bump_stages, issueGroup_stages, openGroup_stages]

theorem beginBlock_stages (s : State) (t : Nat) (f : Feed) (extra : Bool) : (beginBlock s t f extra).stages = s.stages := by
  unfold beginBlock
  split <;> simp only [State.setFeed_stages, openTransfer_stages]

theorem giveBlocks_stages (s : State) (t id n : Nat) : (giveBlocks s t id n).stages = s.stages := by
  have hw (s : State) (fab : Fab) (g : Stream → List Hold) :
      ({ s with fab := fab, disp := { s.disp with streams := s.disp.streams.map fun x => { x with holds := g x } } } : State).stages
        = s.stages := by
    simp only [State.stages, State.runsBy, List.map_map]
    rfl
  simp only [giveBlocks]
  split <;> simp only [beginBlock_stages, hw, State.setHold_stages]

theorem grantWaiters_stages (s : State) (t : Nat) : (grantWaiters s t).stages = s.stages := by
  refine foldl_stages (fun s w => ?_) _ _
  split <;> simp only [apply_ite State.stages, giveBlocks_stages, ite_self]

theorem askBlock_stages (s : State) (t : Nat) (f : Feed) : (askBlock s t f).stages = s.stages := by
  unfold askBlock
  split <;>
    simp only [beginBlock_stages, State.setHold_stages, State.setMover_stages, State.setFeed_stages, apply_ite State.stages, ite_self]

theorem feedTile_stages (s : State) (t : Nat) : (feedTile s t).stages = s.stages := by
  refine foldl_stages (fun s _ => foldl_stages (fun s f => ?_) _ _) _ _
  split <;> simp only [askBlock_stages]

theorem fetchInputs_stages (s : State) (id idx i : Nat) (tiles : List Nat) (ins : List (Option Col))
    (staged : List (Nat × Nat × Nat)) : (fetchInputs s id idx i tiles ins staged).stages = s.stages := by
  simp only [fetchInputs, feedTile_stages, State.setMover_stages, apply_ite State.stages, ite_self, foldl_stages, implies_true]

theorem dropReads_stages (s : State) (t id : Nat) : (dropReads s t id).stages = s.stages := by
  simp only [dropReads, State.setMover_stages]

theorem leaveTiles_stages (s : State) (id : Nat) : (leaveTiles s id).stages = s.stages := by
  simp only [leaveTiles, State.setStream_stages, Stream.runsBy, grantWaiters_stages, dropReads_stages, State.stages_with_disp,
    foldl_stages, implies_true]

/-! ### Transfer slots and queue pairs -/

theorem rearmProgress_stages (s : State) (id k : Nat) : (rearmProgress s id k).stages = s.stages := by
  unfold rearmProgress
  split <;> simp only [endRearm_stages, State.setTSlot_stages, foldl_stages, implies_true]

theorem promote_stages (s : State) (id k : Nat) : (promote s id k).stages = s.stages := by
  unfold promote
  split <;> simp only [rearmProgress_stages, State.setTSlot_stages, apply_ite State.stages, ite_self]

theorem claim_stages (s : State) (id k : Nat) : (claim s id k).stages = s.stages := by
  simp only [claim]
  (repeat' split) <;> simp only [State.setTSlot_stages, failRun_stages]

theorem qpSend_stages (s : State) (n : Nat) (m : QpMsg) : (qpSend s n m).stages = s.stages := by
  unfold qpSend
  split <;> simp only [State.setQp_stages, apply_ite State.stages, ite_self, State.stages_with_disp]

theorem sendOne_stages (c : Ctx) (entry data : List Byte) (s : State) : (sendOne c entry data s).1.stages = s.stages := by
  unfold sendOne
  (repeat' split) <;>
    simp only [fail_stages, ok_stages, qpSend_stages, apply_ite State.stages, apply_ite Prod.fst, ite_self, State.stages_with_disp]

theorem sendEntries_stages (c : Ctx) (ins : List (Option Col)) (n : Nat) (s : State) :
    (sendEntries c ins n s).1.stages = s.stages := by
  simp only [sendEntries]
  (repeat' split) <;> simp only [ok_stages, promote_stages, fail_stages, andThen_stages, readMem_stages, implies_true]

theorem sendIssue_stages (c : Ctx) (ins : List (Option Col)) (s : State) : (sendIssue c ins s).stages = s.stages := by
  simp only [sendIssue]
  split <;> rename_i e
  · refine fst_stages e ((andThen_stages (fun s ins => ?_) _).trans (loadAll_stages ..))
    simp only [andThen_stages, eachRes_stages, sendEntries_stages, sendOne_stages, implies_true]
  · refine (failRun_stages ..).trans (fst_stages e ((andThen_stages (fun s ins => ?_) _).trans (loadAll_stages ..)))
    simp only [andThen_stages, eachRes_stages, sendEntries_stages, sendOne_stages, implies_true]

theorem nvmeNext_stages (s : State) (id batch stage : Nat) : (nvmeNext s id batch stage).stages = s.stages := by
  simp only [nvmeNext]
  (repeat' split) <;> simp only [failRun_stages, takeFree_stages, State.setRun_stages, implies_true, StageRun.issue,
    State.stages_with_disp]

theorem recvIssue_stages (c : Ctx) (ins : List (Option Col)) (s : State) : (recvIssue c ins s).stages = s.stages := by
  simp only [recvIssue]
  split
  · rfl
  · split
    · simp only [failRun_stages, State.setTSlot_stages]
    · split
      · split <;> rename_i e <;>
          simp only [failRun_stages, nvmeNext_stages, claim_stages, State.setRun_stages, implies_true, StageRun.issue,
            fst_stages e (loadAll_stages ..)]
      · exact claim_stages ..

theorem recvOut_stages (c : Ctx) (s : State) : (recvOut c s).1.stages = s.stages := by
  unfold recvOut
  split <;> simp only [fail_stages, ok_stages]

/-! ### Pictures -/

theorem meshStatus_stages (s : State) (d : List Byte) : (meshStatus s d).1.stages = s.stages := by
  simp only [meshStatus, ok_stages, andThen_stages, readMem_stages, apply_ite State.stages, apply_ite Prod.fst, ite_self,
    implies_true]

theorem picHole_stages (c : Ctx) (page : Nat) (s : State) (desc : List Byte) (status : Nat) :
    (picHole c page s desc status).1.stages = s.stages := by
  simp only [picHole, ok_stages, noteErr_stages, bump_stages]

theorem cacheTouch_stages (x : Stream) (id cls : Nat) : (cacheTouch x id cls).runsBy StageRun.issue = x.runsBy StageRun.issue := rfl

theorem cacheInsert_stages (x : Stream) (id cls : Nat) (p : Pic) : 
    (cacheInsert x id cls p).runsBy StageRun.issue = x.runsBy StageRun.issue := by
  unfold cacheInsert
  split <;> rfl

theorem decodeSample_stages (c : Ctx) (page : Nat) (s : State) (d : List Byte) : (decodeSample c page s d).1.stages = s.stages := by
  unfold decodeSample
  refine (andThen_stages (fun s st => ?_) _).trans ?_
  · split
    · exact picHole_stages ..
    · dsimp only
      split
      · rw [ok_stages, bump_stages]
        exact State.setStream_stages s _ fun x => cacheTouch_stages x _ _
      · refine (andThen_stages (fun s bytes => ?_) _).trans (readMem_stages ..)
        split
        · simp only [picHole_stages, bump_stages, apply_ite State.stages, ite_self]
        · simp only [ok_stages, State.setStream_stages, cacheInsert_stages, bump_stages, apply_ite State.stages, ite_self,
            implies_true]
  · simp only [apply_ite Prod.fst, apply_ite State.stages, meshStatus_stages, ok_stages, ite_self]

theorem tableEntry_stages (t : Col) (i : Nat) (s : State) : (tableEntry t i s).1.stages = s.stages := by
  unfold tableEntry
  split <;> simp only [readMem_stages, ok_stages]

theorem decodeRow_stages (c : Ctx) (ix table : Col) (s : State) (k : Nat) : (decodeRow c ix table s k).1.stages = s.stages := by
  have read (i : Nat) (page : Nat) : (andThen (tableEntry table i s) fun s d => decodeSample c page s d).1.stages = s.stages := by
    simp only [andThen_stages, decodeSample_stages, tableEntry_stages, implies_true]
  simp only [decodeRow]
  split
  · exact ok_stages ..
  · split
    · simp only [fail_stages, noteErr_stages]
    · split
      · rename_i e
        simp only [noteErr_stages, fst_stages e (read ..)]
      · exact read ..

theorem decodeRun_stages (c : Ctx) (ins : List (Option Col)) (s : State) : (decodeRun c ins s).1.stages = s.stages := by
  refine (andThen_stages (fun s ps => ?_) _).trans (eachRes_stages (fun s k => decodeRow_stages ..) _ _)
  split <;> simp only [fail_stages, ok_stages]

theorem readMesh_stages (s : State) (p : Pic) : (readMesh s p).1.stages = s.stages := by
  simp only [readMesh, ok_stages, andThen_stages, readMem_stages, apply_ite State.stages, apply_ite Prod.fst, ite_self, implies_true]

theorem transformRun_stages (c : Ctx) (ins : List (Option Col)) (s : State) : (transformRun c ins s).1.stages = s.stages := by
  unfold transformRun
  refine (andThen_stages (fun s rows => ok_stages ..) _).trans (eachRes_stages (fun s p => ?_) _ _)
  dsimp only
  split <;> rename_i e <;>
    simp only [noteErr_stages, ok_stages, bump_stages, apply_ite State.stages, fst_stages e (readMesh_stages ..), ite_self]

/-! ### Relational operators -/

theorem runProject_stages (c : Ctx) (ins : List (Option Col)) (s : State) : (runProject c ins s).1.stages = s.stages := by
  simp only [runProject, must_stages, spread_stages, ok_stages, implies_true]

theorem runFilter_stages (c : Ctx) (ins : List (Option Col)) (s : State) : (runFilter c ins s).1.stages = s.stages := by
  simp only [runFilter, must_stages, spread_stages, ok_stages, apply_ite State.stages, apply_ite Prod.fst, ite_self, implies_true]

theorem runScan_stages (c : Ctx) (ins : List (Option Col)) (s : State) : (runScan c ins s).1.stages = s.stages := by
  simp only [runScan]
  split <;> simp only [fail_stages, ok_stages, spread_stages]

theorem mapCols_stages (c : Ctx) (ins : List (Option Col)) (t : Nat → Nat) (f : Nat → Nat → Option Val → Option Nat) (s : State) :
    (mapCols c ins t f s).1.stages = s.stages := by
  simp only [mapCols, must_stages, ok_stages, spread_stages, implies_true]

theorem runCast_stages (c : Ctx) (ins : List (Option Col)) (s : State) : (runCast c ins s).1.stages = s.stages := by
  simp only [runCast, mapCols_stages]

theorem runHash_stages (c : Ctx) (ins : List (Option Col)) (s : State) : (runHash c ins s).1.stages = s.stages := by
  simp only [runHash, must_stages, ok_stages, spread_stages, implies_true]

theorem runBucketize_stages (c : Ctx) (ins : List (Option Col)) (s : State) : (runBucketize c ins s).1.stages = s.stages := by
  simp only [runBucketize, mapCols_stages]

theorem runNormalize_stages (c : Ctx) (ins : List (Option Col)) (s : State) : (runNormalize c ins s).1.stages = s.stages := by
  simp only [runNormalize, mapCols_stages]

theorem runJoinBuild_stages (c : Ctx) (ins : List (Option Col)) (s : State) : (runJoinBuild c ins s).1.stages = s.stages := by
  simp only [runJoinBuild, must_stages, spread_stages, ok_stages, implies_true]

theorem objBytes_stages (s : State) (c : Col) (off n : Nat) : (objBytes s c off n).1.stages = s.stages := by
  unfold objBytes
  split <;> simp only [readMem_stages, ok_stages]

theorem probeKey_stages (s : State) (o : Col) (h : List Byte) (key : Nat) : (probeKey s o h key).1.stages = s.stages := by
  refine (andThen_stages (fun s b => must_stages (fun s => ?_) _ _ _) _).trans (objBytes_stages ..)
  exact (andThen_stages (fun s es => ok_stages ..) _).trans (objBytes_stages ..)

theorem runJoinProbe_stages (c : Ctx) (ins : List (Option Col)) (s : State) : (runJoinProbe c ins s).1.stages = s.stages := by
  unfold runJoinProbe
  refine (andThen_stages (fun s h => ?_) _).trans ?_
  · dsimp only
    split
    · exact fail_stages ..
    · refine must_stages (fun s => (andThen_stages (fun s ms => ?_) _).trans (eachRes_stages (fun s e => ?_) _ _)) _ _ _
      · simp only [must_stages, spread_stages, ok_stages, implies_true]
      · split
        · exact (andThen_stages (fun s ms => ok_stages ..) _).trans (probeKey_stages ..)
        · exact ok_stages ..
  · simp only [apply_ite Prod.fst, apply_ite State.stages, objBytes_stages, fail_stages, ite_self]

theorem runGroupAgg_stages (c : Ctx) (ins : List (Option Col)) (s : State) : (runGroupAgg c ins s).1.stages = s.stages := by
  simp only [runGroupAgg, must_stages, spread_stages, ok_stages, implies_true]

theorem relSpill_stages (c : Ctx) (ins : List (Option Col)) (s : State) : (relSpill c ins s).stages = s.stages := by
  simp only [relSpill, charge_stages, State.setRun_stages, StageRun.issue, bump_stages, failRun_stages, noteErr_stages,
    apply_ite State.stages, ite_self, foldl_stages, implies_true]

theorem relRun_stages (c : Ctx) (ins : List (Option Col)) (s : State) : (relRun c ins s).1.stages = s.stages := by
  unfold relRun
  split <;>
    simp only [andThen_stages, loadAll_stages, runScan_stages, runProject_stages, runFilter_stages, runHash_stages,
      runBucketize_stages, runNormalize_stages, runJoinBuild_stages, runJoinProbe_stages, runGroupAgg_stages, runCast_stages,
      implies_true]

/-! ### Selection -/

theorem scanPieces_stages (r : List Byte) (pages : List Nat) (ins : List (Option Col)) (s : State) :
    (scanPieces r pages ins s).stages = s.stages := by
  simp only [scanPieces, bump_stages, apply_ite State.stages, ite_self, foldl_stages, implies_true]

theorem countRows_stages (s : State) (pageOf : Nat → Nat) (k : Nat) (rows : List (Nat × Nat)) :
    (countRows s pageOf k rows).stages = s.stages := by
  simp only [countRows, bump_stages, apply_ite State.stages, ite_self, foldl_stages, implies_true]

theorem gatherRow_stages (r : List Byte) (tbl : Col) (l row k : Nat) (kept : List El) (s : State) :
    (gatherRow r tbl l row k kept s).1.stages = s.stages := by
  simp only [gatherRow, andThen_stages, eachRes_stages, must_stages, objBytes_stages, ok_stages, implies_true]

theorem runTopk_stages (c : Ctx) (ins : List (Option Col)) (s : State) : (runTopk c ins s).1.stages = s.stages := by
  unfold runTopk
  refine must_stages (fun s => ?_) _ _ _
  refine (andThen_stages (fun s pay => ok_stages ..) _).trans ?_
  split
  · refine (andThen_stages (fun s bs => ok_stages ..) _).trans ((eachRes_stages (fun s q => ?_) _ _).trans ?_)
    · simp only [andThen_stages, ok_stages, bump_stages, gatherRow_stages, implies_true]
    · simp only [countRows_stages, scanPieces_stages]
  · simp only [ok_stages, countRows_stages, scanPieces_stages]

theorem runMergeLists_stages (c : Ctx) (ins : List (Option Col)) (s : State) : (runMergeLists c ins s).1.stages = s.stages := by
  simp only [runMergeLists, spread_stages, countRows_stages, ok_stages]

theorem selLoad_stages (r : List Byte) (ins : List (Option Col)) (s : State) : (selLoad r ins s).1.stages = s.stages := by
  simp only [selLoad, loadAll_stages, andThen_stages, ok_stages, apply_ite State.stages, apply_ite Prod.fst, ite_self, implies_true]

theorem selRun_stages (c : Ctx) (ins : List (Option Col)) (s : State) : (selRun c ins s).1.stages = s.stages := by
  simp only [selRun, runMergeLists_stages, runTopk_stages, apply_ite State.stages, apply_ite Prod.fst, ite_self]

/-! ### Shuffles and batches of samples -/

theorem shuffleIssue_stages (c : Ctx) (s : State) : (shuffleIssue c s).stages = s.stages := by
  have hcur (fills : Bool) (by_ : Option Nat) (past : Nat × Nat) (y : Stream) :
      (if fills = true then { y with cursorBy := by_ } else { y with cursor := past }).runsBy StageRun.issue
        = y.runsBy StageRun.issue := by
    split <;> rfl
  unfold shuffleIssue
  split
  · rfl
  · simp only [State.setRun_stages, StageRun.issue, State.setBatch_stages, Batch.runsBy, State.setStream_stages, hcur, bump_stages,
      implies_true]

theorem batchRun_stages (c : Ctx) (shuf : List Byte) (cs : List Cand) (ins : List (Option Col)) (s : State) :
    (batchRun c shuf cs ins s).1.stages = s.stages := by
  unfold batchRun
  (repeat' split) <;>
    simp only [failAt_stages, noteErr_stages, State.setStream_stages, Stream.runsBy, State.setBatch_stages, implies_true,
      Batch.runsBy, bump_stages, ok_stages, fail_stages, apply_ite State.stages, ite_self]

theorem prepLoad_stages (r : List Byte) (ins : List (Option Col)) (s : State) : (prepLoad r ins s).1.stages = s.stages := by
  simp only [prepLoad, andThen_stages, loadAll_stages, ok_stages, apply_ite State.stages, apply_ite Prod.fst, ite_self, implies_true]

/-! ### Stages -/

theorem noteStage_stages (s : State) (c : Ctx) (recs : List (List Byte)) (status : Nat) :
    (noteStage s c recs status).stages = s.stages := by
  unfold noteStage
  (repeat' split) <;> simp only [noteReed_stages, noteErr_stages]

theorem noted_stages {α : Type} (c : Ctx) (recs : List (List Byte)) (r : Res α) : (noted c recs r).1.stages = r.1.stages := by
  unfold noted
  split
  · exact noteStage_stages ..
  · rfl

theorem askPeers_stages (c : Ctx) (ins : List (Option Col)) (s : State) : (askPeers c ins s).stages = s.stages := by
  unfold askPeers
  split
  · rfl
  · refine foldl_stages (fun s k => ?_) _ _
    dsimp only
    split <;> simp only [failRun_stages, qpSend_stages]

theorem loadGroup_stages (s : State) (c : Ctx) (p : Plan) (units : List Nat) : (loadGroup s c p units).stages = s.stages := by
  have weights (l : List Nat) :
      (eachRes (fun s i => andThen (readWeights s (p.stages.getD i []) (p.blocksOf i)) fun s w => ok s (i, w.1, w.2)) s l).1.stages
        = s.stages := by
    simp only [eachRes_stages, andThen_stages, readWeights_stages, ok_stages, implies_true]
  unfold loadGroup
  split
  · rfl
  · split
    · rfl
    · split
      · rfl
      · split <;> rename_i e <;>
          simp only [failRun_stages, noteStage_stages, foldl_stages, bump_stages, State.stages_with, fst_stages e (weights ..),
            implies_true]

theorem relPush_stages (c : Ctx) (ins : List (Option Col)) (s : State) : (relPush c ins s).stages = s.stages := by
  unfold relPush
  (repeat' split) <;> simp only [pushCommands_stages, bump_stages, foldl_stages, implies_true]

theorem opIssue_stages (c : Ctx) (recs : List (List Byte)) (b : Batch) (ins : List (Option Col)) (s : State) :
    (opIssue c recs b ins s).stages = s.stages := by
  unfold opIssue
  extract_lets keep loaded
  have hk (s : State) (l : List (Option Col)) : (keep s l).stages = s.stages :=
    State.setRun_stages _ _ _ _ fun _ => rfl
  have hl {f : List (Option Col) → State → State} (hf : ∀ l s, (f l s).stages = s.stages) (r : Res (List (Option Col))) :
      (loaded r f).stages = r.1.stages := by
    simp only [loaded]
    rcases r with ⟨s, e | l⟩
    · simp only [failRunAt_stages, noteStage_stages]
    · simp only [hf, hk]
  clear_value loaded keep
  split <;>
    simp only [hl, hk, relPush_stages, loadAll_stages, relSpill_stages, lookupIssue_stages, askPeers_stages, updateIssue_stages,
      selLoad_stages, State.setRun_stages, StageRun.issue, searchIssue_stages, shuffleIssue_stages, sendIssue_stages,
      recvIssue_stages, implies_true]

theorem sendWakes_stages (s : State) (pages : List Nat) : (sendWakes s pages).stages = s.stages := by
  simp only [sendWakes, sendPacket_stages, bump_stages, apply_ite State.stages, ite_self, State.stages_with_disp, foldl_stages,
    implies_true]

theorem workDies_stages (s : State) (units : List Nat) : (workDies s units).stages = s.stages := by
  simp only [workDies, wakeDieBy_stages, foldl_stages, implies_true]

theorem opFinish_stages (c : Ctx) (p : Plan) (recs : List (List Byte)) (u : StageRun) (s : State) :
    (opFinish c p recs u s).1.stages = s.stages := by
  have run {α β : Type} {r : Res α} {f : State → α → Res β} (hf : ∀ s l, (f s l).1.stages = s.stages)
      (hr : r.1.stages = s.stages) : (andThen (noted c recs r) f).1.stages = s.stages := (andThen_stages hf _).trans ((noted_stages ..).trans hr)
  unfold opFinish
  extract_lets none_ ins
  split
  case h_8 =>
    refine run (fun s l => (andThen_stages (fun s rs => ?_) _).trans (updateRecords_stages ..)) (loadAll_stages ..)
    simp only [none_, ok_stages, stageUpdate_stages]
  case h_9 => exact (noted_stages ..).trans ((andThen_stages (fun s l => tokenRun_stages ..) _).trans (prepLoad_stages ..))
  case h_10 => exact run (fun s l => decodeRun_stages ..) (prepLoad_stages ..)
  case h_13 => exact run (fun s l => batchRun_stages ..) (prepLoad_stages ..)
  case h_14 | h_15 => split <;> rename_i e <;> simp only [noteErr_stages, packRun_stages, fst_stages e (loadAll_stages ..)]
  case h_18 =>
    split
    · simp only [noted_stages, relRun_stages]
    · split
      · simp only [noted_stages, denseRun_stages]
      · refine run (fun s q => ?_) (selRun_stages ..)
        simp only [ok_stages, apply_ite State.stages, State.setBatch_stages, implies_true, Batch.runsBy, ite_self]
  all_goals
    simp only [none_, ok_stages, failAt_stages, apply_ite Prod.fst, apply_ite State.stages, lookupOut_stages, stageUpdate_stages,
      searchOut_stages, transformRun_stages, recvOut_stages, ite_self]

/-- A stage as it is issued. -/
def StageRun.issuedOn (tick : Nat) (pages steps : List Nat) (r : StageRun) : StageRun :=
  { r with issuedAt := some tick, pages := pages, steps := steps }

theorem uncharge_stages (s : State) (slot hbm fen : Nat) : (uncharge s slot hbm fen).stages = s.stages := rfl

/-- The state in which a stage has taken its units (R85), before it does anything on them. -/
def stageTakes (x : Stream) (p : Plan) (b : Batch) (i : Nat) (units : List Nat) (s : State) : State :=
  let r := p.stages.getD i []
  let pages := unitPages r units
  let tiles := if (unitClass r).isNone then units else []
  let s : State := { s with
    freeCtr := s.freeCtr + 1
    assigns := s.assigns ++ pages.map fun q => ⟨q, x.id, b.idx, i⟩ }
  let s := tiles.foldl wakeTile (workDies (reserveFloor s x tiles) tiles)
  s.setRun x.id b.idx i (StageRun.issuedOn s.tick pages
    (if isResident r ∧ 1 < units.length then List.replicate units.length 0 else []))

theorem issueStage_stages (x : Stream) (p : Plan) (b : Batch) (i : Nat) (units : List Nat) (s : State) :
    (issueStage x p b i units s).stages = (stageTakes x p b i units s).stages := by
  simp only [issueStage]
  split
  · simp only [failRunAt_stages, noteStage_stages, sendWakes_stages]
    rfl
  · simp only [failRun_stages, noteStage_stages, opIssue_stages, fetchInputs_stages, loadGroup_stages, sendWakes_stages,
      apply_ite State.stages, ite_self]
    rfl

/-! ### Batches and stages by a part of them -/

section
variable {α : Type} {q : StageRun → α} {s t : State}

theorem batch?_runsBy (q : StageRun → α) (s : State) (id idx : Nat) : (s.batch? id idx).map (Batch.runsBy q)
    = ((s.runsBy q).find? (·.1 == id)).bind fun x => x.2.find? (·.1 == idx) := by
  rw [State.runsBy, State.batch?, State.stream?, find?_fst, Option.bind_map, Option.map_bind]
  congr 1
  funext x
  exact (find?_fst (g := Batch.idx) x.batches idx).symm

theorem run?_runsBy (q : StageRun → α) (s : State) (id idx i : Nat) : (s.run? id idx i).map (fun r => (r.ix, q r))
    = ((s.batch? id idx).map (Batch.runsBy q)).bind fun b => b.2.2.find? (·.1 == i) := by
  rw [State.run?, Option.bind_map, Option.map_bind]
  congr 1
  funext b
  exact (find?_fst (g := StageRun.ix) b.runs i).symm

theorem batch?_of_runsBy (h : t.runsBy q = s.runsBy q) {id idx : Nat} {b : Batch} (hb : s.batch? id idx = some b) :
    ∃ c, t.batch? id idx = some c ∧ c.state = b.state := by
  have hmap : (t.batch? id idx).map (Batch.runsBy q) = some (b.runsBy q) := by
    rw [batch?_runsBy, h, ← batch?_runsBy, hb, Option.map_some]
  obtain ⟨c, hc, hcb⟩ := Option.map_eq_some_iff.1 hmap
  exact ⟨c, hc, congrArg (·.2.1) hcb⟩

theorem run?_of_runsBy (h : t.runsBy q = s.runsBy q) {id idx i : Nat} {u : StageRun} (hu : s.run? id idx i = some u) :
    ∃ v, t.run? id idx i = some v ∧ q v = q u := by
  have hmap : (t.run? id idx i).map (fun r => (r.ix, q r)) = some (u.ix, q u) := by
    rw [run?_runsBy, batch?_runsBy, h, ← batch?_runsBy, ← run?_runsBy, hu, Option.map_some]
  obtain ⟨v, hv, hvu⟩ := Option.map_eq_some_iff.1 hmap
  exact ⟨v, hv, congrArg Prod.snd hvu⟩

theorem runsBy_of_stages (h : t.stages = s.stages) : t.runsBy StageRun.issue = s.runsBy StageRun.issue := congrArg (·.2.2) h

theorem assigns_of_stages (h : t.stages = s.stages) : t.assigns = s.assigns := congrArg (·.2.1) h

theorem fuses_of_stages (h : t.stages = s.stages) : t.fuses = s.fuses := congrArg (·.1) h

theorem runsBy_of_disp (h : t.disp = s.disp) : t.runsBy q = s.runsBy q := by rw [State.runsBy, h, State.runsBy]

theorem runsBy_of_contents (h : t.contents = s.contents) : t.runsBy q = s.runsBy q := by
  have hx : t.disp.streams.map Stream.bare = s.disp.streams.map Stream.bare := congrArg (·.2.2.2.2) h
  have hbare (s : State) : s.runsBy q = (s.disp.streams.map Stream.bare).map (Stream.runsBy q) := by rw [List.map_map]; rfl
  rw [hbare, hx, ← hbare]

theorem foldl_runsBy {β : Type} {f : State → β → State} (hf : ∀ s a, (f s a).runsBy q = s.runsBy q) (l : List β) (s : State) :
    (l.foldl f s).runsBy q = s.runsBy q := by
  induction l generalizing s with
  | nil => rfl
  | cons a t ih => exact (ih _).trans (hf s a)

end

/-- The stage of a batch once it has been changed. -/
theorem setRun_run?_some {s : State} {id idx i : Nat} {f : StageRun → StageRun} (hf : ∀ r, (f r).ix = r.ix) {u : StageRun}
    (hu : s.run? id idx i = some u) : (s.setRun id idx i f).run? id idx i = some (f u) := by
  obtain ⟨b, hb, hbu⟩ := Option.bind_eq_some_iff.1 hu
  have hfind (l : List StageRun) : (l.map fun r => if r.ix = i then f r else r).find? (·.ix == i) = (l.find? (·.ix == i)).map f := by
    induction l with
    | nil => rfl
    | cons r l ih =>
      by_cases hr : r.ix = i
      · simp [hr, hf]
      · simp [hr, ih]
  have hset : (s.setRun id idx i f).batch? id idx = some { b with runs := b.runs.map fun r => if r.ix = i then f r else r } :=
    setBatch_batch? (f := fun b => { b with runs := b.runs.map fun r => if r.ix = i then f r else r }) hb fun _ => rfl
  rw [State.run?, hset, Option.bind_some, hfind, hbu, Option.map_some]

/-! ### The end of a stage (R86, R87) -/

section
variable {α : Type} {q : StageRun → α}

theorem stageOutputs_runsBy (x : Stream) (idx : Nat) (u : StageRun) (outs : List (Option Col)) (s : State) :
    (stageOutputs x idx u outs s).runsBy q = s.runsBy q := by
  refine foldl_runsBy (fun s o => ?_) _ _
  split
  · dsimp only
    split
    · rfl
    · exact (runsBy_of_contents (writeBackAll_contents ..)).trans (State.setBatch_runsBy _ _ _ fun _ => rfl)
  · rfl

theorem freeUnits_runsBy (hq : ∀ r : StageRun, q { r with spill := 0 } = q r) (s : State) (id idx i : Nat) :
    (freeUnits s id idx i).runsBy q = s.runsBy q := by
  simp only [freeUnits]
  refine (runsBy_of_contents (leaveTiles_contents ..)).trans ((foldl_runsBy (fun s d => ?_) _ _).trans ?_)
  · exact runsBy_of_disp (wakeDieBy_reads s d 0).disp
  · refine (State.setRun_runsBy _ _ _ _ fun r => by rw [hq]).trans ?_
    refine (foldl_runsBy (fun s t => ?_) _ _).trans ?_
    · rfl
    · exact foldl_runsBy (fun s a => runsBy_of_contents (endUnit_contents s a)) _ s

theorem refreshReady_runsBy (hq : ∀ (r : StageRun) (t : Option Nat), q { r with readyAt := t } = q r) (s : State) (id : Nat) :
    (refreshReady s id).runsBy q = s.runsBy q := by
  have hready (n : Nat) (r : StageRun) : ((if r.readyAt.isNone then { r with readyAt := some n } else r).ix,
      q (if r.readyAt.isNone then { r with readyAt := some n } else r)) = (r.ix, q r) := by
    split
    · rw [hq]
    · rfl
  unfold refreshReady
  split
  · rfl
  · split
    · rfl
    · refine foldl_runsBy (fun s b => ?_) _ _
      split
      · rfl
      · split
        · split
          · exact State.setRun_runsBy _ _ _ _ (hready s.tick)
          · rfl
        · rfl

end

/-- A stage that has ended holds no unit. -/
theorem freeUnits_assigns (s : State) (id idx i : Nat) :
    ∀ a ∈ (freeUnits s id idx i).assigns, ¬(a.stream = id ∧ a.batch = idx ∧ a.stage = i) := by
  simp only [freeUnits]
  rw [assigns_of_stages (leaveTiles_stages ..), assigns_of_stages (workDies_stages ..),
    assigns_of_stages (State.setRun_stages _ _ _ _ (f := fun u => { u with spill := 0 }) fun _ => rfl),
    assigns_of_stages (uncharge_stages ..), assigns_of_stages (foldl_stages (fun s t => State.setTile_stages ..) _ _)]
  rintro a ha ⟨hs, hb, hi⟩
  have hkept := (List.mem_filter.1 ha).2
  simp [hs, hb, hi] at hkept

theorem batchProgress_of_started {s : State} {id idx : Nat} {b : Batch} (hb : s.batch? id idx = some b) (hst : b.state = .started) :
    batchProgress s id idx = s := by
  unfold batchProgress
  split
  next c _ hc =>
    cases hc.symm.trans hb
    rw [if_pos (Or.inl (by rw [hst]; decide))]
  next => rfl

end Sys2Proof.Machine
end

section
/-! PROOFS. O42: stages are issued on units, and finish (R85 to R87). -/

namespace Sys2Proof.Machine

theorem run?_of_batch? {s : State} {id idx i : Nat} {b : Batch} {u : StageRun} (hb : s.batch? id idx = some b)
    (hu : b.runs.find? (·.ix == i) = some u) : s.run? id idx i = some u := by rw [State.run?, hb, Option.bind_some, hu]

theorem State.batch?_idx {s : State} {id idx : Nat} {b : Batch} (h : s.batch? id idx = some b) : b.idx = idx := by
  obtain ⟨x, _, hb⟩ := Option.bind_eq_some_iff.1 h
  simpa using List.find?_some hb

theorem workDies_tick (s : State) (units : List Nat) : (workDies s units).tick = s.tick := by
  unfold workDies
  exact List.foldlRecOn _ _ (motive := fun t : State => t.tick = s.tick) rfl fun t ht d _ => (wakeDieBy_reads t d 0).tick.trans ht

theorem wakeTiles_tick (l : List Nat) (s : State) : (l.foldl wakeTile s).tick = s.tick := by
  refine List.foldlRecOn _ _ (motive := fun t : State => t.tick = s.tick) rfl fun t ht k _ => ?_
  unfold wakeTile
  split <;> exact ht

/-- A stage that takes its units holds them, and has been issued on them. -/
theorem stageTakes_takes {s : State} {x : Stream} {b : Batch} {i : Nat} {u : StageRun} (hu : s.run? x.id b.idx i = some u) (p : Plan)
    (units : List Nat) :
    (∃ v, (stageTakes x p b i units s).run? x.id b.idx i = some v
      ∧ v.issue = (some s.tick, unitPages (p.stages.getD i []) units))
    ∧ (stageTakes x p b i units s).assigns
      = s.assigns ++ (unitPages (p.stages.getD i []) units).map (fun q => ⟨q, x.id, b.idx, i⟩)
    ∧ (stageTakes x p b i units s).fuses = s.fuses := by
  simp only [stageTakes]
  generalize (if (unitClass (p.stages.getD i [])).isNone then units else []) = tiles
  generalize h0 : ({ s with freeCtr := _, assigns := _ } : State) = s0
  generalize h1 : tiles.foldl wakeTile (workDies (reserveFloor s0 x tiles) tiles) = s1
  have hst : s1.stages = s0.stages := by
    rw [← h1, foldl_stages wakeTile_stages, workDies_stages, reserveFloor_stages]
  have htick : s1.tick = s.tick := by
    rw [← h1, wakeTiles_tick, workDies_tick, ← h0]
    rfl
  have hruns : s0.runsBy StageRun.issue = s.runsBy StageRun.issue := by rw [← h0]; rfl
  obtain ⟨u1, hu1, _⟩ := run?_of_runsBy ((runsBy_of_stages hst).trans hruns) hu
  refine ⟨⟨_, setRun_run?_some (f := StageRun.issuedOn _ _ _) (fun _ => rfl) hu1, ?_⟩, ?_, ?_⟩
  · simp only [StageRun.issue, StageRun.issuedOn, htick]
  · refine (assigns_of_stages hst).trans ?_
    rw [← h0]
  · refine (fuses_of_stages hst).trans ?_
    rw [← h0]

/-- A stage as it finishes. -/
def StageRun.finishes (outs : List (Option Col)) (r : StageRun) : StageRun := { r with finished := true, outs := outs }

/-- What a stage that ends leaves in its place (R86). -/
def stageEnds (x : Stream) (b : Batch) (u : StageRun) (outs : List (Option Col)) (s : State) : State :=
  refreshReady (freeUnits (stageOutputs x b.idx u outs (s.setRun x.id b.idx u.ix (StageRun.finishes outs)))
    x.id b.idx u.ix) x.id

/-- The results of a stage. -/
abbrev StageRun.results (r : StageRun) : Bool × List (Option Col) := (r.finished, r.outs)

theorem stageEnds_runsBy (x : Stream) (b : Batch) (u : StageRun) (outs : List (Option Col)) (s : State) :
    (stageEnds x b u outs s).runsBy StageRun.results
      = (s.setRun x.id b.idx u.ix (StageRun.finishes outs)).runsBy StageRun.results := by
  rw [stageEnds, refreshReady_runsBy fun _ _ => rfl, freeUnits_runsBy fun _ => rfl, stageOutputs_runsBy]

theorem stageEnds_run? {s : State} {x : Stream} {b : Batch} {u v : StageRun} (hv : s.run? x.id b.idx u.ix = some v)
    (outs : List (Option Col)) :
    ∃ w, (stageEnds x b u outs s).run? x.id b.idx u.ix = some w ∧ w.finished = true ∧ w.outs = outs := by
  have hset := setRun_run?_some (f := StageRun.finishes outs) (fun _ => rfl) hv
  obtain ⟨w, hw, hres⟩ := run?_of_runsBy (stageEnds_runsBy x b u outs s) hset
  exact ⟨w, hw, congrArg Prod.fst hres, congrArg Prod.snd hres⟩

theorem stageEnds_batch? {s : State} {x : Stream} {b c : Batch} {id idx : Nat} (hc : s.batch? id idx = some c) (u : StageRun)
    (outs : List (Option Col)) : ∃ d, (stageEnds x b u outs s).batch? id idx = some d ∧ d.state = c.state := by
  have hset : (s.setRun x.id b.idx u.ix (StageRun.finishes outs)).runsBy StageRun.issue
      = s.runsBy StageRun.issue := State.setRun_runsBy _ _ _ _ fun _ => rfl
  obtain ⟨d, hd, hdc⟩ := batch?_of_runsBy hset hc
  obtain ⟨e, he, hed⟩ := batch?_of_runsBy (stageEnds_runsBy x b u outs s) hd
  exact ⟨e, he, hed.trans hdc⟩

theorem stageEnds_assigns (x : Stream) (b : Batch) (u : StageRun) (outs : List (Option Col)) (s : State) :
    ∀ a ∈ (stageEnds x b u outs s).assigns, ¬(a.stream = x.id ∧ a.batch = b.idx ∧ a.stage = u.ix) := by
  obtain ⟨_, d, hd⟩ := refreshReady_readied (freeUnits (stageOutputs x b.idx u outs
    (s.setRun x.id b.idx u.ix (StageRun.finishes outs))) x.id b.idx u.ix) x.id
  rw [stageEnds, hd]
  exact freeUnits_assigns _ _ _ _

section
variable {id idx i : Nat} {s : State} {x : Stream} {p : Plan} {b : Batch} {u : StageRun} (hx : s.open? id = some x)
  (hb : s.batch? id idx = some b) (hp : x.plan = some p) (hu : b.runs.find? (·.ix == i) = some u) (hstop : b.stopped = false)
  (hfin : u.finished = false)

include hx hb hp hu hstop hfin

theorem stageIssue_eq {tau : Nat} {units : List Nat} (hready : u.readyAt = some tau) (hiss : u.issuedAt = none)
    (hnext : nextStage p b = some i) (hst : b.state = .started ∨ b.state = .committed) (hgate : s.power.issueGate = 0)
    (hcur : cursorFree x p (p.stages.getD i []) = true) (hunits : unitsOk s x p i units = true)
    (hfirst : servedFirst s x idx (p.stages.getD i []) tau = false) :
    Sys2Proof.Machine.stageIssue id idx i units s = issueStage x p b i units s := by
  have hstate : (b.state == .started || b.state == .committed) = true := by simpa using hst
  simp [Sys2Proof.Machine.stageIssue, hx, hb, hp, hu, hready, hstop, hiss, hfin, hnext, hstate, hgate, hcur, hunits, hfirst,
    -List.getD_eq_getElem?_getD]

theorem stageFinish_eq (hst : b.state = .started) (hiss : u.issuedAt.isSome = true) (f : StageFault) :
    Sys2Proof.Machine.stageFinish id idx i f s = finishStage x p b u f s := by
  have hissued : u.issuedAt.isNone = false := by rw [Option.isNone_eq_false_iff, hiss]
  simp [Sys2Proof.Machine.stageFinish, hx, hb, hp, hu, hstop, hfin, hissued, hst]

end

/-- Settles O42: of the batches and the units held, what follows the taking of units changes nothing, and neither does the work of a
stage until it has its results. -/
theorem stagesAreIssuedAndFinish : Obligations.StagesAreIssuedAndFinish := by
  unfold Obligations.StagesAreIssuedAndFinish
  refine ⟨?_, ?_, ?_⟩
  · intro id idx i tau units s x p b u _ hx _ hb hp hu hready hstop hiss hfin hnext hst hgate hcur hunits hfirst
    obtain rfl := State.open?_id hx
    obtain rfl := State.batch?_idx hb
    obtain ⟨⟨v, hv, hissue⟩, hassigns, hfuses⟩ := stageTakes_takes (run?_of_batch? hb hu) p units
    have hkept := issueStage_stages x p b i units s
    obtain ⟨w, hw, hwv⟩ := run?_of_runsBy (runsBy_of_stages hkept) hv
    have hwi := hwv.trans hissue
    exact ⟨_, w, congrArg Host.Outcome.next (stageIssue_eq hx hb hp hu hstop hfin hready hiss hnext hst hgate hcur hunits hfirst), hw,
      congrArg Prod.fst hwi, congrArg Prod.snd hwi, (assigns_of_stages hkept).trans hassigns, (fuses_of_stages hkept).trans hfuses⟩
  · intro id idx i s x p b u outs _ hx _ hb hp hu hst hstop hfin hiss hfail s1 hready hres hlate
    obtain rfl := State.open?_id hx
    obtain rfl := State.batch?_idx hb
    obtain rfl : u.ix = i := by simpa using List.find?_some hu
    generalize ho : opFinish (mkCtx s x p b u.ix u.pages) p (planRecs p u.ix) u s1 = o at hres
    obtain ⟨s2, r⟩ := o
    obtain rfl : r = .ok outs := hres
    have hkept : s2.stages = s.stages := (fst_stages ho (opFinish_stages ..) : s2.stages = s1.stages)
    obtain ⟨v, hv, _⟩ := run?_of_runsBy (runsBy_of_stages hkept) (run?_of_batch? hb hu)
    obtain ⟨c, hc, hcb⟩ := batch?_of_runsBy (runsBy_of_stages hkept) hb
    obtain ⟨d, hd, hdc⟩ := stageEnds_batch? (x := x) (b := b) hc u outs
    have hend : finishStage x p b u .none s = batchProgress (stageEnds x b u outs s2) x.id b.idx := by
      simp only [finishStage, applyFault, hfail]
      rw [if_neg (by rw [hready]; decide), ho]
      simp only [hlate]
      rfl
    rw [batchProgress_of_started hd (hdc.trans (hcb.trans hst))] at hend
    obtain ⟨w, hw, hwf, hwo⟩ := stageEnds_run? (b := b) hv outs
    exact ⟨_, w, congrArg Host.Outcome.next ((stageFinish_eq hx hb hp hu hstop hfin hst hiss .none).trans hend), hw, hwf, hwo,
      stageEnds_assigns x b u outs s2⟩
  · intro id idx i e s x p b u _ hx hs hb hp hu hst hstop hfin hiss hfail hturn
    obtain rfl := State.open?_id hx
    obtain rfl := State.batch?_idx hb
    have hend : finishStage x p b u .none s
        = endBatch { s with freeCtr := s.freeCtr + 1 } x.id b.idx e.1 ((u.ix + 1) * 256 + e.2) := by
      simp only [finishStage, applyFault, hfail, stageFails]
    obtain ⟨hans, hmem, _⟩ := endBatch_answers (s := { s with freeCtr := s.freeCtr + 1 }) hs hb (by rw [hst]; decide) hturn e.1
      ((u.ix + 1) * 256 + e.2)
    exact ⟨_, congrArg Host.Outcome.next ((stageFinish_eq hx hb hp hu hstop hfin hst hiss .none).trans hend), hans, hmem⟩

end Sys2Proof.Machine
end

section
/-! SUPPORT. Blocks of tiles (R71 to R75): the streams with what they hold, and the wait edges, which requests, packets and counters
leave as they were; and the holds of a stream as they are set. -/

namespace Sys2Proof.Machine

/-- The streams, with the blocks that they hold and wait for, and the wait edges. Equations `(f s).pools = s.pools` rewrite through a
chain of calls. -/
def State.pools (s : State) : List Stream × List Edge := (s.disp.streams, s.fab.edges)

theorem foldl_pools {α : Type} {f : State → α → State} (hf : ∀ s a, (f s a).pools = s.pools) (l : List α) (s : State) :
    (l.foldl f s).pools = s.pools := by
  induction l generalizing s with
  | nil => rfl
  | cons a t ih => exact (ih _).trans (hf s a)

theorem Access.pools {s t : State} (h : Access s t) : t.pools = s.pools := by
  rw [State.pools, h.disp, h.fab, State.pools]

theorem bump_pools (s : State) (k n : Nat) : (bump s k n).pools = s.pools := (bump_reads s k n).pools

theorem firstEvent_pools (s : State) (page off v : Nat) : (firstEvent s page off v).pools = s.pools :=
  (firstEvent_reads s page off v).pools

theorem countHop_pools (s : State) (hop n : Nat) : (countHop s hop n).pools = s.pools := by
  simp only [countHop, apply_ite State.pools, bump_pools, ite_self]

theorem sendPacket_pools (s : State) (o : PacketOf) (lane : Nat) (route : List Nat) (flits : Nat) :
    (sendPacket s o lane route flits).pools = s.pools := by
  unfold sendPacket
  split
  · rfl
  · exact countHop_pools ..

/-! ### Holds (R71) -/

theorem hold?_of_streams {s t : State} (h : t.disp.streams = s.disp.streams) (k id : Nat) : t.hold? k id = s.hold? k id := by
  rw [State.hold?, stream?_of_streams h, State.hold?]

theorem hold?_of_pools {s t : State} (h : t.pools = s.pools) (k id : Nat) : t.hold? k id = s.hold? k id :=
  hold?_of_streams (congrArg Prod.fst h) k id

theorem edges_of_pools {s t : State} (h : t.pools = s.pools) : t.fab.edges = s.fab.edges := congrArg Prod.snd h

/-- The hold of one tile, where the holds of another, or of that one, have been through a function. -/
theorem find?_map_tile {f : Hold → Hold} (hf : ∀ h, (f h).tile = h.tile) (l : List Hold) (t k : Nat) :
    (l.map fun h => if h.tile = t then f h else h).find? (·.tile == k)
      = (l.find? (·.tile == k)).map fun h => if k = t then f h else h := by
  rw [List.find?_map]
  have hkeep : ((fun h : Hold => h.tile == k) ∘ fun h => if h.tile = t then f h else h) = fun h => h.tile == k := by
    funext h
    simp only [Function.comp_apply]
    split
    · rw [hf]
    · rfl
  rw [hkeep]
  cases h : l.find? (·.tile == k) with
  | none => rfl
  | some a =>
    have ha : a.tile = k := by simpa using List.find?_some h
    simp only [Option.map_some, ha]

theorem setHold_hold? {s : State} {t id : Nat} {f : Hold → Hold} (hf : ∀ h, (f h).tile = h.tile) :
    (s.setHold t id f).hold? t id = (s.hold? t id).map f := by
  simp only [State.hold?, State.setHold]
  rw [State.setStream_stream?]
  · cases s.stream? id with
    | none => rfl
    | some x => simp only [Option.map_some, Option.bind_some, find?_map_tile hf, if_true]
  · exact fun _ => rfl

theorem setHold_hold?_ne {s : State} {t id k j : Nat} (h : k ≠ t ∨ j ≠ id) {f : Hold → Hold} (hf : ∀ h, (f h).tile = h.tile) :
    (s.setHold t id f).hold? k j = s.hold? k j := by
  simp only [State.hold?, State.setHold]
  by_cases hj : j = id
  · subst hj
    have hk : k ≠ t := h.resolve_right fun h => h rfl
    rw [State.setStream_stream?]
    · cases s.stream? j with
      | none => rfl
      | some x => simp only [Option.map_some, Option.bind_some, find?_map_tile hf, if_neg hk, Option.map_id']
    · exact fun _ => rfl
  · rw [State.setStream_stream?_ne s hj]
    exact fun _ => rfl

theorem State.hold?_stream {s : State} {k id : Nat} {h : Hold} (hh : s.hold? k id = some h) : ∃ x, s.stream? id = some x := by
  obtain ⟨x, hx, _⟩ := Option.bind_eq_some_iff.1 hh
  exact ⟨x, hx⟩

/-- Streams may change by their blocks alone where the engines' contents stay. -/
theorem blocksOnly_of_contents {s t : State} (h : t.contents = s.contents) (id : Nat) : BlocksOnly id s t := by
  have hq := quiet_of_contents h
  refine ⟨fun j _ => ?_, hq.mem, hq.fuses⟩
  have hrel := hq.stream? (fun _ _ => bareDrift_id) j
  generalize s.stream? j = a at hrel ⊢
  generalize t.stream? j = b at hrel ⊢
  cases hrel with
  | none => rfl
  | some hab => exact congrArg some hab

/-! ### The stream engines of a tile (R66 to R70) -/

theorem setMover_pools (s : State) (t : Nat) (f : Mover → Mover) : (s.setMover t f).pools = s.pools := rfl

theorem setFeed_pools (s : State) (t : Nat) (g : Feed) (f : Feed → Feed) : (s.setFeed t g f).pools = s.pools := rfl

theorem dropPacket_pools (s : State) (o : PacketOf) : (dropPacket s o).pools = s.pools := rfl

theorem pumpTile_pools (s : State) (t : Nat) : (pumpTile s t).pools = s.pools := by
  simp only [pumpTile, foldl_pools, sendPacket_pools, setMover_pools, implies_true]

theorem issueGroup_pools (s : State) (t : Nat) (g : Group) : (issueGroup s t g).pools = s.pools := by
  simp only [issueGroup, pumpTile_pools, setMover_pools]

theorem openGroup_pools (s : State) (t : Nat) (g : Group) (merge : Bool) : (openGroup s t g merge).pools = s.pools := by
  simp only [openGroup, issueGroup_pools, setMover_pools, apply_ite State.pools, ite_self]
  split <;> simp only [issueGroup_pools, apply_ite State.pools, ite_self, foldl_pools, implies_true]

theorem openTransfer_pools (s : State) (t stream : Nat) (write : Bool) (addr len : Nat) :
    (openTransfer s t stream write addr len).pools = s.pools := by
  simp only [openTransfer]
  split
  · rfl
  · split <;> simp only [apply_ite State.pools, issueGroup_pools, bump_pools, setMover_pools, openGroup_pools, ite_self]

theorem beginBlock_pools (s : State) (t : Nat) (f : Feed) (extra : Bool) : (beginBlock s t f extra).pools = s.pools := by
  simp only [beginBlock]
  split <;> simp only [setFeed_pools, openTransfer_pools]

/-! ### Blocks that are spilled (R75) -/

/-- What of a hold its spill and restore move. -/
def Hold.area (h : Hold) : Nat × Nat × Nat := (h.tile, h.spilling, h.spilled)

/-- What every stream has spilled. Equations `(f s).areas = s.areas` rewrite through a chain of calls. -/
def State.areas (s : State) : List (Nat × List (Nat × Nat × Nat)) := s.disp.streams.map fun x => (x.id, x.holds.map Hold.area)

theorem foldl_areas {α : Type} {f : State → α → State} (hf : ∀ s a, (f s a).areas = s.areas) (l : List α) (s : State) :
    (l.foldl f s).areas = s.areas := by
  induction l generalizing s with
  | nil => rfl
  | cons a t ih => exact (ih _).trans (hf s a)

theorem areas_of_pools {s t : State} (h : t.pools = s.pools) : t.areas = s.areas :=
  congrArg (List.map fun x : Stream => (x.id, x.holds.map Hold.area)) (congrArg Prod.fst h)

theorem beginBlock_areas (s : State) (t : Nat) (f : Feed) (extra : Bool) : (beginBlock s t f extra).areas = s.areas :=
  areas_of_pools (beginBlock_pools ..)

/-- Streams whose holds have been through a function that leaves what is spilled. -/
theorem mapHolds_areas (l : List Stream) {g : Stream → Hold → Hold} (hg : ∀ x h, (g x h).area = h.area) :
    (l.map fun x => { x with holds := x.holds.map (g x) }).map (fun x => (x.id, x.holds.map Hold.area))
      = l.map fun x => (x.id, x.holds.map Hold.area) := by
  simp only [List.map_map, Function.comp_def, hg]

theorem setHold_areas (s : State) (t id : Nat) {f : Hold → Hold} (hf : ∀ h, (f h).area = h.area) :
    (s.setHold t id f).areas = s.areas := by
  refine Eq.trans ?_ (mapHolds_areas s.disp.streams (g := fun x h => if x.id = id ∧ h.tile = t then f h else h) fun x h => ?_)
  · refine congrArg (List.map _) (List.map_congr_left fun x _ => ?_)
    by_cases hx : x.id = id <;> simp [hx]
  · split
    · exact hf h
    · rfl

theorem hold?_area {s t : State} (h : t.areas = s.areas) (k id : Nat) :
    (t.hold? k id).map Hold.area = (s.hold? k id).map Hold.area := by
  have hof (s : State) : (s.hold? k id).map Hold.area = (s.areas.find? (·.1 == id)).bind fun p => p.2.find? (·.1 == k) := by
    rw [State.areas, find?_fst, State.hold?, State.stream?]
    cases s.disp.streams.find? (·.id == id) with
    | none => rfl
    | some x =>
      simp only [Option.bind_some, Option.map_some, List.find?_map]
      rfl
  rw [hof, hof, h]

/-! ### Blocks that are granted (R73, R74) -/

/-- A hold of a tile that no spill was made for, where one was made for a stream that has its blocks. -/
def Hold.forgetWinner (t id : Nat) (h : Hold) : Hold := if h.tile = t ∧ h.winner = some id then { h with winner := none } else h

theorem forgetWinner_counts (t id : Nat) (h : Hold) :
    (h.forgetWinner t id).held = h.held ∧ (h.forgetWinner t id).wanted = h.wanted ∧ (h.forgetWinner t id).floor = h.floor := by
  unfold Hold.forgetWinner
  split <;> exact ⟨rfl, rfl, rfl⟩

/-- Streams after one of them has been given blocks of a tile. -/
def blocksGiven (s : State) (t id n : Nat) : State :=
  let s := s.setHold t id fun h => { h with held := h.held + n, wanted := 0 }
  { s with
    fab := { s.fab with edges := s.fab.edges.filter fun e => !(e.tile == t && e.waiter == id) }
    disp := { s.disp with streams := s.disp.streams.map fun x => { x with holds := x.holds.map (Hold.forgetWinner t id) } } }

/-- Blocks that are granted begin an input's block at most, which no stream's holds show. -/
theorem giveBlocks_pools (s : State) (t id n : Nat) : (giveBlocks s t id n).pools = (blocksGiven s t id n).pools := by
  unfold giveBlocks
  dsimp only
  split
  · exact beginBlock_pools ..
  · rfl

theorem forgetWinner_area (t id : Nat) (h : Hold) : (h.forgetWinner t id).area = h.area := by
  unfold Hold.forgetWinner
  split <;> rfl

theorem giveBlocks_areas (s : State) (t id n : Nat) : (giveBlocks s t id n).areas = s.areas := by
  rw [areas_of_pools (giveBlocks_pools s t id n)]
  refine (mapHolds_areas _ fun _ h => forgetWinner_area t id h).trans (setHold_areas s t id ?_)
  exact fun _ => rfl

theorem grantWaiters_areas (s : State) (t : Nat) : (grantWaiters s t).areas = s.areas := by
  refine foldl_areas (fun s w => ?_) _ _
  split
  · simp only [apply_ite State.areas, giveBlocks_areas, ite_self]
  · rfl

theorem releaseBlocks_areas (s : State) (t id n : Nat) : (releaseBlocks s t id n).areas = s.areas := by
  unfold releaseBlocks
  split
  · rfl
  · dsimp only
    rw [grantWaiters_areas]
    refine Eq.trans ?_ (setHold_areas s t id (f := fun h => { h with held := h.held - n }) fun _ => rfl)
    split <;> rfl

theorem giveBlocks_edges (s : State) (t id n : Nat) :
    (giveBlocks s t id n).fab.edges = s.fab.edges.filter fun e => !(e.tile == t && e.waiter == id) :=
  edges_of_pools (giveBlocks_pools s t id n)

/-- A stream that has been given blocks waits for none. -/
theorem giveBlocks_hold? {s : State} {t id : Nat} {h : Hold} (hh : s.hold? t id = some h) (n : Nat) :
    (giveBlocks s t id n).hold? t id = some (Hold.forgetWinner t id { h with held := h.held + n, wanted := 0 }) := by
  have hset : (s.setHold t id fun h => { h with held := h.held + n, wanted := 0 }).hold? t id
      = some { h with held := h.held + n, wanted := 0 } := by
    rw [setHold_hold?, hh, Option.map_some]
    exact fun _ => rfl
  rw [hold?_of_pools (giveBlocks_pools s t id n)]
  obtain ⟨x, hx, hxh⟩ := Option.bind_eq_some_iff.1 hset
  have htile (h : Hold) : (h.forgetWinner t id).tile = h.tile := congrArg Prod.fst (forgetWinner_area t id h)
  simp only [State.hold?, State.stream?, blocksGiven, List.find?_map, Function.comp_def, htile, Option.bind_map] at hx ⊢
  rw [hx, Option.bind_some, hxh, Option.map_some]

end Sys2Proof.Machine
end

section
/-! PROOFS. O49: blocks of a tile are granted, waited for, spilled and restored (R71 to R75). -/

namespace Sys2Proof.Machine

/-- Blocks can be given where they lie within the floor, or where as many are free and no spill was made for another. -/
theorem weirFits_iff (s : State) (k id : Nat) (h : Hold) (n : Nat) : weirFits s k id h n = true
    ↔ max h.floor (h.held + n) = max h.floor h.held
      ∨ max h.floor (h.held + n) - max h.floor h.held ≤ freeBlocks s k ∧ winnerWaits s k id = false := by
  have hzero : max h.floor (h.held + n) - max h.floor h.held = 0 ↔ max h.floor (h.held + n) = max h.floor h.held := by omega
  simp only [weirFits, Bool.or_eq_true, beq_iff_eq, hzero, Bool.and_eq_true, decide_eq_true_eq, Bool.not_eq_true']

/-- A hold of which a block's write has completed. -/
def Hold.blockWritten (h : Hold) : Hold := { h with
  spilling := h.spilling - 1
  written := if h.spilled = 0 then 0 else h.written + 1 }

/-- A hold whose spilled blocks have been read back. -/
def Hold.restored (h : Hold) : Hold := { h with
  held := h.held + h.spilled
  spilled := 0
  written := 0
  winner := none }

section
variable {k id : Nat} {s : State} {h : Hold} (hh : s.hold? k id = some h)
include hh

/-! ### WEIR_GRANT (R73) -/

theorem weirGrant_gives (n : Nat) (hsp : h.spilling = 0) (hsd : h.spilled = 0)
    (hfits : weirFits s k id h (if h.wanted = 0 then n else h.wanted) = true) :
    weirGrant k id n s = giveBlocks s k id (if h.wanted = 0 then n else h.wanted) := by
  simp [weirGrant, spilledOn, hh, hsp, hsd, hfits]

theorem weirGrant_goesOn (n : Nat) (hsp : h.spilling = 0) (hsd : h.spilled = 0)
    (hfits : weirFits s k id h (if h.wanted = 0 then n else h.wanted) = false) (hfloor : h.floor ≠ 0) : weirGrant k id n s = s := by
  simp [weirGrant, spilledOn, hh, hsp, hsd, hfits, hfloor]

theorem weirGrant_waits (n : Nat) (hsp : h.spilling = 0) (hsd : h.spilled = 0)
    (hfits : weirFits s k id h (if h.wanted = 0 then n else h.wanted) = false) (hfloor : h.floor = 0) :
    weirGrant k id n s = s.setHold k id fun g => { g with wanted := if h.wanted = 0 then n else h.wanted } := by
  simp [weirGrant, spilledOn, hh, hsp, hsd, hfits, hfloor]

/-! ### WEIR_EDGE (R74) -/

/-- A tile reports the edges that the dispatcher does not know. -/
theorem weirEdge_reports (hw : h.wanted ≠ 0) : (weirEdge k id s).disp = s.disp ∧ (weirEdge k id s).mem = s.mem
    ∧ (weirEdge k id s).fab.edges = s.fab.edges ++ (waitEdges s k id).filter fun e => !(s.fab.edges.contains e) := by
  simp only [weirEdge, hh, if_neg hw]
  split
  next hnone => rw [hnone, List.append_nil]; exact ⟨rfl, rfl, rfl⟩
  next =>
    have hreads := bump_reads { s with fab := { s.fab with
      edges := s.fab.edges ++ (waitEdges s k id).filter fun e => !(s.fab.edges.contains e) } } (pgFab + 0x418) 1
    exact ⟨hreads.disp, (quiet_of_contents (bump_contents ..)).mem, congrArg Fab.edges hreads.fab⟩

omit hh in
theorem mem_waitEdges {e : Edge} : e ∈ waitEdges s k id
    ↔ ∃ p ∈ tileHolds s k, (p.1 ≠ id ∧ p.2.floor < p.2.held ∧ p.2.spilling = 0) ∧ ⟨k, id, p.1⟩ = e := by
  simp only [waitEdges, List.mem_map, List.mem_filter, Bool.and_eq_true, bne_iff_ne, decide_eq_true_eq, beq_iff_eq, and_assoc]

/-! ### SPILL_BLOCK_WRITTEN and SLOUGH_RESTORE (R75) -/

/-- One block fewer is left to write, whoever is given the block. -/
theorem spillBlockWritten_counts (hsp : h.spilling ≠ 0) : (spillBlockWritten k id s).contents = s.contents
    ∧ ∃ q, (spillBlockWritten k id s).hold? k id = some q ∧ q.spilling = h.spilling - 1 ∧ q.spilled = h.spilled := by
  have heq : spillBlockWritten k id s
      = releaseBlocks ((dropPacket s (.spill k id)).setHold k id Hold.blockWritten) k id 1 := by
    simp only [spillBlockWritten, hh, if_neg hsp]
    rfl
  have hset : ((dropPacket s (.spill k id)).setHold k id Hold.blockWritten).hold? k id = some h.blockWritten := by
    rw [setHold_hold?, hold?_of_pools (dropPacket_pools ..), hh, Option.map_some]
    exact fun _ => rfl
  have harea := hold?_area (releaseBlocks_areas ((dropPacket s (.spill k id)).setHold k id Hold.blockWritten) k id 1) k id
  rw [hset, Option.map_some] at harea
  rw [heq]
  refine ⟨?_, ?_⟩
  · simp only [releaseBlocks_contents, setHold_contents]
    rfl
  · obtain ⟨q, hq, hqa⟩ := Option.map_eq_some_iff.1 harea
    exact ⟨q, hq, congrArg (fun a => a.2.1) hqa, congrArg (fun a => a.2.2) hqa⟩

/-- Spilled blocks come back together. -/
theorem sloughRestore_restores (hsd : h.spilled ≠ 0) (hsp : h.spilling = 0) (hfree : h.spilled ≤ freeBlocks s k) :
    (sloughRestore k id s).pools = (s.setHold k id Hold.restored).pools
      ∧ (sloughRestore k id s).contents = s.contents := by
  have hcan : ¬ (h.spilled = 0 ∨ h.spilling ≠ 0 ∨ freeBlocks s k < h.spilled) := by omega
  simp only [sloughRestore, hh, if_neg hcan, bump_pools, bump_contents, setHold_contents, and_true]
  rfl

end

theorem setHold_othersKept (s : State) (k id : Nat) (f : Hold → Hold) : OthersKept s (s.setHold k id f) id :=
  setStream_othersKept s id fun _ => rfl

theorem othersKept_of_pools {s t : State} (h : t.pools = s.pools) (id : Nat) : OthersKept s t id :=
  othersKept_of_streams (congrArg Prod.fst h) id

/-- Settles O49, by what the hold of the stream becomes; of the other streams no more than their blocks change. -/
theorem weirGrantsSpillsAndRestores : Obligations.WeirGrantsSpillsAndRestores := by
  intro k id n s h _ hh
  dsimp only
  rw [← weirFits_iff, Bool.not_eq_true]
  have kept {t : State} (ht : t.contents = s.contents) : OthersButBlocks s t id ∧ t.mem = s.mem ∧ t.fuses = s.fuses :=
    have hb := blocksOnly_of_contents ht id
    ⟨hb.others, hb.mem, hb.fuses⟩
  refine ⟨fun hsp hsd hfits => ?_, fun hsp hsd hfits hfloor => ?_, fun hsp hsd hfits hfloor => ?_, fun hw => ?_, fun hsp => ?_,
    fun hsd hsp hfree => ?_⟩
  · obtain ⟨hheld, hwanted, hfloor⟩ := forgetWinner_counts k id { h with
      held := h.held + (if h.wanted = 0 then n else h.wanted), wanted := 0 }
    refine ⟨_, Hold.forgetWinner k id { h with held := h.held + (if h.wanted = 0 then n else h.wanted), wanted := 0 }, rfl, ?_⟩
    rw [weirGrant_gives hh n hsp hsd hfits]
    exact ⟨kept (giveBlocks_contents ..), giveBlocks_hold? hh _, hheld, hwanted, hfloor, giveBlocks_edges ..⟩
  · exact congrArg Host.Outcome.next (weirGrant_goesOn hh n hsp hsd hfits hfloor)
  · refine ⟨_, rfl, ?_⟩
    rw [weirGrant_waits hh n hsp hsd hfits hfloor]
    refine ⟨setHold_othersKept s k id _, kept (setHold_contents ..), ?_⟩
    rw [setHold_hold?, hh, Option.map_some]
    exact fun _ => rfl
  · obtain ⟨hdisp, hmem, hedges⟩ := weirEdge_reports hh hw
    refine ⟨_, rfl, hdisp, hmem, ?_⟩
    rw [hedges]
    refine ⟨fun e he => List.mem_append_left _ he, fun p hp hne hheld hsp => ?_, fun e he => ?_⟩
    · by_cases hin : (⟨k, id, p.1⟩ : Edge) ∈ s.fab.edges
      · exact List.mem_append_left _ hin
      · exact List.mem_append_right _ (List.mem_filter.2 ⟨mem_waitEdges.2 ⟨p, hp, ⟨hne, hheld, hsp⟩, rfl⟩, by simpa using hin⟩)
    · refine (List.mem_append.1 he).imp_right fun hnew => ?_
      obtain ⟨p, _, _, rfl⟩ := mem_waitEdges.1 (List.mem_filter.1 hnew).1
      exact ⟨rfl, rfl⟩
  · obtain ⟨hcontents, q, hq, hspilling, hspilled⟩ := spillBlockWritten_counts hh hsp
    exact ⟨_, q, rfl, hq, hspilling, hspilled, kept hcontents⟩
  · obtain ⟨hpools, hcontents⟩ := sloughRestore_restores hh hsd hsp hfree
    refine ⟨_, h.restored, rfl, ?_, kept hcontents, ?_, rfl, rfl, rfl⟩
    · exact (setHold_othersKept s k id Hold.restored).trans (othersKept_of_pools hpools id)
    · rw [hold?_of_pools hpools, setHold_hold?, hh, Option.map_some]
      exact fun _ => rfl

end Sys2Proof.Machine
end

section
/-! PROOFS. O50: WAIT_GRAPH_CHECK takes edges away until no cycle is left, and spills the blocks on which they went (R74, R75). -/

namespace Sys2Proof.Machine

/-! ### Cycles of the wait-for graph -/

theorem trimEdges_subset (n : Nat) (es : List Edge) : trimEdges n es ⊆ es := by
  induction n generalizing es with
  | zero => exact List.Subset.refl es
  | succ n ih => exact List.Subset.trans (ih _) (List.filter_subset_self _)

/-- In a chain, each entry but the last is followed by one. -/
theorem isChain_next {α : Type} {R : α → α → Prop} {a b : α} {l : List α} (h : List.IsChain R (a :: (l ++ [b]))) :
    ∀ v ∈ a :: l, ∃ w ∈ l ++ [b], R v w := by
  induction l generalizing a with
  | nil =>
    intro v hv
    rw [List.mem_singleton.1 hv]
    exact ⟨b, List.mem_singleton_self b, (List.isChain_cons_cons.1 h).1⟩
  | cons c l ih =>
    obtain ⟨hac, hrest⟩ := List.isChain_cons_cons.1 h
    intro v hv
    obtain rfl | hv := List.mem_cons.1 hv
    · exact ⟨c, List.mem_cons_self, hac⟩
    · obtain ⟨w, hw, hvw⟩ := ih hrest v hv
      exact ⟨w, List.mem_cons_of_mem _ hw, hvw⟩

/-- A list up to the first place of an entry in it. -/
theorem takeWhile_ne_split {l : List Nat} {a : Nat} (h : a ∈ l) : ∃ tail, l = l.takeWhile (· != a) ++ a :: tail := by
  induction l with
  | nil => cases h
  | cons b l ih =>
    by_cases hb : b = a
    · exact ⟨l, by simp [hb]⟩
    · obtain ⟨tail, ht⟩ := ih (List.mem_of_ne_of_mem (Ne.symm hb) h)
      exact ⟨tail, by rw [List.takeWhile_cons_of_pos (by simpa using hb), List.cons_append, ← ht]⟩

/-- An edge leads from one stream to another. -/
def Waits (es : List Edge) (holder waiter : Nat) : Prop := ∃ e ∈ es, e.holder = holder ∧ e.waiter = waiter

/-- Every stream of a walk that closes has another of it that waits for it. -/
theorem walkCycle_waited {es : List Edge} {n : Nat} {path : List Nat} {id : Nat} (h : List.IsChain (Waits es) (id :: path)) :
    ∀ v ∈ walkCycle es n path id, ∃ w ∈ walkCycle es n path id, Waits es v w := by
  induction n generalizing path id with
  | zero => simp [walkCycle]
  | succ n ih =>
    unfold walkCycle
    split
    next hin =>
      obtain ⟨tail, hpath⟩ := takeWhile_ne_split (List.contains_iff_mem.1 hin)
      have hround : List.IsChain (Waits es) ((id :: (path.takeWhile (· != id) ++ [id])) ++ tail) := by
        rwa [List.cons_append, List.append_assoc, List.singleton_append, ← hpath]
      intro v hv
      exact isChain_next hround.left_of_append v (by simpa [or_comm] using hv)
    · split
      next e he =>
        refine ih (List.isChain_cons_cons.2 ⟨⟨e, List.mem_of_find?_eq_some he, rfl, ?_⟩, h⟩)
        simpa using List.find?_some he
      next => simp

/-- Every stream of a cycle has a stream of the cycle that waits for it. -/
theorem findCycle_waited (es : List Edge) : ∀ v ∈ findCycle es, ∃ w ∈ findCycle es, Waits es v w := by
  unfold findCycle
  split
  · simp
  next e l hl =>
    intro v hv
    obtain ⟨w, hw, f, hf, hfv⟩ := walkCycle_waited (List.isChain_singleton e.waiter) v hv
    exact ⟨w, hw, f, trimEdges_subset _ _ (hl ▸ hf), hfv⟩

theorem foldl_choice_mem {α : Type} {f : α → α → α} (hf : ∀ a b, f a b = a ∨ f a b = b) (l : List α) (a : α) :
    l.foldl f a = a ∨ l.foldl f a ∈ l := by
  induction l generalizing a with
  | nil => exact .inl rfl
  | cons b l ih =>
    rw [List.foldl_cons]
    obtain h | h := ih (f a b)
    · rw [h]
      exact (hf a b).imp id fun e => List.mem_cons.2 (.inl e)
    · exact .inr (List.mem_cons_of_mem _ h)

theorem youngest_mem (s : State) {ids : List Nat} (h : ids ≠ []) : youngest s ids ∈ ids := by
  obtain ⟨a, l, rfl⟩ := List.exists_cons_of_ne_nil h
  obtain e | hin := foldl_choice_mem (f := fun a b =>
    if ((s.stream? a).map (·.order)).getD 0 < ((s.stream? b).map (·.order)).getD 0 then b else a)
    (fun a b => (ite_eq_or_eq ..).symm) (a :: l) a
  · exact List.mem_cons.2 (.inl e)
  · exact hin

/-! ### Spills -/

/-- Blocks that are all being spilled, for a stream that waits. -/
def Hold.spillFor (winner : Nat) (h : Hold) : Hold := { h with
  spilling := h.held
  spilled := h.spilled + h.held
  winner := some winner }

/-- What a stream held on a tile is being spilled. -/
def State.spillsHold (s : State) (t v : Nat) (h : Hold) : Prop := ∃ w, s.hold? t v = some (h.spillFor w)

/-- Blocks are spilled where a stream holds some of which none is being spilled; else nothing happens. -/
theorem spillTile_cases (s : State) (t v w : Nat) :
    (spillTile s t v w = s ∧ ∀ h, s.hold? t v = some h → h.spilling ≠ 0 ∨ h.held = 0)
      ∨ (spillTile s t v w).pools = (s.setHold t v (Hold.spillFor w)).pools ∧ ∃ h, s.hold? t v = some h ∧ h.spilling = 0 := by
  unfold spillTile
  split
  next hn => exact .inl ⟨rfl, fun h hh => by rw [hn] at hh; cases hh⟩
  next h hh =>
    split
    next hbusy => exact .inl ⟨rfl, fun g hg => by rw [hh] at hg; cases hg; exact hbusy⟩
    next hfree =>
      refine .inr ⟨?_, h, hh, by omega⟩
      simp only [firstEvent_pools, bump_pools, foldl_pools, sendPacket_pools, implies_true]
      rfl

theorem spillTile_edges (s : State) (t v w : Nat) : (spillTile s t v w).fab.edges = s.fab.edges := by
  obtain ⟨h, _⟩ | ⟨h, _⟩ := spillTile_cases s t v w
  · rw [h]
  · exact (edges_of_pools h).trans rfl

theorem spillTile_contents (s : State) (t v w : Nat) : (spillTile s t v w).contents = s.contents := by
  unfold spillTile
  split
  · rfl
  · simp only [apply_ite State.contents, firstEvent_contents, bump_contents, foldl_contents, sendPacket_contents, setHold_contents,
      implies_true, ite_self]

theorem spillTile_hold?_ne {s : State} {t v w k j : Nat} (h : k ≠ t ∨ j ≠ v) : (spillTile s t v w).hold? k j = s.hold? k j := by
  obtain ⟨he, _⟩ | ⟨he, _⟩ := spillTile_cases s t v w
  · rw [he]
  · rw [hold?_of_pools he, setHold_hold?_ne h]
    exact fun _ => rfl

theorem spillTile_spills {s : State} {t v w : Nat} {h : Hold} (hh : s.hold? t v = some h) (hs : h.spilling = 0) (hb : h.held ≠ 0) :
    (spillTile s t v w).spillsHold t v h := by
  obtain ⟨_, hidle⟩ | ⟨he, _⟩ := spillTile_cases s t v w
  · exact absurd (hidle h hh) (by omega)
  · refine ⟨w, ?_⟩
    rw [hold?_of_pools he, setHold_hold?, hh, Option.map_some]
    exact fun _ => rfl

/-- Blocks that are being spilled already are left to it. -/
theorem State.spillsHold.spillTile {s : State} {k j : Nat} {h : Hold} (hs : s.spillsHold k j h) (hb : h.held ≠ 0) (t v w : Nat) :
    (spillTile s t v w).spillsHold k j h := by
  obtain ⟨win, hwin⟩ := hs
  refine ⟨win, ?_⟩
  by_cases hne : k ≠ t ∨ j ≠ v
  · rw [spillTile_hold?_ne hne, hwin]
  · obtain ⟨rfl, rfl⟩ : k = t ∧ j = v := by omega
    obtain ⟨he, _⟩ | ⟨_, g, hg, hfree⟩ := spillTile_cases s k j w
    · rw [he, hwin]
    · rw [hwin] at hg
      cases hg
      exact absurd hfree hb

section
variable {v : Nat} (win : State → Nat → Nat)

/-- The spills of one stream on several tiles. -/
def spillTiles (v : Nat) (l : List Nat) (s : State) : State := l.foldl (fun s t => spillTile s t v (win s t)) s

theorem spillTiles_edges (l : List Nat) (s : State) : (spillTiles win v l s).fab.edges = s.fab.edges := by
  induction l generalizing s with
  | nil => rfl
  | cons t l ih => exact (ih _).trans (spillTile_edges ..)

theorem spillTiles_contents (l : List Nat) (s : State) : (spillTiles win v l s).contents = s.contents :=
  foldl_contents (fun _ _ => spillTile_contents ..) l s

theorem State.spillsHold.spillTiles {s : State} {k j : Nat} {h : Hold} (hs : s.spillsHold k j h) (hb : h.held ≠ 0) (l : List Nat) :
    (spillTiles win v l s).spillsHold k j h := by
  induction l generalizing s with
  | nil => exact hs
  | cons t l ih => exact ih (hs.spillTile hb ..)

/-- The blocks on the tiles of a list are spilled, and others stay. -/
theorem spillTiles_hold? {s : State} {k j : Nat} {h : Hold} (hh : s.hold? k j = some h) (hs : h.spilling = 0) (hb : h.held ≠ 0)
    (l : List Nat) :
    (j = v ∧ k ∈ l → (spillTiles win v l s).spillsHold k j h) ∧ (¬ (j = v ∧ k ∈ l) → (spillTiles win v l s).hold? k j = some h) := by
  induction l generalizing s with
  | nil => exact ⟨fun ⟨_, hn⟩ => absurd hn List.not_mem_nil, fun _ => hh⟩
  | cons t l ih =>
    by_cases hhere : k = t ∧ j = v
    · obtain ⟨rfl, rfl⟩ := hhere
      exact ⟨fun _ => (spillTile_spills hh hs hb).spillTiles win hb l, fun hn => absurd ⟨rfl, List.mem_cons_self⟩ hn⟩
    · have hkeep : (spillTile s t v (win s t)).hold? k j = some h := by rw [spillTile_hold?_ne (by omega), hh]
      have hmem : (j = v ∧ k ∈ t :: l) ↔ (j = v ∧ k ∈ l) := by
        rw [List.mem_cons]
        exact and_congr_right fun hj => or_iff_right fun hk => hhere ⟨hk, hj⟩
      rw [hmem]
      exact ih hkeep

end

/-! ### The resolution of a cycle -/

/-- The edges on which other streams of a cycle wait for its youngest. -/
def youngestEdges (s : State) (cycle : List Nat) : List Edge :=
  s.fab.edges.filter fun e => e.holder == youngest s cycle && e.waiter != youngest s cycle && cycle.contains e.waiter

/-- The tiles of those edges. -/
def youngestTiles (s : State) (cycle : List Nat) : List Nat := (youngestEdges s cycle).foldl (fun l e => insertNew e.tile l) []

theorem mem_foldl_insertNew {α : Type} (f : α → Nat) (l : List α) (acc : List Nat) (t : Nat) :
    t ∈ l.foldl (fun l e => insertNew (f e) l) acc ↔ t ∈ acc ∨ ∃ e ∈ l, f e = t := by
  have hins (n : Nat) (acc : List Nat) : t ∈ insertNew n acc ↔ t ∈ acc ∨ n = t := by
    unfold insertNew
    split
    next h => exact ⟨.inl, fun ht => ht.elim id fun e => e ▸ List.contains_iff_mem.1 h⟩
    next => rw [List.mem_append, List.mem_singleton, eq_comm]
  induction l generalizing acc with
  | nil => simp
  | cons e l ih => exact (ih (insertNew (f e) acc)).trans (by rw [hins, or_assoc, List.exists_mem_cons_iff])

theorem mem_youngestTiles {s : State} {cycle : List Nat} {t : Nat} : t ∈ youngestTiles s cycle ↔
    ∃ e ∈ s.fab.edges, e.tile = t ∧ e.holder = youngest s cycle ∧ e.waiter ≠ youngest s cycle ∧ e.waiter ∈ cycle := by
  simp only [youngestTiles, mem_foldl_insertNew, youngestEdges, List.mem_filter, Bool.and_eq_true, beq_iff_eq, bne_iff_ne,
    List.contains_iff_mem, List.not_mem_nil, false_or]
  exact exists_congr fun e => by tauto

/-- A stream as a spill is counted at it. -/
def Stream.countSpill (x : Stream) : Stream := { x with
  spills := (x.spills + 1) % 2 ^ 32
  dirty := true }

/-- The stream whose blocks a waiting stream of a cycle is to have, on a tile: the oldest that waits there. -/
def spillWinner (es : List Edge) (s : State) (t : Nat) : Nat := oldest s ((es.filter (·.tile == t)).map (·.waiter))

/-- A cycle's youngest stream, spilled on the tiles where others of the cycle wait for it. -/
def cycleSpilled (s : State) (cycle : List Nat) : State :=
  spillTiles (spillWinner (youngestEdges s cycle)) (youngest s cycle) (youngestTiles s cycle) s

/-- A resolved cycle: its youngest stream is spilled, and the edges to it go on the tiles of that. -/
theorem resolveCycle_eq (s : State) (cycle : List Nat) : resolveCycle s cycle =
    { (cycleSpilled s cycle).setStream (youngest s cycle) Stream.countSpill with fab := { (cycleSpilled s cycle).fab with
        edges := (cycleSpilled s cycle).fab.edges.filter fun e =>
          !(e.holder == youngest s cycle && (youngestTiles s cycle).contains e.tile) } } := by
  unfold resolveCycle
  rfl

theorem resolveCycle_edges (s : State) (cycle : List Nat) : (resolveCycle s cycle).fab.edges
    = s.fab.edges.filter fun e => !(e.holder == youngest s cycle && (youngestTiles s cycle).contains e.tile) := by
  rw [resolveCycle_eq]
  exact congrArg (List.filter _) (spillTiles_edges ..)

theorem mem_resolveCycle_edges {s : State} {cycle : List Nat} {e : Edge} : e ∈ (resolveCycle s cycle).fab.edges
    ↔ e ∈ s.fab.edges ∧ ¬ (e.holder = youngest s cycle ∧ e.tile ∈ youngestTiles s cycle) := by
  rw [resolveCycle_edges, List.mem_filter, Bool.not_eq_true', ← Bool.not_eq_true, Bool.and_eq_true, beq_iff_eq, List.contains_iff_mem]

theorem countSpill_hold? (s : State) (v k j : Nat) : (s.setStream v Stream.countSpill).hold? k j = s.hold? k j := by
  rw [State.hold?, State.hold?]
  by_cases hj : j = v
  · subst hj
    rw [State.setStream_stream?]
    · cases s.stream? j <;> rfl
    · exact fun _ => rfl
  · rw [State.setStream_stream?_ne s hj]
    exact fun _ => rfl

theorem resolveCycle_hold? (s : State) (cycle : List Nat) (k j : Nat) :
    (resolveCycle s cycle).hold? k j = (cycleSpilled s cycle).hold? k j := by
  rw [resolveCycle_eq]
  exact countSpill_hold? ..

/-- A stream's number and state are as they were. -/
def stateDrift : Drift Stream := .keeps fun x => (x.id, x.state)

theorem stateDrift_open {a b : Stream} (h : stateDrift.rel a b) : b.id = a.id ∧ b.state = a.state := Prod.mk.inj h

theorem resolveCycle_quiet (s : State) (cycle : List Nat) : Quiet .any stateDrift s (resolveCycle s cycle) := by
  have hspill : Quiet .any stateDrift s (cycleSpilled s cycle) :=
    (quiet_of_contents (spillTiles_contents ..)).mono (fun _ _ _ => trivial) fun a b h =>
      Prod.ext (bareDrift_id h) (bareDrift_state h)
  have hcount : Quiet .any stateDrift _ ((cycleSpilled s cycle).setStream (youngest s cycle) Stream.countSpill) :=
    hspill.trans (setStream_quiet fun _ _ => rfl)
  rw [resolveCycle_eq]
  exact hcount.trans (.of_disp rfl rfl rfl rfl)

/-- Blocks on which an edge goes are being spilled; where none goes, blocks stay. -/
theorem resolveCycle_spills {s : State} {k j : Nat} {h : Hold} (hh : s.hold? k j = some h) (hs : h.spilling = 0) (hb : h.held ≠ 0)
    (cycle : List Nat) : (resolveCycle s cycle).spillsHold k j h
      ∨ (resolveCycle s cycle).hold? k j = some h ∧ ∀ e ∈ s.fab.edges, e.tile = k → e.holder = j → e ∈ (resolveCycle s cycle).fab.edges := by
  obtain ⟨hin, hout⟩ := spillTiles_hold? (v := youngest s cycle) (spillWinner (youngestEdges s cycle)) hh hs hb (youngestTiles s cycle)
  by_cases hspilled : j = youngest s cycle ∧ k ∈ youngestTiles s cycle
  · obtain ⟨w, hw⟩ := hin hspilled
    exact .inl ⟨w, (resolveCycle_hold? ..).trans hw⟩
  · refine .inr ⟨(resolveCycle_hold? ..).trans (hout hspilled), fun e he htile hholder => ?_⟩
    exact mem_resolveCycle_edges.2 ⟨he, fun hgone => hspilled (htile ▸ hholder ▸ hgone)⟩

theorem State.spillsHold.resolveCycle {s : State} {k j : Nat} {h : Hold} (hs : s.spillsHold k j h) (hb : h.held ≠ 0) (cycle : List Nat) :
    (resolveCycle s cycle).spillsHold k j h := by
  obtain ⟨w, hw⟩ := hs.spillTiles (v := youngest s cycle) (spillWinner (youngestEdges s cycle)) hb (youngestTiles s cycle)
  exact ⟨w, (resolveCycle_hold? ..).trans hw⟩

/-- No stream waits for itself. -/
def NoLoops (es : List Edge) : Prop := ∀ e ∈ es, e.waiter ≠ e.holder

/-- A cycle that is found has an edge to its youngest, and so fewer edges are left. -/
theorem resolveCycle_shorter {s : State} (hloops : NoLoops s.fab.edges) (hc : findCycle s.fab.edges ≠ []) :
    (resolveCycle s (findCycle s.fab.edges)).fab.edges.length < s.fab.edges.length := by
  obtain ⟨w, hw, e, he, hholder, hwaiter⟩ := findCycle_waited s.fab.edges _ (youngest_mem s hc)
  have htile : e.tile ∈ youngestTiles s (findCycle s.fab.edges) :=
    mem_youngestTiles.2 ⟨e, he, rfl, hholder, hholder ▸ hloops e he, hwaiter ▸ hw⟩
  rw [resolveCycle_edges]
  refine List.length_filter_lt_length_iff_exists.2 ⟨e, he, ?_⟩
  simpa [hholder] using htile

/-! ### WAIT_GRAPH_CHECK -/

theorem resolveAll_acyclic {n : Nat} {s : State} (h : findCycle s.fab.edges = []) : resolveAll n s = s := by
  cases n with
  | zero => rfl
  | succ n => simp only [resolveAll, h]

theorem resolveAll_cyclic {n : Nat} {s : State} (h : findCycle s.fab.edges ≠ []) :
    resolveAll (n + 1) s = resolveAll n (resolveCycle s (findCycle s.fab.edges)) := by
  rw [resolveAll]
  split
  next e => exact absurd e h
  next => rfl

theorem resolveAll_edges (n : Nat) (s : State) : (resolveAll n s).fab.edges.Sublist s.fab.edges := by
  induction n generalizing s with
  | zero => exact .refl _
  | succ n ih =>
    by_cases hc : findCycle s.fab.edges = []
    · rw [resolveAll_acyclic hc]
    · rw [resolveAll_cyclic hc]
      refine (ih _).trans ?_
      rw [resolveCycle_edges]
      exact List.filter_sublist

theorem resolveAll_quiet (n : Nat) (s : State) : Quiet .any stateDrift s (resolveAll n s) := by
  induction n generalizing s with
  | zero => exact .refl
  | succ n ih =>
    by_cases hc : findCycle s.fab.edges = []
    · rw [resolveAll_acyclic hc]
      exact .refl
    · rw [resolveAll_cyclic hc]
      exact (resolveCycle_quiet ..).trans (ih _)

/-- As many cycles as there are edges are resolved, and none is left. -/
theorem resolveAll_findCycle {n : Nat} {s : State} (hloops : NoLoops s.fab.edges) (hn : s.fab.edges.length ≤ n) :
    findCycle (resolveAll n s).fab.edges = [] := by
  induction n generalizing s with
  | zero => rw [resolveAll, List.length_eq_zero_iff.1 (Nat.le_zero.1 hn)]; rfl
  | succ n ih =>
    by_cases hc : findCycle s.fab.edges = []
    · rw [resolveAll_acyclic hc, hc]
    · rw [resolveAll_cyclic hc]
      have hless := resolveCycle_shorter hloops hc
      exact ih (fun e he => hloops e (mem_resolveCycle_edges.1 he).1) (by omega)

theorem State.spillsHold.resolveAll {n : Nat} {s : State} {k j : Nat} {h : Hold} (hs : s.spillsHold k j h) (hb : h.held ≠ 0) :
    (resolveAll n s).spillsHold k j h := by
  induction n generalizing s with
  | zero => exact hs
  | succ n ih =>
    by_cases hc : findCycle s.fab.edges = []
    · rw [resolveAll_acyclic hc]
      exact hs
    · rw [resolveAll_cyclic hc]
      exact ih (hs.resolveCycle hb _)

/-- Where an edge has gone, the blocks that it was for are being spilled. -/
theorem resolveAll_spills {n : Nat} {s : State} {e : Edge} (he : e ∈ s.fab.edges) (hgone : e ∉ (resolveAll n s).fab.edges) {h : Hold}
    (hh : s.hold? e.tile e.holder = some h) (hs : h.spilling = 0) (hb : h.held ≠ 0) : (resolveAll n s).spillsHold e.tile e.holder h := by
  induction n generalizing s with
  | zero => exact absurd he hgone
  | succ n ih =>
    by_cases hc : findCycle s.fab.edges = []
    · rw [resolveAll_acyclic hc] at hgone
      exact absurd he hgone
    · rw [resolveAll_cyclic hc] at hgone ⊢
      obtain hspills | ⟨hkept, hedges⟩ := resolveCycle_spills hh hs hb (findCycle s.fab.edges)
      · exact hspills.resolveAll hb
      · exact ih (hedges e he rfl rfl) hgone hkept

theorem Frame.streamState {Q : Drift SlotState} {s t : State} (h : Frame Q stateDrift s t) (id : Nat) :
    t.streamState id = s.streamState id := by
  have hrel : Option.Rel stateDrift.rel (s.open? id) (t.open? id) := forall₂_find? h.streams fun a b hab => by
    rw [(stateDrift_open hab).1, (stateDrift_open hab).2]
  rw [State.streamState, State.streamState]
  generalize s.open? id = a at hrel ⊢
  generalize t.open? id = b at hrel ⊢
  cases hrel with
  | none => rfl
  | some hab => exact (stateDrift_open hab).2

/-- Settles O50: every stream of a cycle has one of it that waits for it, so that each resolution takes an edge away. -/
theorem waitCyclesAreResolved : Obligations.WaitCyclesAreResolved := by
  intro s _ hloops
  have hquiet := resolveAll_quiet s.fab.edges.length s
  refine ⟨fun hc => congrArg Host.Outcome.next (resolveAll_acyclic hc), _, rfl, resolveAll_findCycle hloops le_rfl,
    resolveAll_edges .., hquiet.mem, hquiet.fuses, hquiet.streamState, fun e he hwaiter hholder hc => ?_, fun e he hgone h hh hs hb => ?_⟩
  · obtain ⟨n, hn⟩ := Nat.exists_eq_succ_of_ne_zero (List.length_pos_of_mem he).ne'
    rw [hn, Nat.succ_eq_add_one, resolveAll_cyclic hc]
    intro hin
    refine (mem_resolveCycle_edges.1 ((resolveAll_edges n _).subset hin)).2 ⟨hholder, ?_⟩
    exact mem_youngestTiles.2 ⟨e, he, rfl, hholder, hholder ▸ hloops e he, hwaiter⟩
  · obtain ⟨w, hw⟩ := resolveAll_spills he hgone hh hs hb
    exact ⟨_, hw, rfl, rfl⟩

end Sys2Proof.Machine
end

section
/-! PROOFS. O51 fails: a packet may have more entries for receive buffers than hops on its route, and a flit counted in such an
entry leaves without freeing an entry of any hop (R353). -/

namespace Sys2Proof.Machine

/-- A packet of one flit whose route is hop 0 alone, and whose flit is counted for a second hop that the route does not have. -/
def strayPacket : Packet where
  of := .wake 5
  lane := laneReq
  route := [0]
  left := 0
  at_ := [0, 1]

/-- The part at reset with a stray packet on its fabric. -/
def strayState : State := { State.reset with fab := { State.reset.fab with packets := [strayPacket] } }

/-- Neither the stores nor the sizes of the part's arrays speak of packets. -/
theorem strayState_sound : strayState.sound = true := reset_sound

/-- No flit stands in the buffer of hop 1 before. -/
theorem strayState_laneUsed : laneUsed strayState 1 laneReq = 0 := by decide

/-- The stray flit is taken for one of hop 1, and its packet for one that has arrived. -/
theorem strayState_leaveFirst : leaveFirst strayState 1 laneReq strayState.fab.packets = some ([], none, some (.wake 5)) := by decide

/-- Refutes O51: in a state with a stray packet, a credit returned for lane 0 of hop 1 frees no entry there, since none was in use.
The clause of lanes wants that every packet has as many entries as hops, which `sound` does not say. -/
theorem not_fetchAndStepsOnTiles : ¬ Obligations.FetchAndStepsOnTiles := by
  unfold Obligations.FetchAndStepsOnTiles
  rintro ⟨_, _, _, hlanes, _⟩
  have hroutes : ∀ p ∈ strayState.fab.packets, p.route.Nodup := fun p hp => by
    rw [List.mem_singleton.1 hp]
    exact List.nodup_singleton 0
  obtain ⟨t, _, hfrees⟩ := (hlanes 1 laneReq 0 strayState strayState_sound).2 [] none _ (by decide) (by decide) (by decide) hroutes
    strayState_leaveFirst rfl
  rw [strayState_laneUsed] at hfrees
  exact Nat.succ_ne_zero _ hfrees

end Sys2Proof.Machine
end

section
/-! PROOFS. What the working of a window leaves as it was (chapters 5 and 6): the commands at every engine, the fuses and the other
streams, and memory unless a row is made hot; how commands held for an engine enter its queue (R66); and what the drain of a table's
old version leaves of the directory (R176). -/

namespace Sys2Proof.Machine

/-! ### Entries of a list by a key -/

/-- The first entry of a key, when every entry of that key has been changed. -/
theorem find?_map_key {α : Type} (key : α → Nat) {f : α → α} (hf : ∀ a, key (f a) = key a) (l : List α) (n : Nat) :
    (l.map fun a => if key a = n then f a else a).find? (key · == n) = (l.find? (key · == n)).map f := by
  induction l with
  | nil => rfl
  | cons a l ih =>
    by_cases ha : key a = n
    · simp [ha, hf]
    · simp [ha, ih]

theorem modifyAt_map {α β : Type} {p : α → β} {f : α → α} (hf : ∀ a, p (f a) = p a) (l : List α) (n : Nat) :
    (modifyAt l n f).map p = l.map p := by
  induction l generalizing n with
  | nil => rfl
  | cons a l ih =>
    cases n with
    | zero => exact congrArg (· :: l.map p) (hf a)
    | succ n => exact congrArg (p a :: ·) (ih n)

theorem State.setTable_table? (s : State) (id : Nat) {f : TableEnt → TableEnt} (hf : ∀ e, (f e).id = e.id) :
    (s.setTable id f).table? id = (s.table? id).map f := find?_map_key TableEnt.id hf s.tables.dirs id

theorem State.setBatch_batch?_map (s : State) (id idx : Nat) {f : Batch → Batch} (hf : ∀ b, (f b).idx = b.idx) :
    (s.setBatch id idx f).batch? id idx = (s.batch? id idx).map f := by
  cases hx : s.stream? id with
  | none =>
    have hnone : (s.setBatch id idx f).stream? id = none :=
      (State.setStream_stream? s id fun _ => by rfl).trans (by rw [hx, Option.map_none])
    rw [State.batch?, State.batch?, hx, hnone, Option.bind_none, Option.map_none]
  | some x => rw [State.batch?_eq (setBatch_stream? hx idx f), State.batch?_eq hx, find?_map_key Batch.idx hf]

/-! ### Commands of an engine (R66, R138) -/

/-- The commands of an engine: in its queue, held for it, and with their responses on their way. -/
def Culv.commands (c : Culv) : List Window × List Window × List Window := (c.queue, c.held, c.back)

/-- Commands that enter the queue leave those held for it, and no response is touched. -/
theorem admitWindows_moves (kept l : List Window) (c : Culv) : (admitWindows kept l c).back = c.back
    ∧ (admitWindows kept l c).queue.length + (admitWindows kept l c).held.length = c.queue.length + (kept.length + l.length) := by
  induction l generalizing kept c with
  | nil => exact ⟨rfl, rfl⟩
  | cons w l ih =>
    rw [admitWindows]
    split
    · obtain ⟨hback, hlength⟩ := ih kept { c with queue := c.queue ++ [w] }
      refine ⟨hback, hlength.trans ?_⟩
      simp only [List.length_append, List.length_cons, List.length_nil]
      omega
    · obtain ⟨hback, hlength⟩ := ih (kept ++ [w]) c
      refine ⟨hback, hlength.trans ?_⟩
      simp only [List.length_append, List.length_cons, List.length_nil]
      omega

theorem Culv.letIn_back (c : Culv) : c.letIn.back = c.back := (admitWindows_moves [] c.held c).1

theorem Culv.letIn_length (c : Culv) : c.letIn.queue.length + c.letIn.held.length = c.queue.length + c.held.length := by
  simpa [Culv.letIn] using (admitWindows_moves [] c.held c).2

/-- The command whose turn it is stands in the queue. -/
theorem nextWindow_mem {c : Culv} {share : Nat} {w : Window} (h : nextWindow c share = some w) : w ∈ c.queue := by
  have front {l : List Nat} (hw : w ∈ l.filterMap fun p => c.queue.find? (·.page == p)) : w ∈ c.queue := by
    obtain ⟨p, _, hp⟩ := List.mem_filterMap.1 hw
    exact List.mem_of_find?_eq_some hp
  simp only [nextWindow] at h
  split at h
  · rename_i v hv
    cases h
    exact front (List.mem_of_find?_eq_some hv)
  · exact front (List.mem_of_mem_head? h)

/-! ### What the working of a window leaves -/

/-- A window of stream id has been worked: the commands at every engine, the fuses and the other streams are as they were; and where
no row is made hot and the host cores' cache is clean, so is memory. -/
structure Worked (id : Nat) (still : Prop) (s t : State) : Prop where
  commands : t.tables.culvs.map Culv.commands = s.tables.culvs.map Culv.commands
  fuses : t.fuses = s.fuses
  others : OthersKept s t id
  clean : still → s.clean = true → t.clean = true
  mem : still → s.clean = true → t.mem = s.mem

section
variable {id : Nat} {still : Prop}

theorem Worked.refl (s : State) : Worked id still s s := ⟨rfl, rfl, fun _ _ => rfl, fun _ h => h, fun _ _ => rfl⟩

theorem Worked.trans {s t u : State} (h : Worked id still s t) (g : Worked id still t u) : Worked id still s u where
  commands := g.commands.trans h.commands
  fuses := g.fuses.trans h.fuses
  others := h.others.trans g.others
  clean hp hc := g.clean hp (h.clean hp hc)
  mem hp hc := (g.mem hp (h.clean hp hc)).trans (h.mem hp hc)

theorem foldl_worked {α : Type} {f : State → α → State} (hf : ∀ s a, Worked id still s (f s a)) (l : List α) (s : State) :
    Worked id still s (l.foldl f s) := by
  induction l generalizing s with
  | nil => exact .refl s
  | cons a l ih => exact (hf s a).trans (ih _)

theorem Reads.worked {s t : State} (h : Reads s t) : Worked id still s t where
  commands := by rw [h.tables]
  fuses := h.fuses
  others := othersKept_of_streams (congrArg Disp.streams h.disp) id
  clean _ := h.clean
  mem _ := h.mem

theorem Access.worked {s t : State} (hstill : ¬ still) (h : Access s t) : Worked id still s t where
  commands := by rw [h.tables]
  fuses := h.fuses
  others := othersKept_of_streams (congrArg Disp.streams h.disp) id
  clean hp := absurd hp hstill
  mem hp := absurd hp hstill

theorem bump_worked (s : State) (k n : Nat) : Worked id still s (bump s k n) := (bump_reads s k n).worked

/-- The free value that a window takes its order of sums from. -/
theorem freeCtr_worked (s : State) (n : Nat) : Worked id still s { s with freeCtr := n } :=
  ⟨rfl, rfl, fun _ _ => rfl, fun _ h => h, fun _ _ => rfl⟩

theorem setCulv_worked (s : State) (k : Nat) {f : Culv → Culv} (hf : ∀ c, (f c).commands = c.commands) :
    Worked id still s (s.setCulv k f) where
  commands := modifyAt_map hf s.tables.culvs k
  fuses := rfl
  others _ _ := rfl
  clean _ h := h
  mem _ _ := rfl

theorem setBatch_worked (s : State) (idx : Nat) (f : Batch → Batch) : Worked id still s (s.setBatch id idx f) where
  commands := rfl
  fuses := rfl
  others := setBatch_othersKept s id idx f
  clean _ h := h
  mem _ _ := rfl

theorem setRun_worked (s : State) (idx i : Nat) (f : StageRun → StageRun) : Worked id still s (s.setRun id idx i f) :=
  setBatch_worked s idx _

theorem failRun_worked (s : State) (idx i status : Nat) : Worked id still s (failRun s id idx i status) := setRun_worked s idx i _

theorem charge_worked (s : State) (slot hbm fen : Nat) : Worked id still s (charge s slot hbm fen) :=
  ⟨rfl, rfl, fun _ _ => rfl, fun _ h => h, fun _ _ => rfl⟩

/-! ### Rows that are made hot (R156 to R159) -/

/-- Positions that find no room are counted. -/
theorem placeReplicas_reads (k grans : Nat) (ps : List (Nat × Option Nat)) (n : Nat) (l : List Replica) (s : State) :
    Reads s (placeReplicas k grans ps n l s).1 := by
  induction ps generalizing l s with
  | nil => exact .refl s
  | cons p t ih =>
    unfold placeReplicas
    split
    · exact .refl s
    · split
      · exact ih ..
      · dsimp only
        split
        · exact ih ..
        · exact (bump_reads ..).trans (ih ..)

theorem foldl_access {α : Type} {f : State → α → State} (hf : ∀ s a, Access s (f s a)) (l : List α) (s : State) :
    Access s (l.foldl f s) := by
  induction l generalizing s with
  | nil => exact .refl s
  | cons a l ih => exact (hf s a).trans (ih _)

theorem fillReplicas_access (s : State) (addr bytes : Nat) (new : List Replica) : Access s (fillReplicas s addr bytes new).1 := by
  have h := (devRead_reads s addr bytes).toAccess
  unfold fillReplicas
  split <;> rename_i e <;> rw [e] at h
  · refine h.trans (foldl_access (fun s r => ?_) new _)
    exact devWrite_access ..
  · exact h

theorem planReplicas_worked (hstill : ¬ still) (s : State) (k table row n : Nat) :
    Worked id still s (planReplicas s k table row n) := by
  unfold planReplicas
  split
  · rename_i h addr bytes _ _
    split
    · exact setCulv_worked s k fun _ => rfl
    · split
      · have hplace := (placeReplicas_reads k (ceilDiv bytes 256) (placements k) n h.planned s).worked (id := id) (still := still)
        generalize placeReplicas k (ceilDiv bytes 256) (placements k) n h.planned s = placed at hplace ⊢
        obtain ⟨u, all⟩ := placed
        dsimp only at hplace ⊢
        have hfill := (fillReplicas_access u addr bytes (all.filter fun r => !h.planned.contains r)).worked (id := id) hstill
        generalize fillReplicas u addr bytes (all.filter fun r => !h.planned.contains r) = filled at hfill ⊢
        obtain ⟨v, good⟩ := filled
        split
        · exact hplace
        · refine hplace.trans (hfill.trans ?_)
          dsimp only
          split
          · refine (bump_worked v _ _).trans (setCulv_worked _ k fun _ => ?_)
            rfl
          · exact .refl v
      · exact .refl s
  · exact .refl s

theorem makeHot_worked (hstill : ¬ still) (s : State) (k table row est : Nat) : Worked id still s (makeHot s k table row est) :=
  (setCulv_worked s k fun _ => by rfl).trans (planReplicas_worked hstill ..)

/-- A row of a window counted, and the candidate it may make. -/
def heatRow (k table slot : Nat) (p : State × List Nat) (r : Nat × Nat) : State × List Nat :=
  let s := p.1.setCulv k fun c => { c with sketch := addHeat c.sketch slot r.1 r.2 }
  let c := s.culv k
  if hotEn s k ∧ ¬ quiescing s ∧ hotThresh s k ≤ estimateOf c.sketch slot r.1 ∧ (c.hotRow table r.1).isNone then
    (if p.2.length < 16 ∧ c.hot.length + p.2.length < 1024 then (s, p.2 ++ [r.1]) else (bump s (pgCulv k + 0x4C0) 1, p.2))
  else (s, p.2)

theorem heatWindow_untracked {s : State} {k table : Nat} (h : (s.culv k).slotOf table = none) (rows : List (Nat × Nat)) :
    heatWindow s k table rows = s := by simp only [heatWindow, h]

theorem heatWindow_tracked {s : State} {k table slot : Nat} (h : (s.culv k).slotOf table = some slot) (rows : List (Nat × Nat)) :
    heatWindow s k table rows = (rows.foldl (heatRow k table slot) (s, [])).2.foldl
      (fun s row => makeHot s k table row (estimateOf (s.culv k).sketch slot row)) (rows.foldl (heatRow k table slot) (s, [])).1 := by
  simp only [heatWindow, h]
  rfl

theorem heatRow_worked (k table slot : Nat) (p : State × List Nat) (r : Nat × Nat) :
    Worked id still p.1 (heatRow k table slot p r).1 := by
  have hculv : Worked id still p.1 (p.1.setCulv k fun c => { c with sketch := addHeat c.sketch slot r.1 r.2 }) :=
    setCulv_worked p.1 k fun _ => rfl
  simp only [heatRow]
  split
  · split
    · exact hculv
    · refine hculv.trans ?_
      dsimp only
      exact bump_worked ..
  · exact hculv

/-- An engine that makes no hot row has no candidates (R178). -/
theorem heatRows_cold {k : Nat} (table slot : Nat) (rows : List (Nat × Nat)) {s : State} (h : hotEn s k = false) (l : List Nat) :
    (rows.foldl (heatRow k table slot) (s, l)).2 = l := by
  induction rows generalizing s with
  | nil => rfl
  | cons r rows ih =>
    have hculv : hotEn (s.setCulv k fun c => { c with sketch := addHeat c.sketch slot r.1 r.2 }) k = false := h
    have hrow : heatRow k table slot (s, l) r = (s.setCulv k fun c => { c with sketch := addHeat c.sketch slot r.1 r.2 }, l) :=
      if_neg fun hot => Bool.false_ne_true (hculv.symm.trans hot.1)
    rw [List.foldl_cons, hrow]
    exact ih hculv

theorem heatWindow_worked {s : State} {k : Nat} (hcold : still → hotEn s k = false) (table : Nat) (rows : List (Nat × Nat)) :
    Worked id still s (heatWindow s k table rows) := by
  cases hslot : (s.culv k).slotOf table with
  | none => rw [heatWindow_untracked hslot]; exact .refl s
  | some slot =>
    have hrows : Worked id still s (rows.foldl (heatRow k table slot) (s, [])).1 :=
      foldl_frame Worked.refl Worked.trans _ (heatRow_worked k table slot) rows (s, [])
    rw [heatWindow_tracked hslot]
    by_cases hstill : still
    · rw [heatRows_cold table slot rows (hcold hstill) [], List.foldl_nil]
      exact hrows
    · exact hrows.trans (foldl_worked (fun s row => makeHot_worked hstill s k table row _) _ _)

/-! ### A window of rows (R137 to R144) -/

theorem noteCulv_worked (s : State) (k status table stream pos : Nat) : Worked id still s (noteCulv s k status table stream pos) :=
  (firstEvent_reads ..).worked

theorem dropReplica_worked (s : State) (k table row addr : Nat) : Worked id still s (dropReplica s k table row addr) := by
  unfold dropReplica
  split
  · split
    · exact setCulv_worked s k fun _ => rfl
    · exact .refl s
  · exact .refl s

theorem readCopy_worked (s : State) (t : TRec) (row home src : Nat) : Worked id still s (readCopy s t row home src).1 := by
  unfold readCopy
  split
  · exact (devRead_reads ..).worked
  · have h := (devRead_reads s src (t.sizeOf row)).worked (id := id) (still := still)
    split <;> rename_i e <;> rw [e] at h
    · exact h
    · exact h.trans ((dropReplica_worked ..).trans (devRead_reads ..).worked)

theorem readRows_worked (s : State) (t : TRec) (es : List WinEntry) : Worked id still s (readRows s t es).1 := by
  unfold readRows
  refine foldl_frame Worked.refl Worked.trans _ (fun r q => ?_) (rowsToRead es) (s, (.ok [] : Except (MemErr × Nat) _))
  split
  · exact .refl _
  · have h := readCopy_worked (id := id) (still := still) r.1 t q.1 q.2.1 q.2.2.1
    split <;> rename_i e <;> rw [e] at h <;> exact h

end

section
variable {still : Prop} {w : Window}

theorem skipFails_worked {s t : State} {k : Nat} (h : skipFails s w k = some t) : Worked w.stream still s t := by
  simp only [skipFails] at h
  split at h
  · split at h
    · cases h
      exact (noteCulv_worked ..).trans (failRun_worked ..)
    · cases h
  · cases h

/-- A window that is counted where a register says so. -/
theorem heatWindow_ite_worked {s : State} {k : Nat} (hcold : still → hotEn s k = false) (p : Prop) [Decidable p] (table : Nat)
    (rows : List (Nat × Nat)) : Worked w.stream still s (if p then heatWindow s k table rows else s) := by
  split
  · exact heatWindow_worked hcold table rows
  · exact .refl s

theorem lookWindow_worked {s : State} {k : Nat} (hcold : still → hotEn s k = false) (engine : Bool) :
    Worked w.stream still s (lookWindow s w k engine) := by
  unfold lookWindow
  extract_lets t good seed u v whole own
  have hcold' : still → hotEn u k = false := hcold
  refine Worked.trans (t := u) (freeCtr_worked s _) ?_
  split
  · rename_i hskip
    exact skipFails_worked hskip
  · have hheat := heatWindow_ite_worked (w := w) hcold' (engine = true) t.id (heatOf u k w)
    refine Worked.trans (t := v) hheat ?_
    have hread := readRows_worked (id := w.stream) (still := still) v t good
    split <;> rename_i e <;> rw [e] at hread
    · exact hread.trans ((noteCulv_worked ..).trans (failRun_worked ..))
    · refine hread.trans ?_
      extract_lets rows cs ls a
      refine Worked.trans (t := a) ?_ (setRun_worked ..)
      simp only [a]
      split
      · exact .refl _
      · exact bump_worked ..

theorem stageSpace_worked (s : State) (k bytes : Nat) : Worked w.stream still s (stageSpace s w k bytes) := by
  simp only [stageSpace]
  split
  · exact (charge_worked ..).trans (setBatch_worked ..)
  · exact (noteCulv_worked ..).trans (failRun_worked ..)

theorem updateWindow_worked {s : State} {k : Nat} (hcold : still → hotEn s k = false) :
    Worked w.stream still s (updateWindow s w k) := by
  unfold updateWindow
  extract_lets t good seed u
  have hcold' : still → hotEn u k = false := hcold
  refine Worked.trans (t := u) (freeCtr_worked s _) ?_
  split
  · rename_i hskip
    exact skipFails_worked hskip
  · exact (heatWindow_ite_worked hcold' _ t.id (heatOf u k w)).trans ((stageSpace_worked ..).trans (setRun_worked ..))

/-- Whatever a command is, no more than its stream and what its rows make hot changes. -/
theorem runWindow_worked {s : State} {k : Nat} (hcold : still → hotEn s k = false) : Worked w.stream still s (runWindow s k w) := by
  unfold runWindow
  split
  · exact lookWindow_worked hcold true
  · exact updateWindow_worked hcold
  · exact updateWindow_worked hcold
  · exact .refl s
  · exact .refl s

end

/-! ### The counts of a window (R153, R154) -/

/-- A count leaves the other registers. -/
theorem bump_reg_other {s : State} (hwf : cellsWf regReset s.regs = true) {k j : Nat} (hj : j ≠ k) (n : Nat) :
    (bump s k n).reg j = s.reg j := by
  rcases bump_cases s k n with h | ⟨c, v, h⟩ <;> rw [h]
  exact State.setReg_reg_other { s with freeCtr := c } k j v hwf hj

/-- A state follows by counts that leave HOT_CFG of an engine. -/
structure Counts (k : Nat) (s t : State) : Prop extends Reads s t where
  hot : s.storesOk = true → hotEn t k = hotEn s k

theorem Counts.trans {k : Nat} {s t u : State} (h : Counts k s t) (g : Counts k t u) : Counts k s u :=
  ⟨h.toReads.trans g.toReads, fun hs => (g.hot (h.stores hs)).trans (h.hot hs)⟩

theorem bump_counts (s : State) (k n : Nat) {off : Nat} (hoff : 0x480 ≠ off) : Counts k s (bump s (pgCulv k + off) n) where
  toReads := bump_reads ..
  hot hs := by
    have hreg := bump_reg_other (storesOk_regs hs) (k := pgCulv k + off) (j := pgCulv k + 0x480) (by omega) n
    simp only [hotEn, State.rfld, hreg]

theorem countWindow_counts (s : State) (k : Nat) (w : Window) : Counts k s (countWindow s k w) := by
  have add (s : State) (off n : Nat) (hoff : 0x480 ≠ off) : Counts k s (if n = 0 then s else bump s (pgCulv k + off) n) := by
    split
    · exact ⟨.refl s, fun _ => rfl⟩
    · exact bump_counts s k n hoff
  have free (s : State) : Counts k s (takeFreeBits s 48).1 := ⟨takeFreeBits_reads s 48, fun _ => rfl⟩
  unfold countWindow
  extract_lets good u step v
  have hv : Counts k s v :=
    (((add _ _ _ (by decide)).trans (add _ _ _ (by decide))).trans (add _ _ _ (by decide))).trans (add _ _ _ (by decide))
  exact hv.trans ((free v).trans (bump_counts _ _ _ (by decide)))

/-! ### A command of an engine's queue (R138) -/

/-- What a command that is worked leaves of its engine: it has left the queue, and its response is on its way. -/
theorem culvertWindow_cases {s : State} {k : Nat} {w : Window} (hw : nextWindow (s.culv k) (s.rfld (pgCulv k + 0x440) 3 0) = some w) :
    ∃ u, culvertWindow s k = u.setCulv k (fun c => ({ c with back := c.back ++ [w] }).letIn)
      ∧ (s.storesOk = true → Worked w.stream (hotEn s k = false) (s.setCulv k fun c => startWindow c w) u) := by
  refine ⟨runWindow (countWindow (s.setCulv k fun c => startWindow c w) k w) k w, by simp only [culvertWindow, hw], fun hs => ?_⟩
  have hcounts := countWindow_counts (s.setCulv k fun c => startWindow c w) k w
  refine hcounts.toReads.worked.trans (runWindow_worked fun hcold => ?_)
  rw [hcounts.hot hs]
  exact hcold

theorem Worked.culv_commands {id : Nat} {still : Prop} {s t : State} (h : Worked id still s t) (k : Nat) :
    (t.culv k).commands = (s.culv k).commands := by
  have hget := congrArg (fun l => l.getD k (Culv.commands {})) h.commands
  simpa only [State.culv, List.getD_map] using hget

theorem State.setCulv_culv_self {s : State} {k : Nat} (h : k < s.tables.culvs.length) (f : Culv → Culv) :
    (s.setCulv k f).culv k = f (s.culv k) := modifyAt_getD_self h f {}

theorem sound_culvs {s : State} (h : s.sound = true) : s.tables.culvs.length = 12 := by
  have hz := (sizesOk_iff s).1 (Bool.and_eq_true_iff.1 h).2
  simp only [State.sizes, partSizes, List.cons.injEq] at hz
  tauto

theorem culvertWindow_works {s : State} {k : Nat} {w : Window} (hs : s.sound = true) (hk : k < 12)
    (hw : nextWindow (s.culv k) (s.rfld (pgCulv k + 0x440) 3 0) = some w) :
    ((culvertWindow s k).culv k).back = (s.culv k).back ++ [w]
      ∧ ((culvertWindow s k).culv k).queue.length + ((culvertWindow s k).culv k).held.length + 1
        = (s.culv k).queue.length + (s.culv k).held.length
      ∧ OthersKept s (culvertWindow s k) w.stream ∧ (culvertWindow s k).fuses = s.fuses
      ∧ (s.clean = true → hotEn s k = false → (culvertWindow s k).mem = s.mem) := by
  obtain ⟨u, heq, hworked⟩ := culvertWindow_cases hw
  replace hworked := hworked (sound_storesOk hs)
  have hlen : k < s.tables.culvs.length := (sound_culvs hs).symm ▸ hk
  have hu : k < u.tables.culvs.length := by
    have := congrArg List.length hworked.commands
    simp only [List.length_map, State.setCulv, modifyAt_length] at this
    omega
  have hcommands := hworked.culv_commands k
  rw [State.setCulv_culv_self hlen] at hcommands
  obtain ⟨hqueue, hheld, hback⟩ : (u.culv k).queue = (s.culv k).queue.eraseP (· == w) ∧ (u.culv k).held = (s.culv k).held
      ∧ (u.culv k).back = (s.culv k).back := by
    simpa only [Culv.commands, startWindow, Prod.mk.injEq] using hcommands
  have herase : (u.culv k).queue.length + 1 = (s.culv k).queue.length := by
    have hmem := nextWindow_mem hw
    rw [hqueue, List.length_eraseP_of_mem hmem (by simp)]
    have := List.length_pos_of_mem hmem
    omega
  rw [heq, State.setCulv_culv_self hu, Culv.letIn_back, Culv.letIn_length, hback, hheld]
  refine ⟨rfl, ?_, hworked.others, hworked.fuses, fun hc hcold => hworked.mem hcold hc⟩
  dsimp only
  omega

/-! ### The reservation and the target of a switch (R175) -/

theorem switchReservation_takes {s : State} {table : Nat} {e : TableEnt} {w : Nat × Nat × Nat} (he : s.table? table = some e)
    (hw : firstWaiter (switchWaiters s table) = some w) (hfree : e.reserved = none) :
    switchReservation s table = s.setTable table fun e => { e with reserved := some (w.2.1, w.2.2) } := by
  simp only [switchReservation, he, hw, hfree, Option.isNone_none, if_true]

theorem switchReservation_held {s : State} {table : Nat} {e : TableEnt} (he : s.table? table = some e) (hheld : e.reserved ≠ none) :
    switchReservation s table = s := by
  have hnone : e.reserved.isNone = false := Option.isNone_eq_false_iff.2 (Option.isSome_iff_ne_none.2 hheld)
  simp only [switchReservation, he]
  split
  · rename_i h _
    cases h
    simp [hnone]
  · rfl

/-- The TABLE_SWITCH stages of a batch for a table may finish. -/
def Batch.switchReady (s : State) (table stream : Nat) (b : Batch) : Batch := { b with
  runs := b.runs.map fun r =>
    if stOp (stageRec s stream r.ix) = 0x0203 ∧ switchTable s stream r.ix = table then { r with arrived := true } else r }

theorem Batch.switchReady_arrived {s : State} {table stream : Nat} {b : Batch} {r : StageRun}
    (hr : r ∈ (b.switchReady s table stream).runs) (hop : stOp (stageRec s stream r.ix) = 0x0203)
    (htable : switchTable s stream r.ix = table) : r.arrived = true := by
  obtain ⟨q, _, rfl⟩ := List.mem_map.1 hr
  by_cases hq : stOp (stageRec s stream q.ix) = 0x0203 ∧ switchTable s stream q.ix = table
  · rw [if_pos hq]
  · rw [if_neg hq] at hop htable
    exact absurd ⟨hop, htable⟩ hq

theorem switchTargetReady_cases {s : State} {table : Nat} {e : TableEnt} {w : Nat × Nat} (he : s.table? table = some e)
    (hw : e.reserved = some w) : switchTargetReady s table
      = if targetFree s e w then s.setBatch w.1 w.2 (Batch.switchReady s table w.1) else s := by
  simp only [switchTargetReady, he, hw]
  rfl

/-! ### The drain of an old version (R176) -/

/-- What drain work leaves as it was: the directory, the dispatcher and the fuses. -/
def State.registry (s : State) : List TableEnt × Disp × Fuses := (s.tables.dirs, s.disp, s.fuses)

theorem Access.registry {s t : State} (h : Access s t) : t.registry = s.registry := by
  simp only [State.registry, h.tables, h.disp, h.fuses]

theorem foldl_registry {α : Type} {f : State → α → State} (hf : ∀ s a, (f s a).registry = s.registry) (l : List α) (s : State) :
    (l.foldl f s).registry = s.registry := by
  induction l generalizing s with
  | nil => rfl
  | cons a l ih => exact (ih _).trans (hf s a)

theorem freeSlotAt_access (s : State) (r : Replica) : Access s (freeSlotAt s r) := by
  unfold freeSlotAt
  split
  · exact devDiscard_access ..
  · exact .refl s

theorem freeLeaving_registry (s : State) (k : Nat) (p : Leaving → Bool) : (freeLeaving s k p).registry = s.registry := by
  have culv : (s.setCulv k fun c => { c with leaving := c.leaving.filter fun l => !(p l) }).registry = s.registry := rfl
  simp only [freeLeaving, apply_ite State.registry, (bump_reads ..).toAccess.registry,
    foldl_registry (fun s r => (freeSlotAt_access s r).registry), culv, ite_self]

theorem noteCulv_registry (s : State) (k status table stream pos : Nat) :
    (noteCulv s k status table stream pos).registry = s.registry := (firstEvent_reads ..).toAccess.registry

/-- A version whose pins are gone and whose epochs have drained leaves the list of those to drain, and nothing else of the directory
changes. -/
theorem versionDrain_cases {s : State} {table : Nat} {e : TableEnt} {d : Drain} (he : s.table? table = some e)
    (hd : e.drains.find? (fun d => pinCount s table (· == d.version) none == 0) = some d)
    (hdry : ∀ k, k < 12 → ∀ l ∈ (s.culv k).leaving, l.table = table → l.version = some d.version →
      epochDrained s k table l.epoch = true) :
    ∃ u : State, versionDrain s table = u.setTable table (fun e => { e with drains := e.drains.filter (· != d) })
      ∧ u.registry = s.registry := by
  have hall : ((List.range 12).all fun k => ((s.culv k).leaving.filter fun l => l.table == table && l.version == some d.version).all
      fun l => epochDrained s k table l.epoch) = true := by
    simp only [List.all_eq_true, List.mem_range, List.mem_filter, Bool.and_eq_true, beq_iff_eq, and_imp]
    exact hdry
  unfold versionDrain
  split
  · rename_i hnone
    cases he.symm.trans hnone
  rename_i hf
  cases he.symm.trans hf
  split
  · rename_i hnone
    cases hd.symm.trans hnone
  rename_i hc
  cases hd.symm.trans hc
  extract_lets mine t home freed odd exts discarded told
  rw [if_neg (by simp only [mine, hall]; exact Bool.false_ne_true)]
  have hfreed : freed.registry = s.registry := foldl_registry (fun s k => freeLeaving_registry s k _) (List.range 12) s
  have hdiscarded : discarded.registry = freed.registry := by
    simp only [discarded]
    split
    · refine foldl_registry (fun s x => ?_) _ _
      have h := (devDiscard_access s x.1 x.2).registry
      split <;> rename_i e <;> rw [e] at h
      · exact (noteCulv_registry ..).trans h
      · exact h
    · rfl
  have htold : told.registry = discarded.registry := by
    have h := (write64_access discarded d.addr d.by_).registry
    simp only [told]
    split
    · rfl
    · split <;> rename_i e <;> rw [e] at h
      · exact (noteCulv_registry ..).trans h
      · exact h
  exact ⟨told, rfl, htold.trans (hdiscarded.trans hfreed)⟩

/-- Settles O53: what a window's rows may change is never a command of an engine, and drain work never touches the directory. -/
theorem windowsAndTableSwitches : Obligations.WindowsAndTableSwitches := by
  refine ⟨fun k s w hs hk hw => ⟨_, rfl, culvertWindow_works hs hk hw⟩,
    fun table s e w _ he hw => ⟨fun hfree => ?_, fun hheld => ?_⟩, fun table s e w _ he hw => ⟨fun hbusy => ?_, fun hfree => ?_⟩, fun table s e d _ he hd hdry => ?_⟩
  · refine ⟨_, rfl, ?_⟩
    rw [switchReservation_takes he hw hfree]
    exact ⟨(State.setTable_table? s table fun _ => by rfl).trans (by rw [he, Option.map_some]), rfl, rfl⟩
  · exact congrArg Host.Outcome.next (switchReservation_held he hheld)
  · refine congrArg Host.Outcome.next ?_
    rw [switchTargetReady_cases he hw, hbusy, if_neg Bool.false_ne_true]
  · refine ⟨_, rfl, ?_⟩
    rw [switchTargetReady_cases he hw, if_pos hfree]
    refine ⟨rfl, rfl, fun b hb r hr hop htable => ?_⟩
    rw [State.setBatch_batch?_map s w.1 w.2 fun _ => by rfl] at hb
    obtain ⟨c, _, rfl⟩ := Option.map_eq_some_iff.1 hb
    exact Batch.switchReady_arrived hr hop htable
  · obtain ⟨u, heq, hu⟩ := versionDrain_cases he hd hdry
    simp only [State.registry, Prod.mk.injEq] at hu
    obtain ⟨hdirs, hdisp, hfuses⟩ := hu
    have hue : u.table? table = some e := by rw [State.table?, hdirs]; exact he
    refine ⟨_, { e with drains := e.drains.filter (· != d) }, congrArg Host.Outcome.next heq, ?_, rfl, rfl, hdisp, hfuses⟩
    exact (State.setTable_table? u table fun _ => by rfl).trans (by rw [hue, Option.map_some])

end Sys2Proof.Machine
end

section
/-! PROOFS. O52: decay steps, epochs and their listings, replica slots that are freed, and the registers of a Culvert engine's sketch
and Hummock areas (R157 to R168, R177, R178). -/

namespace Sys2Proof.Machine

/-- A part of the state that every step of a fold keeps. -/
theorem foldl_keeps {α β : Type} {p : State → β} {f : State → α → State} (hf : ∀ s a, p (f s a) = p s) (l : List α) (s : State) :
    p (l.foldl f s) = p s := by
  induction l generalizing s with
  | nil => rfl
  | cons a l ih => exact (ih _).trans (hf s a)

theorem modifyAt_modifyAt {α : Type} (l : List α) (n : Nat) (f g : α → α) :
    modifyAt (modifyAt l n f) n g = modifyAt l n fun a => g (f a) := by
  induction l generalizing n with
  | nil => rfl
  | cons a l ih =>
    cases n with
    | zero => rfl
    | succ n => exact congrArg (a :: ·) (ih n)

theorem State.setCulv_culv_ne (s : State) {k j : Nat} (h : j ≠ k) (f : Culv → Culv) : (s.setCulv k f).culv j = s.culv j :=
  modifyAt_getD_ne _ h f {}

/-! ### The review of hot rows at a decay step (R157, R159) -/

/-- An engine without its hot rows and the changes that wait for their epoch, which are all that a review of hot rows alters. -/
def Culv.settled (c : Culv) : Culv := { c with hot := [], changes := [] }

/-- What a review of hot rows on an engine keeps: the dispatcher, and every engine but for the hot rows and changes of that one. -/
def State.settled (s : State) (k : Nat) : Disp × List Culv := (s.disp, modifyAt s.tables.culvs k Culv.settled)

theorem Access.settled {s t : State} (h : Access s t) (k : Nat) : t.settled k = s.settled k := by
  simp only [State.settled, h.disp, h.tables]

theorem setCulv_settled (s : State) (k : Nat) {f : Culv → Culv} (hf : ∀ c, (f c).settled = c.settled) :
    (s.setCulv k f).settled k = s.settled k := by
  simp only [State.settled, State.setCulv, modifyAt_modifyAt, hf]

theorem planReplicas_settled (s : State) (k table row n : Nat) : (planReplicas s k table row n).settled k = s.settled k := by
  have changes (s : State) (f : Culv → List HotRow) (g : Culv → List HotChange) :
      (s.setCulv k fun c => { c with hot := f c, changes := g c }).settled k = s.settled k := setCulv_settled s k fun _ => rfl
  simp only [planReplicas]
  split
  · simp only [apply_ite fun s : State => s.settled k, changes, (bump_reads ..).toAccess.settled,
      (fillReplicas_access ..).settled, (placeReplicas_reads ..).toAccess.settled, ite_self]
  · rfl

theorem reviewHot_settled (s : State) (k : Nat) (h : HotRow) : (reviewHot s k h).settled k = s.settled k := by
  have hot (s : State) (f : Culv → List HotRow) : (s.setCulv k fun c => { c with hot := f c }).settled k = s.settled k :=
    setCulv_settled s k fun _ => rfl
  simp only [reviewHot, apply_ite fun s : State => s.settled k, hot, planReplicas_settled, ite_self]

/-- The hot rows of an engine reviewed, unless a Sluice drains or is held (R362). -/
def reviewed (s : State) (k : Nat) : State :=
  if quiescing s then s else (s.culv k).hot.foldl (fun s h => reviewHot s k h) s

theorem reviewed_settled (s : State) (k : Nat) : (reviewed s k).settled k = s.settled k := by
  unfold reviewed
  split
  · rfl
  · exact foldl_keeps (p := fun s => s.settled k) (fun s h => reviewHot_settled s k h) _ s

theorem reviewed_quiescing {s : State} (k : Nat) (h : quiescing s = true) : reviewed s k = s := if_pos h

/-- Two states that agree but for the hot rows of an engine have the same other engines, and as many. -/
theorem settled_others {s t : State} {k : Nat} (h : t.settled k = s.settled k) :
    t.tables.culvs.length = s.tables.culvs.length ∧ ∀ j, j ≠ k → t.culv j = s.culv j := by
  have hculvs := congrArg Prod.snd h
  refine ⟨by simpa only [State.settled, modifyAt_length] using congrArg List.length hculvs, fun j hj => ?_⟩
  simpa only [State.settled, State.culv, modifyAt_getD_ne _ hj] using congrArg (fun l => l.getD j {}) hculvs

theorem settled_engine {s t : State} {k : Nat} (h : t.settled k = s.settled k) (hk : k < s.tables.culvs.length) :
    (t.culv k).settled = (s.culv k).settled := by
  have ht : k < t.tables.culvs.length := (settled_others h).1 ▸ hk
  simpa only [State.settled, State.culv, modifyAt_getD_self ht, modifyAt_getD_self hk] using congrArg (fun p => p.2.getD k {}) h

/-- A decay step that is due halves the counters after the review, and the next falls due a millisecond later (R157). -/
theorem decayStep_due {s : State} {k : Nat} (hawake : stackAsleep s k = false) (hdue : (s.culv k).decayAt + 25000 ≤ s.tick) :
    decayStep s k
      = (reviewed s k).setCulv k fun c => { c with sketch := halveSketch c.sketch, decayAt := c.decayAt + 25000 } := by
  have hdone : ¬ (stackAsleep s k = true ∨ s.tick < (s.culv k).decayAt + 25000) := by
    rw [hawake]
    exact fun h => h.elim Bool.false_ne_true (Nat.not_lt.2 hdue)
  rw [decayStep, if_neg hdone]
  simp only [decayOnce, reviewed, State.setCulv, modifyAt_modifyAt]

theorem decayStep_halves {s : State} {k : Nat} (hk : k < s.tables.culvs.length) (hawake : stackAsleep s k = false)
    (hdue : (s.culv k).decayAt + 25000 ≤ s.tick) :
    ((decayStep s k).culv k).sketch = halveSketch (s.culv k).sketch
      ∧ ((decayStep s k).culv k).decayAt = (s.culv k).decayAt + 25000
      ∧ (∀ j, j ≠ k → (decayStep s k).culv j = s.culv j) ∧ (decayStep s k).disp = s.disp
      ∧ (quiescing s = true → ((decayStep s k).culv k).hot = (s.culv k).hot ∧ (decayStep s k).mem = s.mem) := by
  have hsettled := reviewed_settled s k
  obtain ⟨hlength, hothers⟩ := settled_others hsettled
  have hengine := settled_engine hsettled hk
  have hsketch : ((reviewed s k).culv k).sketch = (s.culv k).sketch := (congrArg Culv.sketch hengine :)
  have hdecay : ((reviewed s k).culv k).decayAt = (s.culv k).decayAt := (congrArg Culv.decayAt hengine :)
  rw [decayStep_due hawake hdue, State.setCulv_culv_self (hlength.symm ▸ hk)]
  refine ⟨congrArg halveSketch hsketch, congrArg (· + 25000) hdecay,
    fun j hj => (State.setCulv_culv_ne _ hj _).trans (hothers j hj), congrArg Prod.fst hsettled, fun hq => ?_⟩
  rw [reviewed_quiescing k hq]
  exact ⟨rfl, rfl⟩

/-! ### Epochs and their listings (R164 to R166) -/

/-- What packets and counters leave as it was, and the opening of an epoch rests on: tables, memory and the dispatcher. -/
def State.ledger (s : State) : Tables × List Host.Cell × Disp := (s.tables, s.mem, s.disp)

theorem bump_ledger (s : State) (k n : Nat) : (bump s k n).ledger = s.ledger := by
  rcases bump_cases s k n with h | ⟨c, v, h⟩ <;> rw [h]
  rfl

theorem countHop_ledger (s : State) (hop n : Nat) : (countHop s hop n).ledger = s.ledger := by
  simp only [countHop, apply_ite State.ledger, bump_ledger, ite_self]

theorem sendPacket_ledger (s : State) (of : PacketOf) (lane : Nat) (route : List Nat) (flits : Nat) :
    (sendPacket s of lane route flits).ledger = s.ledger := by
  unfold sendPacket
  split
  · rfl
  · exact countHop_ledger ..

/-- The drain counters that are kept are all that a pruning decides. -/
theorem pruneLive_eq (s : State) (k table : Nat) :
    ∃ live : Culv → List (Nat × Nat × Nat), pruneLive s k table = s.setCulv k fun c => { c with live := live c } := ⟨_, rfl⟩

/-- The epoch after an engine's epoch of a table. -/
def Culv.nextEpoch (c : Culv) (table : Nat) : Nat := (c.epochOf table + 1) % 65536

/-- An engine on which the next epoch of a table has opened. -/
def Culv.openNext (c : Culv) (table : Nat) (live : List (Nat × Nat × Nat)) : Culv :=
  { c with epochs := (table, c.nextEpoch table) :: c.epochs.filter (·.1 != table), live := live }

/-- The listing that the next epoch of a table carries. -/
def State.nextListing (s : State) (k table version : Nat) : Listing :=
  ⟨k, table, (s.culv k).nextEpoch table, version,
    ((s.culv k).hot.filter fun h => h.table == table).map fun h => (h.row, h.listed)⟩

theorem Culv.openNext_epochOf (c : Culv) (table : Nat) (live : List (Nat × Nat × Nat)) :
    (c.openNext table live).epochOf table = c.nextEpoch table := by
  simp only [Culv.epochOf, Culv.openNext, List.find?_cons, beq_self_eq_true, Option.map_some, Option.getD_some]

/-- An epoch that opens sends its listing to each die, and touches neither memory nor the dispatcher. -/
theorem openEpoch_opens {s : State} {k : Nat} (hk : k < s.tables.culvs.length) (table version : Nat) :
    (∃ live, (openEpoch s k table version).culv k = (s.culv k).openNext table live)
      ∧ (openEpoch s k table version).tables.epochMsgs
        = s.tables.epochMsgs ++ (List.range 4).map (fun d => (d, s.nextListing k table version))
      ∧ (openEpoch s k table version).mem = s.mem ∧ (openEpoch s k table version).disp = s.disp := by
  unfold openEpoch
  extract_lets c e e' live l opened tables told sent
  obtain ⟨kept, hprune⟩ := pruneLive_eq (bump sent (pgFab + 0x418) 4) k table
  have hledger : (bump sent (pgFab + 0x418) 4).ledger = told.ledger :=
    (bump_ledger ..).trans (foldl_keeps (fun s d => sendPacket_ledger s _ _ _ _) (List.range 4) told)
  rw [hprune]
  generalize bump sent (pgFab + 0x418) 4 = u at hledger ⊢
  simp only [State.ledger, Prod.mk.injEq] at hledger
  obtain ⟨htables, hmem, hdisp⟩ := hledger
  have hculv : u.culv k = (s.culv k).openNext table (live ++ [(table, e', 0)]) := by
    rw [State.culv, htables]
    exact modifyAt_getD_self hk _ {}
  have hu : k < u.tables.culvs.length := by
    rw [htables]
    exact hk.trans_eq (modifyAt_length ..).symm
  refine ⟨⟨kept (u.culv k), ?_⟩, congrArg Tables.epochMsgs htables, hmem, hdisp⟩
  rw [State.setCulv_culv_self hu, hculv]
  rfl

/-- An advance that may open an epoch takes the oldest change of the table off the engine, and opens it. -/
theorem epochAdvance_opens {s : State} {k table : Nat} {c : HotChange} (hc : (s.culv k).changes.find? (·.table == table) = some c)
    (hfew : (s.culv k).liveCount table < 4) :
    ∃ (f : Culv → Culv) (version : Nat), epochAdvance s k table = openEpoch (s.setCulv k f) k table version
      ∧ (f (s.culv k)).changes = (s.culv k).changes.eraseP (·.table == table) ∧ (f (s.culv k)).epochs = (s.culv k).epochs := by
  simp only [epochAdvance, hc, if_neg (Nat.not_le.2 hfew)]
  split
  · exact ⟨_, _, rfl, rfl, rfl⟩
  · exact ⟨_, _, rfl, rfl, rfl⟩

theorem epochAdvance_full {s : State} {k table : Nat} (hfull : 4 ≤ (s.culv k).liveCount table) : epochAdvance s k table = s := by
  unfold epochAdvance
  dsimp only
  split
  · rfl
  · exact if_pos hfull

theorem epochAdvance_lists {s : State} {k table : Nat} {c : HotChange} (hk : k < s.tables.culvs.length)
    (hc : (s.culv k).changes.find? (·.table == table) = some c) (hfew : (s.culv k).liveCount table < 4) :
    ((epochAdvance s k table).culv k).epochOf table = (s.culv k).nextEpoch table
      ∧ ((epochAdvance s k table).culv k).changes = (s.culv k).changes.eraseP (·.table == table)
      ∧ (∃ l : Listing, l.home = k ∧ l.table = table ∧ l.epoch = (s.culv k).nextEpoch table
        ∧ (epochAdvance s k table).tables.epochMsgs = s.tables.epochMsgs ++ (List.range 4).map fun d => (d, l))
      ∧ (epochAdvance s k table).mem = s.mem ∧ (epochAdvance s k table).disp = s.disp := by
  obtain ⟨f, version, heq, hchanges, hepochs⟩ := epochAdvance_opens hc hfew
  have hnext : ((s.setCulv k f).culv k).nextEpoch table = (s.culv k).nextEpoch table := by
    simp only [State.setCulv_culv_self hk, Culv.nextEpoch, Culv.epochOf, hepochs]
  obtain ⟨⟨live, hculv⟩, hmsgs, hmem, hdisp⟩ :=
    openEpoch_opens (s := s.setCulv k f) (hk.trans_eq (modifyAt_length ..).symm) table version
  rw [heq, hculv, Culv.openNext_epochOf]
  refine ⟨hnext, ?_, ⟨_, rfl, rfl, hnext, hmsgs⟩, hmem, hdisp⟩
  rw [State.setCulv_culv_self hk]
  exact hchanges

/-- A die that applies a listing holds it in place of the one before (R164). -/
theorem epochApply_lists {s : State} {die d : Nat} {l : Listing} (hdie : die < s.tables.hummock.length)
    (hl : s.tables.epochMsgs.find? (·.1 == die) = some (d, l)) :
    listingOf (epochApply s die) die l.home l.table = some l
      ∧ (epochApply s die).tables.epochMsgs = s.tables.epochMsgs.eraseP (·.1 == die)
      ∧ (epochApply s die).mem = s.mem ∧ (epochApply s die).disp = s.disp := by
  simp only [epochApply, hl]
  refine ⟨?_, rfl, rfl, rfl⟩
  simp only [listingOf, pruneLive, State.setCulv, dropPacket, modifyAt_getD_self hdie, List.find?_cons, beq_self_eq_true,
    Bool.and_self]

/-! ### Replica slots that are freed (R162, R168) -/

theorem freeLeaving_tables (s : State) (k : Nat) (p : Leaving → Bool) :
    (freeLeaving s k p).tables = (s.setCulv k fun c => { c with leaving := c.leaving.filter fun l => !(p l) }).tables := by
  simp only [freeLeaving, apply_ite State.tables, (bump_reads ..).tables, (foldl_access freeSlotAt_access _ _).tables, ite_self]

theorem replicaSlotFree_cases {s : State} {k table : Nat} {l : Leaving}
    (hl : (s.culv k).leaving.find? (fun l => l.table == table && l.version.isNone) = some l) :
    replicaSlotFree s k table = if epochDrained s k table l.epoch then freeLeaving s k (· == l) else s := by
  simp only [replicaSlotFree, hl]

theorem freeLeaving_leaves {s : State} {k : Nat} (hk : k < s.tables.culvs.length) (l : Leaving) :
    l ∉ ((freeLeaving s k (· == l)).culv k).leaving ∧ (freeLeaving s k (· == l)).disp = s.disp
      ∧ (freeLeaving s k (· == l)).fuses = s.fuses := by
  have hregistry := freeLeaving_registry s k (· == l)
  simp only [State.registry, Prod.mk.injEq] at hregistry
  obtain ⟨_, hdisp, hfuses⟩ := hregistry
  refine ⟨?_, hdisp, hfuses⟩
  have hculv : (freeLeaving s k (· == l)).culv k = { s.culv k with leaving := (s.culv k).leaving.filter fun x => !(x == l) } := by
    rw [State.culv, freeLeaving_tables]
    exact State.setCulv_culv_self hk _
  simp [hculv]

/-! ### The registers of an engine (R177, R178) -/

/-- No register of an engine is one of a tile. -/
theorem pgCulv_cls {k off : Nat} (hk : k < 12) (hoff : off < 0x10000) : keyCls (pgCulv k + off) ≠ 8 := by
  simp only [keyCls, pgCulv, pageKey]
  omega

theorem sketchClear_clears {s : State} {who : Agent} {k : Nat} {v : Word} (hk : k < 12) (hen : pageEn s (pgCulv k) = true)
    (hg : regGate s who (pgCulv k + 0x4E0) = .through) (hv : bit v 63 = true) :
    sketchClear who k v s = answer (s.setCulv k fun c => { c with sketch := [] }) .done := by
  simp only [sketchClear, regAccess_through hg (pgCulv_cls hk (by decide)), hen, hv, Bool.and_self, if_true]

/-- The register of a stack's HBM area, or of its Fen area. -/
def hummockKey (k : Nat) (fen : Bool) : Nat := pgCulv k + if fen then 0x490 else 0x488

/-- What the register of an area holds once it has taken a write. -/
def hummockWord (fen : Bool) (v : Word) : Word :=
  if fen then wd (fld v 42 32 * 2 ^ 32 + fld v 12 0) else wd (fld v 47 32 * 2 ^ 32 + fld v 15 0)

section
variable {s : State} {who : Agent} {k : Nat} {fen : Bool} (v : Word) (hk : k < 12) (hg : regGate s who (hummockKey k fen) = .through)
include hk hg

theorem hummockAccess_through : hummockAccess who k fen v s = answer (hummockWrite s k fen v) .done :=
  regAccess_through hg (pgCulv_cls hk (by cases fen <;> decide)) _ _

theorem hummockAccess_refused (h : hummockTakes s k fen v = false) : hummockAccess who k fen v s = { s with resp := .done } := by
  simp only [hummockAccess_through v hk hg, hummockWrite, h, Bool.and_false, Bool.false_eq_true, if_false]
  rfl

theorem hummockAccess_takes (hen : pageEn s (pgCulv k) = true) (h : hummockTakes s k fen v = true) :
    hummockAccess who k fen v s = answer (s.setReg (hummockKey k fen) (hummockWord fen v)) .done := by
  rw [hummockAccess_through v hk hg, hummockWrite, hen, h]
  cases fen <;> rfl

/-- A write that R178 lets an area take sets its register, and changes neither memory nor tables. -/
theorem hummockAccess_sets (hen : pageEn s (pgCulv k) = true) (hwf : cellsWf regReset s.regs = true)
    (h : hummockTakes s k fen v = true) : (hummockAccess who k fen v s).mem = s.mem
      ∧ (hummockAccess who k fen v s).tables = s.tables
      ∧ (hummockAccess who k fen v s).reg (hummockKey k fen) = hummockWord fen v := by
  rw [hummockAccess_takes v hk hg hen h]
  exact ⟨rfl, rfl, State.setReg_reg_self s _ _ hwf⟩

end

theorem sound_hummock {s : State} (h : s.sound = true) : s.tables.hummock.length = 4 := by
  have hz := (sizesOk_iff s).1 (Bool.and_eq_true_iff.1 h).2
  simp only [State.sizes, partSizes, List.cons.injEq] at hz
  tauto

/-- Settles O52: a review of hot rows alters no counter, an epoch's packets no table, the freeing of slots only what leaves, and the
registers of an engine are written as they stand. -/
theorem hotRowsFollowEpochs : Obligations.HotRowsFollowEpochs := by
  refine ⟨fun k s hs hk hawake hdue => ⟨_, rfl, decayStep_halves ((sound_culvs hs).symm ▸ hk) hawake hdue⟩,
    fun k table s c hs hk hc => ⟨fun hfull => congrArg Host.Outcome.next (epochAdvance_full hfull), fun hfew => ?_⟩,
    fun die d l s hs hdie hl => ⟨_, rfl, epochApply_lists ((sound_hummock hs).symm ▸ hdie) hl⟩,
    fun k table s l hs hk hl => ⟨fun hwet => ?_, fun hdry => ⟨_, rfl, ?_⟩⟩,
    fun who k v s hs hk hen => ⟨fun hg hv => ⟨_, rfl, ?_⟩,
      fun hg => ⟨fun h => ⟨_, rfl, hummockAccess_sets (fen := false) v hk hg hen (sound_regs hs) h⟩,
        fun h => congrArg Host.Outcome.next (hummockAccess_refused (fen := false) v hk hg h)⟩,
      fun hg => ⟨fun h => ⟨_, rfl, hummockAccess_sets (fen := true) v hk hg hen (sound_regs hs) h⟩,
        fun h => congrArg Host.Outcome.next (hummockAccess_refused (fen := true) v hk hg h)⟩⟩⟩
  · obtain ⟨hepoch, hchanges, ⟨l, hhome, htable, hnext, hmsgs⟩, hmem, hdisp⟩ :=
      epochAdvance_lists ((sound_culvs hs).symm ▸ hk) hc hfew
    refine ⟨_, rfl, hepoch, hchanges, fun d hd => ⟨l, ?_, hhome, htable, hnext⟩, ?_, hmem, hdisp⟩
    · rw [hmsgs]
      exact List.mem_append_right _ (List.mem_map.2 ⟨d, List.mem_range.2 hd, rfl⟩)
    · rw [hmsgs, List.length_append, List.length_map, List.length_range]
  · exact congrArg Host.Outcome.next ((replicaSlotFree_cases hl).trans (if_neg (hwet ▸ Bool.false_ne_true)))
  · rw [replicaSlotFree_cases hl, if_pos hdry]
    exact freeLeaving_leaves ((sound_culvs hs).symm ▸ hk) l
  · rw [sketchClear_clears hk hen hg hv]
    refine ⟨?_, fun j hj => State.setCulv_culv_ne s hj _, rfl⟩
    exact congrArg Culv.sketch (State.setCulv_culv_self ((sound_culvs hs).symm ▸ hk) _)

end Sys2Proof.Machine
end

section
/-! SUPPORT. What the end of a batch leaves of the Reedbeds (chapter 8): no more than the keys that wait there change, and no memory
is written. -/

namespace Sys2Proof.Machine

/-! ### The fabric and the stream engines (chapters 3 and 13) -/

theorem bump_reeds (s : State) (k n : Nat) : (bump s k n).reeds = s.reeds := (bump_reads s k n).reeds

theorem errorTrigger_reeds (s : State) (c : Nat) : (errorTrigger s c).reeds = s.reeds := (errorTrigger_reads s c).reeds

theorem sendPacket_reeds (s : State) (o : PacketOf) (lane : Nat) (route : List Nat) (flits : Nat) :
    (sendPacket s o lane route flits).reeds = s.reeds := by
  unfold sendPacket
  split <;> simp only [countHop, apply_ite State.reeds, bump_reeds, ite_self]

theorem pumpTile_reeds (s : State) (t : Nat) : (pumpTile s t).reeds = s.reeds := by
  simp only [pumpTile, foldl_keeps (p := State.reeds), sendPacket_reeds, State.setMover_reeds, implies_true]

theorem issueGroup_reeds (s : State) (t : Nat) (g : Group) : (issueGroup s t g).reeds = s.reeds := by
  simp only [issueGroup, pumpTile_reeds, State.setMover_reeds]

theorem openGroup_reeds (s : State) (t : Nat) (g : Group) (merge : Bool) : (openGroup s t g merge).reeds = s.reeds := by
  simp only [openGroup, issueGroup_reeds, State.setMover_reeds, apply_ite State.reeds, ite_self]
  split <;> simp only [issueGroup_reeds, apply_ite State.reeds, ite_self, foldl_keeps (p := State.reeds), implies_true]

theorem openTransfer_reeds (s : State) (t stream : Nat) (write : Bool) (addr len : Nat) :
    (openTransfer s t stream write addr len).reeds = s.reeds := by
  simp only [openTransfer]
  split
  · rfl
  · split <;> simp only [apply_ite State.reeds, issueGroup_reeds, bump_reeds, State.setMover_reeds, openGroup_reeds, ite_self]

theorem State.setFeed_reeds (s : State) (t : Nat) (g : Feed) (f : Feed → Feed) : (s.setFeed t g f).reeds = s.reeds := rfl

theorem beginBlock_reeds (s : State) (t : Nat) (f : Feed) (extra : Bool) : (beginBlock s t f extra).reeds = s.reeds := by
  simp only [beginBlock]
  split <;> simp only [State.setFeed_reeds, openTransfer_reeds]

theorem giveBlocks_reeds (s : State) (t id n : Nat) : (giveBlocks s t id n).reeds = s.reeds := by
  simp only [giveBlocks]
  split <;> simp only [beginBlock_reeds, State.setHold_reeds]

theorem grantWaiters_reeds (s : State) (t : Nat) : (grantWaiters s t).reeds = s.reeds := by
  refine foldl_keeps (p := State.reeds) (fun s w => ?_) _ _
  split
  · simp only [apply_ite State.reeds, giveBlocks_reeds, ite_self]
  · rfl

theorem endFeeds_reeds (s : State) (t id idx i : Nat) : (endFeeds s t id idx i).reeds = s.reeds := by
  simp only [endFeeds, releaseBlocks, apply_ite State.reeds, grantWaiters_reeds, State.setHold_reeds, State.setMover_reeds, ite_self]

theorem leaveTiles_reeds (s : State) (id : Nat) : (leaveTiles s id).reeds = s.reeds := by
  have hdrop (s : State) (t : Nat) : (dropReads s t id).reeds = s.reeds := rfl
  simp only [leaveTiles, foldl_keeps (p := State.reeds), grantWaiters_reeds, hdrop, State.setStream_reeds, implies_true]

theorem endUnit_reeds (s : State) (a : Assign) : (endUnit s a).reeds = s.reeds := by
  simp only [endUnit, apply_ite State.reeds, endFeeds_reeds, ite_self]

/-! ### Windows, transfer slots and turns -/

theorem dropWindows_reeds (s : State) (id idx : Nat) : (dropWindows s id idx).reeds = s.reeds := by
  have hpiece (s : State) (w : Window) : (pieceBack s w).reeds = s.reeds := by
    simp only [pieceBack, moveLive, pruneLive, apply_ite State.reeds, State.setCulv_reeds, ite_self]
  simp only [dropWindows, dropCommands, foldl_keeps (p := State.reeds), hpiece, State.setCulv_reeds, implies_true]

theorem cursorGiveUp_reeds (s : State) (id idx : Nat) : (cursorGiveUp s id idx).reeds = s.reeds := by
  unfold cursorGiveUp
  split <;> rfl

theorem giveTurn_reeds (s : State) (r : CompRef) (idx : Nat) (c : Comp) (a : After) : (giveTurn s r idx c a).reeds = s.reeds :=
  State.setRingOut_reeds ..

theorem rearmProgress_reeds (s : State) (id k : Nat) : (rearmProgress s id k).reeds = s.reeds := by
  unfold rearmProgress
  split <;>
    simp only [State.setTSlot_reeds, endRearm, foldl_keeps (p := State.reeds), apply_ite State.reeds, giveTurn_reeds, ite_self,
      implies_true]

theorem freeTaken_reeds (s : State) (id idx : Nat) : (freeTaken s id idx).reeds = s.reeds := by
  simp only [freeTaken, foldl_keeps (p := State.reeds), rearmProgress_reeds, State.setStream_reeds, implies_true]

theorem batchCount_reeds (s : State) (x : Stream) (b : Batch) : (batchCount s x b).1.reeds = s.reeds := by
  simp only [batchCount]
  (repeat' split) <;> rfl

theorem setState_reeds (s : State) (id : Nat) (st : SState) : (setState s id st).reeds = s.reeds := by
  simp only [setState, freeResidents, apply_ite State.reeds, leaveTiles_reeds, State.setStream_reeds, ite_self]

theorem stopUnstarted_reeds (s : State) (id : Nat) : (stopUnstarted s id).reeds = s.reeds := by
  unfold stopUnstarted
  split
  · rfl
  · refine foldl_keeps (p := State.reeds) (fun s b => ?_) _ _
    unfold stopOne
    split <;> simp only [giveTurn_reeds, State.setBatch_reeds, batchCount_reeds]

theorem stopDrain_reeds (s : State) (id : Nat) : (stopDrain s id).reeds = s.reeds := by
  unfold stopDrain
  split
  · unfold endLate
    split <;> rfl
  · rfl

/-! ### Reedbeds without their keys -/

/-- A Reedbed without the keys that wait at it: its entries, their shadows, its updates and its copying. -/
def Reed.unkeyed (x : Reed) : Reed := { x with keys := [] }

/-- What the end of a batch keeps of the Reedbeds. -/
def State.entries (s : State) : List Reed := s.reeds.map Reed.unkeyed

theorem entries_of_reeds {s t : State} (h : t.reeds = s.reeds) : t.entries = s.entries := congrArg (List.map Reed.unkeyed) h

theorem reed_of_entries {s t : State} (h : t.entries = s.entries) (d : Nat) : (t.reed d).unkeyed = (s.reed d).unkeyed := by
  have hd (u : State) : (u.reed d).unkeyed = u.entries.getD d {} := (List.getD_map u.reeds {} Reed.unkeyed).symm
  rw [hd, hd, h]

theorem dropKeys_entries (s : State) (id idx : Nat) : (dropKeys s id idx).entries = s.entries := by
  simp only [State.entries, dropKeys, List.map_map]
  rfl

theorem releaseBatch_entries (s : State) (id idx : Nat) : (releaseBatch s id idx).entries = s.entries := by
  unfold releaseBatch
  split
  · have htiles (l : List Nat) (s : State) : (l.foldl (fun s t => s.setTile t fun y => { y with since := s.tick }) s).reeds = s.reeds :=
      foldl_keeps (p := State.reeds) (fun s t => State.setTile_reeds s t _) l s
    refine Eq.trans (entries_of_reeds ?_) ((dropKeys_entries _ id idx).trans (entries_of_reeds (dropWindows_reeds s id idx)))
    simp only [leaveTiles_reeds, State.setBatch_reeds, htiles, foldl_keeps (p := State.reeds) endUnit_reeds, uncharge,
      State.setSlot_reeds, freeTaken_reeds, cursorGiveUp_reeds, apply_ite State.reeds, releaseSwitch, ite_self]
  · rfl

theorem batchEnded_entries (s : State) (id idx status : Nat) : (batchEnded s id idx status).entries = s.entries := by
  refine Eq.trans (entries_of_reeds ?_) (releaseBatch_entries s id idx)
  simp only [batchEnded, apply_ite State.reeds, bump_reeds, errorTrigger_reeds, State.setBatch_reeds, ite_self]

theorem finishBatch_entries (s : State) (id idx status detail : Nat) : (finishBatch s id idx status detail).entries = s.entries := by
  cases hx : s.stream? id with
  | none => simp only [finishBatch, hx]
  | some x =>
    cases hb : s.batch? id idx with
    | none => simp only [finishBatch, hx, hb]
    | some b =>
      by_cases hst : b.state = .done
      · simp only [finishBatch, hx, hb, hst, if_true]
      · obtain ⟨c, _, _, heq⟩ := finishBatch_eq hx hb hst status detail
        rw [heq, entries_of_reeds (giveTurn_reeds ..), batchEnded_entries, entries_of_reeds (batchCount_reeds ..)]

theorem stopStarted_entries (id : Nat) (s : State) (b : Batch) : (stopStarted s id b).entries = s.entries := by
  have hset (s : State) (f : Batch → Batch) : (s.setBatch id b.idx f).entries = s.entries := rfl
  simp only [stopStarted, apply_ite State.entries, finishBatch_entries, hset, ite_self]

theorem faultStream_entries (s : State) (id status stage : Nat) : (faultStream s id status stage).entries = s.entries := by
  unfold faultStream
  split
  · rfl
  · simp only [entries_of_reeds (stopDrain_reeds ..), entries_of_reeds (stopUnstarted_reeds ..),
      foldl_keeps (p := State.entries) (stopStarted_entries id)]
    refine entries_of_reeds ?_
    simp only [State.setStream_reeds, setState_reeds]

theorem refreshReady_entries (s : State) (id : Nat) : (refreshReady s id).entries = s.entries := by
  obtain ⟨_, d, h⟩ := refreshReady_readied s id
  rw [h]
  rfl

theorem endBatch_entries (s : State) (id idx status detail : Nat) : (endBatch s id idx status detail).entries = s.entries := by
  unfold endBatch
  split <;> simp only [refreshReady_entries, apply_ite State.entries, faultStream_entries, finishBatch_entries, ite_self]

/-- A batch whose updates have been verified may complete; of the Reedbeds no more than the waiting keys change. -/
theorem batchProgress_entries (s : State) (id idx : Nat) : (batchProgress s id idx).entries = s.entries := by
  unfold batchProgress
  (repeat' split) <;> simp only [finishBatch_entries, endBatch_entries]

/-! ### No memory is written -/

theorem endBatch_mem (s : State) (id idx status detail : Nat) : (endBatch s id idx status detail).mem = s.mem := by
  unfold endBatch
  split
  · rfl
  · simp only [(refreshReady_readied ..).1.mem, apply_ite State.mem, (faultStream_turnsKept ..).mem, (finishBatch_turnsKept ..).mem,
      ite_self]

theorem batchProgress_mem (s : State) (id idx : Nat) : (batchProgress s id idx).mem = s.mem := by
  unfold batchProgress
  (repeat' split) <;> simp only [endBatch_mem, (finishBatch_turnsKept ..).mem]

end Sys2Proof.Machine
end

section
/-! SUPPORT. Entries of a Reedbed's banks and shadows as they are put and picked out (R222, R237), and the Reedbeds of the dies under
their setter. -/

namespace Sys2Proof.Machine

/-! ### Entries by their global index -/

/-- The first entry of an index, in a list thinned by a test of the index. -/
theorem find?_filter_index {α : Type} (l : List (Nat × α)) (q : Nat → Bool) (j : Nat) :
    (l.filter fun p => q p.1).find? (·.1 == j) = if q j then l.find? (·.1 == j) else none := by
  induction l with
  | nil => simp
  | cons p l ih =>
    by_cases hp : p.1 = j
    · cases hq : q j <;> simp [hp, hq, ih]
    · cases hq : q p.1 <;> simp [hp, hq, ih]

/-- An entry that is put reads there as put, and every other one as before. -/
theorem entryAt_putEntry (l : List (Nat × RbEntry)) (i j : Nat) (e : RbEntry) :
    entryAt (putEntry l i e) j = if j = i then e else entryAt l j := by
  rw [putEntry, entryAt, List.find?_append, find?_filter_index l (· != i) j]
  by_cases hj : j = i
  · by_cases he : e = {} <;> simp [hj, he]
  · have hi : i ≠ j := Ne.symm hj
    by_cases he : e = {} <;> simp [hj, hi, he, entryAt]

theorem entryAt_of_unlisted {l : List (Nat × RbEntry)} {j : Nat} (h : ∀ p ∈ l, p.1 ≠ j) : entryAt l j = {} := by
  have hnone : l.find? (·.1 == j) = none := List.find?_eq_none.2 fun p hp => by simpa using h p hp
  rw [entryAt, hnone]
  rfl

/-- The entries of one bank taken from another list. -/
theorem entryAt_bank_from (l m : List (Nat × RbEntry)) (b j : Nat) :
    entryAt ((l.filter fun p => !(bankOfIx p.1 == b)) ++ m.filter fun p => bankOfIx p.1 == b) j
      = if bankOfIx j = b then entryAt m j else entryAt l j := by
  rw [entryAt, List.find?_append, find?_filter_index l (fun i => !(bankOfIx i == b)) j, find?_filter_index m (fun i => bankOfIx i == b) j]
  by_cases hj : bankOfIx j = b <;> simp [hj, entryAt]

/-! ### Reedbeds of the dies -/

theorem sound_reeds {s : State} (h : s.sound = true) : s.reeds.length = 4 := by
  have hz := (sizesOk_iff s).1 (Bool.and_eq_true_iff.1 h).2
  simp only [State.sizes, partSizes, List.cons.injEq] at hz
  tauto

theorem State.setReed_reed_self {s : State} {d : Nat} (h : d < s.reeds.length) (f : Reed → Reed) :
    (s.setReed d f).reed d = f (s.reed d) := modifyAt_getD_self h f {}

theorem State.setReed_reeds_length (s : State) (d : Nat) (f : Reed → Reed) : (s.setReed d f).reeds.length = s.reeds.length :=
  modifyAt_length ..

theorem reed_of_reeds {s t : State} (h : t.reeds = s.reeds) (d : Nat) : t.reed d = s.reed d := congrArg (fun l => l.getD d {}) h

theorem bump_reed (s : State) (k n d : Nat) : (bump s k n).reed d = s.reed d := reed_of_reeds (bump_reeds s k n) d

end Sys2Proof.Machine
end

section
/-! SUPPORT. What the search of a key leaves as it was while candidates are verified (R232): memory, the dispatcher and the keys that
wait at the Reedbeds. -/

namespace Sys2Proof.Machine

/-- Memory, the dispatcher, the tick and the keys that wait at the Reedbeds, which events that are counted and entries that are rewritten
leave as they were. -/
def State.queues (s : State) : List Host.Cell × Disp × Nat × List (List RbKey) := (s.mem, s.disp, s.tick, s.reeds.map Reed.keys)

theorem Access.queues {s t : State} (h : Access s t) (hm : t.mem = s.mem) : t.queues = s.queues := by
  simp only [State.queues, hm, h.disp, h.tick, h.reeds]

theorem mem_of_contents {s t : State} (h : t.contents = s.contents) : t.mem = s.mem := congrArg (·.1) h

theorem bump_mem (s : State) (k n : Nat) : (bump s k n).mem = s.mem := mem_of_contents (bump_contents s k n)

theorem keys_of_queues {s t : State} (h : t.queues = s.queues) (d : Nat) : (t.reed d).keys = (s.reed d).keys := by
  have hd (u : State) : (u.reed d).keys = u.queues.2.2.2.getD d [] := (List.getD_map u.reeds {} Reed.keys).symm
  rw [hd, hd, h]

/-! ### Events that are counted -/

theorem countUE_contents (s : State) (page : Nat) : (countUE s page).contents = s.contents := by
  rw [countUE, errorTrigger_contents, raiseInt_contents]
  rfl

theorem countCE_contents (s : State) (page : Nat) : (countCE s page).contents = s.contents := by
  have hsat (s : State) (k lo w n : Nat) : (bumpSat s k lo w n).contents = s.contents := rfl
  simp only [countCE, apply_ite State.contents, errorTrigger_contents, raiseInt_contents, hsat, ite_self]

theorem fenCE_contents (s : State) (d line : Nat) : (fenCE s d line).contents = s.contents :=
  countCE_contents (s.setFen d _) (pgFen d)

theorem bump_queues (s : State) (k n : Nat) : (bump s k n).queues = s.queues :=
  (bump_reads s k n).queues (bump_mem s k n)

theorem countCE_queues (s : State) (page : Nat) : (countCE s page).queues = s.queues :=
  (countCE_reads s page).queues (mem_of_contents (countCE_contents s page))

theorem countUE_queues (s : State) (page : Nat) : (countUE s page).queues = s.queues :=
  (countUE_reads s page).queues (mem_of_contents (countUE_contents s page))

theorem firstEvent_queues (s : State) (page off v : Nat) : (firstEvent s page off v).queues = s.queues :=
  (firstEvent_reads s page off v).queues (mem_of_contents (firstEvent_contents s page off v))

theorem fenCE_queues (s : State) (d line : Nat) : (fenCE s d line).queues = s.queues :=
  (fenCE_reads s d line).queues (mem_of_contents (fenCE_contents s d line))

theorem noteReed_queues (s : State) (d status set_ stream bank : Nat) : (noteReed s d status set_ stream bank).queues = s.queues :=
  firstEvent_queues ..

/-! ### Entries that are rewritten or cannot be read -/

theorem State.setReed_queues (s : State) (d : Nat) {f : Reed → Reed} (hf : ∀ x, (f x).keys = x.keys) :
    (s.setReed d f).queues = s.queues := by
  simp only [State.queues, State.setReed, modifyAt_map hf]

theorem rewriteEntry_queues (s : State) (d i : Nat) : (rewriteEntry s d i).queues = s.queues := by
  rw [rewriteEntry, countCE_queues, bump_queues, State.setReed_queues]
  exact fun _ => rfl

theorem shadowError_queues (s : State) (d i : Nat) (e : LineErr) : (shadowError s d i e).queues = s.queues := by
  cases e with
  | clean => rfl
  | oneSymbol => exact fenCE_queues ..
  | twoSymbols =>
    simp only [shadowError]
    rw [State.setReed_queues, firstEvent_queues, countUE_queues]
    · rfl
    · exact fun _ => rfl

theorem verify_queues (d : Nat) (all : Bool) (key : List Nat) (cs : List (Nat × RbEntry)) (es : List LineErr) (hits : List Nat)
    (rej : Bool) (s : State) : (verify d all key cs es hits rej s).1.queues = s.queues := by
  induction cs generalizing es hits rej s with
  | nil => rfl
  | cons c t ih =>
    have hread := shadowError_queues s d c.1 (es.headD .clean)
    simp only [verify, apply_ite Prod.fst, apply_ite State.queues]
    refine ite_eq_iff'.2 ⟨fun _ => rfl, fun _ => ?_⟩
    split
    · rw [State.setReed_queues, hread]
      exact fun _ => rfl
    · simp only [apply_ite Prod.fst, apply_ite State.queues, ih, rewriteEntry_queues, bump_queues, hread, ite_self]

/-- A single candidate whose shadow can be read and matches the key is verified. -/
theorem verify_single {s : State} {d : Nat} {key : List Nat} {c : Nat × RbEntry} (hread : ∀ p ∈ (s.reed d).bad, p.1 ≠ c.1)
    (hmatch : keyMatches (entryAt (s.reed d).shadow c.1) key = true) (all : Bool) :
    verify d all key [c] [] [] false s = (s, .ok ([c.1], false)) := by
  have hgood : (s.reed d).bad.find? (·.1 == c.1) = none := List.find?_eq_none.2 fun p hp => by simpa using hread p hp
  simp [verify, shadowError, hgood, hmatch]

end Sys2Proof.Machine
end

section
/-! SUPPORT. The search of a key (R230, R232): it leaves the queue, and its stage has its verdict, or fails where a shadow cannot be
read. -/

namespace Sys2Proof.Machine

/-! ### A key that is searched -/

/-- A key has left the queue of its die, whose bank bits have decayed. -/
def keyTaken (s : State) (d : Nat) (k : RbKey) (decay : List RbDecay) : State :=
  applyDecay (s.setReed d fun x => { x with keys := x.keys.filter (· != k), turn := k.stream }) d decay

/-- The units of a key that waits. -/
def RbKey.units (k : RbKey) (s : State) (run : StageRun) : List Nat :=
  keyUnits (stageRec s k.stream k.stage) (SetRec.of ((stageTabs s k.stream k.stage).getD 0 [])).width run.ins k.key

/-- The entries that match a key in a die's banks, once it has left the queue. -/
def RbKey.candidates (k : RbKey) (s : State) (d : Nat) (run : StageRun) (decay : List RbDecay) : List (Nat × RbEntry) :=
  Machine.candidates ((keyTaken s d k decay).reed d).bank (fieldN (stageRec s k.stream k.stage) 56 4) (k.units s run)

/-- The verification of a key's candidates. -/
def keyVerified (s : State) (d : Nat) (k : RbKey) (run : StageRun) (decay : List RbDecay) (errs : List LineErr) :
    State × Except (Nat × Nat) (List Nat × Bool) :=
  verify d (bitOf (fieldN (stageRec s k.stream k.stage) 61 1) 0) (k.units s run) (k.candidates s d run decay) errs [] false
    (bump (keyTaken s d k decay) (pgReed d + 0x440) 1)

/-- Entries of equal priority to the winner's are verified besides it (R230). -/
def Reed.multiHit (x : Reed) (w : Nat) (others : List Nat) : Bool :=
  others.any fun i => (entryAt x.shadow i).prio == (entryAt x.shadow w).prio

/-- The counts of a key's verdict. -/
def hitsCounted (s : State) (d : Nat) : List Nat → State
  | [] => s
  | w :: others =>
    let t := bump s (pgReed d + 0x448) 1
    if (s.reed d).multiHit w others then bump t (pgReed d + 0x450) 1 else t

/-- The verdict of a key on the verified entries: its flags, the winner's result and index, and all of them (R229, R230). -/
def Reed.verdict (x : Reed) (rej : Bool) : List Nat → List Nat
  | [] => [4 * b2n rej, 0, 0]
  | w :: others => [1 + 2 * b2n (x.multiHit w others) + 4 * b2n rej, (entryAt x.shadow w).result, w] ++ w :: others

/-- A key is not to be searched any more. -/
def StageRun.searched (k : Nat) (r : StageRun) : StageRun := { r with keys := r.keys.filter (· != k) }

/-- A key has its verdict. -/
def StageRun.answered (k : Nat) (v : List Nat) (r : StageRun) : StageRun :=
  { r with
    keys := r.keys.filter (· != k)
    verdicts := (k, v) :: r.verdicts }

/-- What follows verification: the verdict, or the failure of the stage (R233). -/
def keyAnswered (d set_ : Nat) (k : RbKey) : State × Except (Nat × Nat) (List Nat × Bool) → State
  | (s, .error (st, i)) =>
    failRun ((noteReed s d st set_ k.stream (bankOfIx i)).setRun k.stream k.batch k.stage (StageRun.searched k.key)) k.stream k.batch
      k.stage st
  | (s, .ok (hits, rej)) =>
    (hitsCounted s d hits).setRun k.stream k.batch k.stage (StageRun.answered k.key ((s.reed d).verdict rej hits))

section
variable {s : State} {d : Nat} {k : RbKey} {run : StageRun}

theorem searchKey_eq (hk : (keyTurns (s.reed d)).head? = some k) (hpower : (s.die d).power = .active)
    (hrun : s.run? k.stream k.batch k.stage = some run) (decay : List RbDecay) (errs : List LineErr) :
    searchKey s d decay errs
      = keyAnswered d (SetRec.of ((stageTabs s k.stream k.stage).getD 0 [])).id k (keyVerified s d k run decay errs) := by
  have htaken : (keyTaken s d k decay).run? k.stream k.batch k.stage = some run := hrun
  have hactive : ¬ (s.die d).power ≠ .active := not_not.2 hpower
  unfold searchKey
  rw [hk]
  simp only [if_neg hactive]
  change (match (keyTaken s d k decay).run? k.stream k.batch k.stage with
    | none => keyTaken s d k decay
    | some run => _) = _
  rw [htaken]
  change (match keyVerified s d k run decay errs with
    | (s, .error (st, i)) => _
    | (s, .ok (hits, rej)) => _) = _
  generalize keyVerified s d k run decay errs = r
  obtain ⟨u, ⟨st, i⟩ | ⟨hits, rej⟩⟩ := r
  · rfl
  · cases hits <;> rfl

/-! ### What a search leaves -/

theorem applyDecay_nil (s : State) (d : Nat) : applyDecay s d [] = s.setReed d fun x => x := rfl

theorem keyTaken_keys (hd : d < s.reeds.length) (k : RbKey) (decay : List RbDecay) :
    ((keyTaken s d k decay).reed d).keys = (s.reed d).keys.filter (· != k) := by
  rw [keyTaken, applyDecay, State.setReed_reed_self (by rw [State.setReed_reeds_length]; exact hd), State.setReed_reed_self hd]

/-- Where no bit has decayed, no more than the queue and the turn change. -/
theorem keyTaken_reed (hd : d < s.reeds.length) (k : RbKey) : (keyTaken s d k []).reed d
    = { s.reed d with keys := (s.reed d).keys.filter (· != k), turn := k.stream } := by
  rw [keyTaken, applyDecay_nil, State.setReed_reed_self (by rw [State.setReed_reeds_length]; exact hd), State.setReed_reed_self hd]

theorem keyVerified_queues (decay : List RbDecay) (errs : List LineErr) :
    (keyVerified s d k run decay errs).1.queues = (keyTaken s d k decay).queues := by
  rw [keyVerified, verify_queues, bump_queues]

theorem hitsCounted_queues (s : State) (d : Nat) (hits : List Nat) : (hitsCounted s d hits).queues = s.queues := by
  cases hits with
  | nil => rfl
  | cons w others => simp only [hitsCounted, apply_ite State.queues, bump_queues, ite_self]

/-- A key has left the queue of its die and its stage, which stands as v; memory and the other streams are as they were. -/
structure KeyLeft (s : State) (d : Nat) (k : RbKey) (t : State) (v : StageRun) : Prop where
  keys : (t.reed d).keys = (s.reed d).keys.filter (· != k)
  run : t.run? k.stream k.batch k.stage = some v
  gone : k.key ∉ v.keys
  others : OthersKept s t k.stream
  mem : t.mem = s.mem

/-- The stage's run changes in a state that has no more than a key taken, entries rewritten and events counted. -/
theorem KeyLeft.setRun {u : State} {decay : List RbDecay} (hd : d < s.reeds.length) (hu : u.queues = (keyTaken s d k decay).queues)
    (hrun : s.run? k.stream k.batch k.stage = some run) {f : StageRun → StageRun} (hf : ∀ r, (f r).ix = r.ix)
    (hgone : k.key ∉ (f run).keys) : KeyLeft s d k (u.setRun k.stream k.batch k.stage f) (f run) := by
  have hmem : u.mem = s.mem := congrArg (·.1) hu
  have hdisp : u.disp = s.disp := congrArg (·.2.1) hu
  have hurun : u.run? k.stream k.batch k.stage = some run := by
    simp only [State.run?, State.batch?, State.stream?, hdisp]
    exact hrun
  exact {
    keys := (keys_of_queues hu d).trans (keyTaken_keys hd k decay)
    run := setRun_run?_some hf hurun
    gone := hgone
    others := (othersKept_of_streams (congrArg Disp.streams hdisp) k.stream).trans (setBatch_othersKept u k.stream k.batch _)
    mem := hmem }

theorem StageRun.fails_keys (status : Nat) (r : StageRun) : (r.fails status).keys = r.keys := by
  unfold StageRun.fails
  split <;> rfl

theorem KeyLeft.failRun {t : State} {v : StageRun} (h : KeyLeft s d k t v) (status : Nat) :
    KeyLeft s d k (Machine.failRun t k.stream k.batch k.stage status) (v.fails status) where
  keys := h.keys
  run := setRun_run?_some (fun r => (StageRun.fails_asked status r).1) h.run
  gone := by rw [StageRun.fails_keys]; exact h.gone
  others := h.others.trans (setBatch_othersKept t k.stream k.batch _)
  mem := h.mem

theorem not_mem_searched (k : Nat) (l : List Nat) : k ∉ l.filter (· != k) := by simp

/-- The key leaves the queue; where its candidates have been verified, its stage has its verdict. -/
theorem searchKey_leaves (hd : d < s.reeds.length) (hk : (keyTurns (s.reed d)).head? = some k) (hpower : (s.die d).power = .active)
    (hrun : s.run? k.stream k.batch k.stage = some run) (decay : List RbDecay) (errs : List LineErr) :
    ∃ v, KeyLeft s d k (searchKey s d decay errs) v
      ∧ ∀ u hits rej, keyVerified s d k run decay errs = (u, .ok (hits, rej)) →
        v.verdicts = (k.key, (u.reed d).verdict rej hits) :: run.verdicts := by
  have hqueues := keyVerified_queues (s := s) (d := d) (k := k) (run := run) decay errs
  rw [searchKey_eq hk hpower hrun]
  generalize keyVerified s d k run decay errs = r at hqueues ⊢
  obtain ⟨u, ⟨st, i⟩ | ⟨hits, rej⟩⟩ := r
  · refine ⟨_, (KeyLeft.setRun hd ((noteReed_queues ..).trans hqueues) hrun (f := StageRun.searched k.key) ?_ ?_).failRun st, ?_⟩
    · exact fun _ => rfl
    · exact not_mem_searched k.key run.keys
    · intro _ _ _ h
      cases h
  · refine ⟨_, KeyLeft.setRun hd ((hitsCounted_queues ..).trans hqueues) hrun
      (f := StageRun.answered k.key ((u.reed d).verdict rej hits)) ?_ ?_, ?_⟩
    · exact fun _ => rfl
    · exact not_mem_searched k.key run.keys
    · intro _ _ _ h
      cases h
      rfl

/-! ### Keys with no candidate, and with one -/

theorem RbKey.candidates_undecayed (hd : d < s.reeds.length) (k : RbKey) (run : StageRun) : k.candidates s d run []
    = Machine.candidates (s.reed d).bank (fieldN (stageRec s k.stream k.stage) 56 4) (k.units s run) := by
  rw [RbKey.candidates, keyTaken_reed hd]

/-- No entry matches: a miss. -/
theorem keyVerified_miss {decay : List RbDecay} (hc : k.candidates s d run decay = []) (errs : List LineErr) :
    ∃ u, keyVerified s d k run decay errs = (u, .ok ([], false)) := by
  rw [keyVerified, hc]
  exact ⟨_, rfl⟩

/-- One entry matches, in the bank and in its shadow. -/
theorem keyVerified_hit (hd : d < s.reeds.length) {c : Nat × RbEntry} (hc : k.candidates s d run [] = [c])
    (hread : ∀ p ∈ (s.reed d).bad, p.1 ≠ c.1) (hmatch : keyMatches (entryAt (s.reed d).shadow c.1) (k.units s run) = true) :
    ∃ u, keyVerified s d k run [] [] = (u, .ok ([c.1], false)) ∧ (u.reed d).shadow = (s.reed d).shadow := by
  have hreed : (bump (keyTaken s d k []) (pgReed d + 0x440) 1).reed d
      = { s.reed d with keys := (s.reed d).keys.filter (· != k), turn := k.stream } :=
    (bump_reed ..).trans (keyTaken_reed hd k)
  refine ⟨bump (keyTaken s d k []) (pgReed d + 0x440) 1, ?_, by rw [hreed]⟩
  rw [keyVerified, hc]
  exact verify_single (by rw [hreed]; exact hread) (by rw [hreed]; exact hmatch) _

end

end Sys2Proof.Machine
end

section
/-! SUPPORT. Scrub passes, spares and verified updates of a Reedbed (R237, R241, R243). -/

namespace Sys2Proof.Machine

/-! ### Scrub (R241) -/

/-- An entry of a bank is equal to its shadow. -/
def Reed.Agrees (x : Reed) (j : Nat) : Prop := (entryAt x.bank j).full 4 = (entryAt x.shadow j).full 4

/-- The entry whose update is in progress. -/
def State.busyEntry (s : State) (d : Nat) : Option Nat :=
  match (s.reed d).updates with
  | [] => none
  | u :: _ => (s.set? u.set_).map fun e => updateIx (SetRec.of e.record) u.bytes

/-- One entry of a scrub pass. -/
def scrubEntry (d : Nat) (busy : Option Nat) (s : State) (i : Nat) : State :=
  if busy == some i || (s.reed d).bad.any (·.1 == i) || (entryAt (s.reed d).bank i).full 4 == (entryAt (s.reed d).shadow i).full 4 then s
  else noteRewrite (rewriteEntry s d i) d i

/-- What a scrub pass leaves as it was: memory, the dispatcher, the tick, the shadows, and every entry that is equal to its own. -/
structure Scrubs (d : Nat) (s t : State) : Prop where
  queues : t.queues = s.queues
  length : t.reeds.length = s.reeds.length
  shadow : (t.reed d).shadow = (s.reed d).shadow
  bad : (t.reed d).bad = (s.reed d).bad
  agrees : ∀ j, (s.reed d).Agrees j → (t.reed d).Agrees j

theorem Scrubs.refl (d : Nat) (s : State) : Scrubs d s s := ⟨rfl, rfl, rfl, rfl, fun _ h => h⟩

theorem Scrubs.trans {d : Nat} {s t u : State} (h : Scrubs d s t) (g : Scrubs d t u) : Scrubs d s u :=
  ⟨g.queues.trans h.queues, g.length.trans h.length, g.shadow.trans h.shadow, g.bad.trans h.bad, fun j ha => g.agrees j (h.agrees j ha)⟩

section
variable {s : State} {d : Nat}

theorem rewriteEntry_reeds (i : Nat) : (rewriteEntry s d i).reeds
    = (s.setReed d fun x => { x with bank := putEntry x.bank i (entryAt (s.reed d).shadow i) }).reeds :=
  (countCE_reads ..).reeds.trans (bump_reads ..).reeds

theorem mem_scrubList {j : Nat} :
    j ∈ scrubList s d ↔ (∃ p ∈ (s.reed d).bank, p.1 = j) ∨ ∃ p ∈ (s.reed d).shadow, p.1 = j := by
  have h := mem_foldl_insertNew id ((s.reed d).bank.map (·.1) ++ (s.reed d).shadow.map (·.1)) [] j
  simpa only [scrubList, id, List.not_mem_nil, false_or, exists_eq_right, List.mem_append, List.mem_map] using h

/-- An entry that neither the banks nor the shadows list is empty in both. -/
theorem agrees_of_unlisted {j : Nat} (hj : j ∉ scrubList s d) : (s.reed d).Agrees j := by
  rw [mem_scrubList, not_or] at hj
  obtain ⟨hbank, hshadow⟩ := hj
  have hnone {l : List (Nat × RbEntry)} (h : ¬ ∃ p ∈ l, p.1 = j) : entryAt l j = {} :=
    entryAt_of_unlisted fun p hp he => h ⟨p, hp, he⟩
  rw [Reed.Agrees, hnone hbank, hnone hshadow]

/-- A pass that is due: bits decay, and every listed entry is scrubbed. -/
def scrubPassed (s : State) (d : Nat) (decay : List RbDecay) : State :=
  (scrubList (applyDecay s d decay) d).foldl (scrubEntry d ((applyDecay s d decay).busyEntry d)) (applyDecay s d decay)

theorem reedbedScrub_due (hpower : (s.die d).power = .active) (hen : s.rfld (pgReed d + 0x478) 8 8 ≠ 0)
    (hdue : (s.reed d).scrubAt + s.rfld (pgReed d + 0x478) 7 0 * 25000 ≤ s.tick) (decay : List RbDecay) :
    reedbedScrub s d decay = (scrubPassed s d decay).setReed d fun x => { x with scrubAt := (scrubPassed s d decay).tick } := by
  have hnow : ¬ ((s.die d).power ≠ .active ∨ s.rfld (pgReed d + 0x478) 8 8 = 0
      ∨ s.tick < (s.reed d).scrubAt + s.rfld (pgReed d + 0x478) 7 0 * 25000) := by
    rintro (h | h | h)
    · exact h hpower
    · exact hen h
    · exact Nat.not_lt.2 hdue h
  unfold reedbedScrub
  dsimp only
  rw [if_neg hnow]
  rfl

section
variable (hd : d < s.reeds.length)
include hd

/-- An entry that is rewritten is equal to its shadow. -/
theorem rewritten_reed (i : Nat) : ∃ l, (noteRewrite (rewriteEntry s d i) d i).reed d
    = { s.reed d with bank := putEntry (s.reed d).bank i (entryAt (s.reed d).shadow i), rewrites := l } := by
  have hlength : d < (rewriteEntry s d i).reeds.length := by
    rw [rewriteEntry_reeds, State.setReed_reeds_length]
    exact hd
  rw [noteRewrite, State.setReed_reed_self hlength, reed_of_reeds (rewriteEntry_reeds i), State.setReed_reed_self hd]
  exact ⟨_, rfl⟩

theorem rewritten_scrubs (i : Nat) : Scrubs d s (noteRewrite (rewriteEntry s d i) d i)
    ∧ ((noteRewrite (rewriteEntry s d i) d i).reed d).Agrees i := by
  obtain ⟨l, hreed⟩ := rewritten_reed hd i
  have hagrees (j : Nat) (h : j = i ∨ (s.reed d).Agrees j) : ((noteRewrite (rewriteEntry s d i) d i).reed d).Agrees j := by
    simp only [Reed.Agrees, hreed, entryAt_putEntry]
    split
    · next hj => rw [hj]
    · next hj => exact h.resolve_left hj
  refine ⟨⟨?_, ?_, by rw [hreed], by rw [hreed], fun j h => hagrees j (.inr h)⟩, hagrees i (.inl rfl)⟩
  · rw [noteRewrite, State.setReed_queues, rewriteEntry_queues]
    exact fun _ => rfl
  · rw [noteRewrite, State.setReed_reeds_length, rewriteEntry_reeds, State.setReed_reeds_length]

theorem scrubEntry_scrubs (busy : Option Nat) (i : Nat) : Scrubs d s (scrubEntry d busy s i) := by
  unfold scrubEntry
  split
  · exact .refl d s
  · exact (rewritten_scrubs hd i).1

/-- Where no update is in progress, an entry whose shadow can be read is equal to it once it is scrubbed. -/
theorem scrubEntry_agrees {i : Nat} (hread : ∀ p ∈ (s.reed d).bad, p.1 ≠ i) : ((scrubEntry d none s i).reed d).Agrees i := by
  have hbad : (s.reed d).bad.any (·.1 == i) = false := by simpa using fun a b h => hread (a, b) h
  unfold scrubEntry
  split
  · next h => simpa [hbad, Reed.Agrees] using h
  · exact (rewritten_scrubs hd i).2

theorem scrubPass_scrubs (busy : Option Nat) (l : List Nat) : Scrubs d s (l.foldl (scrubEntry d busy) s) := by
  induction l generalizing s with
  | nil => exact .refl d s
  | cons i l ih =>
    have hi := scrubEntry_scrubs hd busy i
    exact hi.trans (ih (hi.length ▸ hd))

theorem scrubPass_agrees {l : List Nat} {j : Nat} (hj : j ∈ l) (hread : ∀ p ∈ (s.reed d).bad, p.1 ≠ j) :
    ((l.foldl (scrubEntry d none) s).reed d).Agrees j := by
  induction l generalizing s with
  | nil => cases hj
  | cons i l ih =>
    have hi := scrubEntry_scrubs hd none i
    have hlength := hi.length ▸ hd
    obtain rfl | hj := List.mem_cons.1 hj
    · exact (scrubPass_scrubs hlength none l).agrees j (scrubEntry_agrees hd hread)
    · exact ih hlength hj (by rw [hi.bad]; exact hread)

theorem scrubList_pass_agrees {j : Nat} (hread : ∀ p ∈ (s.reed d).bad, p.1 ≠ j) :
    (((scrubList s d).foldl (scrubEntry d none) s).reed d).Agrees j := by
  by_cases hj : j ∈ scrubList s d
  · exact scrubPass_agrees hd hj hread
  · exact (scrubPass_scrubs hd none _).agrees j (agrees_of_unlisted hj)

theorem applyDecay_reed (decay : List RbDecay) : (applyDecay s d decay).reed d
    = { s.reed d with bank := decay.foldl (fun l y => decayBank l (bankWidth s d) y) (s.reed d).bank } :=
  State.setReed_reed_self hd _

theorem reedbedScrub_passes (hpower : (s.die d).power = .active) (hen : s.rfld (pgReed d + 0x478) 8 8 ≠ 0)
    (hdue : (s.reed d).scrubAt + s.rfld (pgReed d + 0x478) 7 0 * 25000 ≤ s.tick) (decay : List RbDecay) :
    ((reedbedScrub s d decay).reed d).scrubAt = s.tick ∧ ((reedbedScrub s d decay).reed d).shadow = (s.reed d).shadow
      ∧ (reedbedScrub s d decay).mem = s.mem ∧ (reedbedScrub s d decay).disp = s.disp
      ∧ ((s.reed d).updates = [] → ∀ j, (∀ p ∈ (s.reed d).bad, p.1 ≠ j) → ((reedbedScrub s d decay).reed d).Agrees j) := by
  have hdecayed : d < (applyDecay s d decay).reeds.length := by
    rw [applyDecay, State.setReed_reeds_length]
    exact hd
  have hpass : Scrubs d (applyDecay s d decay) (scrubPassed s d decay) := scrubPass_scrubs hdecayed _ _
  have hqueues : (scrubPassed s d decay).queues = s.queues := hpass.queues.trans (State.setReed_queues s d fun _ => by rfl)
  simp only [State.queues, Prod.mk.injEq] at hqueues
  obtain ⟨hmem, hdisp, htick, _⟩ := hqueues
  rw [reedbedScrub_due hpower hen hdue, State.setReed_reed_self (hpass.length ▸ hdecayed)]
  refine ⟨htick, hpass.shadow.trans (by rw [applyDecay_reed hd]), hmem, hdisp, fun hidle j hread => ?_⟩
  have hbusy : (applyDecay s d decay).busyEntry d = none := by
    simp only [State.busyEntry, applyDecay_reed hd, hidle]
  have hagrees := scrubList_pass_agrees hdecayed (j := j) (by rw [applyDecay_reed hd]; exact hread)
  rw [← hbusy] at hagrees
  exact hagrees

end

end

/-! ### A spare that is filled (R243) -/

theorem bankSpareFillEnd_quiescing {s : State} (d : Nat) (h : quiescing s = true) : bankSpareFillEnd d s = s := by
  unfold bankSpareFillEnd
  split
  · rfl
  · exact if_pos h

/-- A spare that has been filled while no update is in progress holds the shadow's entries of its bank. -/
theorem bankSpareFillEnd_fills {s : State} {d b old : Nat} (hd : d < s.reeds.length) (hcopy : (s.reed d).copying = some (b, old))
    (hopen : quiescing s = false) (hidle : (s.reed d).updates = []) : ((bankSpareFillEnd d s).reed d).copying = none
      ∧ bankSpareFillEnd d s = { s with reeds := (bankSpareFillEnd d s).reeds }
      ∧ ∀ j, entryAt ((bankSpareFillEnd d s).reed d).bank j
        = if bankOfIx j = b then entryAt (s.reed d).shadow j else entryAt (s.reed d).bank j := by
  have hfill : bankSpareFillEnd d s = s.setReed d fun x => { x with
      copying := none
      bank := (x.bank.filter fun p => !(bankOfIx p.1 == b)) ++ x.shadow.filter fun p => bankOfIx p.1 == b } := by
    have hnone (i : Nat) : (some i == (none : Option Nat)) = false := rfl
    have hsome (i : Nat) : (some i != (none : Option Nat)) = true := rfl
    simp only [bankSpareFillEnd, hcopy, hopen, hidle, hnone, hsome, Bool.or_false, Bool.and_true, Bool.false_eq_true, if_false]
  rw [hfill, State.setReed_reed_self hd]
  exact ⟨rfl, rfl, entryAt_bank_from _ _ b⟩

/-! ### Updates that are verified (R237) -/

theorem beginUpdate_reed {s : State} {d : Nat} (hd : d < s.reeds.length) :
    ∃ l, (beginUpdate s d).reed d = { s.reed d with bank := l } := by
  unfold beginUpdate
  split
  · exact ⟨_, rfl⟩
  · split
    · exact ⟨_, rfl⟩
    · exact ⟨_, State.setReed_reed_self hd _⟩

theorem beginUpdate_mem (s : State) (d : Nat) : (beginUpdate s d).mem = s.mem := by
  unfold beginUpdate
  (repeat' split) <;> rfl

/-- The entry that an update record leaves in the shadow. -/
def RbUpdate.entry (u : RbUpdate) (q : SetRec) (shadow : List (Nat × RbEntry)) : RbEntry :=
  if fieldN u.bytes 0 1 = 0 then updatedEntry q u.bytes else { entryAt shadow (updateIx q u.bytes) with valid := false }

/-- A Reedbed once a record has been written to the shadow and to the bank. -/
def Reed.updated (x : Reed) (i : Nat) (e : RbEntry) : Reed :=
  { x with
    shadow := putEntry x.shadow i e
    bank := putEntry x.bank i e
    bad := x.bad.filter (·.1 != i) }

/-- The front record has been written and has left the queue of updates, and is taken off its batch. -/
def updateWritten (s : State) (d : Nat) (u : RbUpdate) (rest : List RbUpdate) (q : SetRec) : State :=
  ((bump (s.setReed d fun x => x.updated (updateIx q u.bytes) (u.entry q (s.reed d).shadow)) (pgReed d + 0x468) 1).setReed d
    fun x => { x with updates := rest }).setBatch u.stream u.batch fun b => { b with searching := b.searching - 1 }

section
variable {s : State} {d : Nat} {u : RbUpdate} {rest : List RbUpdate} {e : RuleSet}

theorem finishUpdate_eq (hu : (s.reed d).updates = u :: rest) (hpower : (s.die d).power = .active) (he : s.set? u.set_ = some e) :
    finishUpdate s d = beginUpdate (updateWritten s d u rest (SetRec.of e.record)) d := by
  have hactive : ¬ (s.die d).power ≠ .active := not_not.2 hpower
  simp only [finishUpdate, hu, if_neg hactive, he]
  rfl

theorem updateWritten_reed (hd : d < s.reeds.length) (q : SetRec) : (updateWritten s d u rest q).reed d
    = { (s.reed d).updated (updateIx q u.bytes) (u.entry q (s.reed d).shadow) with updates := rest } := by
  have hset := State.setReed_reed_self hd fun x => x.updated (updateIx q u.bytes) (u.entry q (s.reed d).shadow)
  have hcounted := (bump_reed _ (pgReed d + 0x468) 1 d).trans hset
  rw [updateWritten, reed_of_reeds (State.setBatch_reeds ..)]
  refine (State.setReed_reed_self ?_ _).trans (congrArg (fun x : Reed => { x with updates := rest }) hcounted)
  rw [bump_reeds, State.setReed_reeds_length]
  exact hd

theorem finishUpdate_mem (hu : (s.reed d).updates = u :: rest) (hpower : (s.die d).power = .active) (he : s.set? u.set_ = some e) :
    (finishUpdate s d).mem = s.mem := by
  rw [finishUpdate_eq hu hpower he, beginUpdate_mem, updateWritten, State.setBatch_mem, State.setReed_mem, bump_mem, State.setReed_mem]

/-- The record that is verified leaves the queue of updates and stands in the shadow. -/
theorem finishUpdate_stands (hd : d < s.reeds.length) (hu : (s.reed d).updates = u :: rest) (hpower : (s.die d).power = .active)
    (he : s.set? u.set_ = some e) : ((finishUpdate s d).reed d).updates = rest
      ∧ ((finishUpdate s d).reed d).shadow
        = putEntry (s.reed d).shadow (updateIx (SetRec.of e.record) u.bytes) (u.entry (SetRec.of e.record) (s.reed d).shadow) := by
  have hlength : d < (updateWritten s d u rest (SetRec.of e.record)).reeds.length := by
    rw [updateWritten, State.setBatch_reeds, State.setReed_reeds_length, bump_reeds, State.setReed_reeds_length]
    exact hd
  obtain ⟨l, hreed⟩ := beginUpdate_reed hlength
  rw [finishUpdate_eq hu hpower he, hreed, updateWritten_reed hd]
  exact ⟨rfl, rfl⟩

theorem updateVerifyDrain_stands (hd : d < s.reeds.length) (hu : (s.reed d).updates = u :: rest) (hpower : (s.die d).power = .active)
    (he : s.set? u.set_ = some e) : ((updateVerifyDrain d s).reed d).updates = rest ∧ (updateVerifyDrain d s).mem = s.mem
      ∧ entryAt ((updateVerifyDrain d s).reed d).shadow (updateIx (SetRec.of e.record) u.bytes)
        = u.entry (SetRec.of e.record) (s.reed d).shadow := by
  have hdrain : updateVerifyDrain d s = batchProgress (finishUpdate s d) u.stream u.batch := by simp only [updateVerifyDrain, hu]
  have hreed := reed_of_entries (batchProgress_entries (finishUpdate s d) u.stream u.batch) d
  obtain ⟨hupdates, hshadow⟩ := finishUpdate_stands hd hu hpower he
  rw [← hdrain] at hreed
  have hdrained : ((updateVerifyDrain d s).reed d).shadow = ((finishUpdate s d).reed d).shadow := (congrArg Reed.shadow hreed :)
  refine ⟨(congrArg Reed.updates hreed : _ = _).trans hupdates, ?_, ?_⟩
  · rw [hdrain, batchProgress_mem, finishUpdate_mem hu hpower he]
  · rw [hdrained, hshadow, entryAt_putEntry, if_pos rfl]

end

end Sys2Proof.Machine
end

section
/-! SUPPORT. A logical bank that firmware spares (R243): the repair that it takes, and what other writers leave. -/

namespace Sys2Proof.Machine

/-! ### The repair that a spare takes (R443 to R446) -/

/-- A record that is written touches its bank of the Peat store, and counts where it is completed. -/
theorem peatWrite_none (s : State) (type_ : Nat) (payload : List Byte) :
    (peatWrite s type_ payload .none).1 = s
      ∨ ∃ l, (peatWrite s type_ payload .none).1 = bump { s with banks := l } (pgPeat + 0x420) 1 := by
  simp only [peatWrite]
  split
  · exact .inl rfl
  · exact .inr ⟨_, rfl⟩

/-- What the audit of a setting keeps: memory, the Reedbeds, the rule sets, the fuses, and the canonical form of the registers. -/
structure Audited (s t : State) : Prop where
  mem : t.mem = s.mem
  reeds : t.reeds = s.reeds
  sets : t.sets = s.sets
  fuses : t.fuses = s.fuses
  stores : s.storesOk = true → t.storesOk = true

theorem Audited.refl (s : State) : Audited s s := ⟨rfl, rfl, rfl, rfl, id⟩

theorem appendAudit_audited (s : State) (setting phase path signer inst slotIx old new : Nat) :
    Audited s (appendAudit s setting phase path signer inst slotIx old new false).1 := by
  simp only [appendAudit, Bool.false_eq_true, if_false]
  obtain h | ⟨l, h⟩ := peatWrite_none s 4 (auditEntry (nextSeq s 4) setting phase path signer inst slotIx old new s.tick)
  · rw [h]
    exact .refl s
  · have hreads := bump_reads { s with banks := l } (pgPeat + 0x420) 1
    rw [h]
    exact ⟨bump_mem .., hreads.reeds, hreads.sets, hreads.fuses, hreads.stores⟩

theorem poolUsed_usePool {f : Fuses} {d : Nat} (hd : d < 4) (hf : d < f.repairDie.length) (r : Repair) :
    poolUsed { usePool f d with repair := r } d = poolUsed f d + 1 := by
  simp only [poolUsed, usePool, if_pos hd, modifyAt_getD_self hf]

/-- A repair of the MC that finds a slot is accepted: it takes one, and is fused and recorded. -/
theorem repairWrite_accepts {s : State} {d : Nat} (hd : d < 4) (hf : d < s.fuses.repairDie.length)
    (hroom : poolUsed s.fuses d < poolSize d) (kind target value before place : Nat) (fuse : Repair → Repair) :
    ∃ t, repairWrite s .mc d kind target value before place true fuse = (t, true)
      ∧ poolUsed t.fuses d = poolUsed s.fuses d + 1 ∧ t.mem = s.mem ∧ t.reeds = s.reeds ∧ t.sets = s.sets
      ∧ (s.storesOk = true → t.storesOk = true) := by
  have haudit := appendAudit_audited s 0x10 0 0 0xFE d (poolUsed s.fuses d) before value
  have hfull : ¬ poolSize d ≤ poolUsed s.fuses d := Nat.not_le.2 hroom
  simp only [repairWrite, ne_eq, not_true_eq_false, if_false, Bool.not_true, Bool.false_eq_true, hfull]
  generalize (appendAudit s 0x10 0 0 0xFE d (poolUsed s.fuses d) before value false).1 = u at haudit ⊢
  obtain ⟨hmem, hreeds, hsets, hfuses, hstores⟩ := haudit
  refine ⟨_, rfl, ?_, hmem, hreeds, hsets, hstores⟩
  rw [← hfuses] at hf ⊢
  exact poolUsed_usePool hd hf _

/-- A repair of another writer is refused, and no more than the refusal is recorded (R447). -/
theorem repairWrite_refuses {s : State} {who : Agent} (hwho : who ≠ .mc) (inst kind target value before place : Nat) (allowed : Bool)
    (fuse : Repair → Repair) : ∃ t, repairWrite s who inst kind target value before place allowed fuse = (t, false)
      ∧ t.reeds = s.reeds ∧ t.fuses = s.fuses ∧ t.mem = s.mem := by
  have hreads (s : State) (result setting path : Nat) : Reads s (refuseTally s result setting path inst) :=
    (bump_reads ..).trans (firstEvent_reads ..)
  rw [repairWrite, if_pos hwho]
  refine ⟨_, rfl, (hreads ..).reeds, (hreads ..).fuses, mem_of_contents ?_⟩
  rw [refuseTally, firstEvent_contents, bump_contents]

/-! ### Writes of SPARE_CTL (R243) -/

theorem sound_repairDie {s : State} (h : s.sound = true) : s.fuses.repairDie.length = 4 := by
  have hz := (sizesOk_iff s).1 (Bool.and_eq_true_iff.1 h).2
  simp only [State.sizes, partSizes, List.cons.injEq] at hz
  tauto

/-- No register of a Reedbed is one of a tile. -/
theorem pgReed_cls {d off : Nat} (hd : d < 4) (hoff : off < 0x10000) : keyCls (pgReed d + off) ≠ 8 := by
  simp only [keyCls, pgReed, pageKey]
  omega

/-- The physical bank of a logical bank. -/
def State.bankPlace (s : State) (d b : Nat) : Nat := (s.fuses.repair.reedMap.getD d []).getD b 0

section
variable {s : State} {d : Nat} {v : Word} {who : Agent}

/-- A writer other than the MC spares no bank. -/
theorem bankSpare_refuses (hd : d < 4) (hg : regGate s who (pgReed d + 0x428) = .through) (hwho : who ≠ .mc) :
    (bankSpare who d v s).reeds = s.reeds ∧ (bankSpare who d v s).fuses = s.fuses ∧ (bankSpare who d v s).mem = s.mem := by
  obtain ⟨t, heq, hreeds, hfuses, hmem⟩ := repairWrite_refuses (s := s) hwho d 4 (fld v 5 0) v.toNat
    (s.rfld (pgReed d + 0x428) 5 0) (s.bankPlace d (fld v 5 0)) true (mapBank d (fld v 5 0))
  rw [State.bankPlace] at heq
  simp only [bankSpare, regAccess_through hg (pgReed_cls hd (by decide)), if_neg hwho, heq]
  split
  · exact ⟨rfl, rfl, rfl⟩
  · split
    · exact ⟨rfl, rfl, rfl⟩
    · exact ⟨hreeds, hfuses, hmem⟩

/-- Firmware spares a bank: a slot is consumed, and a bank of a registered set is copied. -/
theorem bankSpare_accepts (hs : s.sound = true) (hd : d < 4) (hg : regGate s .mc (pgReed d + 0x428) = .through)
    (hen : pageEn s (pgReed d) = true) (hcopy : (s.reed d).copying = none) (hb : fld v 5 0 < 32)
    (hfree : s.fuses.repair.reedFree.getD d [] ≠ []) (hroom : poolUsed s.fuses d < poolSize d) :
    ∃ t : State, bankSpare .mc d v s = answer ((if bankInSet s d (fld v 5 0) then
        t.setReed d fun x => { x with copying := some (fld v 5 0, s.bankPlace d (fld v 5 0)) } else t)) .done
      ∧ poolUsed t.fuses d = poolUsed s.fuses d + 1 ∧ t.reeds = s.reeds ∧ t.reg (pgReed d + 0x428) = wd (fld v 5 0)
      ∧ t.mem = s.mem := by
  have hlength : d < s.fuses.repairDie.length := (sound_repairDie hs).symm ▸ hd
  obtain ⟨t, heq, hused, hmem, hreeds, hsets, hstores⟩ := repairWrite_accepts hd hlength hroom 4 (fld v 5 0) v.toNat
    (s.rfld (pgReed d + 0x428) 5 0) (s.bankPlace d (fld v 5 0)) (mapBank d (fld v 5 0))
  have hgo : ¬ (((!pageEn s (pgReed d)) = true) ∨ (s.reed d).copying.isSome = true ∨ 32 ≤ fld v 5 0) := by
    rw [hen, hcopy]
    rintro (h | h | h)
    · cases h
    · cases h
    · exact Nat.not_le.2 hb h
  have hset : bankInSet (t.setReg (pgReed d + 0x428) (wd (fld v 5 0))) d (fld v 5 0) = bankInSet s d (fld v 5 0) := by
    simp only [bankInSet, bankWidth, State.setReg_sets, hsets]
  refine ⟨t.setReg (pgReed d + 0x428) (wd (fld v 5 0)), ?_, hused, hreeds,
    State.setReg_reg_self t _ _ (storesOk_regs (hstores (sound_storesOk hs))), hmem⟩
  rw [bankSpare, regAccess_through hg (pgReed_cls hd (by decide))]
  dsimp only
  rw [if_neg hgo, if_neg hfree]
  rw [State.bankPlace] at heq ⊢
  rw [heq]
  dsimp only
  rw [hset]

end

end Sys2Proof.Machine
end

section
/-! PROOFS. O54: keys are searched, banks scrubbed and spared, and updates verified (R230, R237, R241 to R243). -/

namespace Sys2Proof.Machine

/-- The key whose turn it is leaves with its verdict (R230). -/
theorem searchKey_verdicts {s : State} {d : Nat} {k : RbKey} {run : StageRun} (hd : d < s.reeds.length)
    (hk : (keyTurns (s.reed d)).head? = some k) (hpower : (s.die d).power = .active)
    (hrun : s.run? k.stream k.batch k.stage = some run) (decay : List RbDecay) (errs : List LineErr) :
    ∃ v, KeyLeft s d k (searchKey s d decay errs) v
      ∧ (decay = [] → k.candidates s d run [] = [] → v.verdicts = (k.key, [0, 0, 0]) :: run.verdicts)
      ∧ ∀ c, decay = [] → errs = [] → k.candidates s d run [] = [c] → (∀ p ∈ (s.reed d).bad, p.1 ≠ c.1) →
        keyMatches (entryAt (s.reed d).shadow c.1) (k.units s run) = true →
        v.verdicts = (k.key, [1, (entryAt (s.reed d).shadow c.1).result, c.1, c.1]) :: run.verdicts := by
  obtain ⟨v, hleft, hverdict⟩ := searchKey_leaves hd hk hpower hrun decay errs
  refine ⟨v, hleft, ?_, ?_⟩
  · rintro rfl hmiss
    obtain ⟨u, hu⟩ := keyVerified_miss hmiss errs
    exact hverdict u [] false hu
  · rintro c rfl rfl hone hread hmatch
    obtain ⟨u, hu, hshadow⟩ := keyVerified_hit hd hone hread hmatch
    rw [← hshadow]
    exact hverdict u [c.1] false hu

/-- Settles O54: what a search, a scrub, a spare's fill and a verified update change of a Reedbed is found entry by entry, and the end of
a batch that an update may bring touches no entry. -/
theorem reedbedSearchesScrubsAndSpares : Obligations.ReedbedSearchesScrubsAndSpares := by
  refine ⟨fun d decay errs s k run hs hd hk hpower hrun => ?_, fun d decay s hs hd hpower hen hdue => ⟨_, rfl, ?_⟩,
    fun who d v s hs hd hg hen hcopy => ⟨fun hwho => ⟨_, rfl, bankSpare_refuses hd hg hwho⟩, ?_⟩,
    fun d b old s hs hd hcopy => ⟨fun hq => congrArg Host.Outcome.next (bankSpareFillEnd_quiescing d hq),
      fun hq hidle => ⟨_, rfl, bankSpareFillEnd_fills ((sound_reeds hs).symm ▸ hd) hcopy hq hidle⟩⟩,
    fun d s u rest e hs _ hd hu hpower he => ⟨_, rfl, updateVerifyDrain_stands ((sound_reeds hs).symm ▸ hd) hu hpower he⟩⟩
  · have hreeds : d < s.reeds.length := (sound_reeds hs).symm ▸ hd
    obtain ⟨v, ⟨hkeys, hv, hgone, hothers, hmem⟩, hmiss, hhit⟩ := searchKey_verdicts hreeds hk hpower hrun decay errs
    rw [RbKey.candidates_undecayed hreeds] at hmiss hhit
    exact ⟨_, v, rfl, hkeys, hv, hgone, hothers, hmem, hmiss, hhit⟩
  · exact reedbedScrub_passes ((sound_reeds hs).symm ▸ hd) hpower hen hdue decay
  · rintro rfl hb hfree hroom
    obtain ⟨t, heq, hused, hreeds, hreg, hmem⟩ := bankSpare_accepts hs hd hg hen hcopy hb hfree hroom
    refine ⟨_, congrArg Host.Outcome.next heq, ?_⟩
    have hd' : d < t.reeds.length := hreeds ▸ (sound_reeds hs).symm ▸ hd
    cases hset : bankInSet s d (fld v 5 0) with
    | false => exact ⟨hused, fun h => absurd h Bool.false_ne_true, fun _ => hreeds, hreg, hmem⟩
    | true =>
      refine ⟨hused, fun _ => ?_, fun h => absurd h.symm Bool.false_ne_true, hreg, hmem⟩
      exact congrArg Reed.copying (State.setReed_reed_self hd' _)

end Sys2Proof.Machine
end
